-- ==== Sys2Proof/Word.lean ====
section
/-!
DEFINITION. The word types of the ZTX-E24 model. Bits are numbered from 0 at the least significant bit (R8).
-/

namespace Sys2Proof

/-- One byte of device memory, of host memory or of a wire. -/
abbrev Byte := BitVec 8

/-- A 32-bit word: a mailbox word, a vector lane, a towpath word. -/
abbrev Word := BitVec 32

end Sys2Proof
end

