-- ==== Sys2Proof/Syntax.lean ====
section
/-!
DEFINITION. The commands of the ZTX-E24: one constructor of `Instr` per row of spec/opcode_table.json, with the operands
that the outside world brings to it.
-/

namespace Sys2Proof

/-- The unit classes of Table 2.3. -/
inductive UClass where
  | basin | mxc | spg | red | port | cmdproc
  deriving DecidableEq, Repr

/-- What the memories report while a command reads them (R338, R339): words corrected and words found uncorrectable. -/
structure Ecc where
  corrected : List Nat
  failed : List Nat
  deriving DecidableEq, Repr

/-- Every word reads as it was written. -/
def Ecc.clean : Ecc := ⟨[], []⟩

/-- What one calibration unit measures on a Tun (Table 6.3): the reference gain error in units of 2⁻¹⁶ and the offset of
RC_ZERO in 1/256 converter step (unit 0), the gain codes that bring the data columns to nominal and the row group's reference
code (units 1–16), or the 520 offset codes (unit 17). A needed gain code may exceed 255 (R153). -/
structure KilnMeas where
  gainErr : Nat
  zeroOff : Nat
  gains : List Nat
  reference : Nat
  offsets : List Nat
  deriving DecidableEq, Repr

/-- The operand fields of a vector instruction word (Table 8.6); the opcode is the command's own. -/
structure VWord where
  dst : BitVec 8
  sa : BitVec 8
  sb : BitVec 8
  sc : BitVec 8
  mode : BitVec 24
  deriving DecidableEq, Repr

/-- A fabric message as it arrives: the common header of Table 12.5 but for MTYPE, which the command's row fixes, and its
body. -/
structure Msg where
  flags : BitVec 8
  dst : BitVec 16
  src : BitVec 16
  hops : BitVec 8
  len : BitVec 32
  ecrc : BitVec 32
  body : List Byte
  deriving DecidableEq, Repr

/-- A flit as a port receives it (R299): link header, payload, CRC, and what the FEC reports: symbols corrected and
uncorrectable codewords that the flit lies in. -/
structure FlitIn where
  head : BitVec 80
  payload : List Byte
  crc : BitVec 32
  corr : Nat
  uncorr : Nat
  deriving DecidableEq, Repr

/-- What the device's sensors report at a step boundary: the step's mean power and greatest frame mean in W (R455), the stacks'
temperatures in °C and their ECS error count (R336, R339). -/
structure StepMeas where
  stepAvg : Nat
  frameMax : Nat
  temps : List Int
  ecs : Nat
  deriving DecidableEq, Repr

/-- What a cold start finds (R442 to R444): the stacks that fail training, whether the D2D link trains, the clusters that fail SELFTEST,
and what the Kiln units measure, by 18 × Tun + unit. -/
structure BootEnv where
  hbmBad : List (Fin 24)
  d2dOk : Bool
  badMxc : List (Fin 128)
  kiln : List KilnMeas
  deriving DecidableEq, Repr

/-- What a warm start finds (R446, R447): whether the PHY settings pass their check and the D2D link trains, what the ledger store
reports, the Tuns whose retention read fails, and what the Kiln units measure, by 18 × Tun + unit. -/
structure WarmEnv where
  hbmOk : Bool
  d2dOk : Bool
  ledger : Ecc
  tuns : List (Fin 2048)
  kiln : List KilnMeas
  deriving DecidableEq, Repr

/-- The master identities of Table 15.4. -/
inductive Master where
  | hostPf
  | mgmt (core : Fin 4)
  | sec
  | gauge
  | cmdproc
  | towpath
  deriving DecidableEq, Repr

/-- A command: one row of spec/opcode_table.json with its operands. Times are in 0.1 ns, on the device's own tick timer. -/
inductive Instr where
  | tickEmit (now : Nat)
  | tickInEdge (now : Nat)
  | tickWindowEnd (now : Nat)
  | tickMsg (p : Fin 16) (m : Msg) (now delay : Nat)
  | flywheelStart
  | tickMissHold
  | frameStart (m : StepMeas)
  | slotStart (u : UClass) (i : Fin 128) (k : Nat) (e : Ecc := Ecc.clean)
  | slotEnd (u : UClass) (i : Fin 128) (sub : Option (Fin 64))
  | taskComplete (u : UClass) (i : Fin 128) (sub : Option (Fin 64)) (q : Nat)
  | fwd (b : Fin 32) (sub : Option (Fin 64)) (n : Nat) (e : Ecc)
  | cover (b : Fin 32) (n : Nat) (e : Ecc)
  | spargePeriod (b : Fin 32)
  | rmWindowClose (t : Fin 2048)
  | pulseRound (b : Fin 32) (i : Fin 64) (now : Nat) (e : Ecc := Ecc.clean)
  | pulsePeriod (b : Fin 32) (i : Fin 64) (verified : BitVec 16)
  | pulseRoundEnd (b : Fin 32) (i : Fin 64) (levels : List Int)
  | foldComplete (b : Fin 32) (e : Ecc := Ecc.clean)
  | kilnUnit (b : Fin 32) (i : Fin 64) (now : Nat) (m : KilnMeas) (e : Ecc)
  | kilnRestore (b : Fin 32) (i : Fin 64)
  | matmul (c : Fin 128) (n : Nat) (e : Ecc)
  | move (c : Fin 128) (n : Nat) (e : Ecc)
  | gather (c : Fin 128) (n : Nat) (e : Ecc)
  | vprog (c : Fin 128) (e : Ecc)
  | assemble (c : Fin 128) (n : Nat) (e : Ecc)
  | bwdWot (c : Fin 128) (n : Nat) (e : Ecc)
  | attnFwd (c : Fin 128) (n : Nat) (e : Ecc)
  | attnBwd (c : Fin 128) (n : Nat) (e : Ecc)
  | normBwd (c : Fin 128) (n : Nat) (e : Ecc)
  | tiesum (c : Fin 128) (n : Nat) (e : Ecc)
  | compare (c : Fin 128) (n : Nat) (e : Ecc)
  | lrFit (c : Fin 128) (e : Ecc)
  | rs (e : Ecc)
  | ag (e : Ecc)
  | preX (e : Ecc)
  | notice (e : Ecc)
  | replay (e : Ecc)
  | fetch (e : Ecc)
  | send (p : Fin 16) (n : Nat) (e : Ecc)
  | hostPut (e : Ecc)
  | hostGet (data : List Byte) (e : Ecc)
  | hostXferCompletion
  | mxcCheck (c : Fin 128) (e : Ecc)
  | tunCheck (b : Fin 32) (sub : Option (Fin 64)) (e : Ecc)
  | vFma (c : Fin 128) (w : VWord)
  | vAdd (c : Fin 128) (w : VWord)
  | vMul (c : Fin 128) (w : VWord)
  | vMax (c : Fin 128) (w : VWord)
  | vMin (c : Fin 128) (w : VWord)
  | vSel (c : Fin 128) (w : VWord)
  | vCmplt (c : Fin 128) (w : VWord)
  | vExp2 (c : Fin 128) (w : VWord)
  | vRcp (c : Fin 128) (w : VWord)
  | vRsq (c : Fin 128) (w : VWord)
  | vLog2 (c : Fin 128) (w : VWord)
  | vTwosum (c : Fin 128) (w : VWord)
  | vFast2sum (c : Fin 128) (w : VWord)
  | vTwoprod (c : Fin 128) (w : VWord)
  | vCvt (c : Fin 128) (w : VWord) (e : Ecc := Ecc.clean)
  | vCvtTunin (c : Fin 128) (w : VWord) (e : Ecc := Ecc.clean)
  | vRedSum (c : Fin 128) (w : VWord)
  | vRedMax (c : Fin 128) (w : VWord)
  | vRedMin (c : Fin 128) (w : VWord)
  | vKth (c : Fin 128) (w : VWord)
  | vRng (c : Fin 128) (w : VWord)
  | vLd (c : Fin 128) (w : VWord) (e : Ecc)
  | vSt (c : Fin 128) (w : VWord) (e : Ecc)
  | vGld (c : Fin 128) (w : VWord) (e : Ecc)
  | vLoop (c : Fin 128) (w : VWord)
  | vEnd (c : Fin 128) (w : VWord)
  | tokenForm (e : Ecc := Ecc.clean)
  | tokenMsg (p : Fin 16) (m : Msg)
  | tokenForwardDeadline
  | tokenDecideDeadline
  | resultMsg (p : Fin 16) (m : Msg)
  | reduceMsg (p : Fin 16) (m : Msg) (t : Nat)
  | agRx (p : Fin 16) (m : Msg) (t : Nat)
  | fetchRx (p : Fin 16) (m : Msg) (t : Nat)
  | preXRx (p : Fin 16) (m : Msg) (t : Nat)
  | noticeRx (p : Fin 16) (m : Msg) (t : Nat)
  | packetDeadline
  | bargeMsg (p : Fin 16) (m : Msg)
  | poundRelease
  | creditMsg (p : Fin 16) (m : Msg)
  | permAck (p : Fin 16) (m : Msg)
  | permuteTimeout
  | flitRxData (p : Fin 16) (x : FlitIn)
  | flitRxCtrl (p : Fin 16) (x : FlitIn) (peer : Fin 16) (credits : List Nat) (t : Nat)
  | flitRxIdle (p : Fin 16) (x : FlitIn)
  | ackTimeout (p : Fin 16)
  | flitIdleTimeout (p : Fin 16)
  | linkLost (p : Fin 16)
  | retrainTimer (p : Fin 16)
  | portTrained (p : Fin 16)
  | guardProbe (t : Nat)
  | probeMsg (p : Fin 16) (m : Msg) (turn : Nat)
  | echoMsg (p : Fin 16) (m : Msg) (t next : Nat)
  | parentMsg (p : Fin 16) (m : Msg)
  | mgmtMsg (p : Fin 16) (m : Msg)
  | ringMsg (p : Fin 16) (m : Msg)
  | assignMsg (p : Fin 16) (m : Msg)
  | censusMsg (p : Fin 16) (m : Msg)
  | doneMsg (p : Fin 16) (m : Msg)
  | confirmMsg (p : Fin 16) (m : Msg)
  | discTestTick
  | discoveryTimeout
  | hbmRefresh (h : Fin 24)
  | hbmTempReport (h : Fin 24) (hot : Bool)
  | bar4Read (off : BitVec 40) (n : Fin 4097) (e : Ecc)
  | bar4Write (off : BitVec 40) (data : List Byte)
  | sqTailDoorbell (n : Fin 65536) (v : BitVec 64) (whole : Bool := false)
  | cqHeadDoorbell (n : Fin 4096) (v : BitVec 64) (whole : Bool := false)
  | descriptorFetch (n : Fin 65536) (data : Option (List Byte))
  | msixCoalTimeout (n : Fin 4096)
  | nop (n : Fin 65536)
  | createSq (n : Fin 65536)
  | createCq (n : Fin 65536)
  | deleteSq (n : Fin 65536)
  | deleteCq (n : Fin 65536)
  | hello (n : Fin 65536)
  | query (n : Fin 65536)
  | counterClear (n : Fin 65536)
  | imageLoadBoot (n : Fin 65536) (data : List Byte) (env : BootEnv)
  | imageLoadUpdate (n : Fin 65536) (data : List Byte)
  | imageLoadReload (n : Fin 65536) (data : List Byte) (env : WarmEnv)
  | updateStaged
  | caskRead (fwBad certBad : Nat) (e : Ecc)
  | updateResume
  | startWarm (n : Fin 65536) (env : WarmEnv)
  | startCold (n : Fin 65536) (romOk : Bool)
  | discover (n : Fin 65536)
  | fpLoad (n : Fin 65536) (data : List Byte) (e : Ecc := Ecc.clean)
  | fpDiscard (n : Fin 65536)
  | fpArm (n : Fin 65536)
  | run (n : Fin 65536)
  | resume (n : Fin 65536)
  | startTickReached
  | quiesce (n : Fin 65536)
  | stop (n : Fin 65536)
  | permute (n : Fin 65536) (e : Ecc)
  | dmaH2d (n : Fin 65536) (data : List Byte)
  | dmaD2h (n : Fin 65536) (sent : Nat) (e : Ecc)
  | program (n : Fin 65536) (missed : List (Nat × Int)) (kiln : List KilnMeas) (fwBad certBad : Nat) (e : Ecc)
  | tpackLoad (n : Fin 65536) (data : List Byte)
  | mbxTx (m : Master) (n : Fin 64) (w : BitVec 32)
  | mbxRx (m : Master) (n : Fin 64)
  | mbxLock (v : BitVec 32)
  | mbxMsgTimeout (n : Fin 64) (toB : Bool)
  | domainDown (m : Master)
  | ping (n : Fin 64)
  | srDoorbell (k : Fin 4)
  | srEcho (k : Fin 4)
  | srVersion (k : Fin 4)
  | logLevel (k : Fin 4)
  | mgmtSend (k : Fin 4) (full : Bool)
  | caskInfo (k : Fin 4)
  | stickyClear (v : BitVec 64)
  | wdogKick (m : Master) (v : Byte)
  | wdogExpire
  | klnReqInterp (basins : BitVec 32)
  | klnReqMeasured (basins : BitVec 32)
  | portRetrain (p : Fin 16)
  | portDisable (p : Fin 16)
  | memCfgWrite (v : BitVec 32)
  | adminRingsEnable (asq acq : Fin 32)
  | adminRingsDisable (asq acq : Fin 32)
  | secLock (v : BitVec 32)
  | gauUrg (g : Fin 2) (order : BitVec 3) (n : BitVec 15) (chan : BitVec 7) (fits : Bool)
  | urgentDone (g : Fin 2) (v : BitVec 24)
  | gauPwr (on : Bool)
  | gauRefChange (g : Fin 2) (r : BitVec 2)
  | refSettled (g : Fin 2)
  | scanPassDue (l : Fin 4)
  | scanEntryDone (g : Fin 2) (v : BitVec 24)
  | gauMonSel (mon : BitVec 8)
  | gauMonClr
  | gauMonClrAll
  | gauMonCfg (base : BitVec 32) (w : BitVec 5)
  | registerWrite (off : BitVec 24) (whole : Bool) (v : BitVec 64)
  | powerOn (romOk : Bool)
  | perst (origin mode romOk : Bool)
  | hotReset (env : WarmEnv)
  | flr (env : WarmEnv)
  | railFault (rail : Fin 5)
  | thermalHold (diode : Fin 56)
  | thermalRelease
  | thermalTrip
  | pciePowerState (p : Fin 3)
  | ideIntegrityFail
  | getVersion
  | getCapabilities (ver : Byte)
  | negotiateAlgorithms (ver : Byte) (asym hash : BitVec 32) (dhe aead : BitVec 16)
  | getDigests (ver : Byte)
  | getCertificate (ver slot : Byte) (off len : BitVec 16)
  | challenge (ver slot kind : Byte) (context : BitVec 64)
  | getMeasurements (ver attr op : Byte) (context : BitVec 64)
  | keyExchange (ver slot kind : Byte) (reqSession : BitVec 16)
  | finish (session : BitVec 32) (ok : Bool)
  | heartbeat (session : BitVec 32)
  | keyUpdate (session : BitVec 32) (op tag : Byte)
  | endSession (session : BitVec 32)
  | ideKmQuery (session : Option (BitVec 32))
  | keyProg (session : Option (BitVec 32)) (stream : Byte) (set dir : Fin 2) (sub : Fin 3)
  | kSetGo (session : Option (BitVec 32)) (set dir : Fin 2) (sub : Fin 3)
  | kSetStop (session : Option (BitVec 32)) (set dir : Fin 2) (sub : Fin 3)
  | tpRefresh
  | tpMbxTx (j : Fin 8) (w : BitVec 32)
  | tpMbxRx (j : Fin 8)
  | powerLoss
  | vddioRestored
  | pcieLinkTraining (rate width : Fin 3)
  | lowerHalfRead (off : BitVec 24) (whole : Bool) (e : Ecc) (bar2 : Bool := false)
  | spdmUnsupportedRequest (code : Byte)
  deriving DecidableEq, Repr

end Sys2Proof
end

