-- ==== Sys2Proof/Decode.lean ====
section
/-!
DEFINITION. Commands as words. The rows of spec/opcode_table.json give no bits: the block has no instruction words of its own, and its
commands arrive as events with typed operands. No word spells one.
-/

namespace Sys2Proof

/-- The command that a word of `nbits` bits spells by the table's bits: none, since no row gives bits. -/
def decodeTableWord (_nbits _w : Nat) : Option Instr := none

end Sys2Proof
end

