-- ==== Sys2Proof/Config.lean ====
section
/-!
DEFINITION. What the spec leaves open: free values. Each is an opaque constant without a body, so nothing can be proved
about the value it gives, and a statement about the model holds whatever it is.
-/

namespace Sys2Proof.Config

/-- A fresh free value: the model applies it to its counter `draws` and advances the counter. -/
opaque free : Nat → Nat

/-- What a column and its converter make of a reading before their trims (R69, R142): bare gain, bare offset and bare scale, fresh values each time. -/
opaque analog : Nat → Int

/-- The junction temperature of the A-die in 1/16 °C at a read (R81): a fresh value each time, since no result of a diode gives it. -/
opaque junction : Nat → Int

/-- Trim codes found at manufacture (R140): a fixed function of the Tun, the set and the code index. -/
opaque kilnStore : Nat → Nat

/-- The CRC words written with the calibration sets and the manufacture records (R140): a fixed function of the Tun and the set. -/
opaque kilnCrc : Nat → Nat

/-- The 64-bit seed that layer, block and epoch give the Ω of a fit (R135). -/
opaque fitSeed : Nat → Nat → Nat → Nat

/-- Which of the two nearest FP32 values a 64-bit computation of C1, C2 or RATIO gives where its own roundings decide (R236, R241): a fixed function of
the inputs. -/
opaque round64 : List Nat → Bool

/-- EXP2, RCP, RSQ and LOG2 (R209): fixed functions of the FP32 code, the same on every device, before the 1 ulp bound. -/
opaque vecFun : Nat → Nat → Nat

/-- The signature and key material that only the device's fuses and entropy source know (R468, R469). -/
opaque secret : Nat → Nat → BitVec 8

/-- Bytes of the local stores that nothing has written since they lost their contents, by epoch and address (R441). -/
opaque localStore : Nat → Nat → BitVec 8

/-- The fuse digest of the root key (R460), the ROM contents' digest and the certificate chain (R467, R470): fixed at
manufacture, and not given by the spec. -/
opaque rootDigest : Nat → BitVec 8
opaque romDigest : Nat → BitVec 8
opaque certChain : List (BitVec 8)

end Sys2Proof.Config
end

