-- ==== Sys2Proof/Machine/Bytes.lean ====
section
/-!
DEFINITION. Byte order (R8: little-endian), bit fields, signed readings, and the CRC-32C of frame programs, ledger
copies, flits, packets and packs.
-/

namespace Sys2Proof.Machine

/-- The natural number that little-endian bytes spell (R8). -/
def leNat : List Byte → Nat
  | [] => 0
  | b :: bs => b.toNat + 256 * leNat bs

/-- The `n` little-endian bytes of a natural number (R8). -/
def natLe : Nat → Nat → List Byte
  | 0, _ => []
  | n + 1, v => BitVec.ofNat 8 v :: natLe n (v / 256)

/-- Read `n` little-endian bytes at an offset of a byte string; bytes past its end read 0. -/
def rdLe (l : List Byte) (off n : Nat) : Nat := leNat ((l.drop off).take n)

/-- Bits [hi:lo] of a number. -/
def bits (v hi lo : Nat) : Nat := v / 2 ^ lo % 2 ^ (hi - lo + 1)

/-- Bit `i` of a number. -/
def bit (v i : Nat) : Bool := v.testBit i

/-- Set bit `i`. -/
def setBit (v i : Nat) : Nat := if v.testBit i then v else v + 2 ^ i

/-- Clear bit `i`. -/
def clearBit (v i : Nat) : Nat := if v.testBit i then v - 2 ^ i else v

/-- The signed reading of the low `w` bits. -/
def sgn (w v : Nat) : Int :=
  let u := v % 2 ^ w
  if 2 * u < 2 ^ w then (u : Int) else (u : Int) - (2 ^ w : Nat)

/-- The `w`-bit two's complement encoding. -/
def unsgn (w : Nat) (i : Int) : Nat := (i % ((2 ^ w : Nat) : Int)).toNat

/-- Limit a signed value to a range. -/
def clampInt (lo hi i : Int) : Int := if i < lo then lo else if hi < i then hi else i

/-- The ceiling of a quotient. -/
def ceilDiv (a b : Nat) : Nat := (a + b - 1) / b

/-- The integer nearest to a / b, ties to even. -/
def rneDiv (a : Int) (b : Nat) : Int :=
  let q := a / (b : Int)
  let r := a % (b : Int)
  if (b : Int) < 2 * r ∨ (2 * r = (b : Int) ∧ q % 2 = 1) then q + 1 else q

/-- One step of the reflected Castagnoli CRC (polynomial 0x82F6_3B78) on the low bit. -/
def crcStep (c : BitVec 32) : BitVec 32 :=
  if c.getLsbD 0 then (c >>> 1) ^^^ 0x82F63B78#32 else c >>> 1

/-- Eight steps of the CRC register. -/
def crcByte (c : BitVec 32) (b : Byte) : BitVec 32 :=
  let x := c ^^^ b.setWidth 32
  crcStep (crcStep (crcStep (crcStep (crcStep (crcStep (crcStep (crcStep x)))))))

/-- CRC-32C of a byte string: reflected, initial value and final inversion of all ones. -/
def crc32c (l : List Byte) : Nat := ((l.foldl crcByte 0xFFFFFFFF#32) ^^^ 0xFFFFFFFF#32).toNat

end Sys2Proof.Machine
end

