-- ==== Sys2Proof/Machine/Float.lean ====
section
/-!
DEFINITION. Number formats (R161 to R170): values as exact dyadic numbers, their encodings, one rounding function for
every destination (R172), overflow (R173), and the IEEE operations of the vector lanes built from them.
-/

namespace Sys2Proof.Machine

/-- A number read from memory or a lane: NaN, an infinity, or the exact dyadic (−1)^neg × m × 2^e (m = 0 is a signed zero). -/
inductive FVal where
  | nan
  | inf (neg : Bool)
  | fin (neg : Bool) (m : Nat) (e : Int)
  deriving DecidableEq, Repr

/-- Rounding modes of Table 7.4: `sr u` carries the 16-bit number that stochastic rounding draws. -/
inductive RMode where
  | rne
  | rz
  | sr (u : Nat)
  deriving DecidableEq, Repr

/-- Formats of Table 7.1. -/
inductive Fmt where
  | fp32 | bf16 | fp16 | ep32 | e4m3 | e5m2 | e2m1 | mxint8 | ts4f | ts4i | w32 | tunin
  deriving DecidableEq, Repr

/-- Table 7.1: the format of a 4-bit code; none for a reserved code. -/
def Fmt.ofCode : Nat → Option Fmt
  | 0x0 => some .fp32
  | 0x1 => some .bf16
  | 0x2 => some .fp16
  | 0x3 => some .ep32
  | 0x4 => some .e4m3
  | 0x5 => some .e5m2
  | 0x6 => some .e2m1
  | 0x7 => some .mxint8
  | 0x8 => some .ts4f
  | 0x9 => some .ts4i
  | 0xA => some .w32
  | 0xB => some .tunin
  | _ => none

/-- Table 7.1: the code of a format. -/
def Fmt.code : Fmt → Nat
  | .fp32 => 0x0
  | .bf16 => 0x1
  | .fp16 => 0x2
  | .ep32 => 0x3
  | .e4m3 => 0x4
  | .e5m2 => 0x5
  | .e2m1 => 0x6
  | .mxint8 => 0x7
  | .ts4f => 0x8
  | .ts4i => 0x9
  | .w32 => 0xA
  | .tunin => 0xB

/-- Element bits of Table 7.1. -/
def Fmt.elemBits : Fmt → Nat
  | .fp32 => 32
  | .bf16 => 16
  | .fp16 => 16
  | .ep32 => 64
  | .e4m3 => 8
  | .e5m2 => 8
  | .e2m1 => 4
  | .mxint8 => 8
  | .ts4f => 4
  | .ts4i => 4
  | .w32 => 32
  | .tunin => 4

/-- Tile-scaled formats (R166 to R168). -/
def Fmt.tiled : Fmt → Bool
  | .ts4f => true
  | .ts4i => true
  | _ => false

/-- Formats with one scale or exponent byte per 32 elements of a row (R164, R170). -/
def Fmt.blocked : Fmt → Bool
  | .e4m3 => true
  | .e5m2 => true
  | .e2m1 => true
  | .mxint8 => true
  | .w32 => true
  | _ => false

/-- Exponent bits, mantissa bits and bias of the floating encodings. -/
def Fmt.layout : Fmt → Option (Nat × Nat × Int)
  | .fp32 => some (8, 23, 127)
  | .bf16 => some (8, 7, 127)
  | .fp16 => some (5, 10, 15)
  | .e4m3 => some (4, 3, 7)
  | .e5m2 => some (5, 2, 15)
  | .e2m1 => some (2, 1, 1)
  | .ts4f => some (2, 1, 1)
  | _ => none

/-- The exponent of the finest step of the encoding, before any shared scale: subnormal steps for the floating formats. -/
def Fmt.minStep : Fmt → Int
  | .mxint8 => -6
  | .ts4i => 0
  | .w32 => 0
  | f => match f.layout with
    | some (_, mb, bias) => 1 - bias - (mb : Int)
    | none => 0

/-- Significant bits of a floating encoding; none where the grid is uniform. -/
def Fmt.precision (f : Fmt) : Option Nat := f.layout.map fun l => l.2.1 + 1

/-- Largest finite magnitude m × 2^e of the encoding, before any shared scale (Tables 7.2 and 7.3, R165, R170). -/
def Fmt.maxFin : Fmt → Nat × Int
  | .fp32 => (2 ^ 24 - 1, 104)
  | .ep32 => (2 ^ 24 - 1, 104)
  | .bf16 => (2 ^ 8 - 1, 120)
  | .fp16 => (2 ^ 11 - 1, 5)
  | .e4m3 => (7, 6)
  | .e5m2 => (7, 13)
  | .e2m1 => (3, 1)
  | .ts4f => (3, 1)
  | .mxint8 => (127, -6)
  | .ts4i => (7, 0)
  | .w32 => (8191, 0)
  | .tunin => (7, 0)

/-- emax of R174. -/
def Fmt.emax : Fmt → Int
  | .e4m3 => 8
  | .e5m2 => 15
  | .e2m1 => 2
  | .ts4f => 2
  | .ts4i => 2
  | .mxint8 => 0
  | .w32 => -1
  | _ => 0

/-- ⌊log₂⌋ of a nonzero dyadic. -/
def binade (m : Nat) (e : Int) : Int := (Nat.log2 m : Int) + e

/-- m × 2^k for a signed k, rounded toward zero when k < 0. -/
def shl (m : Nat) (k : Int) : Nat := if 0 ≤ k then m * 2 ^ k.toNat else m / 2 ^ (-k).toNat

/-- Compare two magnitudes m × 2^e. -/
def magLe (m1 : Nat) (e1 : Int) (m2 : Nat) (e2 : Int) : Bool :=
  let e := min e1 e2
  decide (m1 * 2 ^ (e1 - e).toNat ≤ m2 * 2 ^ (e2 - e).toNat)

/-- Round the magnitude m × 2^e to a whole number of steps 2^q (R172). -/
def roundSteps (rm : RMode) (m : Nat) (e q : Int) : Nat :=
  if q ≤ e then m * 2 ^ (e - q).toNat
  else
    let d := 2 ^ (q - e).toNat
    let n := m / d
    let r := m % d
    match rm with
    | .rz => n
    | .rne => if d < 2 * r ∨ (2 * r = d ∧ n % 2 = 1) then n + 1 else n
    | .sr u => if r ≠ 0 ∧ u < 65536 * r / d then n + 1 else n

/-- The step at which a magnitude is rounded: the format's precision below its binade, but never finer than its finest step. -/
def stepOf (f : Fmt) (m : Nat) (e : Int) : Int :=
  match f.precision with
  | some p => if m = 0 then f.minStep else max f.minStep (binade m e - ((p : Int) - 1))
  | none => f.minStep

/-- The element code that stores a finite magnitude n × 2^q that lies on the format's grid and does not exceed its maximum. -/
def encodeFin (f : Fmt) (neg : Bool) (n : Nat) (q : Int) : Nat :=
  match f.layout with
  | some (eb, mb, bias) =>
    let s := if neg then 2 ^ (eb + mb) else 0
    if n = 0 then s
    else
      let b := binade n q
      if b < 1 - bias then s + shl n (q - (1 - bias - (mb : Int)))
      else s + (b + bias).toNat * 2 ^ mb + (shl n (q - (b - (mb : Int))) - 2 ^ mb)
  | none =>
    let v : Int := (shl n (q - f.minStep) : Nat)
    unsgn f.elemBits (if neg then -v else v)

/-- The code of an infinity, where the format has one. -/
def encodeInf (f : Fmt) (neg : Bool) : Option Nat :=
  match f with
  | .fp32 => some (if neg then 0xFF800000 else 0x7F800000)
  | .bf16 => some (if neg then 0xFF80 else 0x7F80)
  | .fp16 => some (if neg then 0xFC00 else 0x7C00)
  | .e5m2 => some (if neg then 0xFC else 0x7C)
  | _ => none

/-- The canonical NaN, where the format has one (R165, Table 7.2). -/
def encodeNan : Fmt → Option Nat
  | .fp32 => some 0x7FC00000
  | .bf16 => some 0x7FC0
  | .fp16 => some 0x7E00
  | .e4m3 => some 0x7F
  | .e5m2 => some 0x7E
  | _ => none

/-- Decode an element code, before any shared scale (R163, R165 to R167, R170). -/
def decode (f : Fmt) (c : Nat) : FVal :=
  match f.layout with
  | some (eb, mb, bias) =>
    let neg := bit c (eb + mb)
    let ex := bits c (eb + mb - 1) mb
    let fr := c % 2 ^ mb
    let top := 2 ^ eb - 1
    if ex = top ∧ (f = .fp32 ∨ f = .bf16 ∨ f = .fp16 ∨ f = .e5m2) then (if fr = 0 then .inf neg else .nan)
    else if ex = top ∧ f = .e4m3 ∧ fr = 7 then .nan
    else if ex = 0 then .fin neg fr (1 - bias - (mb : Int))
    else .fin neg (fr + 2 ^ mb) ((ex : Int) - bias - (mb : Int))
  | none =>
    let v := sgn f.elemBits c
    .fin (decide (v < 0)) v.natAbs f.minStep

/-- Scale a value by a power of two. -/
def FVal.scale (x : FVal) (k : Int) : FVal :=
  match x with
  | .fin n m e => .fin n m (e + k)
  | x => x

/-- R162: an element under an E8M0 scale byte; 0xFF makes every element a NaN. -/
def scaled (x : FVal) (sc : Nat) : FVal := if sc = 0xFF then .nan else x.scale ((sc : Int) - 127)

/-- The outcome of one rounding into a format (R172, R173): the code, and what the histogram counts. -/
structure Rounded where
  code : Nat
  /-- The element forces its block or tile scale to 0xFF (Table 7.5). -/
  poison : Bool
  sat : Bool
  ufl : Bool
  deriving DecidableEq, Repr

/-- Round a value into an element of a format under RM and OVF (`spec` is OVF = SPEC): R172 and Table 7.5. -/
def roundInto (f : Fmt) (rm : RMode) (spec : Bool) (x : FVal) : Rounded :=
  let mx := f.maxFin
  match x with
  | .nan => match encodeNan f with
    | some c => ⟨c, false, false, false⟩
    | none => ⟨0, true, false, false⟩
  | .inf neg =>
    if spec then
      match encodeInf f neg with
      | some c => ⟨c, false, false, false⟩
      | none => match encodeNan f with
        | some c => ⟨c, false, false, false⟩
        | none => ⟨0, true, false, false⟩
    else ⟨encodeFin f neg mx.1 mx.2, false, true, false⟩
  | .fin neg m e =>
    let q := stepOf f m e
    let n := roundSteps rm m e q
    if magLe n q mx.1 mx.2 then
      ⟨encodeFin f neg n q, false, false, m ≠ 0 && n == 0⟩
    else if spec && rm ≠ .rz then
      match encodeInf f neg with
      | some c => ⟨c, false, false, false⟩
      | none => if f = .e4m3 then ⟨0x7F, false, false, false⟩
        else ⟨encodeFin f neg mx.1 mx.2, false, true, false⟩
    else ⟨encodeFin f neg mx.1 mx.2, false, true, false⟩

/-! ### Exact arithmetic -/

/-- Exact sum of two finite dyadics as a signed integer times 2^e, with the sign an exact zero takes under RNE. -/
def addExact (n1 : Bool) (m1 : Nat) (e1 : Int) (n2 : Bool) (m2 : Nat) (e2 : Int) : FVal :=
  let e := min e1 e2
  let a : Int := (m1 * 2 ^ (e1 - e).toNat : Nat)
  let b : Int := (m2 * 2 ^ (e2 - e).toNat : Nat)
  let s := (if n1 then -a else a) + (if n2 then -b else b)
  if s = 0 then .fin (n1 && n2) 0 e else .fin (decide (s < 0)) s.natAbs e

/-- Sum of two values before rounding. -/
def FVal.add : FVal → FVal → FVal
  | .nan, _ => .nan
  | _, .nan => .nan
  | .inf a, .inf b => if a = b then .inf a else .nan
  | .inf a, _ => .inf a
  | _, .inf b => .inf b
  | .fin n1 m1 e1, .fin n2 m2 e2 => addExact n1 m1 e1 n2 m2 e2

/-- Sign change. -/
def FVal.neg : FVal → FVal
  | .nan => .nan
  | .inf a => .inf !a
  | .fin n m e => .fin (!n) m e

/-- Product of two values before rounding. -/
def FVal.mul : FVal → FVal → FVal
  | .nan, _ => .nan
  | _, .nan => .nan
  | .inf a, .inf b => .inf (a != b)
  | .inf a, .fin n m _ => if m = 0 then .nan else .inf (a != n)
  | .fin n m _, .inf b => if m = 0 then .nan else .inf (n != b)
  | .fin n1 m1 e1, .fin n2 m2 e2 => .fin (n1 != n2) (m1 * m2) (e1 + e2)

/-- Is the value finite? -/
def FVal.finite : FVal → Bool
  | .fin _ _ _ => true
  | _ => false

/-- Is the value ±0? -/
def FVal.isZero : FVal → Bool
  | .fin _ 0 _ => true
  | _ => false

/-- The sign bit. -/
def FVal.isNeg : FVal → Bool
  | .nan => false
  | .inf n => n
  | .fin n _ _ => n

/-- a < b as numbers; false when either is a NaN. -/
def FVal.lt : FVal → FVal → Bool
  | .nan, _ => false
  | _, .nan => false
  | .inf a, .inf b => a && !b
  | .inf a, .fin _ _ _ => a
  | .fin _ _ _, .inf b => !b
  | .fin n1 m1 e1, .fin n2 m2 e2 =>
    match addExact n1 m1 e1 (!n2) m2 e2 with
    | .fin n m _ => n && m != 0
    | _ => false

/-- The absolute value. -/
def FVal.abs : FVal → FVal
  | .nan => .nan
  | .inf _ => .inf false
  | .fin _ m e => .fin false m e

/-- An integer as a value. -/
def FVal.ofInt (i : Int) : FVal := .fin (decide (i < 0)) i.natAbs 0

/-- Round an integer quotient num / den (den ≠ 0) to FP32 RNE: the quotient is cut at 2^−k with a sticky bit below it. -/
def FVal.quot (a b : FVal) : FVal :=
  match a, b with
  | .nan, _ => .nan
  | _, .nan => .nan
  | .inf _, .inf _ => .nan
  | .inf n, .fin n2 _ _ => .inf (n != n2)
  | .fin n _ _, .inf n2 => .fin (n != n2) 0 0
  | .fin n1 m1 e1, .fin n2 m2 e2 =>
    if m2 = 0 then (if m1 = 0 then .nan else .inf (n1 != n2))
    else
      let k := 2 * (Nat.log2 m2 + 64)
      let num := m1 * 2 ^ k
      let q := num / m2
      let sticky := if num % m2 = 0 then 0 else 1
      .fin (n1 != n2) (2 * q + sticky) (e1 - e2 - (k : Int) - 1)

/-! ### FP32 lanes (R165): codes as natural numbers below 2^32 -/

/-- Decode an FP32 code. -/
def f32 (c : Nat) : FVal := decode .fp32 (c % 2 ^ 32)

/-- Round to FP32 under RNE, with infinities on overflow (IEEE 754). -/
def toF32 (x : FVal) : Nat := (roundInto .fp32 .rne true x).code

/-- Round to BF16 under RNE. -/
def toBF16 (x : FVal) : Nat := (roundInto .bf16 .rne true x).code

def f32Add (a b : Nat) : Nat := toF32 ((f32 a).add (f32 b))
def f32Sub (a b : Nat) : Nat := toF32 ((f32 a).add (f32 b).neg)
def f32Mul (a b : Nat) : Nat := toF32 ((f32 a).mul (f32 b))
def f32Div (a b : Nat) : Nat := toF32 ((f32 a).quot (f32 b))

/-- a × b + c with one rounding. An exact zero product keeps its sign in the sum. -/
def f32Fma (a b c : Nat) : Nat := toF32 (((f32 a).mul (f32 b)).add (f32 c))

/-- The value an EP32 pair stands for (R169): hi + lo, with lo ignored when hi is not finite. -/
def ep32Val (hi lo : Nat) : FVal := if (f32 hi).finite then (f32 hi).add (f32 lo) else f32 hi

/-- A value converted into EP32 (R169, R173): the normalized pair, hi = RNE(v) and lo the rest rounded once, and whether it is stored as ±max. Max is the
largest normalized pair. -/
def toEp32 (rm : RMode) (spec : Bool) (x : FVal) : Nat × Nat × Bool :=
  let sign := if x.isNeg then 2 ^ 31 else 0
  let top := (sign + 0x7F7FFFFF, sign + 0x72FFFFFF, true)
  match x with
  | .nan => (0x7FC00000, 0, false)
  | .inf _ => if spec then (sign + 0x7F800000, 0, false) else top
  | .fin _ _ _ =>
    let hi := toF32 x
    if (f32 hi).finite then (hi, (roundInto .fp32 rm true (x.add (f32 hi).neg)).code, false)
    else if spec && rm ≠ .rz then (hi, 0, false) else top

/-- ⌊log₂ |x|⌋ of a finite nonzero value. -/
def FVal.log2? : FVal → Option Int
  | .fin _ m e => if m = 0 then none else some (binade m e)
  | _ => none

end Sys2Proof.Machine
end

