-- ==== Sys2Proof/Machine/Image.lean ====
section
/-!
DEFINITION. The frame program image: header (Table 2.2), segment table (Tables 2.3 and 2.4), step sequence (Table 2.5),
slots (Tables 2.6 and 2.7) and the load checks of Table 2.8 that read the image alone.
-/

namespace Sys2Proof.Machine

/-- One segment table entry (Table 2.3). -/
structure Seg where
  kind : Nat
  cls : Nat
  rsv0 : Nat
  unit : Nat
  template : Nat
  off : Nat
  len : Nat
  crc : Nat
  rsv1 : Nat
  deriving DecidableEq, Repr

/-- Header fields (Table 2.2), read at their offsets. -/
def imgSegCount (i : List Byte) : Nat := rdLe i 0x0C 4
def imgTotal (i : List Byte) : Nat := rdLe i 0x10 8
def imgJob (i : List Byte) : Nat := rdLe i 0x18 8
def imgKind (i : List Byte) : Nat := rdLe i 0x20 1
def imgPeriod (i : List Byte) : Nat := rdLe i 0x24 4
def imgStepFrames (i : List Byte) : Nat := rdLe i 0x28 4
def imgFbPermille (i : List Byte) : Nat := rdLe i 0x2C 2
def imgKilnFrames (i : List Byte) : Nat := rdLe i 0x2E 2
def imgShape (i : List Byte) : Nat := rdLe i 0x30 4
def imgCoord (i : List Byte) : Nat := rdLe i 0x34 4
def imgTemplates (i : List Byte) : Nat := rdLe i 0x38 2
def imgSegTable (i : List Byte) : Nat := rdLe i 0x40 8
def imgFootprint (i : List Byte) : Nat := rdLe i 0x48 8

/-- The period in quanta: 16 L-die cycles each. -/
def imgQuanta (i : List Byte) : Nat := imgPeriod i / 16

/-- Segment table entry `k`. -/
def imgSeg (i : List Byte) (k : Nat) : Seg :=
  let o := imgSegTable i + 32 * k
  ⟨rdLe i o 2, rdLe i (o + 2) 1, rdLe i (o + 3) 1, rdLe i (o + 4) 2, rdLe i (o + 6) 2, rdLe i (o + 8) 8,
    rdLe i (o + 16) 8, rdLe i (o + 24) 4, rdLe i (o + 28) 4⟩

/-- Every segment table entry, in table order. -/
def imgSegs (i : List Byte) : List Seg := (List.range (imgSegCount i)).map (imgSeg i)

/-- The bytes of a segment. -/
def imgBytes (i : List Byte) (s : Seg) : List Byte := (i.drop s.off).take s.len

/-- The first segment of a kind. -/
def imgFind (i : List Byte) (kind : Nat) : Option Seg := (imgSegs i).find? fun s => s.kind == kind

/-- Cut a byte string into entries of `n` bytes. -/
def entries (n : Nat) (l : List Byte) : List (List Byte) :=
  (List.range (l.length / n)).map fun k => (l.drop (n * k)).take n

/-- Entry size of the kinds with fixed-size entries (R39); 1 for the others. -/
def segEntrySize : Nat → Nat
  | 1 => 8
  | 2 => 16
  | 3 => 64
  | 4 => 64
  | 5 => 32
  | 6 => 8
  | 7 => 16
  | _ => 1

/-- The class code of Table 2.3. -/
def classCode : UClass → Nat
  | .basin => 1
  | .mxc => 2
  | .spg => 3
  | .red => 4
  | .port => 5
  | .cmdproc => 6

/-- How many units a class has (R6, R19). -/
def classUnits : Nat → Nat
  | 1 => 32
  | 2 => 128
  | 3 => 32
  | 4 => 1
  | 5 => 16
  | 6 => 1
  | _ => 0

/-- One step sequence entry (Table 2.5). -/
structure SeqEntry where
  reserved : Nat
  rep : Nat
  template : Nat
  deriving DecidableEq, Repr

def parseSeq (e : List Byte) : SeqEntry := ⟨rdLe e 6 2, rdLe e 2 4, rdLe e 0 2⟩

/-- The step sequence of an image. -/
def imgSeq (i : List Byte) : List SeqEntry :=
  match imgFind i 1 with
  | none => []
  | some s => (entries 8 (imgBytes i s)).map parseSeq

/-- The template of frame `f` of the step (R41, R46). -/
def templateAt : List SeqEntry → Nat → Option Nat
  | [], _ => none
  | e :: es, f => if f < e.rep then some e.template else templateAt es (f - e.rep)

/-- One slot (Table 2.6). -/
structure Slot where
  items : Nat
  task : Nat
  sub : Nat
  dataDep : Bool
  kind : Nat
  len : Nat
  start : Nat
  /-- The reserved bits of the entry, read as one number: 0 in a valid program. -/
  reserved : Nat
  deriving DecidableEq, Repr

def parseSlot (e : List Byte) : Slot :=
  let v := leNat e
  ⟨bits v 127 96, bits v 95 64, bits v 47 40, bit v 37, bits v 35 32, bits v 31 16, bits v 15 0,
    bits v 63 48 + bits v 39 38 + bits v 36 36⟩

/-- Slot end, in quanta after frame_start. -/
def Slot.stop (s : Slot) : Nat := s.start + s.len

/-- The slots of one unit in one template (R40): none listed means the unit is idle. -/
def imgSlots (i : List Byte) (cls unit template : Nat) : List Slot :=
  match (imgSegs i).find? fun s => s.kind == 2 && s.cls == cls && s.unit == unit && s.template == template with
  | none => []
  | some s => (entries 16 (imgBytes i s)).map parseSlot

/-- R499: the 64-byte descriptor that a TASK index names, or 64 zero bytes where it names none. -/
def imgTask (i : List Byte) (cls unit k : Nat) : List Byte :=
  match (imgSegs i).find? fun s => s.kind == 3 && s.cls == cls && s.unit == unit with
  | none => List.replicate 64 0
  | some s => if 64 * k + 64 ≤ s.len then ((imgBytes i s).drop (64 * k)).take 64 else List.replicate 64 0

/-- The entries of the program's segments of one kind, in table order. -/
def imgEntries (i : List Byte) (kind : Nat) : List (List Byte) :=
  ((imgSegs i).filter fun s => s.kind == kind).flatMap fun s => entries (segEntrySize kind) (imgBytes i s)

/-! ### Load checks of Table 2.8 that read the image alone -/

/-- Do two byte ranges overlap? Empty ranges overlap nothing. -/
def rangesOverlap (a la b lb : Nat) : Bool := la != 0 && lb != 0 && a < b + lb && b < a + la

/-- Every pair of a list is clear of the other under `p`. -/
def pairwiseOk {α : Type} (p : α → α → Bool) : List α → Bool
  | [] => true
  | a :: l => l.all (p a) && pairwiseOk p l

/-- The first index whose entry fails a test. -/
def firstBad {α : Type} (p : α → Bool) : Nat → List α → Option Nat
  | _, [] => none
  | k, a :: l => if p a then firstBad p (k + 1) l else some k

/-- Segment index 0xFFFF_FFFF stands for the header in FRM_LOAD_ERR (Table 2.16). -/
def hdrSeg : Nat := 0xFFFFFFFF

/-- Check SIZE (code 3), with R39 and R40: the failing segment index, or none. -/
def checkSize (i : List Byte) : Option Nat :=
  let n := imgSegCount i
  let t := imgSegTable i
  if imgTotal i ≠ i.length ∨ n < 2 ∨ 65536 < n ∨ t % 8 ≠ 0 ∨ i.length < t + 32 * n ∨ t < 256 then some hdrSeg
  else
    let segs := imgSegs i
    match firstBad (fun s => s.off % 64 == 0 && 256 ≤ s.off && s.off + s.len ≤ i.length &&
        s.len % segEntrySize s.kind == 0 && !rangesOverlap s.off s.len t (32 * n)) 0 segs with
    | some k => some k
    | none =>
      if !pairwiseOk (fun a b => !rangesOverlap a.off a.len b.off b.len) segs then some hdrSeg
      else if (segs.filter fun s => s.kind == 10).length ≠ 1 then some hdrSeg
      else if (segs.getLast?.map fun s => s.kind) ≠ some 10 then some (n - 1)
      else none

/-- Check CRC (code 4). -/
def checkCrc (i : List Byte) : Option Nat :=
  if crc32c (i.take 0xFC) ≠ rdLe i 0xFC 4 then some hdrSeg
  else firstBad (fun s => crc32c (imgBytes i s) == s.crc) 0 (imgSegs i)

/-- Check PERIOD (code 7, R29). -/
def periodOk (i : List Byte) : Bool :=
  6400 ≤ imgPeriod i && imgPeriod i ≤ 204800 && imgPeriod i % 16 == 0

/-- Check SEQUENCE (code 8, R40 and R41). -/
def checkSequence (i : List Byte) : Option Nat :=
  let t := imgTemplates i
  let segs := imgSegs i
  if (segs.filter fun s => s.kind == 1).length ≠ 1 ∨ t < 1 ∨ 4096 < t then some hdrSeg
  else
    let q := imgSeq i
    if !(q.all fun e => e.rep != 0 && e.template < t) || (q.map (·.rep)).sum != imgStepFrames i then
      some ((segs.findIdx? fun s => s.kind == 1).getD hdrSeg)
    else firstBad (fun s => s.kind != 2 || s.template < t) 0 segs

/-- Do two slots of one unit share a quantum? On a basin, SUB 0xFF stands for all 64 Tuns (R42). -/
def slotsClash (cls : Nat) (a b : Slot) : Bool :=
  rangesOverlap a.start a.len b.start b.len &&
    (cls != 1 || a.sub == 0xFF || b.sub == 0xFF || a.sub == b.sub)

/-- Check OVERLAP of one slot table (code 9, R42). -/
def slotTableOk (quanta : Nat) (cls : Nat) (l : List Slot) : Bool :=
  (l.zip l.tail).all (fun p => p.1.start ≤ p.2.start) && pairwiseOk (fun a b => !slotsClash cls a b) l &&
    l.all fun s => s.stop + 10 ≤ quanta

/-- Check OVERLAP (code 9). -/
def checkOverlap (i : List Byte) : Option Nat :=
  let segs := imgSegs i
  if !pairwiseOk (fun a b => !(a.kind == 2 && b.kind == 2 && a.cls == b.cls && a.unit == b.unit &&
      a.template == b.template)) segs then some hdrSeg
  else firstBad (fun s => s.kind != 2 ||
    slotTableOk (imgQuanta i) s.cls ((entries 16 (imgBytes i s)).map parseSlot)) 0 segs

/-- Tuns in RACK slots at quantum `q` of a template: 64 for a slot of all Tuns. -/
def rackTuns (slots : List Slot) (q : Nat) : Nat :=
  ((slots.filter fun s => s.kind == 3 && s.start ≤ q && q < s.stop).map
    fun s => if s.sub == 0xFF then 64 else 1).sum

/-- The basin slots of one template. -/
def basinSlots (i : List Byte) (t : Nat) : List Slot := (List.range 32).flatMap fun b => imgSlots i 1 b t

/-- Check RACK_POWER (code 10): at most 64 Tuns in RACK slots in any quantum; a maximum lies at some slot's start. -/
def rackPowerOk (i : List Byte) : Bool :=
  (List.range (imgTemplates i)).all fun t =>
    let l := basinSlots i t
    l.all fun s => rackTuns l s.start ≤ 64

/-- Quanta of FALLBACK slots of an MXC over one step. -/
def fallbackQuanta (i : List Byte) (c : Nat) : Nat :=
  ((imgSeq i).map fun e =>
    e.rep * (((imgSlots i 2 c e.template).filter fun s => s.kind == 6).map (·.len)).sum).sum

/-- The longest run of frames without a KILN slot, given (frames, has a KILN slot) runs and the run so far. -/
def longestGap : List (Nat × Bool) → Nat → Nat
  | [], cur => cur
  | (_, true) :: l, cur => max cur (longestGap l 0)
  | (n, false) :: l, cur => longestGap l (cur + n)

/-- The longest run of frames of a basin without a KILN slot, counted across the step boundary. -/
def kilnGap (i : List Byte) (b : Nat) : Nat :=
  let runs := (imgSeq i).map fun e => (e.rep, (imgSlots i 1 b e.template).any fun s => s.kind == 4)
  longestGap (runs ++ runs) 0

/-- Some frame of the step has a KILN slot of the basin. -/
def hasKiln (i : List Byte) (b : Nat) : Bool := (imgSeq i).any fun e => (imgSlots i 1 b e.template).any fun s => s.kind == 4

/-- Check RESERVE (code 11, R155): the fallback reserve, the Kiln spacing and the KLN_SLOT_FRAMES limit. -/
def reserveOk (i : List Byte) (kilnMax : Nat) : Bool :=
  ((List.range 128).all fun c =>
    imgFbPermille i * imgStepFrames i * imgQuanta i ≤ 1000 * fallbackQuanta i c) &&
  ((List.range 32).all fun b => hasKiln i b && kilnGap i b ≤ imgKilnFrames i) && 1 ≤ imgKilnFrames i && imgKilnFrames i ≤ kilnMax

/-- Valid slot kinds of a class (Table 2.7). -/
def slotKindOk (cls : Nat) : Nat → Bool
  | 1 => true
  | 2 => cls == 4 || cls == 5
  | 3 => cls == 1
  | 4 => cls == 1
  | 5 => cls == 1 || cls == 2
  | 6 => cls == 2
  | _ => false

/-- The LAYER index of a LAYER entry is its first field. -/
def layersAscending : List Nat → Bool
  | [] => true
  | a :: l => (match l with | [] => true | b :: _ => a < b) && layersAscending l

/-- Check RESERVED_FIELD (code 14): reserved fields and encodings of the header, the segment table and the slots, and the
order of the LAYER segment (R108). `layerOf` reads the LAYER index of an entry. -/
def checkReserved (i : List Byte) (layerOf : List Byte → Nat) : Option Nat :=
  if 2 < imgKind i ∨ rdLe i 0x21 3 ≠ 0 ∨ rdLe i 0x3A 6 ≠ 0 ∨ rdLe i 0x50 172 ≠ 0 then some hdrSeg
  else firstBad (fun s =>
    (1 ≤ s.kind && s.kind ≤ 10) && s.rsv0 == 0 && s.rsv1 == 0 &&
    (if s.kind == 2 || s.kind == 3 then 1 ≤ s.cls && s.cls ≤ 6 && s.unit < classUnits s.cls
      else s.cls == 0 && s.unit == 0) &&
    (s.kind == 2 || s.template == 0) &&
    (s.kind != 1 || ((entries 8 (imgBytes i s)).map parseSeq).all fun e => e.reserved == 0) &&
    (s.kind != 2 || ((entries 16 (imgBytes i s)).map parseSlot).all fun x =>
      x.reserved == 0 && slotKindOk s.cls x.kind && 1 ≤ x.len &&
      (if s.cls == 1 then x.sub < 64 || x.sub == 0xFF else x.sub == 0)) &&
    (s.kind != 7 || layersAscending ((entries 16 (imgBytes i s)).map layerOf))) 0 (imgSegs i)

end Sys2Proof.Machine
end

