-- ==== Sys2Proof/Machine/RegMap.lean ====
section
/-!
DEFINITION. The BAR0 register map: every register of Table 20.2 with the fields, accesses, resets and ranges of the
field maps of chapters 2 to 20, and every counter of Table 20.8. Generated once from the spec's tables and kept by hand.
-/

namespace Sys2Proof.Machine

/-- Access codes of Table 0.4 (R11); the RSV bits are the bits that no field covers. -/
inductive Access where
  | ro | rw | rwl | w1c | wo
  deriving DecidableEq, Repr

/-- The condition a field's meaning places on a written value (R498). -/
inductive Range where
  | any
  | nat (lo hi : Nat)
  | oneOf (l : List Nat)
  | zeroOr (lo hi : Nat)
  | step (unit max : Nat)
  /-- Sixteen signed nibbles, each in −4…+3 (Table 9.20). -/
  | nibbles
  deriving DecidableEq, Repr

/-- R498: a value that breaks any stated condition is outside the range. -/
def Range.ok : Range → Nat → Bool
  | .any, _ => true
  | .nat lo hi, v => lo ≤ v && v ≤ hi
  | .oneOf l, v => l.contains v
  | .zeroOr lo hi, v => v == 0 || (lo ≤ v && v ≤ hi)
  | .step u m, v => v % u == 0 && v ≤ m
  | .nibbles, v => (List.range 16).all fun j =>
      let n := v / 16 ^ j % 16
      n ≤ 3 || 12 ≤ n

/-- The master identities of Table 15.4, which an end of a channel names. -/
def masterIds : List Nat := [0x01, 0x10, 0x11, 0x12, 0x13, 0x20, 0x30, 0x40, 0x50]

/-- One row of a field map (R11): the field's bits, access, reset value (R14) and range. -/
structure FieldDef where
  name : String
  hi : Nat
  lo : Nat
  acc : Access
  rst : Nat
  rng : Range
  deriving DecidableEq, Repr

/-- One register or register array: BAR0 offset of element 0, elements, stride, width in bits, fields (R479). -/
structure RegDef where
  name : String
  off : Nat
  count : Nat
  stride : Nat
  width : Nat
  fields : List FieldDef
  deriving DecidableEq, Repr

/-- Block DEV (Table 20.2). -/
def regsDev : List RegDef := [
  ⟨"DEV_ID", 0x0, 1, 8, 32, [⟨"PART", 31, 16, .ro, 0xe24, .any⟩, ⟨"REV_MAJ", 15, 12, .ro, 11, .any⟩, ⟨"REV_MIN", 11, 8, .ro, 0, .any⟩]⟩,
  ⟨"DEV_CAP", 0x8, 1, 8, 64, [⟨"TUNS", 63, 52, .ro, 0x800, .any⟩, ⟨"MXCS", 51, 44, .ro, 128, .any⟩, ⟨"STACKS", 43, 38, .ro, 24, .any⟩, ⟨"PORTS", 37, 32, .ro, 16, .any⟩, ⟨"VSLOTS", 31, 24, .ro, 8, .any⟩, ⟨"MBX_CH", 23, 16, .ro, 64, .any⟩, ⟨"GAU_CH", 15, 8, .ro, 96, .any⟩]⟩,
  ⟨"DEV_BLOCKS", 0x10, 1, 8, 32, [⟨"PRESENT", 17, 0, .ro, 0x3f7f7, .any⟩]⟩,
  ⟨"DEV_SCRATCH", 0x18, 1, 8, 64, [⟨"VALUE", 63, 0, .rw, 0, .any⟩]⟩]

/-- Block HIF (Table 20.2). -/
def regsHif : List RegDef := [
  ⟨"HIF_STATE", 0x10000, 1, 8, 32, [⟨"STAGE", 15, 12, .ro, 0, .any⟩, ⟨"HELLO", 8, 8, .ro, 0, .any⟩, ⟨"STATE", 3, 0, .ro, 1, .any⟩]⟩,
  ⟨"HIF_IF_VER", 0x10008, 1, 8, 32, [⟨"MAJOR", 31, 16, .ro, 1, .any⟩, ⟨"MINOR", 15, 0, .ro, 0, .any⟩]⟩,
  ⟨"HIF_ASQ", 0x10010, 1, 8, 64, [⟨"BASE", 63, 12, .rw, 0, .any⟩]⟩,
  ⟨"HIF_ACQ", 0x10018, 1, 8, 64, [⟨"BASE", 63, 12, .rw, 0, .any⟩]⟩,
  ⟨"HIF_ADMIN_CFG", 0x10020, 1, 8, 32, [⟨"EN", 31, 31, .rw, 0, .any⟩, ⟨"ACQ_LOG2", 20, 16, .rw, 6, .nat 6 16⟩, ⟨"ASQ_LOG2", 12, 8, .rw, 6, .nat 6 16⟩]⟩,
  ⟨"HIF_BAR4_BASE", 0x10028, 1, 8, 64, [⟨"BASE", 47, 30, .rw, 0, .any⟩]⟩,
  ⟨"HIF_LINK", 0x10030, 1, 8, 32, [⟨"RATE", 10, 8, .ro, 0, .any⟩, ⟨"WIDTH", 7, 3, .ro, 0, .any⟩, ⟨"IDE", 1, 1, .ro, 0, .any⟩, ⟨"FLIT", 0, 0, .ro, 0, .any⟩]⟩]

/-- Block FRM (Table 20.2). -/
def regsFrm : List RegDef := [
  ⟨"FRM_PERIOD", 0x20000, 1, 8, 32, [⟨"CYCLES", 17, 0, .ro, 0x6400, .any⟩]⟩,
  ⟨"FRM_STATUS", 0x20008, 1, 8, 32, [⟨"ARMED", 23, 16, .ro, 255, .any⟩, ⟨"ACTIVE", 15, 8, .ro, 255, .any⟩, ⟨"HOLD_TICK", 5, 5, .ro, 0, .any⟩, ⟨"ORIGIN", 4, 4, .ro, 0, .any⟩, ⟨"TICK_SRC", 3, 2, .ro, 0, .any⟩, ⟨"TICK_STATE", 1, 0, .ro, 0, .any⟩]⟩,
  ⟨"FRM_TICK_CFG", 0x20010, 1, 8, 32, [⟨"EXT_SRC", 31, 31, .rw, 0, .any⟩, ⟨"MISS_MAX", 30, 28, .rw, 4, .nat 1 7⟩, ⟨"WIN", 23, 16, .rw, 2, .nat 1 255⟩, ⟨"LEAD", 15, 0, .rw, 0x258, .nat 1 65535⟩]⟩,
  ⟨"FRM_TICK_NUM", 0x20018, 1, 8, 64, [⟨"NUM", 47, 0, .ro, 0, .any⟩]⟩,
  ⟨"FRM_STEP_POS", 0x20020, 1, 8, 64, [⟨"STEP_FRAMES", 63, 32, .ro, 0, .any⟩, ⟨"FRAME", 31, 0, .ro, 0, .any⟩]⟩,
  ⟨"FRM_SLACK", 0x20028, 1, 8, 64, [⟨"STEP_MIN", 63, 32, .ro, 0, .any⟩, ⟨"LAST", 31, 0, .ro, 0, .any⟩]⟩,
  ⟨"FRM_SLACK_UNIT", 0x20030, 1, 8, 32, [⟨"KIND", 27, 24, .ro, 0, .any⟩, ⟨"CLASS", 23, 16, .ro, 0, .any⟩, ⟨"SUB", 15, 8, .ro, 0, .any⟩, ⟨"INDEX", 7, 0, .ro, 0, .any⟩]⟩,
  ⟨"FRM_LOAD_ERR", 0x20038, 1, 8, 64, [⟨"SEGMENT", 63, 32, .ro, 0, .any⟩, ⟨"SLOT", 15, 8, .ro, 0, .any⟩, ⟨"CODE", 7, 0, .ro, 0, .any⟩]⟩,
  ⟨"FRM_VAR_INFO", 0x20100, 8, 8, 64, [⟨"STEP_FRAMES", 63, 32, .ro, 0, .any⟩, ⟨"PERIOD", 31, 14, .ro, 0, .any⟩, ⟨"KIND", 13, 12, .ro, 0, .any⟩, ⟨"VALID", 0, 0, .ro, 0, .any⟩]⟩]

/-- Block TUN (Table 20.2). -/
def regsTun : List RegDef := [
  ⟨"TUN_RM_CFG", 0x40000, 1, 8, 32, [⟨"EN", 31, 31, .rw, 1, .any⟩, ⟨"WINDOW_LOG2", 19, 16, .rw, 12, .nat 8 15⟩, ⟨"HIST_BASE", 15, 8, .rw, 0, .any⟩, ⟨"HIST_WIDTH_LOG2", 1, 0, .rw, 3, .any⟩]⟩,
  ⟨"TUN_RM_BAND", 0x40008, 1, 8, 64, [⟨"SAT_FRAC_MAX", 63, 48, .rw, 0x28f, .any⟩, ⟨"REF_RMS_MAX", 47, 32, .rw, 0x180, .any⟩, ⟨"REF_MEAN_MAX", 31, 16, .rw, 192, .any⟩, ⟨"REF_GAIN_MAX", 15, 0, .rw, 0x1ec, .any⟩]⟩,
  ⟨"TUN_RM_LAST", 0x40010, 1, 8, 32, [⟨"SAT", 31, 31, .ro, 0, .any⟩, ⟨"RMS", 30, 30, .ro, 0, .any⟩, ⟨"MEAN", 29, 29, .ro, 0, .any⟩, ⟨"GAIN", 28, 28, .ro, 0, .any⟩, ⟨"TUN", 10, 0, .ro, 0, .any⟩]⟩,
  ⟨"TUN_HIST_SEL", 0x40018, 1, 8, 32, [⟨"TUN", 10, 0, .rw, 0, .any⟩]⟩,
  ⟨"TUN_HIST_MINMAX", 0x40020, 1, 8, 32, [⟨"SEQ", 31, 16, .ro, 0, .any⟩, ⟨"MAX", 15, 8, .ro, 0, .any⟩, ⟨"MIN", 7, 0, .ro, 0, .any⟩]⟩,
  ⟨"TUN_REF_STAT", 0x40028, 1, 8, 64, [⟨"SAT_FRAC", 63, 48, .ro, 0, .any⟩, ⟨"RMS", 47, 32, .ro, 0, .any⟩, ⟨"MEAN", 31, 16, .ro, 0, .any⟩, ⟨"GAIN", 15, 0, .ro, 0, .any⟩]⟩,
  ⟨"TUN_HIST", 0x40100, 32, 8, 64, [⟨"COUNT", 47, 0, .ro, 0, .any⟩]⟩,
  ⟨"TUN_RACK_CFG", 0x40800, 1, 8, 32, [⟨"EN", 31, 31, .rw, 1, .any⟩, ⟨"RACK_MIN_STEPS", 23, 16, .rw, 8, .nat 1 255⟩, ⟨"RACK_THRESH", 8, 0, .rw, 192, .nat 0x80 0x180⟩]⟩,
  ⟨"TUN_LR_CFG", 0x40808, 1, 8, 32, [⟨"LR_REFRESH_STEPS", 15, 0, .rw, 0x100, .any⟩]⟩,
  ⟨"TUN_RACK_BASE", 0x40810, 1, 8, 64, [⟨"ADDR", 47, 32, .rw, 0, .any⟩]⟩,
  ⟨"TUN_RACK_PEND", 0x40818, 1, 8, 32, [⟨"OFF", 20, 0, .rw, 0x180000, .step 64 0x180000⟩]⟩,
  ⟨"TUN_STALE", 0x41000, 32, 8, 64, [⟨"STALE", 63, 0, .ro, 0, .any⟩]⟩,
  ⟨"TUN_RETIRED", 0x41100, 32, 8, 64, [⟨"RETIRED", 63, 0, .ro, 0, .any⟩]⟩]

/-- Block SPG (Table 20.2). -/
def regsSpg : List RegDef := [
  ⟨"SPG_FB_CFG", 0x50000, 1, 8, 32, [⟨"ESC_MIN", 31, 16, .rw, 0, .any⟩, ⟨"HOLD", 15, 8, .rw, 16, .nat 1 255⟩, ⟨"EN", 0, 0, .rw, 1, .any⟩]⟩,
  ⟨"SPG_FB_EXHAUST_STEPS", 0x50008, 1, 8, 32, [⟨"STEPS", 7, 0, .rw, 4, .nat 1 255⟩]⟩,
  ⟨"SPG_FB_STATUS", 0x50010, 1, 8, 64, [⟨"STREAK", 63, 48, .ro, 0, .any⟩, ⟨"DENIED", 31, 16, .ro, 0, .any⟩, ⟨"GRANTED", 15, 0, .ro, 0, .any⟩]⟩,
  ⟨"SPG_LSTAT_BASE", 0x50018, 1, 8, 64, [⟨"EN", 63, 63, .rw, 0, .any⟩, ⟨"ADDR", 47, 6, .rw, 0, .any⟩]⟩,
  ⟨"SPG_GRANT", 0x50400, 64, 8, 64, [⟨"GRANT", 63, 0, .ro, 0, .any⟩]⟩]

/-- Block KLN (Table 20.2). -/
def regsKln : List RegDef := [
  ⟨"KLN_CFG", 0x60000, 1, 8, 32, [⟨"EN", 31, 31, .rw, 1, .any⟩, ⟨"DT", 3, 0, .rw, 4, .nat 1 15⟩]⟩,
  ⟨"KLN_SLOT_FRAMES", 0x60008, 1, 8, 32, [⟨"MAX", 15, 0, .rw, 0x400, .nat 16 65535⟩]⟩,
  ⟨"KLN_REQ", 0x60010, 1, 8, 64, [⟨"BASIN", 63, 32, .wo, 0, .any⟩, ⟨"KIND", 1, 0, .wo, 0, .nat 1 2⟩]⟩,
  ⟨"KLN_TUN_SEL", 0x60018, 1, 8, 32, [⟨"TUN", 10, 0, .rw, 0, .any⟩]⟩,
  ⟨"KLN_TUN_STAT", 0x60020, 1, 8, 64, [⟨"RHO_MIN", 63, 48, .ro, 0, .any⟩, ⟨"DEG_REF", 35, 32, .ro, 0, .any⟩, ⟨"DEG_DATA", 25, 16, .ro, 0, .any⟩, ⟨"MEAS", 15, 0, .ro, 0, .any⟩]⟩,
  ⟨"KLN_STATUS", 0x60100, 32, 8, 64, [⟨"T_LAST", 63, 48, .ro, 0, .any⟩, ⟨"T_RUN", 47, 32, .ro, 0, .any⟩, ⟨"ACTIVE", 31, 30, .ro, 0, .any⟩, ⟨"PENDING", 29, 28, .ro, 0, .any⟩, ⟨"CURSOR", 27, 22, .ro, 0, .any⟩, ⟨"DONE", 6, 0, .ro, 0, .any⟩]⟩]

/-- Block NUM (Table 20.2). -/
def regsNum : List RegDef := [
  ⟨"NUM_MODE", 0x70000, 1, 8, 32, [⟨"ACTIVE", 5, 4, .ro, 0, .any⟩, ⟨"MODE", 1, 0, .rw, 0, .nat 0 2⟩]⟩,
  ⟨"NUM_OVF_POLICY", 0x70008, 1, 8, 32, [⟨"SAT_LOWER", 31, 8, .rw, 0x1000, .any⟩, ⟨"EFFECTIVE", 5, 4, .ro, 0, .any⟩, ⟨"POLICY", 1, 0, .rw, 0, .nat 0 2⟩]⟩,
  ⟨"NUM_SCALE_DIV", 0x70010, 1, 8, 32, [⟨"DIV", 4, 0, .rw, 2, .oneOf [2, 4, 8, 16]⟩]⟩,
  ⟨"NUM_LOSS_SCALE", 0x70018, 1, 8, 64, [⟨"GOOD", 63, 48, .rw, 0, .any⟩, ⟨"GROW_STEPS", 47, 32, .rw, 0x7d0, .any⟩, ⟨"MAX", 31, 24, .rw, 24, .any⟩, ⟨"MIN", 23, 16, .rw, 0, .any⟩, ⟨"EXP", 7, 0, .rw, 16, .any⟩]⟩,
  ⟨"NUM_LP_CFG", 0x70020, 1, 8, 64, [⟨"LP_UFL_MAX", 63, 48, .rw, 0x2000, .any⟩, ⟨"LP_SAT_MAX", 47, 32, .rw, 0x148, .any⟩, ⟨"MIN_COUNT", 31, 8, .rw, 0x1000, .any⟩, ⟨"EN", 0, 0, .rw, 1, .any⟩]⟩,
  ⟨"NUM_PARAM_BASE", 0x70028, 1, 8, 64, [⟨"EN", 63, 63, .rw, 0, .any⟩, ⟨"ADDR", 47, 6, .rw, 0, .any⟩]⟩,
  ⟨"NUM_LR_TABLE", 0x70030, 1, 8, 64, [⟨"LEN", 63, 48, .rw, 0, .any⟩, ⟨"ADDR", 47, 6, .rw, 0, .any⟩]⟩,
  ⟨"NUM_LR_EPOCH", 0x70038, 1, 8, 64, [⟨"EPOCH0", 63, 0, .rw, 0, .any⟩]⟩,
  ⟨"NUM_OPT_BETA", 0x70040, 1, 8, 64, [⟨"B2", 63, 32, .rw, 0x3f733333, .any⟩, ⟨"B1", 31, 0, .rw, 0x3f666666, .any⟩]⟩,
  ⟨"NUM_OPT_EPS_WD", 0x70048, 1, 8, 64, [⟨"WD", 63, 32, .rw, 0x3dcccccd, .any⟩, ⟨"EPS", 31, 0, .rw, 0x322bcc77, .any⟩]⟩,
  ⟨"NUM_OPT_GSCALE", 0x70050, 1, 8, 32, [⟨"GSCALE", 31, 0, .rw, 0x3f800000, .any⟩]⟩,
  ⟨"NUM_MON_BASE", 0x70058, 1, 8, 64, [⟨"EN", 63, 63, .rw, 0, .any⟩, ⟨"SIZE_LOG2", 52, 48, .rw, 12, .nat 8 20⟩, ⟨"ADDR", 47, 6, .rw, 0, .any⟩]⟩,
  ⟨"NUM_MON_HEAD", 0x70060, 1, 8, 64, [⟨"COUNT", 47, 0, .ro, 0, .any⟩]⟩,
  ⟨"MXC_ERR_LAST", 0x70800, 1, 8, 64, [⟨"TASK", 63, 32, .ro, 0, .any⟩, ⟨"PC", 31, 16, .ro, 0, .any⟩, ⟨"CAUSE", 15, 8, .ro, 0, .any⟩, ⟨"MXC", 6, 0, .ro, 0, .any⟩]⟩,
  ⟨"NUM_LP_ADJ", 0x71000, 256, 8, 64, [⟨"ADJ", 63, 0, .rw, 0, .nibbles⟩]⟩]

/-- Block RED (Table 20.2). -/
def regsRed : List RegDef := [
  ⟨"RED_SCALE_CFG", 0x80000, 1, 8, 32, [⟨"MARGIN", 11, 8, .rw, 2, .nat 0 8⟩, ⟨"MODE", 0, 0, .rw, 0, .any⟩]⟩,
  ⟨"RED_SLACK", 0x80008, 1, 8, 32, [⟨"SLACK", 15, 0, .rw, 100, .nat 1 65535⟩]⟩,
  ⟨"RED_STEP_CFG", 0x80010, 1, 8, 32, [⟨"REPEAT_MAX", 3, 0, .rw, 3, .any⟩]⟩,
  ⟨"RED_TOKEN_CFG", 0x80018, 1, 8, 64, [⟨"START", 63, 48, .rw, 0x1f4, .nat 1 65535⟩, ⟨"HOP", 47, 40, .rw, 25, .nat 1 255⟩, ⟨"LAYERS", 12, 0, .rw, 64, .nat 1 4096⟩]⟩,
  ⟨"RED_TREE", 0x80020, 1, 8, 64, [⟨"DEVICES", 63, 51, .ro, 0, .any⟩, ⟨"DEPTH_MAX", 47, 40, .ro, 0, .any⟩, ⟨"DEPTH", 39, 32, .ro, 0, .any⟩, ⟨"CHILDREN", 31, 16, .ro, 0, .any⟩, ⟨"BACKUP_PORT", 15, 8, .ro, 255, .any⟩, ⟨"UP_PORT", 7, 0, .ro, 255, .any⟩]⟩,
  ⟨"RED_STEP_STATE", 0x80028, 1, 8, 64, [⟨"REPLAYS", 63, 48, .ro, 0, .any⟩, ⟨"OUTCOME", 47, 40, .ro, 0, .any⟩, ⟨"REASON", 39, 32, .ro, 0, .any⟩, ⟨"MASK", 31, 24, .ro, 0, .any⟩, ⟨"REPEATS", 23, 20, .ro, 0, .any⟩, ⟨"HOLD_CAUSE", 19, 16, .ro, 0, .any⟩]⟩,
  ⟨"RED_SCALE_BASE", 0x80030, 1, 8, 64, [⟨"BUCKETS", 63, 48, .rw, 0, .any⟩, ⟨"ADDR", 47, 6, .rw, 0, .any⟩]⟩,
  ⟨"RED_EPOCH", 0x80038, 1, 8, 64, [⟨"EPOCH", 63, 0, .ro, 0, .any⟩]⟩]

/-- Block PND (Table 20.2). -/
def regsPnd : List RegDef := [
  ⟨"PND_STATUS", 0x90000, 1, 8, 32, [⟨"POUND", 31, 16, .ro, 0, .any⟩, ⟨"CAUSE", 7, 4, .ro, 0, .any⟩, ⟨"HALTED", 0, 0, .ro, 0, .any⟩]⟩,
  ⟨"PND_HOST_WIN", 0x90008, 1, 8, 64, [⟨"BASE", 63, 12, .rw, 0, .any⟩]⟩,
  ⟨"PND_HOST_SIZE", 0x90010, 1, 8, 32, [⟨"PAGES", 31, 0, .rw, 0, .any⟩]⟩,
  ⟨"PND_PERM_CFG", 0x90018, 1, 8, 32, [⟨"TMO_MS", 15, 0, .rw, 0x2710, .nat 1 65535⟩]⟩,
  ⟨"PND_PERM_STATUS", 0x90020, 1, 8, 64, [⟨"IN_BYTES", 63, 16, .ro, 0, .any⟩, ⟨"STATE", 1, 0, .ro, 0, .any⟩]⟩,
  ⟨"PND_STAGE_LAST", 0x90028, 1, 8, 64, [⟨"EPOCH", 63, 16, .ro, 0, .any⟩, ⟨"RUNS", 7, 0, .ro, 0, .any⟩]⟩,
  ⟨"PND_SEL", 0x90030, 1, 8, 32, [⟨"DIR", 16, 16, .rw, 0, .any⟩, ⟨"POUND", 9, 0, .rw, 0, .any⟩]⟩,
  ⟨"PND_POUND_STAT", 0x90038, 1, 8, 64, [⟨"SEQ", 63, 48, .ro, 0, .any⟩, ⟨"FILLED", 47, 32, .ro, 0, .any⟩, ⟨"CREDITS", 31, 24, .ro, 0, .any⟩]⟩]

/-- Block FAB (Table 20.2). -/
def regsFab : List RegDef := [
  ⟨"FAB_CFG", 0xa0000, 1, 8, 32, [⟨"AUTO_RETRAIN", 31, 31, .rw, 1, .any⟩, ⟨"RETRAIN_MS", 30, 16, .rw, 100, .nat 10 32767⟩, ⟨"DISC_TMO", 15, 0, .rw, 0x7d0, .nat 1 65535⟩]⟩,
  ⟨"FAB_LINK_CFG", 0xa0008, 1, 8, 32, [⟨"DRIFT", 23, 16, .rw, 5, .nat 1 255⟩, ⟨"REPLAY_MAX", 15, 12, .rw, 8, .nat 1 15⟩, ⟨"ACK_TMO", 11, 0, .rw, 200, .nat 100 4095⟩]⟩,
  ⟨"FAB_COORD", 0xa0010, 1, 8, 64, [⟨"VALID", 63, 63, .ro, 0, .any⟩, ⟨"ADDR", 43, 32, .ro, 0, .any⟩, ⟨"X", 31, 24, .ro, 0, .any⟩, ⟨"D", 23, 16, .ro, 0, .any⟩, ⟨"S", 15, 8, .ro, 0, .any⟩, ⟨"P", 7, 0, .ro, 0, .any⟩]⟩,
  ⟨"FAB_SHAPE", 0xa0018, 1, 8, 32, [⟨"X", 31, 24, .ro, 0, .any⟩, ⟨"D", 23, 16, .ro, 0, .any⟩, ⟨"S", 15, 8, .ro, 0, .any⟩, ⟨"P", 7, 0, .ro, 0, .any⟩]⟩,
  ⟨"FAB_DISC_STATUS", 0xa0020, 1, 8, 64, [⟨"MAX_LAT", 63, 32, .ro, 0, .any⟩, ⟨"CODE", 23, 16, .ro, 0, .any⟩, ⟨"STATE", 2, 0, .ro, 0, .any⟩]⟩,
  ⟨"FAB_PORT_CTL", 0xa0100, 16, 8, 32, [⟨"RETRAIN", 1, 1, .wo, 0, .any⟩, ⟨"EN", 0, 0, .rw, 1, .any⟩]⟩,
  ⟨"FAB_PORT_STATUS", 0xa0200, 16, 8, 64, [⟨"LAT", 63, 32, .ro, 0, .any⟩, ⟨"NBR_PORT", 27, 24, .ro, 0, .any⟩, ⟨"LONG", 20, 20, .ro, 0, .any⟩, ⟨"ROLE", 19, 18, .ro, 0, .any⟩, ⟨"PARENT", 17, 17, .ro, 0, .any⟩, ⟨"STATE", 2, 0, .ro, 0, .any⟩]⟩]

/-- Block MEM (Table 20.2). -/
def regsMem : List RegDef := [
  ⟨"MEM_CFG", 0xc0000, 1, 8, 32, [⟨"SPLIT", 5, 0, .rw, 0, .nat 0 36⟩]⟩,
  ⟨"MEM_TRAIN_STATUS", 0xc0008, 1, 8, 64, [⟨"FAIL", 47, 24, .ro, 0, .any⟩, ⟨"DONE", 23, 0, .ro, 0, .any⟩]⟩,
  ⟨"MEM_UNCORR_LAST", 0xc0010, 1, 8, 64, [⟨"CLASS", 63, 60, .ro, 0, .any⟩, ⟨"SOURCE", 59, 56, .ro, 0, .any⟩, ⟨"STACK", 55, 48, .ro, 0, .any⟩, ⟨"ADDR", 47, 0, .ro, 0, .any⟩]⟩,
  ⟨"MEM_REFRESH", 0xc0018, 1, 8, 32, [⟨"DOUBLED", 23, 0, .ro, 0, .any⟩]⟩,
  ⟨"MEM_HBM_TEMP", 0xc0100, 24, 8, 32, [⟨"TEMP", 7, 0, .ro, 0, .any⟩]⟩]

/-- Block MBX (Table 20.2). -/
def regsMbx : List RegDef := [
  ⟨"MBX_LOCK", 0xd0000, 1, 8, 32, [⟨"LOCK", 0, 0, .wo, 0, .any⟩]⟩,
  ⟨"MBX_STATUS", 0xd0008, 1, 8, 32, [⟨"LOCKED", 31, 31, .ro, 0, .any⟩, ⟨"FW", 26, 24, .ro, 0, .any⟩, ⟨"CASK", 17, 16, .ro, 0, .any⟩, ⟨"BANK", 0, 0, .ro, 0, .any⟩]⟩,
  ⟨"MBX_VER", 0xd0010, 1, 8, 64, [⟨"FW_MAJOR", 63, 48, .ro, 0, .any⟩, ⟨"FW_MINOR", 47, 32, .ro, 0, .any⟩, ⟨"DRV_MAJOR", 31, 16, .ro, 0, .any⟩, ⟨"DRV_MINOR", 15, 0, .ro, 0, .any⟩]⟩,
  ⟨"MBX_CASK_VER", 0xd0018, 1, 8, 32, [⟨"SUPPORTED", 31, 16, .ro, 0, .any⟩, ⟨"FOUND", 15, 0, .ro, 0, .any⟩]⟩,
  ⟨"MBX_TMO", 0xd0020, 1, 8, 32, [⟨"TMO", 15, 0, .rwl, 100, .nat 1 65535⟩]⟩,
  ⟨"MBX_UPD_CFG", 0xd0028, 1, 8, 32, [⟨"DELAY", 23, 0, .rw, 0xf424, .nat 1 16777215⟩]⟩,
  ⟨"MBX_HOST_PEND", 0xd0030, 1, 8, 64, [⟨"PEND", 63, 0, .ro, 0, .any⟩]⟩,
  ⟨"MBX_FW_REGION", 0xd0038, 1, 8, 64, [⟨"BASE", 47, 30, .ro, 0, .any⟩]⟩,
  ⟨"MBX_LOG_HEAD", 0xd0040, 1, 8, 64, [⟨"COUNT", 47, 0, .ro, 0, .any⟩]⟩,
  ⟨"MBX_TRACE_HEAD", 0xd0048, 1, 8, 64, [⟨"COUNT", 47, 0, .ro, 0, .any⟩]⟩,
  ⟨"MBX_TRACE_MASK", 0xd0080, 4, 8, 64, [⟨"EN", 63, 0, .rw, 0, .any⟩]⟩,
  ⟨"MBX_BIND", 0xd0400, 64, 8, 32, [⟨"EN", 31, 31, .rwl, 0, .any⟩, ⟨"OSTEMU", 30, 30, .rwl, 0, .any⟩, ⟨"END_B", 15, 8, .rwl, 0, .oneOf masterIds⟩, ⟨"END_A", 7, 0, .rwl, 0, .oneOf masterIds⟩]⟩,
  ⟨"MBX_TX", 0xd1000, 64, 16, 32, [⟨"WORD", 31, 0, .wo, 0, .any⟩]⟩,
  ⟨"MBX_RX", 0xd1008, 64, 16, 32, [⟨"WORD", 31, 0, .ro, 0, .any⟩]⟩,
  ⟨"MBX_CH_STAT", 0xd2000, 64, 8, 32, [⟨"DEAD", 31, 31, .ro, 0, .any⟩, ⟨"TMO_A", 30, 30, .ro, 0, .any⟩, ⟨"TMO_B", 29, 29, .ro, 0, .any⟩, ⟨"MSG_AB", 28, 28, .ro, 0, .any⟩, ⟨"MSG_BA", 27, 27, .ro, 0, .any⟩, ⟨"FREE_AB", 23, 20, .ro, 8, .any⟩, ⟨"FREE_BA", 19, 16, .ro, 8, .any⟩]⟩]

/-- Block FLT (Table 20.2). -/
def regsFlt : List RegDef := [
  ⟨"FLT_STK0", 0xe0000, 1, 8, 64, [⟨"MBX_DENIED", 22, 22, .w1c, 0, .any⟩, ⟨"TEST_FAIL", 21, 21, .w1c, 0, .any⟩, ⟨"VERSION_REFUSED", 20, 20, .w1c, 0, .any⟩, ⟨"FW_DEAD", 19, 19, .w1c, 0, .any⟩, ⟨"PARTITION", 18, 18, .w1c, 0, .any⟩, ⟨"LINK_LOST", 17, 17, .w1c, 0, .any⟩, ⟨"TUN_RETIRED", 16, 16, .w1c, 0, .any⟩, ⟨"KILN_STALE", 15, 15, .w1c, 0, .any⟩, ⟨"UNCORR_MEM", 14, 14, .w1c, 0, .any⟩, ⟨"SENTINEL_TRANS", 13, 13, .w1c, 0, .any⟩, ⟨"SENTINEL_PERM", 12, 12, .w1c, 0, .any⟩, ⟨"STEP_REPEAT_LIMIT", 11, 11, .w1c, 0, .any⟩, ⟨"OVF_SAT", 10, 10, .w1c, 0, .any⟩, ⟨"OVF_SKIP", 9, 9, .w1c, 0, .any⟩, ⟨"LP_TROUBLE", 8, 8, .w1c, 0, .any⟩, ⟨"SCALE_FAULT", 7, 7, .w1c, 0, .any⟩, ⟨"ADC_SAT", 6, 6, .w1c, 0, .any⟩, ⟨"WEIR", 5, 5, .w1c, 0, .any⟩, ⟨"FALLBACK_EXHAUSTED", 4, 4, .w1c, 0, .any⟩, ⟨"SHARD_VER", 3, 3, .w1c, 0, .any⟩, ⟨"STAGE_OVERRUN", 2, 2, .w1c, 0, .any⟩, ⟨"POUND_CREDIT", 1, 1, .w1c, 0, .any⟩, ⟨"FRAME_OVERRUN", 0, 0, .w1c, 0, .any⟩]⟩,
  ⟨"FLT_CFG", 0xe0008, 1, 8, 32, [⟨"TPACK_LOG2", 15, 12, .rw, 4, .any⟩, ⟨"TUN_ACTION", 5, 4, .rw, 1, .nat 0 2⟩, ⟨"MXC_ACTION", 0, 0, .rw, 1, .any⟩]⟩,
  ⟨"FLT_ALERT_MASK", 0xe0010, 1, 8, 64, [⟨"MASK", 23, 0, .rw, 0xc5802, .any⟩]⟩,
  ⟨"FLT_WDOG", 0xe0018, 1, 8, 32, [⟨"KICK", 7, 0, .wo, 0, .any⟩]⟩,
  ⟨"FLT_WDOG_STATUS", 0xe0020, 1, 8, 32, [⟨"ARMED", 31, 31, .ro, 0, .any⟩, ⟨"EXPIRED", 30, 30, .ro, 0, .any⟩, ⟨"FROZEN", 29, 29, .ro, 0, .any⟩, ⟨"REMAIN", 15, 0, .ro, 0, .any⟩]⟩,
  ⟨"FLT_SENT_LAST", 0xe0028, 1, 8, 64, [⟨"EPOCH", 63, 32, .ro, 0, .any⟩, ⟨"PACK", 31, 31, .ro, 0, .any⟩, ⟨"CAUSE", 30, 28, .ro, 0, .any⟩, ⟨"RESULT", 27, 26, .ro, 0, .any⟩, ⟨"CLASS", 25, 24, .ro, 0, .any⟩, ⟨"UNIT", 10, 0, .ro, 0, .any⟩]⟩,
  ⟨"FLT_TPACK_STATUS", 0xe0030, 1, 8, 64, [⟨"PACK_ID", 63, 32, .ro, 0, .any⟩, ⟨"PASSES", 31, 16, .ro, 0, .any⟩, ⟨"STATE", 1, 0, .ro, 0, .any⟩]⟩,
  ⟨"FLT_LEDGER_STAT", 0xe0038, 1, 8, 64, [⟨"SEQ", 63, 8, .ro, 0, .any⟩, ⟨"NEWEST", 1, 0, .ro, 3, .any⟩]⟩,
  ⟨"FLT_MXC_FAULT", 0xe0100, 2, 8, 64, [⟨"FAULT", 63, 0, .ro, 0, .any⟩]⟩,
  ⟨"FLT_TUN_FAULT", 0xe0200, 32, 8, 64, [⟨"FAULT", 63, 0, .ro, 0, .any⟩]⟩]

/-- Block GAU (Table 20.2). -/
def regsGau : List RegDef := [
  ⟨"GAU_CTL", 0xf0000, 1, 8, 32, [⟨"PWR", 31, 31, .rw, 1, .any⟩]⟩,
  ⟨"GAU_CONV", 0xf0008, 2, 8, 64, [⟨"EXT_MV", 63, 48, .rw, 0x4b0, .nat 500 1800⟩, ⟨"NOTCH_L", 39, 24, .rw, 0, .zeroOr 2 65535⟩, ⟨"REF", 1, 0, .rw, 0, .nat 0 2⟩]⟩,
  ⟨"GAU_STATUS", 0xf0018, 2, 8, 32, [⟨"BUSY", 31, 31, .ro, 0, .any⟩, ⟨"REF_SETTLING", 30, 30, .ro, 1, .any⟩, ⟨"URGENT", 29, 29, .ro, 0, .any⟩, ⟨"LIST", 9, 8, .ro, 0, .any⟩, ⟨"ENTRY", 4, 0, .ro, 0, .any⟩]⟩,
  ⟨"GAU_ALARM", 0xf0030, 2, 8, 64, [⟨"ALARM", 63, 0, .ro, 0, .any⟩]⟩,
  ⟨"GAU_RCM_SEL", 0xf0040, 8, 8, 32, [⟨"TUN", 7, 0, .rw, 0, .any⟩]⟩,
  ⟨"GAU_POUND_SEL", 0xf0080, 16, 8, 32, [⟨"EN", 31, 31, .rw, 0, .any⟩, ⟨"POUND", 9, 0, .rw, 0, .any⟩]⟩,
  ⟨"GAU_URG", 0xf0500, 2, 8, 64, [⟨"GO", 63, 63, .wo, 0, .any⟩, ⟨"ORDER", 62, 60, .rw, 3, .nat 1 5⟩, ⟨"N", 54, 40, .rw, 0x100, .nat 64 16384⟩, ⟨"CHAN", 6, 0, .rw, 0, .any⟩]⟩,
  ⟨"GAU_URG_RESULT", 0xf0510, 2, 8, 64, [⟨"DONE", 63, 63, .ro, 0, .any⟩, ⟨"RS", 62, 62, .ro, 0, .any⟩, ⟨"CHAN", 30, 24, .ro, 0, .any⟩, ⟨"VALUE", 23, 0, .ro, 0, .any⟩]⟩,
  ⟨"GAU_MON_SEL", 0xf0600, 1, 8, 32, [⟨"CLR", 31, 31, .wo, 0, .any⟩, ⟨"CLR_ALL", 30, 30, .wo, 0, .any⟩, ⟨"MON", 7, 0, .rw, 0, .nat 0 129⟩]⟩,
  ⟨"GAU_MON_CFG", 0xf0608, 1, 8, 64, [⟨"BASE", 63, 32, .rw, 512, .any⟩, ⟨"W", 4, 0, .rw, 5, .any⟩]⟩,
  ⟨"GAU_MON_MINMAX", 0xf0610, 1, 8, 64, [⟨"MAX", 63, 32, .ro, 0x80000000, .any⟩, ⟨"MIN", 31, 0, .ro, 0x7fffffff, .any⟩]⟩,
  ⟨"GAU_MON_COUNT", 0xf0618, 1, 8, 64, [⟨"COUNT", 47, 0, .ro, 0, .any⟩]⟩,
  ⟨"GAU_MON_HIST", 0xf0700, 32, 8, 64, [⟨"COUNT", 47, 0, .ro, 0, .any⟩]⟩,
  ⟨"GAU_RESULT", 0xf0800, 96, 8, 64, [⟨"SEQ", 63, 48, .ro, 0, .any⟩, ⟨"STALE", 47, 47, .ro, 0, .any⟩, ⟨"RS", 46, 46, .ro, 0, .any⟩, ⟨"VALUE", 23, 0, .ro, 0, .any⟩]⟩,
  ⟨"GAU_THRESH", 0xf0c00, 96, 8, 64, [⟨"HI", 63, 40, .rw, 0x7fffff, .any⟩, ⟨"LO", 39, 16, .rw, 0x800000, .any⟩, ⟨"HYST", 15, 0, .rw, 0, .any⟩]⟩,
  ⟨"GAU_SCAN", 0xf1000, 4, 256, 64, [⟨"EN", 63, 63, .rw, 0, .any⟩, ⟨"CONV", 62, 62, .rw, 0, .any⟩, ⟨"ORDER", 61, 59, .rw, 3, .nat 1 5⟩, ⟨"N", 54, 40, .rw, 0x100, .nat 64 16384⟩, ⟨"COUNT", 37, 32, .rw, 1, .nat 1 32⟩, ⟨"PERIOD", 23, 0, .rw, 0x7d0, .any⟩]⟩,
  ⟨"GAU_SCAN_ENT[0]", 0xf1008, 4, 8, 64, [⟨"CHAN", 63, 0, .rw, 0, .any⟩]⟩,
  ⟨"GAU_SCAN_ENT[1]", 0xf1108, 4, 8, 64, [⟨"CHAN", 63, 0, .rw, 0, .any⟩]⟩,
  ⟨"GAU_SCAN_ENT[2]", 0xf1208, 4, 8, 64, [⟨"CHAN", 63, 0, .rw, 0, .any⟩]⟩,
  ⟨"GAU_SCAN_ENT[3]", 0xf1308, 4, 8, 64, [⟨"CHAN", 63, 0, .rw, 0, .any⟩]⟩]

/-- Block PWR (Table 20.2). -/
def regsPwr : List RegDef := [
  ⟨"PWR_CAP", 0x100000, 1, 8, 32, [⟨"CAP", 7, 0, .rw, 200, .nat 50 200⟩]⟩,
  ⟨"PWR_STATUS", 0x100008, 1, 8, 64, [⟨"STEP_AVG", 63, 48, .ro, 0, .any⟩, ⟨"FRAME_MAX", 47, 32, .ro, 0, .any⟩, ⟨"HOT", 1, 1, .ro, 0, .any⟩, ⟨"OVER", 0, 0, .ro, 0, .any⟩]⟩,
  ⟨"PWR_THERM_CFG", 0x100010, 1, 8, 32, [⟨"HOLD_L", 23, 16, .rw, 110, .nat 90 115⟩, ⟨"HOLD_A", 7, 0, .rw, 100, .nat 80 105⟩]⟩,
  ⟨"PWR_THERM_STATUS", 0x100018, 1, 8, 32, [⟨"HOLD_ACTIVE", 31, 31, .ro, 0, .any⟩, ⟨"DIODE", 6, 0, .ro, 0, .any⟩]⟩,
  ⟨"PWR_RESET_CAUSE", 0x100020, 1, 8, 32, [⟨"ESC_CAUSE", 23, 20, .ro, 0, .any⟩, ⟨"RAIL", 19, 16, .ro, 0, .any⟩, ⟨"PREV", 7, 4, .ro, 0, .any⟩, ⟨"CAUSE", 3, 0, .ro, 0, .any⟩]⟩,
  ⟨"PWR_START_STAT", 0x100028, 1, 8, 64, [⟨"DUR_MS", 63, 32, .ro, 0, .any⟩, ⟨"LAST_STAGE", 15, 12, .ro, 0, .any⟩, ⟨"KIND", 1, 0, .ro, 0, .any⟩]⟩,
  ⟨"PWR_VAR_PWR", 0x100100, 8, 8, 32, [⟨"WATTS", 15, 0, .ro, 0, .any⟩]⟩]

/-- Block SEC (Table 20.2). -/
def regsSec : List RegDef := [
  ⟨"SEC_ROOT", 0x110000, 8, 8, 64, [⟨"DIGEST", 63, 0, .ro, 0, .any⟩]⟩,
  ⟨"SEC_SVN", 0x110040, 1, 8, 32, [⟨"RUN", 23, 16, .ro, 0, .any⟩, ⟨"CERT_MIN", 15, 8, .ro, 0, .any⟩, ⟨"FW_MIN", 7, 0, .ro, 0, .any⟩]⟩,
  ⟨"SEC_CFG", 0x110048, 1, 8, 32, [⟨"IDE_REQ", 0, 0, .rwl, 0, .any⟩]⟩,
  ⟨"SEC_LOCK", 0x110050, 1, 8, 32, [⟨"LOCK", 0, 0, .wo, 0, .any⟩]⟩,
  ⟨"SEC_AUTH_LAST", 0x110058, 1, 8, 64, [⟨"KEY_ID", 63, 32, .ro, 0, .any⟩, ⟨"SVN", 31, 24, .ro, 0, .any⟩, ⟨"CODE", 15, 8, .ro, 0, .any⟩, ⟨"KIND", 7, 0, .ro, 0, .any⟩]⟩,
  ⟨"SEC_STATUS", 0x110060, 1, 8, 32, [⟨"SESSIONS", 3, 2, .ro, 0, .any⟩, ⟨"IDE", 1, 0, .ro, 0, .any⟩]⟩,
  ⟨"SEC_FP_DIGEST", 0x110080, 8, 8, 64, [⟨"DIGEST", 63, 0, .ro, 0, .any⟩]⟩]

/-- Every register of Table 20.2. -/
def regTable : List RegDef :=
  regsDev ++ regsHif ++ regsFrm ++ regsTun ++ regsSpg ++ regsKln ++ regsNum ++ regsRed ++ regsPnd ++ regsFab ++ regsMem ++ regsMbx ++ regsFlt ++ regsGau ++ regsPwr ++ regsSec

/-- Does this register (or array) have an element at BAR0 offset `off`? -/
def RegDef.has (r : RegDef) (off : Nat) : Bool :=
  r.off ≤ off && off < r.off + r.stride * r.count && (off - r.off) % r.stride == 0

/-- The register at a BAR0 offset; none where no field map defines one (R12, R478). -/
def regAt (off : Nat) : Option RegDef := regTable.find? fun r => r.has off

/-- A field of a register: the register's BAR0 offset, the field's lowest bit and its width. -/
structure Field where
  off : Nat
  lo : Nat
  w : Nat
  deriving DecidableEq, Repr

/-- The key under which State holds a field. -/
def Field.key (f : Field) : Nat := f.off * 64 + f.lo

/-- The reset value of the field with this key (R14); 0 where no field map names one. -/
def fieldReset (key : Nat) : Nat :=
  match regAt (key / 64) with
  | none => 0
  | some r => match r.fields.find? fun f => f.lo == key % 64 with
    | none => 0
    | some f => f.rst

namespace Reg

def DEV_ID_PART : Field := ⟨0x0, 16, 16⟩
def DEV_ID_REV_MAJ : Field := ⟨0x0, 12, 4⟩
def DEV_ID_REV_MIN : Field := ⟨0x0, 8, 4⟩
def DEV_CAP_TUNS : Field := ⟨0x8, 52, 12⟩
def DEV_CAP_MXCS : Field := ⟨0x8, 44, 8⟩
def DEV_CAP_STACKS : Field := ⟨0x8, 38, 6⟩
def DEV_CAP_PORTS : Field := ⟨0x8, 32, 6⟩
def DEV_CAP_VSLOTS : Field := ⟨0x8, 24, 8⟩
def DEV_CAP_MBX_CH : Field := ⟨0x8, 16, 8⟩
def DEV_CAP_GAU_CH : Field := ⟨0x8, 8, 8⟩
def DEV_BLOCKS_PRESENT : Field := ⟨0x10, 0, 18⟩
def DEV_SCRATCH_VALUE : Field := ⟨0x18, 0, 64⟩
def HIF_STATE_STAGE : Field := ⟨0x10000, 12, 4⟩
def HIF_STATE_HELLO : Field := ⟨0x10000, 8, 1⟩
def HIF_STATE_STATE : Field := ⟨0x10000, 0, 4⟩
def HIF_IF_VER_MAJOR : Field := ⟨0x10008, 16, 16⟩
def HIF_IF_VER_MINOR : Field := ⟨0x10008, 0, 16⟩
def HIF_ASQ_BASE : Field := ⟨0x10010, 12, 52⟩
def HIF_ACQ_BASE : Field := ⟨0x10018, 12, 52⟩
def HIF_ADMIN_CFG_EN : Field := ⟨0x10020, 31, 1⟩
def HIF_ADMIN_CFG_ACQ_LOG2 : Field := ⟨0x10020, 16, 5⟩
def HIF_ADMIN_CFG_ASQ_LOG2 : Field := ⟨0x10020, 8, 5⟩
def HIF_BAR4_BASE_BASE : Field := ⟨0x10028, 30, 18⟩
def HIF_LINK_RATE : Field := ⟨0x10030, 8, 3⟩
def HIF_LINK_WIDTH : Field := ⟨0x10030, 3, 5⟩
def HIF_LINK_IDE : Field := ⟨0x10030, 1, 1⟩
def HIF_LINK_FLIT : Field := ⟨0x10030, 0, 1⟩
def FRM_PERIOD_CYCLES : Field := ⟨0x20000, 0, 18⟩
def FRM_STATUS_ARMED : Field := ⟨0x20008, 16, 8⟩
def FRM_STATUS_ACTIVE : Field := ⟨0x20008, 8, 8⟩
def FRM_STATUS_HOLD_TICK : Field := ⟨0x20008, 5, 1⟩
def FRM_STATUS_ORIGIN : Field := ⟨0x20008, 4, 1⟩
def FRM_STATUS_TICK_SRC : Field := ⟨0x20008, 2, 2⟩
def FRM_STATUS_TICK_STATE : Field := ⟨0x20008, 0, 2⟩
def FRM_TICK_CFG_EXT_SRC : Field := ⟨0x20010, 31, 1⟩
def FRM_TICK_CFG_MISS_MAX : Field := ⟨0x20010, 28, 3⟩
def FRM_TICK_CFG_WIN : Field := ⟨0x20010, 16, 8⟩
def FRM_TICK_CFG_LEAD : Field := ⟨0x20010, 0, 16⟩
def FRM_TICK_NUM_NUM : Field := ⟨0x20018, 0, 48⟩
def FRM_STEP_POS_STEP_FRAMES : Field := ⟨0x20020, 32, 32⟩
def FRM_STEP_POS_FRAME : Field := ⟨0x20020, 0, 32⟩
def FRM_SLACK_STEP_MIN : Field := ⟨0x20028, 32, 32⟩
def FRM_SLACK_LAST : Field := ⟨0x20028, 0, 32⟩
def FRM_SLACK_UNIT_KIND : Field := ⟨0x20030, 24, 4⟩
def FRM_SLACK_UNIT_CLASS : Field := ⟨0x20030, 16, 8⟩
def FRM_SLACK_UNIT_SUB : Field := ⟨0x20030, 8, 8⟩
def FRM_SLACK_UNIT_INDEX : Field := ⟨0x20030, 0, 8⟩
def FRM_LOAD_ERR_SEGMENT : Field := ⟨0x20038, 32, 32⟩
def FRM_LOAD_ERR_SLOT : Field := ⟨0x20038, 8, 8⟩
def FRM_LOAD_ERR_CODE : Field := ⟨0x20038, 0, 8⟩
def FRM_VAR_INFO_STEP_FRAMES (i : Nat) : Field := ⟨0x20100 + 8 * i, 32, 32⟩
def FRM_VAR_INFO_PERIOD (i : Nat) : Field := ⟨0x20100 + 8 * i, 14, 18⟩
def FRM_VAR_INFO_KIND (i : Nat) : Field := ⟨0x20100 + 8 * i, 12, 2⟩
def FRM_VAR_INFO_VALID (i : Nat) : Field := ⟨0x20100 + 8 * i, 0, 1⟩
def TUN_RM_CFG_EN : Field := ⟨0x40000, 31, 1⟩
def TUN_RM_CFG_WINDOW_LOG2 : Field := ⟨0x40000, 16, 4⟩
def TUN_RM_CFG_HIST_BASE : Field := ⟨0x40000, 8, 8⟩
def TUN_RM_CFG_HIST_WIDTH_LOG2 : Field := ⟨0x40000, 0, 2⟩
def TUN_RM_BAND_SAT_FRAC_MAX : Field := ⟨0x40008, 48, 16⟩
def TUN_RM_BAND_REF_RMS_MAX : Field := ⟨0x40008, 32, 16⟩
def TUN_RM_BAND_REF_MEAN_MAX : Field := ⟨0x40008, 16, 16⟩
def TUN_RM_BAND_REF_GAIN_MAX : Field := ⟨0x40008, 0, 16⟩
def TUN_RM_LAST_SAT : Field := ⟨0x40010, 31, 1⟩
def TUN_RM_LAST_RMS : Field := ⟨0x40010, 30, 1⟩
def TUN_RM_LAST_MEAN : Field := ⟨0x40010, 29, 1⟩
def TUN_RM_LAST_GAIN : Field := ⟨0x40010, 28, 1⟩
def TUN_RM_LAST_TUN : Field := ⟨0x40010, 0, 11⟩
def TUN_HIST_SEL_TUN : Field := ⟨0x40018, 0, 11⟩
def TUN_HIST_MINMAX_SEQ : Field := ⟨0x40020, 16, 16⟩
def TUN_HIST_MINMAX_MAX : Field := ⟨0x40020, 8, 8⟩
def TUN_HIST_MINMAX_MIN : Field := ⟨0x40020, 0, 8⟩
def TUN_REF_STAT_SAT_FRAC : Field := ⟨0x40028, 48, 16⟩
def TUN_REF_STAT_RMS : Field := ⟨0x40028, 32, 16⟩
def TUN_REF_STAT_MEAN : Field := ⟨0x40028, 16, 16⟩
def TUN_REF_STAT_GAIN : Field := ⟨0x40028, 0, 16⟩
def TUN_HIST_COUNT (i : Nat) : Field := ⟨0x40100 + 8 * i, 0, 48⟩
def TUN_RACK_CFG_EN : Field := ⟨0x40800, 31, 1⟩
def TUN_RACK_CFG_RACK_MIN_STEPS : Field := ⟨0x40800, 16, 8⟩
def TUN_RACK_CFG_RACK_THRESH : Field := ⟨0x40800, 0, 9⟩
def TUN_LR_CFG_LR_REFRESH_STEPS : Field := ⟨0x40808, 0, 16⟩
def TUN_RACK_BASE_ADDR : Field := ⟨0x40810, 32, 16⟩
def TUN_RACK_PEND_OFF : Field := ⟨0x40818, 0, 21⟩
def TUN_STALE_STALE (i : Nat) : Field := ⟨0x41000 + 8 * i, 0, 64⟩
def TUN_RETIRED_RETIRED (i : Nat) : Field := ⟨0x41100 + 8 * i, 0, 64⟩
def SPG_FB_CFG_ESC_MIN : Field := ⟨0x50000, 16, 16⟩
def SPG_FB_CFG_HOLD : Field := ⟨0x50000, 8, 8⟩
def SPG_FB_CFG_EN : Field := ⟨0x50000, 0, 1⟩
def SPG_FB_EXHAUST_STEPS_STEPS : Field := ⟨0x50008, 0, 8⟩
def SPG_FB_STATUS_STREAK : Field := ⟨0x50010, 48, 16⟩
def SPG_FB_STATUS_DENIED : Field := ⟨0x50010, 16, 16⟩
def SPG_FB_STATUS_GRANTED : Field := ⟨0x50010, 0, 16⟩
def SPG_LSTAT_BASE_EN : Field := ⟨0x50018, 63, 1⟩
def SPG_LSTAT_BASE_ADDR : Field := ⟨0x50018, 6, 42⟩
def SPG_GRANT_GRANT (i : Nat) : Field := ⟨0x50400 + 8 * i, 0, 64⟩
def KLN_CFG_EN : Field := ⟨0x60000, 31, 1⟩
def KLN_CFG_DT : Field := ⟨0x60000, 0, 4⟩
def KLN_SLOT_FRAMES_MAX : Field := ⟨0x60008, 0, 16⟩
def KLN_REQ_BASIN : Field := ⟨0x60010, 32, 32⟩
def KLN_REQ_KIND : Field := ⟨0x60010, 0, 2⟩
def KLN_TUN_SEL_TUN : Field := ⟨0x60018, 0, 11⟩
def KLN_TUN_STAT_RHO_MIN : Field := ⟨0x60020, 48, 16⟩
def KLN_TUN_STAT_DEG_REF : Field := ⟨0x60020, 32, 4⟩
def KLN_TUN_STAT_DEG_DATA : Field := ⟨0x60020, 16, 10⟩
def KLN_TUN_STAT_MEAS : Field := ⟨0x60020, 0, 16⟩
def KLN_STATUS_T_LAST (i : Nat) : Field := ⟨0x60100 + 8 * i, 48, 16⟩
def KLN_STATUS_T_RUN (i : Nat) : Field := ⟨0x60100 + 8 * i, 32, 16⟩
def KLN_STATUS_ACTIVE (i : Nat) : Field := ⟨0x60100 + 8 * i, 30, 2⟩
def KLN_STATUS_PENDING (i : Nat) : Field := ⟨0x60100 + 8 * i, 28, 2⟩
def KLN_STATUS_CURSOR (i : Nat) : Field := ⟨0x60100 + 8 * i, 22, 6⟩
def KLN_STATUS_DONE (i : Nat) : Field := ⟨0x60100 + 8 * i, 0, 7⟩
def NUM_MODE_ACTIVE : Field := ⟨0x70000, 4, 2⟩
def NUM_MODE_MODE : Field := ⟨0x70000, 0, 2⟩
def NUM_OVF_POLICY_SAT_LOWER : Field := ⟨0x70008, 8, 24⟩
def NUM_OVF_POLICY_EFFECTIVE : Field := ⟨0x70008, 4, 2⟩
def NUM_OVF_POLICY_POLICY : Field := ⟨0x70008, 0, 2⟩
def NUM_SCALE_DIV_DIV : Field := ⟨0x70010, 0, 5⟩
def NUM_LOSS_SCALE_GOOD : Field := ⟨0x70018, 48, 16⟩
def NUM_LOSS_SCALE_GROW_STEPS : Field := ⟨0x70018, 32, 16⟩
def NUM_LOSS_SCALE_MAX : Field := ⟨0x70018, 24, 8⟩
def NUM_LOSS_SCALE_MIN : Field := ⟨0x70018, 16, 8⟩
def NUM_LOSS_SCALE_EXP : Field := ⟨0x70018, 0, 8⟩
def NUM_LP_CFG_LP_UFL_MAX : Field := ⟨0x70020, 48, 16⟩
def NUM_LP_CFG_LP_SAT_MAX : Field := ⟨0x70020, 32, 16⟩
def NUM_LP_CFG_MIN_COUNT : Field := ⟨0x70020, 8, 24⟩
def NUM_LP_CFG_EN : Field := ⟨0x70020, 0, 1⟩
def NUM_PARAM_BASE_EN : Field := ⟨0x70028, 63, 1⟩
def NUM_PARAM_BASE_ADDR : Field := ⟨0x70028, 6, 42⟩
def NUM_LR_TABLE_LEN : Field := ⟨0x70030, 48, 16⟩
def NUM_LR_TABLE_ADDR : Field := ⟨0x70030, 6, 42⟩
def NUM_LR_EPOCH_EPOCH0 : Field := ⟨0x70038, 0, 64⟩
def NUM_OPT_BETA_B2 : Field := ⟨0x70040, 32, 32⟩
def NUM_OPT_BETA_B1 : Field := ⟨0x70040, 0, 32⟩
def NUM_OPT_EPS_WD_WD : Field := ⟨0x70048, 32, 32⟩
def NUM_OPT_EPS_WD_EPS : Field := ⟨0x70048, 0, 32⟩
def NUM_OPT_GSCALE_GSCALE : Field := ⟨0x70050, 0, 32⟩
def NUM_MON_BASE_EN : Field := ⟨0x70058, 63, 1⟩
def NUM_MON_BASE_SIZE_LOG2 : Field := ⟨0x70058, 48, 5⟩
def NUM_MON_BASE_ADDR : Field := ⟨0x70058, 6, 42⟩
def NUM_MON_HEAD_COUNT : Field := ⟨0x70060, 0, 48⟩
def MXC_ERR_LAST_TASK : Field := ⟨0x70800, 32, 32⟩
def MXC_ERR_LAST_PC : Field := ⟨0x70800, 16, 16⟩
def MXC_ERR_LAST_CAUSE : Field := ⟨0x70800, 8, 8⟩
def MXC_ERR_LAST_MXC : Field := ⟨0x70800, 0, 7⟩
def NUM_LP_ADJ_ADJ (i : Nat) : Field := ⟨0x71000 + 8 * i, 0, 64⟩
def RED_SCALE_CFG_MARGIN : Field := ⟨0x80000, 8, 4⟩
def RED_SCALE_CFG_MODE : Field := ⟨0x80000, 0, 1⟩
def RED_SLACK_SLACK : Field := ⟨0x80008, 0, 16⟩
def RED_STEP_CFG_REPEAT_MAX : Field := ⟨0x80010, 0, 4⟩
def RED_TOKEN_CFG_START : Field := ⟨0x80018, 48, 16⟩
def RED_TOKEN_CFG_HOP : Field := ⟨0x80018, 40, 8⟩
def RED_TOKEN_CFG_LAYERS : Field := ⟨0x80018, 0, 13⟩
def RED_TREE_DEVICES : Field := ⟨0x80020, 51, 13⟩
def RED_TREE_DEPTH_MAX : Field := ⟨0x80020, 40, 8⟩
def RED_TREE_DEPTH : Field := ⟨0x80020, 32, 8⟩
def RED_TREE_CHILDREN : Field := ⟨0x80020, 16, 16⟩
def RED_TREE_BACKUP_PORT : Field := ⟨0x80020, 8, 8⟩
def RED_TREE_UP_PORT : Field := ⟨0x80020, 0, 8⟩
def RED_STEP_STATE_REPLAYS : Field := ⟨0x80028, 48, 16⟩
def RED_STEP_STATE_OUTCOME : Field := ⟨0x80028, 40, 8⟩
def RED_STEP_STATE_REASON : Field := ⟨0x80028, 32, 8⟩
def RED_STEP_STATE_MASK : Field := ⟨0x80028, 24, 8⟩
def RED_STEP_STATE_REPEATS : Field := ⟨0x80028, 20, 4⟩
def RED_STEP_STATE_HOLD_CAUSE : Field := ⟨0x80028, 16, 4⟩
def RED_SCALE_BASE_BUCKETS : Field := ⟨0x80030, 48, 16⟩
def RED_SCALE_BASE_ADDR : Field := ⟨0x80030, 6, 42⟩
def RED_EPOCH_EPOCH : Field := ⟨0x80038, 0, 64⟩
def PND_STATUS_POUND : Field := ⟨0x90000, 16, 16⟩
def PND_STATUS_CAUSE : Field := ⟨0x90000, 4, 4⟩
def PND_STATUS_HALTED : Field := ⟨0x90000, 0, 1⟩
def PND_HOST_WIN_BASE : Field := ⟨0x90008, 12, 52⟩
def PND_HOST_SIZE_PAGES : Field := ⟨0x90010, 0, 32⟩
def PND_PERM_CFG_TMO_MS : Field := ⟨0x90018, 0, 16⟩
def PND_PERM_STATUS_IN_BYTES : Field := ⟨0x90020, 16, 48⟩
def PND_PERM_STATUS_STATE : Field := ⟨0x90020, 0, 2⟩
def PND_STAGE_LAST_EPOCH : Field := ⟨0x90028, 16, 48⟩
def PND_STAGE_LAST_RUNS : Field := ⟨0x90028, 0, 8⟩
def PND_SEL_DIR : Field := ⟨0x90030, 16, 1⟩
def PND_SEL_POUND : Field := ⟨0x90030, 0, 10⟩
def PND_POUND_STAT_SEQ : Field := ⟨0x90038, 48, 16⟩
def PND_POUND_STAT_FILLED : Field := ⟨0x90038, 32, 16⟩
def PND_POUND_STAT_CREDITS : Field := ⟨0x90038, 24, 8⟩
def FAB_CFG_AUTO_RETRAIN : Field := ⟨0xa0000, 31, 1⟩
def FAB_CFG_RETRAIN_MS : Field := ⟨0xa0000, 16, 15⟩
def FAB_CFG_DISC_TMO : Field := ⟨0xa0000, 0, 16⟩
def FAB_LINK_CFG_DRIFT : Field := ⟨0xa0008, 16, 8⟩
def FAB_LINK_CFG_REPLAY_MAX : Field := ⟨0xa0008, 12, 4⟩
def FAB_LINK_CFG_ACK_TMO : Field := ⟨0xa0008, 0, 12⟩
def FAB_COORD_VALID : Field := ⟨0xa0010, 63, 1⟩
def FAB_COORD_ADDR : Field := ⟨0xa0010, 32, 12⟩
def FAB_COORD_X : Field := ⟨0xa0010, 24, 8⟩
def FAB_COORD_D : Field := ⟨0xa0010, 16, 8⟩
def FAB_COORD_S : Field := ⟨0xa0010, 8, 8⟩
def FAB_COORD_P : Field := ⟨0xa0010, 0, 8⟩
def FAB_SHAPE_X : Field := ⟨0xa0018, 24, 8⟩
def FAB_SHAPE_D : Field := ⟨0xa0018, 16, 8⟩
def FAB_SHAPE_S : Field := ⟨0xa0018, 8, 8⟩
def FAB_SHAPE_P : Field := ⟨0xa0018, 0, 8⟩
def FAB_DISC_STATUS_MAX_LAT : Field := ⟨0xa0020, 32, 32⟩
def FAB_DISC_STATUS_CODE : Field := ⟨0xa0020, 16, 8⟩
def FAB_DISC_STATUS_STATE : Field := ⟨0xa0020, 0, 3⟩
def FAB_PORT_CTL_RETRAIN (i : Nat) : Field := ⟨0xa0100 + 8 * i, 1, 1⟩
def FAB_PORT_CTL_EN (i : Nat) : Field := ⟨0xa0100 + 8 * i, 0, 1⟩
def FAB_PORT_STATUS_LAT (i : Nat) : Field := ⟨0xa0200 + 8 * i, 32, 32⟩
def FAB_PORT_STATUS_NBR_PORT (i : Nat) : Field := ⟨0xa0200 + 8 * i, 24, 4⟩
def FAB_PORT_STATUS_LONG (i : Nat) : Field := ⟨0xa0200 + 8 * i, 20, 1⟩
def FAB_PORT_STATUS_ROLE (i : Nat) : Field := ⟨0xa0200 + 8 * i, 18, 2⟩
def FAB_PORT_STATUS_PARENT (i : Nat) : Field := ⟨0xa0200 + 8 * i, 17, 1⟩
def FAB_PORT_STATUS_STATE (i : Nat) : Field := ⟨0xa0200 + 8 * i, 0, 3⟩
def MEM_CFG_SPLIT : Field := ⟨0xc0000, 0, 6⟩
def MEM_TRAIN_STATUS_FAIL : Field := ⟨0xc0008, 24, 24⟩
def MEM_TRAIN_STATUS_DONE : Field := ⟨0xc0008, 0, 24⟩
def MEM_UNCORR_LAST_CLASS : Field := ⟨0xc0010, 60, 4⟩
def MEM_UNCORR_LAST_SOURCE : Field := ⟨0xc0010, 56, 4⟩
def MEM_UNCORR_LAST_STACK : Field := ⟨0xc0010, 48, 8⟩
def MEM_UNCORR_LAST_ADDR : Field := ⟨0xc0010, 0, 48⟩
def MEM_REFRESH_DOUBLED : Field := ⟨0xc0018, 0, 24⟩
def MEM_HBM_TEMP_TEMP (i : Nat) : Field := ⟨0xc0100 + 8 * i, 0, 8⟩
def MBX_LOCK_LOCK : Field := ⟨0xd0000, 0, 1⟩
def MBX_STATUS_LOCKED : Field := ⟨0xd0008, 31, 1⟩
def MBX_STATUS_FW : Field := ⟨0xd0008, 24, 3⟩
def MBX_STATUS_CASK : Field := ⟨0xd0008, 16, 2⟩
def MBX_STATUS_BANK : Field := ⟨0xd0008, 0, 1⟩
def MBX_VER_FW_MAJOR : Field := ⟨0xd0010, 48, 16⟩
def MBX_VER_FW_MINOR : Field := ⟨0xd0010, 32, 16⟩
def MBX_VER_DRV_MAJOR : Field := ⟨0xd0010, 16, 16⟩
def MBX_VER_DRV_MINOR : Field := ⟨0xd0010, 0, 16⟩
def MBX_CASK_VER_SUPPORTED : Field := ⟨0xd0018, 16, 16⟩
def MBX_CASK_VER_FOUND : Field := ⟨0xd0018, 0, 16⟩
def MBX_TMO_TMO : Field := ⟨0xd0020, 0, 16⟩
def MBX_UPD_CFG_DELAY : Field := ⟨0xd0028, 0, 24⟩
def MBX_HOST_PEND_PEND : Field := ⟨0xd0030, 0, 64⟩
def MBX_FW_REGION_BASE : Field := ⟨0xd0038, 30, 18⟩
def MBX_LOG_HEAD_COUNT : Field := ⟨0xd0040, 0, 48⟩
def MBX_TRACE_HEAD_COUNT : Field := ⟨0xd0048, 0, 48⟩
def MBX_TRACE_MASK_EN (i : Nat) : Field := ⟨0xd0080 + 8 * i, 0, 64⟩
def MBX_BIND_EN (i : Nat) : Field := ⟨0xd0400 + 8 * i, 31, 1⟩
def MBX_BIND_OSTEMU (i : Nat) : Field := ⟨0xd0400 + 8 * i, 30, 1⟩
def MBX_BIND_END_B (i : Nat) : Field := ⟨0xd0400 + 8 * i, 8, 8⟩
def MBX_BIND_END_A (i : Nat) : Field := ⟨0xd0400 + 8 * i, 0, 8⟩
def MBX_TX_WORD (i : Nat) : Field := ⟨0xd1000 + 16 * i, 0, 32⟩
def MBX_RX_WORD (i : Nat) : Field := ⟨0xd1008 + 16 * i, 0, 32⟩
def MBX_CH_STAT_DEAD (i : Nat) : Field := ⟨0xd2000 + 8 * i, 31, 1⟩
def MBX_CH_STAT_TMO_A (i : Nat) : Field := ⟨0xd2000 + 8 * i, 30, 1⟩
def MBX_CH_STAT_TMO_B (i : Nat) : Field := ⟨0xd2000 + 8 * i, 29, 1⟩
def MBX_CH_STAT_MSG_AB (i : Nat) : Field := ⟨0xd2000 + 8 * i, 28, 1⟩
def MBX_CH_STAT_MSG_BA (i : Nat) : Field := ⟨0xd2000 + 8 * i, 27, 1⟩
def MBX_CH_STAT_FREE_AB (i : Nat) : Field := ⟨0xd2000 + 8 * i, 20, 4⟩
def MBX_CH_STAT_FREE_BA (i : Nat) : Field := ⟨0xd2000 + 8 * i, 16, 4⟩
def FLT_STK0_MBX_DENIED : Field := ⟨0xe0000, 22, 1⟩
def FLT_STK0_TEST_FAIL : Field := ⟨0xe0000, 21, 1⟩
def FLT_STK0_VERSION_REFUSED : Field := ⟨0xe0000, 20, 1⟩
def FLT_STK0_FW_DEAD : Field := ⟨0xe0000, 19, 1⟩
def FLT_STK0_PARTITION : Field := ⟨0xe0000, 18, 1⟩
def FLT_STK0_LINK_LOST : Field := ⟨0xe0000, 17, 1⟩
def FLT_STK0_TUN_RETIRED : Field := ⟨0xe0000, 16, 1⟩
def FLT_STK0_KILN_STALE : Field := ⟨0xe0000, 15, 1⟩
def FLT_STK0_UNCORR_MEM : Field := ⟨0xe0000, 14, 1⟩
def FLT_STK0_SENTINEL_TRANS : Field := ⟨0xe0000, 13, 1⟩
def FLT_STK0_SENTINEL_PERM : Field := ⟨0xe0000, 12, 1⟩
def FLT_STK0_STEP_REPEAT_LIMIT : Field := ⟨0xe0000, 11, 1⟩
def FLT_STK0_OVF_SAT : Field := ⟨0xe0000, 10, 1⟩
def FLT_STK0_OVF_SKIP : Field := ⟨0xe0000, 9, 1⟩
def FLT_STK0_LP_TROUBLE : Field := ⟨0xe0000, 8, 1⟩
def FLT_STK0_SCALE_FAULT : Field := ⟨0xe0000, 7, 1⟩
def FLT_STK0_ADC_SAT : Field := ⟨0xe0000, 6, 1⟩
def FLT_STK0_WEIR : Field := ⟨0xe0000, 5, 1⟩
def FLT_STK0_FALLBACK_EXHAUSTED : Field := ⟨0xe0000, 4, 1⟩
def FLT_STK0_SHARD_VER : Field := ⟨0xe0000, 3, 1⟩
def FLT_STK0_STAGE_OVERRUN : Field := ⟨0xe0000, 2, 1⟩
def FLT_STK0_POUND_CREDIT : Field := ⟨0xe0000, 1, 1⟩
def FLT_STK0_FRAME_OVERRUN : Field := ⟨0xe0000, 0, 1⟩
def FLT_CFG_TPACK_LOG2 : Field := ⟨0xe0008, 12, 4⟩
def FLT_CFG_TUN_ACTION : Field := ⟨0xe0008, 4, 2⟩
def FLT_CFG_MXC_ACTION : Field := ⟨0xe0008, 0, 1⟩
def FLT_ALERT_MASK_MASK : Field := ⟨0xe0010, 0, 24⟩
def FLT_WDOG_KICK : Field := ⟨0xe0018, 0, 8⟩
def FLT_WDOG_STATUS_ARMED : Field := ⟨0xe0020, 31, 1⟩
def FLT_WDOG_STATUS_EXPIRED : Field := ⟨0xe0020, 30, 1⟩
def FLT_WDOG_STATUS_FROZEN : Field := ⟨0xe0020, 29, 1⟩
def FLT_WDOG_STATUS_REMAIN : Field := ⟨0xe0020, 0, 16⟩
def FLT_SENT_LAST_EPOCH : Field := ⟨0xe0028, 32, 32⟩
def FLT_SENT_LAST_PACK : Field := ⟨0xe0028, 31, 1⟩
def FLT_SENT_LAST_CAUSE : Field := ⟨0xe0028, 28, 3⟩
def FLT_SENT_LAST_RESULT : Field := ⟨0xe0028, 26, 2⟩
def FLT_SENT_LAST_CLASS : Field := ⟨0xe0028, 24, 2⟩
def FLT_SENT_LAST_UNIT : Field := ⟨0xe0028, 0, 11⟩
def FLT_TPACK_STATUS_PACK_ID : Field := ⟨0xe0030, 32, 32⟩
def FLT_TPACK_STATUS_PASSES : Field := ⟨0xe0030, 16, 16⟩
def FLT_TPACK_STATUS_STATE : Field := ⟨0xe0030, 0, 2⟩
def FLT_LEDGER_STAT_SEQ : Field := ⟨0xe0038, 8, 56⟩
def FLT_LEDGER_STAT_NEWEST : Field := ⟨0xe0038, 0, 2⟩
def FLT_MXC_FAULT_FAULT (i : Nat) : Field := ⟨0xe0100 + 8 * i, 0, 64⟩
def FLT_TUN_FAULT_FAULT (i : Nat) : Field := ⟨0xe0200 + 8 * i, 0, 64⟩
def GAU_CTL_PWR : Field := ⟨0xf0000, 31, 1⟩
def GAU_CONV_EXT_MV (i : Nat) : Field := ⟨0xf0008 + 8 * i, 48, 16⟩
def GAU_CONV_NOTCH_L (i : Nat) : Field := ⟨0xf0008 + 8 * i, 24, 16⟩
def GAU_CONV_REF (i : Nat) : Field := ⟨0xf0008 + 8 * i, 0, 2⟩
def GAU_STATUS_BUSY (i : Nat) : Field := ⟨0xf0018 + 8 * i, 31, 1⟩
def GAU_STATUS_REF_SETTLING (i : Nat) : Field := ⟨0xf0018 + 8 * i, 30, 1⟩
def GAU_STATUS_URGENT (i : Nat) : Field := ⟨0xf0018 + 8 * i, 29, 1⟩
def GAU_STATUS_LIST (i : Nat) : Field := ⟨0xf0018 + 8 * i, 8, 2⟩
def GAU_STATUS_ENTRY (i : Nat) : Field := ⟨0xf0018 + 8 * i, 0, 5⟩
def GAU_ALARM_ALARM (i : Nat) : Field := ⟨0xf0030 + 8 * i, 0, 64⟩
def GAU_RCM_SEL_TUN (i : Nat) : Field := ⟨0xf0040 + 8 * i, 0, 8⟩
def GAU_POUND_SEL_EN (i : Nat) : Field := ⟨0xf0080 + 8 * i, 31, 1⟩
def GAU_POUND_SEL_POUND (i : Nat) : Field := ⟨0xf0080 + 8 * i, 0, 10⟩
def GAU_URG_GO (i : Nat) : Field := ⟨0xf0500 + 8 * i, 63, 1⟩
def GAU_URG_ORDER (i : Nat) : Field := ⟨0xf0500 + 8 * i, 60, 3⟩
def GAU_URG_N (i : Nat) : Field := ⟨0xf0500 + 8 * i, 40, 15⟩
def GAU_URG_CHAN (i : Nat) : Field := ⟨0xf0500 + 8 * i, 0, 7⟩
def GAU_URG_RESULT_DONE (i : Nat) : Field := ⟨0xf0510 + 8 * i, 63, 1⟩
def GAU_URG_RESULT_RS (i : Nat) : Field := ⟨0xf0510 + 8 * i, 62, 1⟩
def GAU_URG_RESULT_CHAN (i : Nat) : Field := ⟨0xf0510 + 8 * i, 24, 7⟩
def GAU_URG_RESULT_VALUE (i : Nat) : Field := ⟨0xf0510 + 8 * i, 0, 24⟩
def GAU_MON_SEL_CLR : Field := ⟨0xf0600, 31, 1⟩
def GAU_MON_SEL_CLR_ALL : Field := ⟨0xf0600, 30, 1⟩
def GAU_MON_SEL_MON : Field := ⟨0xf0600, 0, 8⟩
def GAU_MON_CFG_BASE : Field := ⟨0xf0608, 32, 32⟩
def GAU_MON_CFG_W : Field := ⟨0xf0608, 0, 5⟩
def GAU_MON_MINMAX_MAX : Field := ⟨0xf0610, 32, 32⟩
def GAU_MON_MINMAX_MIN : Field := ⟨0xf0610, 0, 32⟩
def GAU_MON_COUNT_COUNT : Field := ⟨0xf0618, 0, 48⟩
def GAU_MON_HIST_COUNT (i : Nat) : Field := ⟨0xf0700 + 8 * i, 0, 48⟩
def GAU_RESULT_SEQ (i : Nat) : Field := ⟨0xf0800 + 8 * i, 48, 16⟩
def GAU_RESULT_STALE (i : Nat) : Field := ⟨0xf0800 + 8 * i, 47, 1⟩
def GAU_RESULT_RS (i : Nat) : Field := ⟨0xf0800 + 8 * i, 46, 1⟩
def GAU_RESULT_VALUE (i : Nat) : Field := ⟨0xf0800 + 8 * i, 0, 24⟩
def GAU_THRESH_HI (i : Nat) : Field := ⟨0xf0c00 + 8 * i, 40, 24⟩
def GAU_THRESH_LO (i : Nat) : Field := ⟨0xf0c00 + 8 * i, 16, 24⟩
def GAU_THRESH_HYST (i : Nat) : Field := ⟨0xf0c00 + 8 * i, 0, 16⟩
def GAU_SCAN_EN (i : Nat) : Field := ⟨0xf1000 + 256 * i, 63, 1⟩
def GAU_SCAN_CONV (i : Nat) : Field := ⟨0xf1000 + 256 * i, 62, 1⟩
def GAU_SCAN_ORDER (i : Nat) : Field := ⟨0xf1000 + 256 * i, 59, 3⟩
def GAU_SCAN_N (i : Nat) : Field := ⟨0xf1000 + 256 * i, 40, 15⟩
def GAU_SCAN_COUNT (i : Nat) : Field := ⟨0xf1000 + 256 * i, 32, 6⟩
def GAU_SCAN_PERIOD (i : Nat) : Field := ⟨0xf1000 + 256 * i, 0, 24⟩
def GAU_SCAN_ENT_CHAN (l j : Nat) : Field := ⟨0xf1008 + 0x100 * l + 8 * j, 0, 64⟩
def PWR_CAP_CAP : Field := ⟨0x100000, 0, 8⟩
def PWR_STATUS_STEP_AVG : Field := ⟨0x100008, 48, 16⟩
def PWR_STATUS_FRAME_MAX : Field := ⟨0x100008, 32, 16⟩
def PWR_STATUS_HOT : Field := ⟨0x100008, 1, 1⟩
def PWR_STATUS_OVER : Field := ⟨0x100008, 0, 1⟩
def PWR_THERM_CFG_HOLD_L : Field := ⟨0x100010, 16, 8⟩
def PWR_THERM_CFG_HOLD_A : Field := ⟨0x100010, 0, 8⟩
def PWR_THERM_STATUS_HOLD_ACTIVE : Field := ⟨0x100018, 31, 1⟩
def PWR_THERM_STATUS_DIODE : Field := ⟨0x100018, 0, 7⟩
def PWR_RESET_CAUSE_ESC_CAUSE : Field := ⟨0x100020, 20, 4⟩
def PWR_RESET_CAUSE_RAIL : Field := ⟨0x100020, 16, 4⟩
def PWR_RESET_CAUSE_PREV : Field := ⟨0x100020, 4, 4⟩
def PWR_RESET_CAUSE_CAUSE : Field := ⟨0x100020, 0, 4⟩
def PWR_START_STAT_DUR_MS : Field := ⟨0x100028, 32, 32⟩
def PWR_START_STAT_LAST_STAGE : Field := ⟨0x100028, 12, 4⟩
def PWR_START_STAT_KIND : Field := ⟨0x100028, 0, 2⟩
def PWR_VAR_PWR_WATTS (i : Nat) : Field := ⟨0x100100 + 8 * i, 0, 16⟩
def SEC_ROOT_DIGEST (i : Nat) : Field := ⟨0x110000 + 8 * i, 0, 64⟩
def SEC_SVN_RUN : Field := ⟨0x110040, 16, 8⟩
def SEC_SVN_CERT_MIN : Field := ⟨0x110040, 8, 8⟩
def SEC_SVN_FW_MIN : Field := ⟨0x110040, 0, 8⟩
def SEC_CFG_IDE_REQ : Field := ⟨0x110048, 0, 1⟩
def SEC_LOCK_LOCK : Field := ⟨0x110050, 0, 1⟩
def SEC_AUTH_LAST_KEY_ID : Field := ⟨0x110058, 32, 32⟩
def SEC_AUTH_LAST_SVN : Field := ⟨0x110058, 24, 8⟩
def SEC_AUTH_LAST_CODE : Field := ⟨0x110058, 8, 8⟩
def SEC_AUTH_LAST_KIND : Field := ⟨0x110058, 0, 8⟩
def SEC_STATUS_SESSIONS : Field := ⟨0x110060, 2, 2⟩
def SEC_STATUS_IDE : Field := ⟨0x110060, 0, 2⟩
def SEC_FP_DIGEST_DIGEST (i : Nat) : Field := ⟨0x110080 + 8 * i, 0, 64⟩

end Reg

namespace Cnt

def FRM_OVERRUN_CNT : Nat := 0x20200
def FRM_TICK_LATE_CNT : Nat := 0x20208
def FRM_TICK_MISS_CNT : Nat := 0x20210
def FRM_TICK_BACKUP_CNT : Nat := 0x20218
def FRM_VAR_SWITCH_CNT : Nat := 0x20220
def FRM_VAR_SPLIT_CNT : Nat := 0x20228
def FRM_LATE_IN_CNT : Nat := 0x20230
def FRM_LOAD_ERR_CNT : Nat := 0x20238
def TUN_SAT_CNT : Nat := 0x40200
def TUN_VEC_CNT : Nat := 0x40208
def TUN_RM_OOB_CNT : Nat := 0x40210
def TUN_TASK_ERR_CNT : Nat := 0x40218
def TUN_IN_CODE_CNT : Nat := 0x40220
def TUN_RETIRED_RUN_CNT : Nat := 0x40228
def SPG_WEIR_CNT : Nat := 0x50200
def SPG_IN_ACC_CNT : Nat := 0x50208
def SPG_SAT_ACC_CNT : Nat := 0x50210
def SPG_LIST_ERR_CNT : Nat := 0x50218
def SPG_WOT_ERR_CNT : Nat := 0x50220
def SPG_UNCOVERED_CNT : Nat := 0x50228
def SPG_LATE_CNT : Nat := 0x50230
def SPG_DESC_ERR_CNT : Nat := 0x50238
def SPG_FB_GRANT_CNT : Nat := 0x50240
def SPG_FB_DENY_CNT : Nat := 0x50248
def SPG_FB_EXHAUST_CNT : Nat := 0x50250
def TUN_RACK_WRITE_CNT : Nat := 0x40900
def TUN_RACK_ROUND_CNT : Nat := 0x40908
def TUN_RACK_VFAIL_CNT : Nat := 0x40910
def TUN_RACK_LIMIT_CNT : Nat := 0x40918
def TUN_RACK_PEND_FULL_CNT : Nat := 0x40920
def TUN_RACK_QDROP_CNT : Nat := 0x40928
def TUN_RACK_WOT_OVF_CNT : Nat := 0x40930
def TUN_RACK_FOLD_LATE_CNT : Nat := 0x40938
def TUN_LR_FIT_CNT : Nat := 0x40940
def KLN_TUN_CAL_CNT : Nat := 0x60200
def KLN_MEAS_CNT : Nat := 0x60208
def KLN_ESC_CNT : Nat := 0x60210
def KLN_CLAMP_CNT : Nat := 0x60218
def KLN_DEG_CNT : Nat := 0x60220
def KLN_RETIRE_CNT : Nat := 0x60228
def KLN_SHORT_SLOT_CNT : Nat := 0x60230
def KLN_STORE_ERR_CNT : Nat := 0x60238
def KLN_STORE_WR_CNT : Nat := 0x60240
def KLN_REQ_MERGE_CNT : Nat := 0x60248
def KLN_LAG_CNT : Nat := 0x60250
def MXC_TASK_ERR_CNT : Nat := 0x70900
def VEC_INSN_ERR_CNT : Nat := 0x70908
def MXC_HIST_ERR_CNT : Nat := 0x70910
def MXC_PATCH_CNT : Nat := 0x70918
def MXC_ANALOG_IDLE_CNT : Nat := 0x70920
def MXC_ATTN_BLOCK_CNT : Nat := 0x70928
def NUM_OVF_SKIP_CNT : Nat := 0x70200
def NUM_OVF_BLOCK_CNT : Nat := 0x70208
def NUM_OVF_SAT_CNT : Nat := 0x70210
def NUM_SCALE_LOWER_CNT : Nat := 0x70218
def NUM_SCALE_GROW_CNT : Nat := 0x70220
def NUM_SCALE_FLOOR_CNT : Nat := 0x70228
def NUM_LP_TROUBLE_CNT : Nat := 0x70230
def NUM_LP_ADJ_CNT : Nat := 0x70238
def NUM_LP_CONFLICT_CNT : Nat := 0x70240
def NUM_LP_LIMIT_CNT : Nat := 0x70248
def NUM_UWR_SAT_CNT : Nat := 0x70250
def NUM_DFWD_ANALOG_CNT : Nat := 0x70258
def NUM_MON_WRAP_CNT : Nat := 0x70260
def NUM_CFG_REJ_CNT : Nat := 0x70268
def NUM_PARAM_LATE_CNT : Nat := 0x70270
def RED_COMMIT_CNT : Nat := 0x80200
def RED_REPEAT_CNT : Nat := 0x80208
def RED_REPEAT_LIMIT_CNT : Nat := 0x80210
def RED_FAULT_BLK_CNT : Nat := 0x80218
def RED_REPLAY_CNT : Nat := 0x80220
def RED_MISSING_CNT : Nat := 0x80228
def RED_LATE_PKT_CNT : Nat := 0x80230
def RED_SHARD_VER_CNT : Nat := 0x80238
def RED_TOKEN_LATE_CNT : Nat := 0x80240
def RED_HOLD_RX_CNT : Nat := 0x80248
def RED_NO_RESULT_CNT : Nat := 0x80250
def RED_TASK_ERR_CNT : Nat := 0x80258
def RED_CFG_REJ_CNT : Nat := 0x80260
def PND_BARGE_TX_CNT : Nat := 0x90200
def PND_BARGE_RX_CNT : Nat := 0x90208
def PND_CREDIT_WAIT_CNT : Nat := 0x90210
def PND_CREDIT_VIOL_CNT : Nat := 0x90218
def PND_OVERFILL_CNT : Nat := 0x90220
def PND_CREDIT_EXCESS_CNT : Nat := 0x90228
def PND_SEQ_ERR_CNT : Nat := 0x90230
def PND_STALE_CNT : Nat := 0x90238
def PND_UNFILLED_CNT : Nat := 0x90240
def PND_STAGE_OVR_CNT : Nat := 0x90248
def PND_HOST_ERR_CNT : Nat := 0x90250
def PND_TASK_ERR_CNT : Nat := 0x90258
def PND_PERM_CNT : Nat := 0x90260
def PND_PERM_ABORT_CNT : Nat := 0x90268
def PND_PERM_REJ_CNT : Nat := 0x90270
def PND_CFG_REJ_CNT : Nat := 0x90278
def FAB_DROP_CNT : Nat := 0xa0400
def FAB_TTL_DROP_CNT : Nat := 0xa0408
def FAB_STALE_CNT : Nat := 0xa0410
def FAB_ECRC_ERR_CNT : Nat := 0xa0418
def FAB_BAD_MSG_CNT : Nat := 0xa0420
def FAB_MGMT_DROP_CNT : Nat := 0xa0428
def FAB_PARTITION_CNT : Nat := 0xa0430
def FAB_DISC_FAIL_CNT : Nat := 0xa0438
def FAB_DISC_IGN_CNT : Nat := 0xa0440
def FAB_RETRAIN_CNT : Nat := 0xa0448
def FAB_LAT_DRIFT_CNT : Nat := 0xa0450
def FAB_MISWIRE_CNT : Nat := 0xa0458
def FAB_FEC_CORR_CNT (n : Nat) : Nat := 0xa1000 + 0x40 * n
def FAB_FEC_UNCORR_CNT (n : Nat) : Nat := 0xa1008 + 0x40 * n
def FAB_CRC_ERR_CNT (n : Nat) : Nat := 0xa1010 + 0x40 * n
def FAB_REPLAY_CNT (n : Nat) : Nat := 0xa1018 + 0x40 * n
def FAB_LINK_LOST_CNT (n : Nat) : Nat := 0xa1020 + 0x40 * n
def FAB_CREDIT_STALL_CNT (n : Nat) : Nat := 0xa1028 + 0x40 * n
def FAB_PROTO_ERR_CNT (n : Nat) : Nat := 0xa1030 + 0x40 * n
def FAB_TX_FLIT_CNT (n : Nat) : Nat := 0xa1038 + 0x40 * n
def MEM_LS_CORR_CNT : Nat := 0xc0200
def MEM_HBM_ECS_CNT : Nat := 0xc0208
def MEM_UNCORR_STEP_CNT : Nat := 0xc0210
def MEM_UNCORR_HALT_CNT : Nat := 0xc0218
def MEM_UNCORR_IDLE_CNT : Nat := 0xc0220
def MEM_UNMAPPED_CNT : Nat := 0xc0228
def MEM_TRAIN_FAIL_CNT : Nat := 0xc0230
def MEM_CFG_REJ_CNT : Nat := 0xc0238
def MEM_HBM_CORR_CNT (h : Nat) : Nat := 0xc0400 + 8 * h
def HIF_CMD_CNT : Nat := 0x10200
def HIF_STATE_REJ_CNT : Nat := 0x10208
def HIF_BAD_ARG_CNT : Nat := 0x10210
def HIF_REFUSED_CNT : Nat := 0x10218
def HIF_DB_ERR_CNT : Nat := 0x10220
def HIF_CQ_DROP_CNT : Nat := 0x10228
def HIF_DMA_ERR_CNT : Nat := 0x10230
def HIF_START_MISS_CNT : Nat := 0x10238
def HIF_DOWNTRAIN_CNT : Nat := 0x10240
def MBX_MSG_CNT : Nat := 0xd0200
def MBX_DENY_CNT : Nat := 0xd0208
def MBX_LOCK_DENY_CNT : Nat := 0xd0210
def MBX_DEAD_CNT : Nat := 0xd0218
def MBX_FLUSH_CNT : Nat := 0xd0220
def MBX_FULL_CNT : Nat := 0xd0228
def MBX_TMO_CNT : Nat := 0xd0230
def MBX_SR_ERR_CNT : Nat := 0xd0238
def MBX_LOG_WRAP_CNT : Nat := 0xd0240
def MBX_TRACE_WRAP_CNT : Nat := 0xd0248
def MBX_HANDOVER_CNT : Nat := 0xd0250
def MBX_CASK_REJ_CNT : Nat := 0xd0258
def FLT_SENTINEL_RUN_CNT : Nat := 0xe0400
def FLT_SENTINEL_MIS_CNT : Nat := 0xe0408
def FLT_SENTINEL_TRANS_CNT : Nat := 0xe0410
def FLT_SENTINEL_PERM_CNT : Nat := 0xe0418
def FLT_TPACK_RUN_CNT : Nat := 0xe0420
def FLT_TPACK_TRANS_CNT : Nat := 0xe0428
def FLT_TPACK_FAIL_CNT : Nat := 0xe0430
def FLT_TPACK_SKIP_CNT : Nat := 0xe0438
def FLT_WDOG_EXPIRE_CNT : Nat := 0xe0440
def FLT_WDOG_DENY_CNT : Nat := 0xe0448
def FLT_LEDGER_WR_CNT : Nat := 0xe0450
def FLT_LEDGER_BAD_CNT : Nat := 0xe0458
def GAU_URG_DROP_CNT : Nat := 0xf0200
def GAU_URG_DONE_CNT : Nat := 0xf0208
def GAU_SCAN_LATE_CNT : Nat := 0xf0210
def GAU_SCAN_ERR_CNT : Nat := 0xf0218
def GAU_STALE_CNT : Nat := 0xf0220
def GAU_RS_CNT : Nat := 0xf0228
def GAU_ALARM_CNT : Nat := 0xf0230
def GAU_CFG_REJ_CNT : Nat := 0xf0238
def PWR_START_COLD_CNT : Nat := 0x100200
def PWR_START_WARM_CNT : Nat := 0x100208
def PWR_START_ESC_CNT : Nat := 0x100210
def PWR_RETENTION_FAIL_CNT : Nat := 0x100218
def PWR_OVER_CNT : Nat := 0x100220
def PWR_THERM_HOLD_CNT : Nat := 0x100228
def PWR_RAIL_FAULT_CNT : Nat := 0x100230
def SEC_AUTH_OK_CNT : Nat := 0x110200
def SEC_AUTH_FAIL_CNT : Nat := 0x110208
def SEC_SVN_COMMIT_CNT : Nat := 0x110210
def SEC_FUSE_ERR_CNT : Nat := 0x110218
def SEC_SPDM_REQ_CNT : Nat := 0x110220
def SEC_SPDM_ERR_CNT : Nat := 0x110228
def SEC_IDE_ERR_CNT : Nat := 0x110230
def SEC_IDE_BLOCK_CNT : Nat := 0x110238
def SEC_LOCK_DENY_CNT : Nat := 0x110240

end Cnt

/-- The counters of one block (Table 20.8), by the block code of R483. -/
def counterBlocks : List (Nat × List (Nat × Nat)) := [
  (0x01, [(0x10200, 9)]), (0x02, [(0x20200, 8)]), (0x04, [(0x40200, 6), (0x40900, 9)]), (0x05, [(0x50200, 11)]),
  (0x06, [(0x60200, 11)]), (0x07, [(0x70200, 15), (0x70900, 6)]), (0x08, [(0x80200, 13)]), (0x09, [(0x90200, 16)]),
  (0x0A, [(0xA0400, 12)] ++ (List.range 16).map fun n => (0xA1000 + 0x40 * n, 8)),
  (0x0C, [(0xC0200, 8), (0xC0400, 24)]), (0x0D, [(0xD0200, 12)]), (0x0E, [(0xE0400, 12)]), (0x0F, [(0xF0200, 8)]),
  (0x10, [(0x100200, 7)]), (0x11, [(0x110200, 9)])]

/-- R483: the counter offsets a block code clears; none for a code that Table 20.8 does not hold. -/
def countersOf (code : Nat) : Option (List Nat) :=
  let expand := fun (l : List (Nat × Nat)) => l.flatMap fun p => (List.range p.2).map fun i => p.1 + 8 * i
  if code = 0xFFFF then some (counterBlocks.flatMap fun p => expand p.2)
  else (counterBlocks.find? fun p => p.1 == code).map fun p => expand p.2

end Sys2Proof.Machine
end

