-- ==== Sys2Proof/Machine/SMap.lean ====
section
/-!
DEFINITION. Sparse maps: plain data with one canonical form, for the register fields, the counters, the cells and the
device memory. A map is a list of (key, value) pairs with strictly rising keys; a key that is not listed reads as the
default that the map's owner names, and no listed value equals that default.
-/

namespace Sys2Proof.Machine

/-- A sparse map from natural-number keys. -/
abbrev SMap (β : Type) := List (Nat × β)

/-- The listed value at a key. -/
def SMap.find? {β : Type} : SMap β → Nat → Option β
  | [], _ => none
  | (a, b) :: m, k => if k = a then some b else SMap.find? m k

/-- The value at a key: the listed one, or the default. -/
def SMap.get {β : Type} (d : Nat → β) (m : SMap β) (k : Nat) : β := (SMap.find? m k).getD (d k)

/-- List a value at a key, keeping the keys in order. -/
def SMap.insert {β : Type} : SMap β → Nat → β → SMap β
  | [], k, v => [(k, v)]
  | (a, b) :: m, k, v =>
    if k < a then (k, v) :: (a, b) :: m
    else if k = a then (k, v) :: m
    else (a, b) :: SMap.insert m k v

/-- Remove a key from the list. -/
def SMap.erase {β : Type} : SMap β → Nat → SMap β
  | [], _ => []
  | (a, b) :: m, k => if k = a then SMap.erase m k else (a, b) :: SMap.erase m k

/-- Write a value at a key. Writing the default removes the entry, so equal maps are equal data. -/
def SMap.set {β : Type} [DecidableEq β] (d : Nat → β) (m : SMap β) (k : Nat) (v : β) : SMap β :=
  if v = d k then SMap.erase m k else SMap.insert m k v

/-- All listed keys are above `k`. -/
def SMap.above {β : Type} (k : Nat) : SMap β → Bool
  | [] => true
  | (a, _) :: m => decide (k < a) && SMap.above k m

/-- The canonical form: keys strictly rising, and no entry equal to its default. -/
def SMap.wf {β : Type} [DecidableEq β] (d : Nat → β) : SMap β → Bool
  | [] => true
  | (a, b) :: m => decide (b ≠ d a) && SMap.above a m && SMap.wf d m

end Sys2Proof.Machine
end

