-- ==== Sys2Proof/Machine/State.lean ====
section
/-!
DEFINITION. The state of the device, block by block, as plain data, with the commands that wait, and the state right after
power-on reset.
-/

namespace Sys2Proof.Machine

/-- Why a command would stop. Every command of this hardware has an effect that the spec gives, so no meaning faults. -/
inductive Fault where
  /-- Raised by no meaning; kept so that the type of faults is inhabited. Safe. -/
  | unused
  deriving DecidableEq, Repr

/-- Why a command has no meaning. -/
inductive Refusal where
  /-- Raised by the arm of a command that is not modelled, which it names. Safe: the run stops. -/
  | notModelled (mnemonic : String)
  deriving DecidableEq, Repr

/-! ### Frame engine (chapter 2) -/

/-- A frame that a tick or the flywheel has opened and whose frame_start is awaited (R32 to R35). -/
structure PendingFrame where
  num : Nat
  start : Nat
  /-- 1 primary, 2 backup, 3 flywheel (FRM_STATUS.TICK_SRC). -/
  src : Nat
  /-- The tick arrived after its frame_start (R35). -/
  late : Bool
  deriving DecidableEq, Repr

/-- The unit and kind of the slot that set the least slack (Table 2.15). -/
structure SlackUnit where
  kind : Nat
  cls : Nat
  sub : Nat
  idx : Nat
  deriving DecidableEq, Repr

/-- The tick settings in force, copied from FRM_TICK_CFG at the tick acquisition (R59). -/
structure TickCfg where
  extSrc : Bool
  missMax : Nat
  win : Nat
  lead : Nat
  deriving DecidableEq, Repr

/-- State of the tick logic and of the step's running record. Times are in 0.1 ns on the device's own tick timer. -/
structure Frm where
  /-- STRAP_ORIGIN as sampled at PERST# deassertion (R30). -/
  origin : Bool
  cfg : TickCfg
  /-- R34 step 1 has been taken since the activation or resume. -/
  acquired : Bool
  /-- The next tick number the origin emits; it starts at 0 and is never reset by an activation (R30). -/
  nextTick : Nat
  /-- The origin's last emission and its next predicted emission. -/
  lastEmit : Nat
  nextEmit : Nat
  /-- The first emission after the activation has been made. -/
  emitting : Bool
  /-- The start of the current frame. -/
  frameStart : Nat
  /-- The boundary time and the old period of the last variant switch, for the spacing rule of R57. -/
  switchAt : Option (Nat × Nat)
  pending : Option PendingFrame
  /-- Frames that the origin has opened beyond the next one (R57): ticks emitted before the boundary. -/
  queued : List PendingFrame
  /-- A tick on the backup port inside the window, held until the window has passed without one on the primary (R34). -/
  backup : Option PendingFrame
  /-- Ticks on the upstream ports for frames after the next one, judged once the frames before them are open (R34). -/
  early : List PendingFrame
  /-- Tick numbers already forwarded (R31). -/
  forwarded : List Nat
  /-- Consecutive flywheel frames (R36). -/
  misses : Nat
  /-- The frame program is frozen: no unit starts a slot (R58, R412). -/
  frozen : Bool
  /-- A freeze takes effect at the next frame_start, with its HOLD_CAUSE code (R282, R340, R412, R453). -/
  freezeDue : Option Nat
  /-- A frame has started since the tick was acquired: at the next frame_start it has a slack (R50). -/
  inFrame : Bool
  /-- The slots begun in the current frame, by unit (class × 256 + index) and place in its table (R27). -/
  begun : List (Nat × Nat)
  /-- The tick that opened the current frame was late (R35). -/
  frameLate : Bool
  /-- Least slot slack of the current frame over the slots that ended so far, with its slot (R50). -/
  slack : Option (Int × SlackUnit)
  /-- Least frame slack of the step so far, with its slot. -/
  stepMin : Option (Int × SlackUnit)
  /-- The device's OK flag for the step (R51, R52). -/
  ok : Bool
  /-- Own repeat reasons of the step as a mask over the codes of R268. -/
  reasons : Nat
  /-- The OK flag and reasons that the next step starts with (R265). -/
  nextOk : Bool
  nextReasons : Nat
  /-- The current frame has overrun (R51). -/
  frameOver : Bool
  /-- This run of the step has overrun (R284). -/
  overran : Bool
  /-- This step's token has been formed. -/
  tokenFormed : Bool
  /-- RED_EPOCH of the step in flight began at this run: a counter of runs of the step, for RUN identity (R266). -/
  runId : Nat
  /-- A step is in flight: frame 0 has started since the activation or resume. -/
  stepOpen : Bool
  /-- START_TICK of a waiting RUN or RESUME (R360), RESUME_TICK of a handover (R396). -/
  startTick : Option Nat
  resumeTick : Option Nat
  /-- Epochs at whose commit the device quiesces or hands over (R361), the latter with its RESUME_TICK parameter. -/
  quiesceAt : Option Nat
  updateAt : Option (Nat × Nat)
  /-- R223: the grant procedure of a digital mode runs at the next step's start. -/
  grantDue : Bool
  deriving DecidableEq, Repr

/-- A variant slot (R45, R54): the loaded image and what activation derives from it. -/
structure Variant where
  image : List Byte
  valid : Bool
  /-- The device memory ranges of the loaded program: the copied image and its CONST placements (R340). -/
  ranges : List (Nat × Nat)
  deriving DecidableEq, Repr

/-- What one Tun's input record gives: DAC codes, codes applied as 0 (R64), accepted outliers as row and residual, and how many were clipped. -/
structure VecIn where
  tun : Nat
  inAddr : Nat
  outAddr : Nat
  codes : List Int
  eights : Nat
  outliers : List (Nat × Nat)
  clipped : Nat
  deriving DecidableEq, Repr

/-- What one Tun has gathered over the phases of a vector: sums, accepted saturated phases, declined ones and their columns. -/
structure VecSum where
  sums : List Int
  sats : List (Nat × Nat × Int)
  declined : Nat
  mask : Nat
  deriving DecidableEq, Repr

/-- A vector in flight on the Tuns of a slot (R66, R67, Table 3.3). -/
structure Flight where
  vec : Nat
  /-- Covered by the sparge unit (R89). -/
  covered : Bool
  /-- Phases converted. -/
  phases : Nat
  /-- The basin's fold was not complete at the first phase (R132). -/
  folding : Bool
  tuns : List (VecIn × VecSum)
  /-- The record of the next vector, read while this one runs, and whether that vector is covered. -/
  next : Option (Bool × List VecIn)
  deriving DecidableEq, Repr

/-- A unit's slot in progress (R46 to R48). -/
structure Running where
  slot : Slot
  /-- The 64-byte descriptor the slot runs; for a granted FALLBACK slot, the layer's candidate task (R113). -/
  desc : List Byte
  /-- Items to run, from ITEMS or the count word (R47). -/
  total : Nat
  /-- Items planned: ITEMS, against which a stop is measured (R50). -/
  planned : Nat
  done : Nat
  /-- The task has consumed late input (R49). -/
  late : Bool
  /-- The descriptor check failed, so the task was not started (R74, R192, R257). -/
  failed : Bool
  /-- The slot idles: an ungranted FALLBACK slot, or an ANALOG slot of a granted layer (R113, R197). -/
  idle : Bool
  /-- The task has been recorded complete (R50). -/
  complete : Bool
  /-- The sparge descriptor of a basin task: 0 not checked yet, 1 good, 2 failed (R91). -/
  cover : Nat
  /-- The vector that a basin task has in flight. -/
  fly : Option Flight
  /-- Early reads of the task already counted: bit 0 of a folding image (R132), bit 1 of the step parameter block (R236). -/
  noted : Nat
  /-- Poisoned words of its input that the task has met already (R340). -/
  bad : List Nat
  /-- The task has been started: its checks have passed (R47, R192). -/
  begun : Bool
  deriving DecidableEq, Repr

/-! ### Tuns and their range monitors (chapter 3) -/

/-- The sums of a Tun's open range-monitor window (R76). Errors are in 1/16 converter step. -/
structure RmWindow where
  vecs : Nat
  windowLog2 : Nat
  histBase : Nat
  histWidth : Nat
  band : Nat
  gainNum : Int
  gainDen : Nat
  errSum : Int
  errSq : Nat
  refPhases : Nat
  satPhases : Nat
  dataPhases : Nat
  hist : List Nat
  minCode : Nat
  maxCode : Nat
  deriving DecidableEq, Repr

/-- A Tun's range monitor: the window it fills, none between a window's end and the next window's first phase, and the full windows that have not
closed yet, oldest first (R77, R78). -/
structure RmTun where
  cur : Option RmWindow
  full : List RmWindow
  deriving DecidableEq, Repr

/-- The statistics a Tun last published (R77, R79). -/
structure RmStats where
  seq : Nat
  minCode : Nat
  maxCode : Nat
  hist : List Nat
  gain : Nat
  mean : Nat
  rms : Nat
  satFrac : Nat
  deriving DecidableEq, Repr

/-! ### Sparge units (chapter 4) -/

/-- A covered vector whose corrections the sparge unit still has to write (R89, R104). -/
structure CoverItem where
  tun : Nat
  layer : Nat
  /-- The basin task's descriptor. -/
  desc : List Byte
  inAddr : Nat
  outAddr : Nat
  corrAddr : Nat
  imgAddr : Nat
  wotAddr : Nat
  /-- The row codes as the DACs applied them (R64), from the task's first row. -/
  codes : List Int
  /-- Accepted input outliers: row and residual (R94). -/
  outliers : List (Nat × Nat)
  clipped : Nat
  /-- Accepted saturated phases: row group, column and clamped phase value (R98). -/
  sats : List (Nat × Nat × Int)
  declined : Nat
  /-- Pending entries valid at the vector's first phase: the bank and how many (R130). -/
  bank : Nat
  pend : Nat
  late : Bool
  deriving DecidableEq, Repr

/-- Per-layer weir counts of the step (R107). -/
structure LayerStats where
  inElems : Nat
  outAcc : Nat
  outClip : Nat
  satAcc : Nat
  satDec : Nat
  deriving DecidableEq, Repr

/-- State of the sparge units and of the fallback machinery. -/
structure Spg where
  /-- Correction units left in each basin's pool (R100); keyed by basin. -/
  pool : SMap Nat
  /-- Vectors still to be corrected, by basin, oldest first: one item for each Tun the vector ran on. -/
  work : SMap (List (List CoverItem))
  /-- Layer counts up to the token frame, and those of later frames, which go to the next step (R107). -/
  stats : SMap LayerStats
  nextStats : SMap LayerStats
  /-- Hold counts by layer (R112). -/
  hold : SMap Nat
  /-- The request vector formed for the token (R111). -/
  request : SMap Nat
  /-- The SPG settings in force (R116): written values take effect at the next step boundary. -/
  fbEn : Bool
  fbHold : Nat
  escMin : Nat
  exhaust : Nat
  lstat : Nat
  deriving DecidableEq, Repr

/-! ### Racking (chapter 5) -/

/-- One weight of a pulse round. -/
structure RoundEntry where
  row : Nat
  col : Nat
  target : Int
  start : Int
  /-- Verified at its target after some period. -/
  verified : Bool
  deriving DecidableEq, Repr

/-- A pulse round in progress on a Tun (R125). -/
structure PulseRound where
  entries : List RoundEntry
  period : Nat
  deriving DecidableEq, Repr

/-- State of the rack controllers, and of the compares and fits that feed them. A block of low-rank factors is named by the Tun that holds it. -/
structure Rack where
  /-- The bank in which rounds enter this step's writes (R129). -/
  bank : Nat
  /-- Valid entries of the current bank and of the fold bank, by Tun. -/
  pend : SMap Nat
  foldPend : SMap Nat
  /-- Basins whose fold of the last boundary has not completed (R131). -/
  folding : List Nat
  /-- The epoch whose low 16 bits the running fold stamps. -/
  foldEpoch : Nat
  rounds : SMap PulseRound
  /-- Next queue position of a Tun, by Tun. -/
  cursor : SMap Nat
  /-- Tuns that start no further round in the step (R129). -/
  full : List Nat
  /-- Old queues of Tuns for which a compare has written a new one: the RACK slot in progress works on them to its end (R122, R137). -/
  oldQueue : SMap (List Byte)
  /-- Tuns whose current queue entry count is 0 (R134), and Tuns with a staged table (R121). -/
  lastQueued : SMap Nat
  staged : List Nat
  /-- The table that each Tun's last COMPARE named as its current one; a fold writes it where no sparge descriptor names a table of the Tun (R131). -/
  wotAddr : SMap Nat
  /-- Where each Tun's programmed image lies, named by the last full programming (R136). -/
  imgAddr : SMap Nat
  /-- Fits due, started, completed and waiting for a fold, by Tun; and the epoch of the last active fit (R134). -/
  fitDue : List Nat
  fitStarted : List Nat
  /-- Completed fits: Tun, destination and the factor bytes that the fold makes active. -/
  fitReady : List (Nat × Nat × List Byte)
  lastFit : SMap Nat
  /-- Racking settings in force: written values take effect at the next compare (R137). -/
  en : Bool
  minSteps : Nat
  thresh : Nat
  lrRefresh : Nat
  /-- The threshold that the compare of each cluster has taken at its start (R216). -/
  threshOf : SMap Nat
  deriving DecidableEq, Repr

/-! ### Kiln (chapter 6) -/

/-- A calibration run of one basin (R145 to R151). -/
structure KilnRun where
  measured : Bool
  tRun : Int
  /-- Tuns of the basin (0–63) that have completed. -/
  done : List Nat
  /-- Next unit of each Tun part-way through, and whether it has become MEASURED (R146). -/
  part : List (Nat × Nat × Bool)
  deriving DecidableEq, Repr

/-- State of the Kiln controller and its non-volatile calibration store. -/
structure Kln where
  runs : SMap (Option KilnRun)
  /-- Store codes that differ from manufacture: key (tun × 5 + set) × 2,048 + code index; set 4 is the manufacture gain. -/
  store : SMap Nat
  /-- Stored CRCs that differ from manufacture (R140): key tun × 5 + set; set 4 is the manufacture record. -/
  crc : SMap Nat
  /-- Degraded columns, as tun × 520 + column, and retired Tuns: the store's flags. -/
  degraded : List Nat
  retired : List Nat
  /-- Basins that have set KILN_STALE in their current run (R156). -/
  lagged : List Nat
  /-- Sets rewritten since the cold start, as tun × 4 + set (R152). -/
  rewritten : List Nat
  /-- Active trims and working copies: key tun × 2,048 + code index (columns 0–519 gain, 520–1039 offset, 1040–1055 reference). -/
  active : SMap Nat
  working : SMap Nat
  /-- MEASURED calibrations since the cold start and least ρ × 2¹⁶ at the last one, by Tun (Table 6.10). -/
  meas : SMap Nat
  rho : SMap Nat
  /-- Basin temperatures in 1/16 °C: the last unflagged diode result (R143). -/
  temp : SMap Int
  /-- Tuns inside a unit of a KILN slot with the working copy applied; the others compute with their active trims (R149). -/
  applied : List Nat
  /-- Tuns whose unit met an uncorrectable word in this KILN slot: they wait for the next one (R158). -/
  blocked : List Nat
  deriving DecidableEq, Repr

/-! ### Matrix clusters (chapter 8) -/

/-- The program position of a cluster's vector unit: instruction index, open loops as (first instruction, passes left). -/
structure VecPos where
  pc : Nat
  loops : List (Nat × Nat)
  /-- The program has met its final END. -/
  ended : Bool
  /-- The program was stopped by a bad instruction (R208). -/
  stopped : Bool
  /-- Open loops that are passed over because an enclosing LOOP counted 0 passes. -/
  skip : Nat
  deriving DecidableEq, Repr

/-- Histogram counts of one output of a task (R183, R213): the elements of each kind, and those of each binade. -/
structure HistAcc where
  fmt : Nat
  count : Nat
  zero : Nat
  inf : Nat
  nan : Nat
  ufl : Nat
  sat : Nat
  /-- ⌊log₂|x|⌋ of the finite nonzero elements, with how many. -/
  binades : List (Int × Nat)
  deriving DecidableEq, Repr

/-- State of the vector units: registers by (cluster, register, lane), scalars by (cluster, index), positions by cluster. -/
structure Mxc where
  vreg : SMap Nat
  sreg : SMap Nat
  pos : SMap VecPos
  /-- Issues of CVT that the running program has made for each destination, by cluster × 256 + destination code (R172, R176). -/
  elem : SMap Nat
  /-- Output table address of the running program, by cluster (R213). -/
  outTab : SMap Nat
  /-- Histogram counts of the running program, by cluster × 8 + output index, and those of its completed items (R184, R231). -/
  hist : SMap (Option HistAcc)
  histDone : SMap (Option HistAcc)
  deriving DecidableEq, Repr
/-! ### Training numerics (chapter 9) -/

/-- What the device has gathered for the token: the overflow vote, the saturated count, the trouble bits by layer
(bit 0 UFL, bit 1 SAT) and the saturated elements by layer (R226 to R231). -/
structure NumGather where
  vote : Bool
  sat : Nat
  trouble : SMap Nat
  ovfSat : SMap Nat
  deriving DecidableEq, Repr

structure Num where
  /-- Of this step up to the token frame, and of the frames after it (R228). -/
  now : NumGather
  next : NumGather
  /-- Direction of the last adjustment change by layer (R232). -/
  dir : SMap Int
  /-- UWR exponents EN and ED by layer (R240). -/
  en : SMap Int
  ed : SMap Int
  /-- Layers whose lane met the limit in the step, and layers left analog in a digital mode (R240, R223). -/
  uwrSat : List Nat
  analog : List Nat
  deriving DecidableEq, Repr


/-! ### What the last command sent out of the device -/

/-- An output of the device: the model's own record of what the last command sent, cleared when a command begins. -/
inductive Out where
  /-- A message handed to a port's transmitter, as its bytes (R304). -/
  | msg (port : Nat) (bytes : List Byte)
  /-- A CTRL flit with the sender's port number and its credit advertisement by channel (R299, R300). -/
  | ctrl (port number : Nat) (credits : List Nat)
  /-- A DATA or IDLE flit as it leaves the port: link header, payload and CRC (R299). -/
  | flit (port head : Nat) (payload : List Byte) (crc : Nat)
  /-- A write to host memory: completion entries, DMA data, HOST_PUT data. -/
  | hostWrite (addr : Nat) (bytes : List Byte)
  /-- A read of host memory. -/
  | hostRead (addr len : Nat)
  /-- An MSI-X message (R354). -/
  | msix (vector : Nat)
  /-- Data returned for a read. -/
  | data (value : Nat)
  | bytes (l : List Byte)
  /-- A refused or dead host read: Completer Abort with all-ones data (R380, R382). -/
  | completerAbort
  /-- A read refused by a function that is not in D0 (R346). -/
  | unsupportedRequest
  /-- The read data that precedes is marked poisoned (R340 class 5). -/
  | poisoned
  /-- An error response on an internal port (R380, R382). -/
  | portError
  /-- The mailbox event of a master (R373). -/
  | mailboxEvent (master : Nat)
  /-- A pulse on TICK_OUT. -/
  | tickOut
  /-- THERMTRIP# falls (R454). -/
  | thermTrip
  /-- An SPDM or IDE_KM response (R468, R471). -/
  | spdm (bytes : List Byte)
  deriving DecidableEq, Repr

/-! ### Gradient reduction and commit (chapter 10) -/

/-- One payload entry of a token (Table 10.5). -/
structure TokenEntry where
  n : Nat
  d : Nat
  req : Nat
  trb : Nat
  deriving DecidableEq, Repr

/-- A ready token or a result (Table 10.4). -/
structure Token where
  epoch : Nat
  count : Nat
  ok : Bool
  reasons : Nat
  armMin : Nat
  armMax : Nat
  vote : Bool
  hold : Bool
  short : Bool
  satcnt : Nat
  layers : Nat
  repeats : Nat
  entries : List TokenEntry
  deriving DecidableEq, Repr

/-- State of the reduction engine and of the commit. Packets are kept as their 4,224-byte bodies (Table 10.1) with a tag,
8 × axis + 0 RS, 1 AG, 2 PRE_X, 3 NOTICE, 4 REPLAY, 5 FETCH, and the time of arrival. -/
structure Red where
  inbox : List (Nat × Nat × List Byte)
  /-- The deadline of this frame's packets has passed (R261). -/
  past : Bool
  /-- Packets that the engine proceeded without: tag, bucket, packet. -/
  absent : List (Nat × Nat × Nat)
  hadAbsent : Bool
  /-- The same for packets missed after the token was formed, whose trouble falls to the next run (R53, R265). -/
  absentNext : List (Nat × Nat × Nat)
  hadAbsentNext : Bool
  /-- Buckets whose PRE_X exchange has ended in the step (R251), and packets of it already sent on. -/
  agreed : List Nat
  preSent : List (Nat × Nat)
  /-- Packets that came after their deadline and before the engine went on without them (R261). -/
  lateIn : List (Nat × Nat × Nat)
  /-- Buckets that this device owns and found faulted (R255, R258), as axis × 65,536 + bucket; those that an own notice has named, and those that other
  owners' notices have named (R259). -/
  ownFaults : List Nat
  noticed : List Nat
  known : List Nat
  /-- NONFINITE blocks of owned buckets, as (axis × 65,536 + bucket) × 8,192 + block: they take no part in replay (R255). -/
  nonfin : List Nat
  /-- The NOTICE task in hand: packets of the own notice already sent; packets dealt with, as (position, packet); the buckets that each position's notice
  names (R259). -/
  noticeSent : Nat
  noticeIn : List (Nat × Nat)
  noticeMap : List (Nat × List Nat)
  /-- NEED bytes of faulted buckets, by axis × 65,536 + bucket. -/
  need : SMap (List Byte)
  /-- Faulted buckets that REPLAY tasks of the step have taken, as axis × 65,536 + bucket, and the next packet of the one in hand. -/
  taken : List Nat
  replayPkt : Nat
  /-- Buckets replayed as owner in the step. -/
  replays : Nat
  /-- Epochs recorded by the PASS = 0 fetches of the step, by layer (R264). -/
  fetched : List (Nat × Nat)
  /-- Children's tokens, by port; the own contribution; whether the combined token has left. -/
  tokens : List (Nat × Token)
  own : Option Token
  sent : Bool
  /-- The held result (R268) and the results already flooded, by epoch and REPEATS (R267). -/
  result : Option Token
  seen : List (Nat × Nat)
  /-- The results flooded in the run before this one: a copy that comes after its boundary is discarded (R267). -/
  lastSeen : List (Nat × Nat)
  /-- A task of the token frame that feeds the token was stopped unfinished before the token was formed (R265). -/
  openWork : Bool
  /-- R405: HOLD goes into the next token. -/
  holdNext : Bool
  deriving DecidableEq, Repr

/-! ### Pounds (chapter 11) -/

/-- A barge being received: its sequence, bytes so far, length and late bit (R307). -/
structure BargeIn where
  seq : Nat
  got : Nat
  len : Nat
  late : Bool
  deriving DecidableEq, Repr

/-- An RX pound: expected sequence count, FILLED buffers with the frame in which they filled, and the barge in progress. -/
structure RxPound where
  expected : Nat
  filled : List (Nat × Nat)
  cur : Option BargeIn
  /-- Releases in the run (R308). -/
  released : Nat
  deriving DecidableEq, Repr

/-- A TX pound: credits held, sequence count sent and the highest RELEASED received (R308). -/
structure TxPound where
  credits : Nat
  sent : Nat
  released : Nat
  deriving DecidableEq, Repr

/-- Where a SEND task stands: the barge in its list, the bytes of it done, whether it holds its credit, whether it waited,
and whether a segment of it has left (R281). -/
structure SendPos where
  barge : Nat
  off : Nat
  credit : Bool
  waited : Bool
  left : Bool
  deriving DecidableEq, Repr

/-- A permute in progress (R289): moves not yet acknowledged, the incoming window and the bytes that must arrive. -/
structure Perm where
  unacked : List Nat
  base : Nat
  size : Nat
  expect : Nat
  deriving DecidableEq, Repr

structure Pnd where
  /-- RX pounds by index and TX pounds by place among the program's TX entries. -/
  rx : SMap (Option RxPound)
  tx : SMap (Option TxPound)
  sending : SMap (Option SendPos)
  /-- Buffers read while EMPTY whose barge is awaited: pound and buffer (R283). -/
  awaited : List (Nat × Nat)
  hadAwaited : Bool
  /-- The same for reads after the token was formed, whose trouble falls to the next run (R53, R265). -/
  awaitedNext : List (Nat × Nat)
  hadAwaitedNext : Bool
  /-- Barges of this run whose first segment was refused or never came, as sender, pound and sequence count: the rest is discarded uncounted (R279). -/
  refused : List (Nat × Nat × Nat)
  perm : Option Perm
  /-- Consecutive overrunning runs of the step (R284). -/
  overruns : Nat
  deriving DecidableEq, Repr

/-! ### Fabric (chapter 12) -/

/-- A DATA flit: its sequence number, its channel (2 × VC + DL) and the message it carries bytes of. -/
structure Flit where
  fseq : Nat
  /-- Its channel, 2 × VC + DL; the messages of which it carries bytes. -/
  ch : Nat
  msgs : List Nat
  /-- FMO, 0xFF where no message header starts in it; the payload without its fill. -/
  fmo : Nat
  payload : List Byte
  /-- It has waited for a link credit, and has been counted (R302). -/
  waited : Bool
  deriving DecidableEq, Repr

/-- The link layer of one port. -/
structure Link where
  /-- Next FSEQ to send, flits sent and not acknowledged, flits that wait for a credit or for replay room (R302, R303). -/
  next : Nat
  unacked : List Flit
  waiting : List Flit
  /-- Credits held and advertised by the peer, by channel. -/
  credits : SMap Nat
  limit : SMap Nat
  /-- Last FSEQ received in order, whether a DATA flit has been received (ACKV), whether a NAK is outstanding, consecutive replays without progress. -/
  rxLast : Nat
  ackv : Bool
  nak : Bool
  replays : Nat
  /-- Bytes of messages partly received, by channel. -/
  part : SMap (List Byte)
  /-- Bring-up: CTRL exchanged; latency samples in 0.1 ns, doubled; the probe awaiting its echo; next probe ID. -/
  ctrl : Bool
  samples : List Int
  probe : Option (Nat × Nat)
  probeId : Nat
  /-- CONFIRM received and agreed; the peer's answer is still awaited. -/
  confirmed : Bool
  /-- The next of VC2 and VC3 to be served is VC3 (R301). -/
  alt : Bool
  /-- DRIFT and REPLAY_MAX in force since bring-up (R327). -/
  drift : Nat
  replayMax : Nat
  /-- LAT of a retrained port, which takes effect when it becomes UP (R324). -/
  newLat : Nat
  deriving DecidableEq, Repr

/-- Discovery in progress (R314). -/
structure Disc where
  active : Bool
  /-- Origin: axes whose RING has not returned, and the sizes found. -/
  rings : List Nat
  sizes : List Nat
  hasCoord : Bool
  coord : List Nat
  shape : List Nat
  /-- Ports on which an ASSIGN has arrived; an ASSIGN disagreed. -/
  assigned : List Nat
  conflict : Bool
  /-- CENSUS received: port, count, error, latency. -/
  census : List (Nat × Nat × Bool × Nat)
  /-- ACC_LAT of a TEST tick on the primary upstream port. -/
  testLat : Option Nat
  sent : Bool
  done : Bool
  testNum : Nat
  deriving DecidableEq, Repr

structure Fab where
  links : SMap (Option Link)
  disc : Disc
  /-- PARTITION has been counted since the last step boundary (R325). -/
  partitioned : Bool
  nextMsg : Nat
  /-- Ports whose bring-up has completed or failed since it began, and ports that have lost a link. -/
  settled : List Nat
  lost : List Nat
  deriving DecidableEq, Repr

/-! ### Host interface (chapter 14) -/

/-- A submission ring (R350): host base, size, CQ, tail, fetch position; deletion has been asked for by a command. -/
structure Sq where
  base : Nat
  log2 : Nat
  cq : Nat
  tail : Nat
  fetch : Nat
  deriving DecidableEq, Repr

/-- A completion ring: base, size, vector, coalescing, head, write position, phase, entries reserved and unsignalled. -/
structure Cq where
  base : Nat
  log2 : Nat
  vector : Nat
  coalCount : Nat
  coalUs : Nat
  head : Nat
  pos : Nat
  phase : Bool
  reserved : Nat
  unsig : Nat
  deriving DecidableEq, Repr

/-- A command: its descriptor (Table 14.3) and where its completion goes. -/
structure Cmd where
  op : Nat
  flags : Nat
  cid : Nat
  rsv : Nat
  p : List Nat
  sq : Nat
  cq : Nat
  sqHead : Nat
  deriving DecidableEq, Repr

/-- A completion that waits for D0 (R365). -/
structure Held where
  cq : Nat
  bytes : List Byte
  deriving DecidableEq, Repr

structure Hif where
  sqs : SMap (Option Sq)
  cqs : SMap (Option Cq)
  /-- Descriptors fetched and not yet dispatched, and commands in progress. -/
  ready : List Cmd
  prog : List Cmd
  /-- The SQ from which a command was taken last (R352). -/
  lastSq : Nat
  /-- The PERMUTE command whose permute runs (R289). -/
  permCmd : Option Cmd
  /-- The step CQ, the CID of the RUN or RESUME that started the steps, and the count of step completions. -/
  stepCq : Option Nat
  stepCid : Nat
  stepSeq : Nat
  msixTab : SMap Nat
  msixPend : List Nat
  /-- 0 D0, 1 D3hot, 2 D3cold, and completions that wait for D0. -/
  power : Nat
  waiting : List Held
  /-- log₂ of the BAR4 window size (Table 14.2): 30 to 40, 36 unless PCIe configuration resizes it. -/
  bar4Log2 : Nat
  deriving DecidableEq, Repr

/-! ### Firmware and mailboxes (chapter 15) -/

/-- One direction of a channel: words, oldest first; words of the front message still in the queue or to come after its header
was removed; payload words still to be written of the last message; words to discard (R372 to R374). -/
structure MQueue where
  words : List Nat
  front : Nat
  open_ : Nat
  skip : Nat
  tmo : Bool
  deriving DecidableEq, Repr

structure Mbx where
  /-- Queues by 2 × channel (toward end B) and 2 × channel + 1 (toward end A). -/
  q : SMap (Option MQueue)
  /-- Pairs whose doorbell has been taken. -/
  rung : List Nat
  /-- MGMT messages waiting for Acisk: source and bytes; SEQ of those sent. -/
  mgmt : List (Nat × List Byte)
  mgmtSeq : Nat
  /-- The least severe level logged (Table 15.8), and the next sequence numbers of log and trace (R387). -/
  logLevel : Nat
  logSeq : Nat
  traceSeq : Nat
  alarmSeq : Nat
  /-- VDDIO is present (towpath domain), and the MGMT domain is up (Table 15.6). -/
  vddio : Bool
  mgmtUp : Bool
  /-- An Acisk image runs; its header bytes (Table 15.2); the header of the last cask read. -/
  header : List Byte
  caskHdr : List Byte
  /-- Bytes of an image staged for a handover: verified and waiting in the other bank. -/
  staged : Bool
  deriving DecidableEq, Repr

/-! ### Faults (chapter 16) -/

/-- The sentinel record of one unit (an MXC, or 128 + basin): SENTINEL slots counted, the basin's cursor, the next pack entry, and
whether every applicable pack entry has run since PASSES last rose (R402, R408). -/
structure SentUnit where
  slots : Nat
  cursor : Nat
  packPos : Nat
  wrapped : Bool
  deriving DecidableEq, Repr

/-- A pending retest (R404): an MXC, or 128 + Tun; the pack bank and entry that failed, none for the built-in entry; the cause and the
step epoch of the first mismatch. -/
structure Retest where
  who : Nat
  pack : Option (Nat × Nat)
  cause : Nat
  epoch : Nat
  deriving DecidableEq, Repr

structure Flt where
  units : SMap (Option SentUnit)
  /-- Retests pending (R404). -/
  retests : List Retest
  /-- Completed check counts by Tun (R402). -/
  checks : SMap Nat
  /-- FLT_CFG in force (R419). -/
  tunAction : Nat
  mxcAction : Nat
  tpackLog2 : Nat
  /-- The two ledger copies and the SEQ of the last write (R415, R416). -/
  ledger0 : List Byte
  ledger1 : List Byte
  seq : Nat
  /-- A ledger word read uncorrectable: FAULT follows the freeze (R340 class 3). -/
  ledgerFault : Bool
  /-- Retention signatures by Tun (R417). -/
  sig : SMap Nat
  /-- Test pattern packs: bank of the active one and of the staged one. -/
  packActive : Option Nat
  packStaged : Option Nat
  deriving DecidableEq, Repr

/-! ### Gauge (chapter 17) -/

/-- A monitor (R435). -/
structure Mon where
  min : Int
  max : Int
  count : Nat
  bins : SMap Nat
  base : Int
  w : Nat
  deriving DecidableEq, Repr

/-- A conversion in progress: list (4 for an urgent one), place in the pass, channel, the basin whose calibration makes it stale
(R430), and what it has overlapped. -/
structure Conv where
  list : Nat
  entry : Nat
  chan : Nat
  rest : List Nat
  basin : Option Nat
  stale : Bool
  rs : Bool
  deriving DecidableEq, Repr

structure Gau where
  mons : SMap (Option Mon)
  /-- The conversion of each converter and the passes that wait, oldest first. -/
  conv : SMap (Option Conv)
  wait : SMap (List Nat)
  /-- Alarm state by 2 × channel (LO) and 2 × channel + 1 (HI). -/
  alarm : List Nat
  deriving DecidableEq, Repr

/-! ### Start, reset and power (chapter 18) -/

/-- A start in progress: cold or warm, its stage, the command that began it. -/
structure Start where
  cold : Bool
  stage : Nat
  cmd : Option Cmd
  /-- Stack settings, results and measurements that later stages need. -/
  badMxc : List Nat
  kiln : List KilnMeas
  reload : Bool
  /-- HELLO is awaited before the end (R391). -/
  helloWait : Bool
  deriving DecidableEq, Repr

structure Pwr where
  start : Option Start
  /-- Diodes at or above their release level. -/
  hot : List Nat
  /-- Clocks are stopped after a TRIP (R454). -/
  tripped : Bool
  deriving DecidableEq, Repr

/-! ### Security (chapter 19) -/

/-- A secured SPDM session (R468): its identifier and whether FINISH has completed it. -/
structure Session where
  id : Nat
  done : Bool
  /-- Key updates made. -/
  keys : Nat
  deriving DecidableEq, Repr

structure Sec where
  /-- Burned fuse bits: firmware and certificate floors. -/
  fwMin : Nat
  certMin : Nat
  /-- SVN and MIN_CERT_SVN to commit (R466). -/
  commit : Option (Nat × Nat)
  /-- Measurement blocks 2 and 3, and the calibration epoch (R470). -/
  fwDigest : List Byte
  calEpoch : Nat
  sessions : List Session
  nextSession : Nat
  /-- SEC_LOCK has been written (R475). -/
  locked : Bool
  /-- SPDM negotiation: 0 none, 1 VERSION given, 2 CAPABILITIES given, 3 ALGORITHMS given. -/
  phase : Nat
  /-- IDE key slots programmed and active: key set × 8 + direction × 4 + substream (R471). -/
  keys : List Nat
  going : List Nat
  deriving DecidableEq, Repr

/-- The device: everything but the queue of waiting commands. -/
structure Dev where
  /-- Register fields that differ from their reset value, by field key (R11, R14). -/
  regs : SMap Nat
  /-- The counters of Table 20.8, by BAR0 offset (R15). -/
  cnt : SMap Nat
  /-- The upper halves latched by 4-byte reads of lower halves (R16), by register offset. -/
  latch : SMap (Option Nat)
  /-- Device memory, HBM and local stores (R330): bytes that differ from what an unlisted address reads as. -/
  mem : List Host.Cell
  /-- How often the local stores have lost their contents (R441): their unlisted bytes are free values of this epoch. -/
  lsEpoch : Nat
  /-- SPLIT in force: `MEM_CFG.SPLIT` as it stood at the last HBM_INIT (R332). -/
  split : Nat
  /-- 8-byte words whose data reads as poisoned (R338, R339), by address / 8. -/
  poison : List Nat
  /-- How many free values have been drawn: the model's own counter, not a state of the hardware. -/
  draws : Nat
  frm : Frm
  variants : SMap (Option Variant)
  /-- Slots in progress, by unit key. -/
  run : SMap (Option Running)
  /-- Buffers marked late: address and length (R48, R49). -/
  late : List (Nat × Nat)
  /-- Weight levels held in the cells, by Tun × 2¹⁹ + row × 2⁹ + column (R61). -/
  cells : SMap Int
  rmOpen : SMap RmTun
  rmStats : SMap (Option RmStats)
  spg : Spg
  rack : Rack
  kln : Kln
  mxc : Mxc
  num : Num
  red : Red
  pnd : Pnd
  fab : Fab
  hif : Hif
  mbx : Mbx
  flt : Flt
  gau : Gau
  pwr : Pwr
  sec : Sec
  /-- TP_MODE as sampled at PERST# deassertion: the towpath runs I3C, not SMBus (R492). -/
  tpMode : Bool
  /-- Towpath offsets 0x00 to 0x20 as last refreshed (R495). -/
  tp : List Nat
  /-- What the last command sent out. -/
  out : List Out
  deriving DecidableEq, Repr
/-! ### The device right after a power-on reset -/

def Frm.reset : Frm :=
  { origin := false, cfg := ⟨false, 4, 2, 600⟩, acquired := false, nextTick := 0, lastEmit := 0, nextEmit := 0, emitting := false
    frameStart := 0, switchAt := none, pending := none, queued := [], backup := none, early := [], forwarded := [], misses := 0, frozen := false
    freezeDue := none, inFrame := false, begun := [], frameLate := false, slack := none, stepMin := none, ok := true, reasons := 0, nextOk := true, nextReasons := 0
    frameOver := false, overran := false, tokenFormed := false, runId := 0, stepOpen := false, startTick := none, resumeTick := none
    quiesceAt := none, updateAt := none, grantDue := false }

def Spg.reset : Spg :=
  { pool := [], work := [], stats := [], nextStats := [], hold := [], request := [], fbEn := true, fbHold := 16, escMin := 0
    exhaust := 4, lstat := 0 }

def Rack.reset : Rack :=
  { bank := 0, pend := [], foldPend := [], folding := [], foldEpoch := 0, rounds := [], cursor := [], full := [], oldQueue := []
    lastQueued := [], staged := [], wotAddr := [], imgAddr := [], fitDue := [], fitStarted := [], fitReady := [], lastFit := []
    en := true, minSteps := 8, thresh := 192, lrRefresh := 256, threshOf := [] }

def Kln.reset : Kln :=
  { runs := [], store := [], crc := [], degraded := [], retired := [], lagged := [], rewritten := [], active := [], working := []
    meas := [], rho := [], temp := [], applied := [], blocked := [] }

def Mxc.reset : Mxc := ⟨[], [], [], [], [], [], []⟩
def Num.reset : Num := ⟨⟨false, 0, [], []⟩, ⟨false, 0, [], []⟩, [], [], [], [], []⟩

def Red.reset : Red :=
  { inbox := [], past := false, absent := [], hadAbsent := false, absentNext := [], hadAbsentNext := false, agreed := [], preSent := [], ownFaults := [], noticed := [], known := [], nonfin := []
    lateIn := [], lastSeen := [], openWork := false, noticeSent := 0
    noticeIn := [], noticeMap := [], need := [], taken := [], replayPkt := 0, replays := 0, fetched := [], tokens := [], own := none
    sent := false, result := none, seen := [], holdNext := false }

def Pnd.reset : Pnd := ⟨[], [], [], [], false, [], false, [], none, 0⟩
def Disc.reset : Disc := ⟨false, [], [], false, [], [], [], false, [], none, false, false, 0⟩
def Fab.reset : Fab := ⟨[], Disc.reset, false, 0, [], []⟩

def Hif.reset : Hif :=
  { sqs := [], cqs := [], ready := [], prog := [], lastSq := 0xFFFF, stepCq := none, stepCid := 0, stepSeq := 0, msixTab := [], msixPend := []
    power := 0, waiting := [], bar4Log2 := 36, permCmd := none }

def Mbx.reset : Mbx :=
  { q := [], rung := [], mgmt := [], mgmtSeq := 0, logLevel := 0, logSeq := 0, traceSeq := 0, alarmSeq := 0, vddio := true, mgmtUp := false
    header := [], caskHdr := [], staged := false }

def Flt.reset : Flt :=
  { units := [], retests := [], checks := [], tunAction := 1, mxcAction := 1, tpackLog2 := 4, ledger0 := [], ledger1 := [], seq := 0
    ledgerFault := false, sig := [], packActive := none, packStaged := none }

def Gau.reset : Gau := ⟨[], [], [], []⟩
def Pwr.reset : Pwr := ⟨none, [], false⟩

def Sec.reset : Sec :=
  { fwMin := 0, certMin := 0, commit := none, fwDigest := List.replicate 64 0, calEpoch := 0, sessions := [], nextSession := 0
    locked := false, phase := 0, keys := [], going := [] }

/-- Every register at the reset value of its field map, every counter 0 (R14, R15): HIF_STATE.STATE resets to ROM. -/
def Dev.reset : Dev :=
  { regs := [], cnt := [], latch := [], mem := [], lsEpoch := 0, split := 0, poison := [], draws := 0, frm := Frm.reset
    variants := [], run := [], late := [], cells := [], rmOpen := [], rmStats := [], spg := Spg.reset, rack := Rack.reset
    kln := Kln.reset, mxc := Mxc.reset, num := Num.reset, red := Red.reset, pnd := Pnd.reset, fab := Fab.reset, hif := Hif.reset
    mbx := Mbx.reset, flt := Flt.reset, gau := Gau.reset, pwr := Pwr.reset, sec := Sec.reset, tpMode := false, tp := [], out := [] }

/-- The state of the model: the device and the commands that wait, first in, first out. -/
structure State where
  dev : Dev
  pending : List Instr
  deriving DecidableEq, Repr

/-- The machine right after reset, with no command waiting. -/
def State.reset : State := ⟨Dev.reset, []⟩

end Sys2Proof.Machine
end

