-- ==== Sys2Proof/Machine/Ops.lean ====
section
/-!
DEFINITION. The named operations over the device: registers, counters, sticky bits, memory, late marks, running slots
and free values.
-/

namespace Sys2Proof.Machine

/-- The device with an empty record of what it sent. -/
def Dev.quiet (d : Dev) : Dev := { d with out := [] }

/-- Run a device transformer as a command, whatever the device's power: it always completes and leaves the queue alone. What the
device sends is recorded afresh. -/
def State.always (s : State) (f : Dev → Dev) : Host.Outcome State Fault Refusal :=
  .next ⟨f s.dev.quiet, s.pending⟩

/-- Does the device run at all? Not in OFF (Table 14.7), and not with its clocks stopped by a thermal trip (R454). -/
def Dev.powered (d : Dev) : Bool := SMap.get fieldReset d.regs Reg.HIF_STATE_STATE.key != 0 && !d.pwr.tripped

/-- Run a device transformer as a command of a powered device; without power the device does nothing. -/
def State.run (s : State) (f : Dev → Dev) : Host.Outcome State Fault Refusal :=
  s.always fun d => if d.powered then f d else d

/-- Send something out of the device. -/
def Dev.emit (d : Dev) (o : Out) : Dev := { d with out := d.out ++ [o] }

/-! ### Registers, counters, sticky bits -/

/-- The value of a register field. -/
def Dev.fld (d : Dev) (f : Field) : Nat := SMap.get fieldReset d.regs f.key

/-- Set a register field; bits above the field's width are dropped. -/
def Dev.setFld (d : Dev) (f : Field) (v : Nat) : Dev :=
  { d with regs := SMap.set fieldReset d.regs f.key (v % 2 ^ f.w) }

/-- Is a one-bit field 1? -/
def Dev.flag (d : Dev) (f : Field) : Bool := d.fld f == 1

/-- A register as one number, from its fields as State holds them. -/
def Dev.raw (d : Dev) (off : Nat) : Nat :=
  match regAt off with
  | none => 0
  | some r => (r.fields.map fun f => d.fld ⟨off, f.lo, f.hi - f.lo + 1⟩ * 2 ^ f.lo).sum

/-- Set every field of a register from one number. -/
def Dev.setRaw (d : Dev) (off v : Nat) : Dev :=
  match regAt off with
  | none => d
  | some r => r.fields.foldl (fun d f => d.setFld ⟨off, f.lo, f.hi - f.lo + 1⟩ (v / 2 ^ f.lo)) d

/-- The signed reading of a field. -/
def Dev.sfld (d : Dev) (f : Field) : Int := sgn f.w (d.fld f)

/-- Where a counter stops (R15). -/
def cntMax : Nat := 2 ^ 48 - 1

/-- The value of a counter: 0 at power-on (R15). -/
def Dev.count (d : Dev) (c : Nat) : Nat := SMap.get (fun _ => 0) d.cnt c

/-- Count `n` events; a counter stays at its maximum (R15). -/
def Dev.bumpBy (d : Dev) (c n : Nat) : Dev :=
  { d with cnt := SMap.set (fun _ => 0) d.cnt c (min cntMax (d.count c + n)) }

/-- Count one event. -/
def Dev.bump (d : Dev) (c : Nat) : Dev := d.bumpBy c 1

/-- Draw a free value. -/
def Dev.draw (d : Dev) : Nat × Dev := (Config.free d.draws, { d with draws := d.draws + 1 })

/-! ### Device states (Table 14.7) -/

namespace DS
def off : Nat := 0
def rom : Nat := 1
def awaitImage : Nat := 2
def booting : Nat := 3
def ready : Nat := 4
def loaded : Nat := 5
def running : Nat := 6
def held : Nat := 7
def quiesced : Nat := 8
def refused : Nat := 9
def fault : Nat := 10
end DS

/-- HIF_STATE.STATE. -/
def Dev.st (d : Dev) : Nat := d.fld Reg.HIF_STATE_STATE

/-- The states in which ticks are emitted, accepted and forwarded: a frame program is active (R30). -/
def Dev.ticking (d : Dev) : Bool :=
  d.st == DS.loaded || d.st == DS.running || d.st == DS.held || d.st == DS.quiesced

/-! ### Memory -/

/-- Where the local store windows of Table 13.1 begin. -/
def lsBase : Nat := 0x080000000000

/-- What a byte that nothing has written reads as: HBM reads 0, since HBM_INIT writes every HBM location with zero data (R442);
the local stores' contents are undefined (R441), a free value of the epoch. -/
def memDefault (epoch : Nat) : Nat → Byte := fun a => if a < lsBase then 0 else Config.localStore epoch a

/-- Read one byte of device memory. -/
def Dev.byte (d : Dev) (a : Nat) : Byte := SMap.get (memDefault d.lsEpoch) d.mem a

/-- Write one byte of device memory. -/
def Dev.setByte (d : Dev) (a : Nat) (b : Byte) : Dev := { d with mem := SMap.set (memDefault d.lsEpoch) d.mem a b }

/-- Read `n` bytes of device memory. -/
def Dev.read (d : Dev) (a n : Nat) : List Byte := (List.range n).map fun i => d.byte (a + i)

/-- Write bytes to a memory list. -/
def memWrite (epoch : Nat) : List Host.Cell → Nat → List Byte → List Host.Cell
  | m, _, [] => m
  | m, a, b :: bs => memWrite epoch (SMap.set (memDefault epoch) m a b) (a + 1) bs

/-- Does a write of `n` bytes at `a` cover the whole of 8-byte word `w`? -/
def coversWord (a n w : Nat) : Bool := a ≤ 8 * w && 8 * w + 8 ≤ a + n

/-- Write bytes to device memory. A write that covers a whole word stores fresh check bits (R338, R339). -/
def Dev.write (d : Dev) (a : Nat) (bs : List Byte) : Dev :=
  { d with mem := memWrite d.lsEpoch d.mem a bs, poison := d.poison.filter fun w => !coversWord a bs.length w }

/-- Write zeros to device memory. HBM reads 0 where nothing is listed. -/
def Dev.zeroFill (d : Dev) (a n : Nat) : Dev :=
  if a + n ≤ lsBase then
    { d with mem := d.mem.filter fun c => !(a ≤ c.1 && c.1 < a + n), poison := d.poison.filter fun w => !coversWord a n w }
  else d.write a (List.replicate n 0)

/-- Read a little-endian number of `n` bytes. -/
def Dev.rd (d : Dev) (a n : Nat) : Nat := leNat (d.read a n)

/-- Write a little-endian number of `n` bytes. -/
def Dev.wr (d : Dev) (a n v : Nat) : Dev := d.write a (natLe n v)

def gib : Nat := 2 ^ 30

/-- Does [a, a + n) lie inside [base, base + size)? -/
def inside (a n base size : Nat) : Bool := base ≤ a && a + n ≤ base + size

/-- Table 13.1: a range that lies in one of the HBM ranges. -/
def Dev.hbm (d : Dev) (a n : Nat) : Bool :=
  inside a n 0 (24 * (36 - d.split) * gib) ||
  inside a n 0x010000000000 (12 * d.split * gib) ||
  inside a n 0x020000000000 (12 * d.split * gib)

/-- The local store window of a basin and of a cluster (Table 13.1). -/
def basinBase (b : Nat) : Nat := 0x080000000000 + b * 0x200000
def mxcBase (c : Nat) : Nat := 0x090000000000 + c * 0x280000
def basinSize : Nat := 0x200000
def mxcSize : Nat := 0x280000

def inBasin (b a n : Nat) : Bool := inside a n (basinBase b) basinSize
def inMxc (c a n : Nat) : Bool := inside a n (mxcBase c) mxcSize

/-- The basin or cluster whose window holds an address. -/
def basinOf (a : Nat) : Option Nat :=
  if inside a 1 (basinBase 0) (32 * basinSize) then some ((a - basinBase 0) / basinSize) else none
def mxcOf (a : Nat) : Option Nat :=
  if inside a 1 (mxcBase 0) (128 * mxcSize) then some ((a - mxcBase 0) / mxcSize) else none

/-- R330: is every byte of [a, a + n) mapped? The windows of the basins follow one another, as do those of the clusters. -/
def Dev.mapped (d : Dev) (a n : Nat) : Bool :=
  d.hbm a n || inside a n (basinBase 0) (32 * basinSize) || inside a n (mxcBase 0) (128 * mxcSize)

/-- R331: the stack of an HBM address. -/
def stackOf (a : Nat) : Nat :=
  if a < 0x010000000000 then a / 4096 % 24
  else if a < 0x020000000000 then (a - 0x010000000000) / 4096 % 12
  else 12 + (a - 0x020000000000) / 4096 % 12

/-- R331: the stack offset of an HBM address. -/
def stackOffset (split a : Nat) : Nat :=
  if a < 0x010000000000 then split * gib + a / 4096 / 24 * 4096 + a % 4096
  else
    let r := if a < 0x020000000000 then a - 0x010000000000 else a - 0x020000000000
    r / 4096 / 12 * 4096 + r % 4096

/-! ### Trace points (R389), sticky bits and state changes -/

/-- Base of the firmware region (R369). -/
def Dev.fwRegion (d : Dev) : Nat := d.fld Reg.MBX_FW_REGION_BASE * gib

/-- Write a trace record where the point's mask bit is 1. The quanta within the frame are a free value of the timestamp. -/
def Dev.trace (d : Dev) (point src arg0 arg1 : Nat) : Dev :=
  if bit (d.fld (Reg.MBX_TRACE_MASK_EN (point / 64))) (point % 64) then
    let head := d.fld Reg.MBX_TRACE_HEAD_COUNT
    let tick := d.fld Reg.FRM_TICK_NUM_NUM
    let ts := if d.frm.acquired then tick * 65536 + Config.free d.draws % 65536 else 0
    let rec_ := natLe 8 ts ++ natLe 4 d.mbx.traceSeq ++ natLe 1 point ++ natLe 1 src ++ [0, 0] ++ natLe 8 arg0 ++ natLe 8 arg1
    let d := d.write (d.fwRegion + 0x0D000000 + 32 * (head % 2097152)) rec_
    let d := { d.setFld Reg.MBX_TRACE_HEAD_COUNT (head + 1) with
                 draws := d.draws + 1, mbx := { d.mbx with traceSeq := (d.mbx.traceSeq + 1) % 2 ^ 32 } }
    if (head + 1) % 2097152 = 0 then d.bump Cnt.MBX_TRACE_WRAP_CNT else d
  else d

/-- Set a sticky bit of FLT_STK0 (R17). -/
def Dev.sticky (d : Dev) (f : Field) : Dev :=
  if d.flag f then d else (d.setFld f 1).trace 134 0 f.lo 0

/-- Enter a device state (Table 14.7). -/
def Dev.setSt (d : Dev) (v : Nat) : Dev :=
  if d.st = v then d else (d.setFld Reg.HIF_STATE_STATE v).trace 131 0 d.st v

/-! ### Slots in progress and late marks -/

/-- The key of a unit, with the Tun of a single-Tun basin slot (0xFF for all). -/
def unitKey (cls idx sub : Nat) : Nat := (cls * 256 + idx) * 256 + sub

def Dev.running? (d : Dev) (k : Nat) : Option Running := SMap.get (fun _ => none) d.run k

def Dev.setRunning (d : Dev) (k : Nat) (r : Option Running) : Dev :=
  { d with run := SMap.set (fun _ => none) d.run k r }

/-- Change a unit's running record, where it has one. -/
def Dev.onRunning (d : Dev) (k : Nat) (f : Running → Running) : Dev :=
  match d.running? k with
  | some r => d.setRunning k (some (f r))
  | none => d

/-! Repeat reasons, as bits of the REASONS mask. -/
namespace Reason
def late : Nat := 1
def missing : Nat := 2
def shardVer : Nat := 3
def lpTrouble : Nat := 4
def uncorrData : Nat := 5
def frameOverrun : Nat := 6
end Reason

/-- Record own trouble: the OK flag becomes 0 with a reason. After the token is formed it falls to the next step (R265). -/
def Dev.trouble (d : Dev) (reason : Nat) : Dev :=
  if d.frm.tokenFormed then { d with frm := { d.frm with nextOk := false, nextReasons := setBit d.frm.nextReasons reason } }
  else { d with frm := { d.frm with ok := false, reasons := setBit d.frm.reasons reason } }

/-- The current frame is the token frame, the last of the step (R46, R265). -/
def Dev.lastFrame (d : Dev) : Bool := d.fld Reg.FRM_STEP_POS_FRAME + 1 == d.fld Reg.FRM_STEP_POS_STEP_FRAMES

/-- Mark a buffer late (R48, R49); an empty buffer is not marked. -/
def Dev.markLate (d : Dev) (a n : Nat) : Dev :=
  if n = 0 then d else { d with late := (a, n) :: d.late }

/-- Is any byte of a range marked late? -/
def Dev.isLate (d : Dev) (a n : Nat) : Bool := d.late.any fun r => rangesOverlap r.1 r.2 a n

/-- A variant slot. -/
def Dev.variant (d : Dev) (v : Nat) : Option Variant := SMap.get (fun _ => none) d.variants v

def Dev.active (d : Dev) : Nat := d.fld Reg.FRM_STATUS_ACTIVE
def Dev.armed (d : Dev) : Nat := d.fld Reg.FRM_STATUS_ARMED

/-- The image of the active variant; empty where none is active. -/
def Dev.program (d : Dev) : List Byte :=
  match d.variant d.active with
  | some v => v.image
  | none => []

/-- Does a word lie in the device memory of a variant slot? -/
def Dev.inVariant (d : Dev) (v a : Nat) : Bool :=
  match d.variant v with
  | some x => x.valid && x.ranges.any fun r => inside a 1 r.1 r.2
  | none => false

/-- Does a freeze of this cause let a boundary at the freezing frame_start be applied first (R412, R453)? The causes 6, 7 and 8 freeze
at the end of the current frame (R36, R282, R340). -/
def softCause (cause : Nat) : Bool := cause == 4 || cause == 5

/-- Ask for a freeze at the next frame_start. The first cause stands, but that one of the end of the frame displaces one of the next
frame_start, and one that keeps a formed token back (R282) displaces one that lets it go (R340). -/
def Dev.freeze (d : Dev) (cause : Nat) : Dev :=
  match d.frm.freezeDue with
  | some c => if (softCause c && !softCause cause) || (c == 8 && cause == 7 && d.frm.tokenFormed) then { d with frm := { d.frm with freezeDue := some cause } } else d
  | none => { d with frm := { d.frm with freezeDue := some cause } }

/-- R340: an uncorrectable word at address `a` is recorded with its class. -/
def Dev.noteUncorr (d : Dev) (a cls : Nat) : Dev :=
  let src := if (basinOf a).isSome then 1 else if (mxcOf a).isSome then 2 else 0
  (((d.setFld Reg.MEM_UNCORR_LAST_CLASS cls).setFld Reg.MEM_UNCORR_LAST_SOURCE src).setFld
    Reg.MEM_UNCORR_LAST_STACK (if src = 0 then stackOf a else 0)).setFld Reg.MEM_UNCORR_LAST_ADDR a

/-- Class 5: recorded and counted, and nothing else (R340). -/
def Dev.uncorrIdle (d : Dev) (a : Nat) : Dev := (d.noteUncorr a 5).bump Cnt.MEM_UNCORR_IDLE_CNT

/-- R340: the action on an uncorrectable word at address `a`. `task` is true for a task, a port or the reduction engine.
Classes 1, 2, 4 and 5; class 3, the ledger store, is not device memory. -/
def Dev.uncorr (d : Dev) (task : Bool) (a : Nat) : Dev :=
  let note := fun (d : Dev) (cls : Nat) => d.noteUncorr a cls
  if d.inVariant d.active a || (d.armed != 0xFF && d.inVariant d.armed a) then
    ((((note d 1).sticky Reg.FLT_STK0_UNCORR_MEM).bump Cnt.MEM_UNCORR_HALT_CNT)).freeze 8
  else
    match (List.range 8).find? fun v => d.inVariant v a with
    | some v =>
      let d := ((note d 2).sticky Reg.FLT_STK0_UNCORR_MEM).bump Cnt.MEM_UNCORR_IDLE_CNT
      let d := d.setFld (Reg.FRM_VAR_INFO_VALID v) 0
      { d with variants := SMap.set (fun _ => none) d.variants v ((d.variant v).map fun x => { x with valid := false }) }
    | none =>
      if task && d.st == DS.running then
        ((note d 4).bump Cnt.MEM_UNCORR_STEP_CNT).trouble Reason.uncorrData
      else d.uncorrIdle a

/-- R338, R339: what the memories report while a command reads: corrected words are counted (and written back unchanged),
words found uncorrectable read as poisoned from here on. -/
def Dev.ecc (d : Dev) (e : Ecc) : Dev :=
  let d := e.corrected.foldl (fun d a =>
    if d.hbm a 1 then d.bump (Cnt.MEM_HBM_CORR_CNT (stackOf a)) else d.bump Cnt.MEM_LS_CORR_CNT) d
  { d with poison := e.failed.foldl (fun p a => if p.contains (a / 8) then p else (a / 8) :: p) d.poison }

/-- The poisoned words of a range. -/
def Dev.poisoned (d : Dev) (a n : Nat) : List Nat :=
  d.poison.filter fun w => rangesOverlap (8 * w) 8 a n

/-- A unit's task reads its input buffers: late input makes its outputs late and clears the OK flag (R49, R52), counted
once per task; a poisoned word acts by its class the first time the task meets it, and makes the outputs late (R340). -/
def Dev.consume (d : Dev) (k : Nat) (ranges : List (Nat × Nat)) : Dev :=
  let isLate := ranges.any fun r => d.isLate r.1 r.2
  let was := match d.running? k with | some r => (r.late, r.bad) | none => (false, [])
  let bad := (ranges.flatMap fun r => d.poisoned r.1 r.2).dedup.filter fun w => !was.2.contains w
  let d := if isLate && !was.1 then (d.bump Cnt.FRM_LATE_IN_CNT).trouble Reason.late else d
  let d := bad.foldl (fun d w => d.uncorr true (8 * w)) d
  if isLate || !bad.isEmpty then d.onRunning k fun r => { r with late := true, bad := bad ++ r.bad } else d

/-- A controller that runs no task of a slot reads device memory in a step: a poisoned word acts by its class (R340). -/
def Dev.readStep (d : Dev) (ranges : List (Nat × Nat)) : Dev :=
  (ranges.flatMap fun r => d.poisoned r.1 r.2).dedup.foldl (fun d w => d.uncorr true (8 * w)) d

/-- R47, R201: a count above ITEMS, in a count word or in the table of a BWD_WOT slot: its task runs to the slot end and overruns. -/
def Running.beyondItems (r : Running) (cls : Nat) : Bool :=
  (r.slot.dataDep || (cls == 2 && rdLe r.desc 0 2 == 0x31)) && decide (r.planned < r.total)

/-- Is a unit's running task late? -/
def Dev.taskLate (d : Dev) (k : Nat) : Bool := match d.running? k with | some r => r.late | none => false

/-- A unit's task has written its output buffers: they are late when the task is (R49). -/
def Dev.produce (d : Dev) (k : Nat) (ranges : List (Nat × Nat)) : Dev :=
  if d.taskLate k then ranges.foldl (fun d r => d.markLate r.1 r.2) d else d

/-- The current step epoch (RED_EPOCH). -/
def Dev.epoch (d : Dev) : Nat := d.fld Reg.RED_EPOCH_EPOCH

/-! ### LAYER entries (Table 4.8) and the template of the current frame -/

/-- One LAYER entry of the active variant. -/
structure LayerEntry where
  layer : Nat
  weir : Nat
  lrRank : Nat
  wideAttn : Nat
  memPolicy : Nat
  deriving DecidableEq, Repr

def parseLayer (e : List Byte) : LayerEntry :=
  ⟨rdLe e 0 2, rdLe e 2 1, rdLe e 3 1, rdLe e 4 1, rdLe e 5 1⟩

/-- The LAYER entries of an image. -/
def imgLayers (i : List Byte) : List LayerEntry := (imgEntries i 7).map parseLayer

/-- The LAYER entry of a layer in the active variant. -/
def Dev.layerEntry (d : Dev) (l : Nat) : Option LayerEntry := (imgLayers d.program).find? fun e => e.layer == l

/-- Layer `l` is granted for the current step (Table 4.15). -/
def Dev.granted (d : Dev) (l : Nat) : Bool := bit (d.fld (Reg.SPG_GRANT_GRANT (l / 64))) (l % 64)

def Dev.setGranted (d : Dev) (l : Nat) (g : Bool) : Dev :=
  let f := Reg.SPG_GRANT_GRANT (l / 64)
  d.setFld f (if g then setBit (d.fld f) (l % 64) else clearBit (d.fld f) (l % 64))

/-- The template of the current frame (R46). -/
def Dev.template (d : Dev) : Option Nat := templateAt (imgSeq d.program) (d.fld Reg.FRM_STEP_POS_FRAME)

/-- The slots of a unit in the current frame. -/
def Dev.slots (d : Dev) (cls idx : Nat) : List Slot :=
  match d.template with
  | some t => imgSlots d.program cls idx t
  | none => []

end Sys2Proof.Machine
end

