-- ==== Sys2Proof/Machine/Philox.lean ====
section
/-!
DEFINITION. The counter-based generator Philox-4×32-10 in its published form (R212).
-/

namespace Sys2Proof.Machine

def m32 : Nat := 2 ^ 32

/-- One round: two 32 × 32 products, their halves crossed with the counter and the key. -/
def philoxRound (c : Nat × Nat × Nat × Nat) (k : Nat × Nat) : Nat × Nat × Nat × Nat :=
  let p0 := 0xD2511F53 * c.1
  let p1 := 0xCD9E8D57 * c.2.2.1
  (Nat.xor (Nat.xor (p1 / m32) c.2.1) k.1, p1 % m32, Nat.xor (Nat.xor (p0 / m32) c.2.2.2) k.2, p0 % m32)

/-- `n` rounds with the key raised by the Weyl constants after each. -/
def philoxRounds : Nat → Nat × Nat × Nat × Nat → Nat × Nat → Nat × Nat × Nat × Nat
  | 0, c, _ => c
  | n + 1, c, k => philoxRounds n (philoxRound c k) ((k.1 + 0x9E3779B9) % m32, (k.2 + 0xBB67AE85) % m32)

/-- The four output words for a 64-bit seed and a 64-bit element index. -/
def philox (seed idx : Nat) : Nat × Nat × Nat × Nat :=
  philoxRounds 10 (idx % m32, idx / m32 % m32, 0, 0) (seed % m32, seed / m32 % m32)

/-- The 16-bit number of stochastic rounding: bits [15:0] of the first word. -/
def philoxU (seed idx : Nat) : Nat := (philox seed idx).1 % 65536

end Sys2Proof.Machine
end

