-- ==== Sys2Proof/Machine/Cvt.lean ====
section
/-!
DEFINITION. Conversion (R171 to R178) of a block or tile of values, the Tun input convert (R179), and exponent histograms
(R181 to R184).
-/

namespace Sys2Proof.Machine

/-- The rounding of one element: SR draws from the generator by seed and element index (R172). -/
def rmOf (rm seed idx : Nat) : RMode :=
  match rm with
  | 0 => .rne
  | 1 => .rz
  | _ => .sr (philoxU seed idx)

/-- The largest finite magnitude's binade; none for a group with no finite nonzero element. -/
def groupBinade (xs : List FVal) : Option Int :=
  xs.foldl (fun m x => match x.log2?, m with
    | some k, some j => some (max k j)
    | some k, none => some k
    | none, m => m) none

/-- R174: the scale byte under SMODE = AUTO. -/
def autoScale (f : Fmt) (sbias : Int) (xs : List FVal) : Nat :=
  match groupBinade xs with
  | none => 0
  | some k => (clampInt 0 254 (k - f.emax + 127 + sbias)).toNat

/-- The result of converting a block or tile: its scale byte and its elements. -/
structure Group where
  scale : Nat
  elems : List Rounded
  deriving DecidableEq, Repr

/-- R172 to R174: convert a group into a scaled format under scale byte `x`; `rm` gives each element's rounding. -/
def cvtScaled (f : Fmt) (spec : Bool) (x : Nat) (xs : List (FVal × RMode)) : Group :=
  let es := xs.map fun p => roundInto f p.2 spec (if x = 0xFF then .nan else p.1.scale (127 - (x : Int)))
  ⟨if x = 0xFF || es.any (·.poison) then 0xFF else x, es⟩

/-- The result of converting a block into W32 (R177, R226, R227): its lanes, its fault byte, how many of its elements are saturated as non-finite, and
for each lane whether it counts as UFL and as SAT. -/
structure W32Block where
  lanes : List Int
  fault : Nat
  nsat : Nat
  marks : List (Bool × Bool)
  deriving DecidableEq, Repr

/-- The lane of one element at exponent `x` before it is clipped (R177, R227). -/
def w32Lane (x : Nat) : FVal → Int
  | .fin n m e =>
    let k : Int := (roundSteps .rne m (e + 140 - (x : Int)) 0 : Nat)
    if n then -k else k
  | .inf n => if n then -8191 else 8191
  | .nan => 0

/-- R177, R226, R227: convert a block into W32 at exponent `x`. A non-finite element that SATURATE stores as ±8,191 is a saturated one. -/
def cvtW32 (saturate : Bool) (x : Nat) (xs : List FVal) : W32Block :=
  let bad := xs.filter fun v => !v.finite
  if !bad.isEmpty && !saturate then ⟨xs.map fun _ => 0, 0xFF, 0, xs.map fun v => (v.finite && !v.isZero, false)⟩
  else
    let ls := xs.map fun v => (v, w32Lane x v)
    let big := ls.any fun p => p.1.finite && decide (8191 < p.2.natAbs)
    ⟨ls.map fun p => clampInt (-8191) 8191 p.2, if big then autoScale .w32 0 (xs.filter (·.finite)) else 0, bad.length,
      ls.map fun p => (p.1.finite && !p.1.isZero && p.2 == 0, (!p.1.finite && p.1 != .nan) || decide (8191 < p.2.natAbs))⟩

/-- The value of a W32 lane under exponent byte `x` (R170, R178). -/
def w32Val (x : Nat) (m : Int) : FVal :=
  if x = 0xFF then .nan else (FVal.ofInt m).scale ((x : Int) - 140)

/-- R179: one element of a Tun input record: its code and its outlier residual. `q` is x / s_in in FP32. -/
def tunInElem (rm : RMode) (x : FVal) (sIn : Nat) : Nat × Option Nat :=
  let q := toF32 (x.quot (f32 sIn))
  match f32 q with
  | .fin n m e =>
    if magLe m e 7 0 then
      let k : Int := (roundSteps rm m e 0 : Nat)
      (unsgn 4 (if n then -k else k), none)
    else
      let seven : FVal := .fin (!n) 7 0
      (if n then 9 else 7, some (toF32 ((f32 q).add seven)))
  | _ => (8, none)

/-- Is s_in fit: positive, normal and finite (R179)? -/
def tunScaleOk (sIn : Nat) : Bool := 0x00800000 ≤ sIn && sIn < 0x7F800000

/-! ### Histograms -/

def emptyHist (fmt : Nat) : HistAcc := ⟨fmt, 0, 0, 0, 0, 0, 0, []⟩

/-- Count one binade. -/
def bumpBinade : List (Int × Nat) → Int → List (Int × Nat)
  | [], k => [(k, 1)]
  | (j, n) :: l, k => if j = k then (j, n + 1) :: l else (j, n) :: bumpBinade l k

/-- R183: count one element by its source value and by how it was stored. -/
def HistAcc.element (h : HistAcc) (x : FVal) (ufl sat : Bool) : HistAcc :=
  let h := { h with count := h.count + 1, ufl := h.ufl + ufl.toNat, sat := h.sat + sat.toNat }
  match x with
  | .nan => { h with nan := h.nan + 1 }
  | .inf _ => { h with inf := h.inf + 1 }
  | .fin _ m e => if m = 0 then { h with zero := h.zero + 1 } else { h with binades := bumpBinade h.binades (binade m e) }

/-- The counts of bin `i` at BASE (R183). -/
def HistAcc.bin (h : HistAcc) (base : Int) (i : Nat) : Nat :=
  ((h.binades.filter fun p => (clampInt 0 63 (p.1 - base)).toNat == i).map (·.2)).sum

/-- The words of a slot, COUNT to BIN[63] in slot order, without the BASE word (Table 7.6). -/
def HistAcc.counts (h : HistAcc) : List Nat := [h.count, h.zero, h.inf, h.nan, h.ufl, h.sat]

/-- R182, R184: the task of cluster `c` writes or adds its counts to the histogram slot at `a`; an ADD reads the slot (R185). A slot of another BASE or
FMT is left as it is, but for PARTIAL, and counts one in the clusters' error counter. `stopped` sets PARTIAL. -/
def Dev.histWrite (d : Dev) (c a : Nat) (base : Int) (add stopped : Bool) (h : HistAcc) : Dev :=
  let b := unsgn 8 base
  let flag := if stopped then 1 else 0
  let d := if add then d.consume (unitKey 2 c 0) [(a, 576)] else d
  if !add then
    let body := h.counts.flatMap (natLe 8) ++ [BitVec.ofNat 8 b, BitVec.ofNat 8 h.fmt, BitVec.ofNat 8 flag, 0] ++
      natLe 4 1 ++ List.replicate 8 0 ++ (List.range 64).flatMap fun i => natLe 8 (h.bin base i)
    d.write a body
  else if d.rd (a + 0x30) 1 ≠ b ∨ d.rd (a + 0x31) 1 ≠ h.fmt then
    (d.wr (a + 0x32) 1 (setBit (d.rd (a + 0x32) 1) 0)).bump Cnt.MXC_HIST_ERR_CNT
  else
    let d := (List.range 6).foldl (fun d k => d.wr (a + 8 * k) 8 (d.rd (a + 8 * k) 8 + h.counts.getD k 0)) d
    let d := (List.range 64).foldl (fun d i => d.wr (a + 0x40 + 8 * i) 8 (d.rd (a + 0x40 + 8 * i) 8 + h.bin base i)) d
    let d := d.wr (a + 0x34) 4 (d.rd (a + 0x34) 4 + 1)
    if stopped then d.wr (a + 0x32) 1 (setBit (d.rd (a + 0x32) 1) 0) else d

end Sys2Proof.Machine
end

