-- ==== Sys2Proof/Machine/Operands.lean ====
section
/-!
DEFINITION. Operand forms: the descriptors of the units' tasks (Tables 3.4, 4.1, 8.2, 8.3) with their checks at slot start,
and the layouts of the records and images they name.
-/

namespace Sys2Proof.Machine

/-- Round up to a 64-byte boundary. -/
def align64 (a : Nat) : Nat := (a + 63) / 64 * 64

/-! ### Stored tensors (R164, R168, R170) -/

/-- Bytes of a tensor's element array. -/
def elemBytes (f : Fmt) (r c : Nat) : Nat := r * c * f.elemBits / 8

/-- Where the scale or exponent array of a stored tensor begins, from the tensor's own address. -/
def scaleStart (f : Fmt) (r c : Nat) : Nat := if f.tiled then r * c / 2 else align64 (elemBytes f r c)

/-- Bytes of a stored tensor with its scales (R164, R168, R170). -/
def tensorBytes (f : Fmt) (r c : Nat) : Nat :=
  if f.tiled then r * c / 2 + r * c / 256
  else if f.blocked then align64 (elemBytes f r c) + r * c / 32
  else elemBytes f r c

/-- The place in the scale array of the byte for element (i, j) of a tensor of `c` columns: its tile, or its block of 32. -/
def scaleIndex (f : Fmt) (c i j : Nat) : Nat := if f.tiled then i / 16 * (c / 16) + j / 16 else (i * c + j) / 32

/-- Where element (r, c) of a tile-scaled tensor of `cols` columns lies: byte offset and nibble (R168). -/
def tileByte (cols r c : Nat) : Nat × Nat :=
  (128 * (r / 16 * (cols / 16) + c / 16) + 8 * (c % 16) + r % 16 / 2, r % 2)

/-- The 4-bit code of element (r, c) of a tile-scaled tensor. -/
def Dev.tileCode (d : Dev) (base cols r c : Nat) : Nat :=
  let p := tileByte cols r c
  let b := (d.byte (base + p.1)).toNat
  if p.2 = 0 then b % 16 else b / 16

/-- Write the 4-bit code of element (r, c) of a tile-scaled tensor. -/
def Dev.setTileCode (d : Dev) (base cols r c v : Nat) : Dev :=
  let p := tileByte cols r c
  let b := (d.byte (base + p.1)).toNat
  d.setByte (base + p.1) (BitVec.ofNat 8 (if p.2 = 0 then b / 16 * 16 + v % 16 else b % 16 + v % 16 * 16))

/-- The scale byte of element (i, j) of an R × C tensor at `a`. -/
def Dev.scaleAt (d : Dev) (f : Fmt) (a r c i j : Nat) : Nat := d.rd (a + scaleStart f r c + scaleIndex f c i j) 1

/-- The code of element (i, j) of an R × C tensor at `a` (R164, R168). -/
def Dev.codeAt (d : Dev) (f : Fmt) (a c i j : Nat) : Nat :=
  if f.tiled then d.tileCode a c i j
  else if f.elemBits = 4 then
    let b := d.rd (a + (i * c + j) / 2) 1
    if (i * c + j) % 2 = 0 then b % 16 else b / 16
  else d.rd (a + (i * c + j) * (f.elemBits / 8)) (f.elemBits / 8)

/-- Store the code of element (i, j) of an R × C tensor at `a` (R164, R168). -/
def Dev.setCodeAt (d : Dev) (f : Fmt) (a c i j v : Nat) : Dev :=
  if f.tiled then d.setTileCode a c i j v
  else if f.elemBits = 4 then
    let q := a + (i * c + j) / 2
    let b := (d.byte q).toNat
    d.setByte q (BitVec.ofNat 8 (if (i * c + j) % 2 = 0 then b / 16 * 16 + v % 16 else b % 16 + v % 16 * 16))
  else d.wr (a + (i * c + j) * (f.elemBits / 8)) (f.elemBits / 8) v

/-- The unscaled element (i, j) of an R × C tensor at `a`. -/
def Dev.elemAt (d : Dev) (f : Fmt) (a c i j : Nat) : FVal := decode f (d.codeAt f a c i j)

/-- The value of element (i, j), its scale included. -/
def Dev.valueAt (d : Dev) (f : Fmt) (a r c i j : Nat) : FVal :=
  if f.tiled || f.blocked then scaled (d.elemAt f a c i j) (d.scaleAt f a r c i j) else d.elemAt f a c i j

/-! ### Basin tasks (Table 3.4) -/

structure FwdDesc where
  op : Nat
  lsb : Nat
  rowBase : Nat
  rowCount : Nat
  colCount : Nat
  layer : Nat
  inAddr : Nat
  outAddr : Nat
  inStride : Nat
  outStride : Nat
  tunIn : Nat
  tunOut : Nat
  countAddr : Nat
  deriving DecidableEq, Repr

def parseFwd (b : List Byte) : FwdDesc :=
  ⟨rdLe b 0 2, rdLe b 2 1, rdLe b 4 2, rdLe b 6 2, rdLe b 8 2, rdLe b 0xA 2, rdLe b 0x10 8, rdLe b 0x18 8,
    rdLe b 0x20 4, rdLe b 0x24 4, rdLe b 0x28 4, rdLe b 0x2C 4, rdLe b 0x30 8⟩

/-- The Tuns (0–63 in the basin) that a slot drives. -/
def subTuns (sub : Nat) : List Nat := if sub = 0xFF then List.range 64 else [sub]

/-- The per-Tun multiplier of the offsets: Tun i under SUB = 0xFF, none under a single SUB. -/
def subIndex (sub i : Nat) : Nat := if sub = 0xFF then i else 0

/-- Address of a vector's input record. -/
def FwdDesc.inAt (f : FwdDesc) (sub i v : Nat) : Nat := f.inAddr + v * f.inStride + subIndex sub i * f.tunIn

/-- Bytes of an input record before its outlier list (Table 3.2). -/
def FwdDesc.inBytes (f : FwdDesc) : Nat := 16 + (f.rowCount + 1) / 2

/-- Bytes of a vector's input record, its outlier list included (Table 3.2); a list is read to 1,024 entries (R93). -/
def FwdDesc.recordBytes (f : FwdDesc) (d : Dev) (rec : Nat) : Nat :=
  let n := min 1024 (d.rd (rec + 4) 2)
  if n = 0 then f.inBytes else align64 (rec + f.inBytes) - rec + 8 * n

/-- Address of a vector's output record. -/
def FwdDesc.outAt (f : FwdDesc) (sub i v : Nat) : Nat := f.outAddr + v * f.outStride + subIndex sub i * f.tunOut

/-- The records of vector `v` on Tun `i` lie in the window and are aligned (R74). -/
def FwdDesc.recordsOk (f : FwdDesc) (d : Dev) (b sub i v : Nat) : Bool :=
  inBasin b (f.inAt sub i v) f.inBytes && inBasin b (f.inAt sub i v) (f.recordBytes d (f.inAt sub i v)) && f.inAt sub i v % 64 == 0 &&
  inBasin b (f.outAt sub i v) 2112 && f.outAt sub i v % 64 == 0

/-- R74: the Tun sequencer's check at slot start over the first `n` vectors. -/
def FwdDesc.ok (f : FwdDesc) (d : Dev) (b sub n : Nat) (dataDep : Bool) : Bool :=
  f.op == 1 && f.lsb ≤ 4 && f.rowBase % 64 == 0 && f.rowBase + f.rowCount ≤ 1024 && f.rowCount != 0 &&
  f.colCount != 0 && f.colCount ≤ 512 && 2112 ≤ f.outStride &&
  (!dataDep || (inBasin b f.countAddr 8 && f.countAddr % 64 == 0)) &&
  (subTuns sub).all fun i => (List.range n).all fun v => f.recordsOk d b sub i v

/-! ### Sparge tasks (Table 4.1) -/

structure CoverDesc where
  op : Nat
  reserved : Nat
  img : Nat
  wot : Nat
  corr : Nat
  corrStride : Nat
  tunCorr : Nat
  tunImg : Nat
  tunWot : Nat
  deriving DecidableEq, Repr

def parseCover (b : List Byte) : CoverDesc :=
  ⟨rdLe b 0 2, rdLe b 2 6 + rdLe b 0x34 12, rdLe b 8 8, rdLe b 0x10 8, rdLe b 0x18 8, rdLe b 0x20 4, rdLe b 0x24 4,
    rdLe b 0x28 8, rdLe b 0x30 4⟩

def CoverDesc.imgAt (c : CoverDesc) (sub i : Nat) : Nat := c.img + subIndex sub i * c.tunImg
def CoverDesc.wotAt (c : CoverDesc) (sub i : Nat) : Nat := if c.wot = 0 then 0 else c.wot + subIndex sub i * c.tunWot
def CoverDesc.corrAt (c : CoverDesc) (sub i v : Nat) : Nat := c.corr + v * c.corrStride + subIndex sub i * c.tunCorr

/-- Bytes before the entries of a weight-outlier table of `n` entries (Table 4.3). -/
def wotHead (n : Nat) : Nat := align64 (16 + (n + 31) / 32)

/-- Bytes of the weight-outlier table at `a`, as far as a table reaches (R100). -/
def Dev.wotBytes (d : Dev) (a : Nat) : Nat := let n := min 8192 (d.rd a 4); wotHead n + 4 * n

/-- R91: the sparge unit's check at the first covered vector of a basin task of `n` vectors. -/
def CoverDesc.ok (c : CoverDesc) (d : Dev) (b sub n : Nat) : Bool :=
  c.op == 1 && c.reserved == 0 && 2112 ≤ c.corrStride && c.corrStride % 64 == 0 && c.tunCorr % 64 == 0 &&
  c.tunImg % 64 == 0 && c.tunWot % 64 == 0 && c.corr % 64 == 0 &&
  (subTuns sub).all fun i =>
    d.hbm (c.imgAt sub i) (262144 + 2048) &&
    (c.wot == 0 || (c.wotAt sub i % 64 == 0 && inBasin b (c.wotAt sub i) (d.wotBytes (c.wotAt sub i)) && d.rd (c.wotAt sub i) 4 ≤ 8192)) &&
    (List.range n).all fun v => inBasin b (c.corrAt sub i v) 2112

/-! ### Records, images and weight-outlier tables -/

/-- The 4-bit code of row offset `j` in an input record (Table 3.2). -/
def Dev.inCode (d : Dev) (rec j : Nat) : Nat :=
  let b := (d.byte (rec + 16 + j / 2)).toNat
  if j % 2 = 0 then b % 16 else b / 16

/-- Where the levels of rows 64g to 64g + 63 of column `c` lie in the tiled image at `img` (R168). -/
def imageSlice (img g c : Nat) : List (Nat × Nat) := (List.range 4).map fun k => (img + 128 * ((4 * g + k) * 32 + c / 16) + 8 * (c % 16), 8)

/-- R64: the DAC applies code 0b1000 as 0. -/
def dacCode (c : Nat) : Int := if c = 8 then 0 else sgn 4 c

/-- Address of the outlier list of an input record. -/
def FwdDesc.outlierAt (f : FwdDesc) (rec : Nat) : Nat := align64 (rec + f.inBytes)

/-- The level of weight (r, c) in a Tun's programmed image (R62). -/
def Dev.imageLevel (d : Dev) (img r c : Nat) : Int := sgn 4 (d.tileCode img 512 r c)

/-- The LR_FIT tasks of the active program in layers with a rank (R133, R196): Tun, destination of the factors, rank. -/
def Dev.fitTasks (d : Dev) : List (Nat × Nat × Nat) :=
  ((imgSegs d.program).filter fun s => s.kind == 3 && s.cls == 2).flatMap fun s =>
    (entries 64 (imgBytes d.program s)).filterMap fun b =>
      match d.layerEntry (rdLe b 4 2) with
      | some e => if rdLe b 0 2 == 0x61 && e.lrRank != 0 then some (rdLe b 0x28 8 % 2048, rdLe b 0x30 8, e.lrRank) else none
      | none => none

/-- Bytes of a Tun block's factors at rank r: U 512 × r and V 1,024 × r in BF16 (R133, R199). -/
def factorBytes (rank : Nat) : Nat := 1536 * rank * 2

/-- Where the weight-outlier tables of Tun `t` lie: those that the sparge descriptors of the active program name for it (Table 4.1), or, where they name
none, the table that its last compare named. -/
def Dev.wotTables (d : Dev) (t : Nat) : List Nat :=
  let b := t / 64
  let named := (((imgSegs d.program).filter fun s => s.kind == 2 && s.cls == 1 && s.unit == b).flatMap fun s =>
    ((entries 16 (imgBytes d.program s)).map parseSlot).filterMap fun q =>
      let a := (parseCover (imgTask d.program 3 b q.task)).wotAt q.sub (t % 64)
      if q.kind = 1 ∧ (q.sub = 0xFF ∨ q.sub = t % 64) ∧ a ≠ 0 then some a else none).dedup
  let last := SMap.get (fun _ => 0) d.rack.wotAddr t
  if named.isEmpty && last != 0 then [last] else named

/-- Base of the racking region (Table 5.9). -/
def Dev.rackBase (d : Dev) : Nat := d.fld Reg.TUN_RACK_BASE_ADDR * 2 ^ 32

/-- Address of row `r` of a Tun's row-order image (R99). -/
def Dev.rowImage (d : Dev) (t r : Nat) : Nat := d.rackBase + 0xD0000000 + t * 0x40000 + r * 256

/-! ### Reads that come too early (R132, R236, R251) -/

/-- What a basin's fold writes (R131): the images of its Tuns, their row-order copies, their weight-outlier tables and their low-rank factors. -/
def Dev.foldWrites (d : Dev) (b : Nat) : List (Nat × Nat) :=
  ((List.range 64).flatMap fun i =>
    (SMap.get (fun _ => 0) d.rack.imgAddr (64 * b + i), 264192) :: (d.rowImage (64 * b + i) 0, 262144) ::
      (d.wotTables (64 * b + i)).map fun a => (a, 33088)) ++
  ((d.fitTasks.filter fun x => x.1 / 64 == b).map fun x => (x.2.1, factorBytes x.2.2))

/-- A task reads early: it is late, and `c` counts it once for the task. -/
def Dev.earlyRead (d : Dev) (k which c : Nat) : Dev :=
  let was := match d.running? k with | some r => bit r.noted which | none => false
  (if was then d else d.bump c).onRunning k fun q => { q with late := true, noted := setBit q.noted which }

/-- R132: a task that reads a Tun's programmed image, weight-outlier table or low-rank factors before the basin's fold completes is late. -/
def Dev.foldLate (d : Dev) (k : Nat) (rs : List (Nat × Nat)) : Dev :=
  let hit := d.rack.folding.any fun b => (d.foldWrites b).any fun w => rs.any fun r => rangesOverlap r.1 r.2 w.1 w.2
  if hit then d.earlyRead k 0 Cnt.TUN_RACK_FOLD_LATE_CNT else d

/-- The slot of a unit is in the step's first frame and starts less than `n` quanta after frame_start. -/
def Dev.startsBefore (d : Dev) (k n : Nat) : Bool :=
  d.fld Reg.FRM_STEP_POS_FRAME == 0 && match d.running? k with | some q => decide (q.slot.start < n) | none => false

/-- R236: a task that reads the step parameter block and starts before it is written is late. -/
def Dev.paramLate (d : Dev) (k : Nat) (rs : List (Nat × Nat)) : Dev :=
  if d.startsBefore k 100 && d.fld Reg.NUM_PARAM_BASE_EN == 1 &&
      rs.any fun r => rangesOverlap r.1 r.2 (d.fld Reg.NUM_PARAM_BASE_ADDR * 64) 64 then
    d.earlyRead k 1 Cnt.NUM_PARAM_LATE_CNT
  else d

/-- R251: a task that reads a bucket's agreed array before it is written is late: in PRE mode before the bucket's exchange has ended, in
STALE mode in the first 2,000 quanta of frame 0. -/
def Dev.agreedLate (d : Dev) (k : Nat) (rs : List (Nat × Nat)) : Dev :=
  let pre := d.fld Reg.RED_SCALE_CFG_MODE == 1
  let hit := (pre || d.startsBefore k 2000) && (List.range (d.fld Reg.RED_SCALE_BASE_BUCKETS)).any fun b =>
    (rs.any fun r => rangesOverlap r.1 r.2 (d.fld Reg.RED_SCALE_BASE_ADDR * 64 + 24576 * b + 16384) 8192) && !(pre && d.red.agreed.contains b)
  if hit then d.onRunning k fun q => { q with late := true } else d

/-- A task reads ranges of device memory: what is late, poisoned or not yet written there makes its outputs late. -/
def Dev.readChecks (d : Dev) (k : Nat) (rs : List (Nat × Nat)) : Dev :=
  (((d.consume k rs).foldLate k rs).paramLate k rs).agreedLate k rs

/-- The level of weight (r, c) in the row-order image. -/
def Dev.rowLevel (d : Dev) (t r c : Nat) : Int :=
  let b := (d.byte (d.rowImage t r + c / 2)).toNat
  sgn 4 (if c % 2 = 0 then b % 16 else b / 16)

def Dev.setRowLevel (d : Dev) (t r c : Nat) (w : Int) : Dev :=
  let a := d.rowImage t r + c / 2
  let b := (d.byte a).toNat
  let v := unsgn 4 w
  d.setByte a (BitVec.ofNat 8 (if c % 2 = 0 then b / 16 * 16 + v else b % 16 + v * 16))

/-- One weight-outlier entry (Table 4.3): excess, row, column, and whether it is fit to be applied by itself. -/
structure WotEntry where
  exc : FVal
  row : Nat
  col : Nat
  fit : Bool
  deriving DecidableEq, Repr

/-- Entry `j` of the table at `a` with `n` entries. -/
def Dev.wotEntry (d : Dev) (a n j : Nat) : WotEntry :=
  let e := d.rd (a + wotHead n + 4 * j) 4
  let x := scaled (decode .e4m3 (bits e 31 24)) (d.rd (a + 16 + j / 32) 1)
  ⟨x, bits e 18 9, bits e 8 0, x.finite && bits e 23 19 == 0⟩

/-- The entries of a table in order with, for each, whether it is in (ROW, COL) order after the entry before it (R96). -/
def Dev.wotEntries (d : Dev) (a : Nat) : List (WotEntry × Bool) :=
  if a = 0 then []
  else
    let n := d.rd a 4
    (List.range n).map fun j =>
      let e := d.wotEntry a n j
      let p := d.wotEntry a n (j - 1)
      (e, e.fit && (j == 0 || p.row * 512 + p.col < e.row * 512 + e.col))

/-- Address of entry `e` of a pending bank of Tun `i` of basin `b` (R129). -/
def Dev.pendAddr (d : Dev) (b i bank e : Nat) : Nat :=
  basinBase b + d.fld Reg.TUN_RACK_PEND_OFF + i * 8192 + bank * 4096 + 4 * e

/-- One pending entry (Table 5.4). -/
structure PendEntry where
  img : Int
  cell : Int
  row : Nat
  col : Nat
  deriving DecidableEq, Repr

def parsePend (v : Nat) : PendEntry := ⟨sgn 4 (bits v 31 28), sgn 4 (bits v 27 24), bits v 18 9, bits v 8 0⟩

def PendEntry.word (p : PendEntry) : Nat := unsgn 4 p.img * 2 ^ 28 + unsgn 4 p.cell * 2 ^ 24 + p.row * 512 + p.col

/-- A level as a cell pair can hold it (R61): no combination stands for −8. -/
def cellLevel (w : Int) : Int := if w < -7 then -7 else if 7 < w then 7 else w

/-- The first `n` entries of a Tun's bank. -/
def Dev.pendEntries (d : Dev) (t bank n : Nat) : List PendEntry :=
  (List.range n).map fun e => parsePend (d.rd (d.pendAddr (t / 64) (t % 64) bank e) 4)

end Sys2Proof.Machine
end

