-- ==== Sys2Proof/Machine/Vector.lean ====
section
/-!
DEFINITION. The vector units (R207 to R213): lanes and registers, one function per opcode of Table 8.7, and the run of a
vector program. Each opcode is also a command of its own; a program runs the same functions.
-/

namespace Sys2Proof.Machine

/-! ### Registers -/

def vregKey (c r lane : Nat) : Nat := (c * 240 + r) * 64 + lane

/-- A source by its code: a vector register's lane, or a scalar broadcast to all lanes (R207). A code has 8 bits: the one after 0xFF is 0 (log 53). -/
def Dev.src (d : Dev) (c r lane : Nat) : Nat :=
  if r % 256 < 0xF0 then SMap.get (fun _ => 0) d.mxc.vreg (vregKey c (r % 256) lane)
  else SMap.get (fun _ => 0) d.mxc.sreg (c * 16 + (r % 256 - 0xF0))

/-- Set one lane of a vector register. -/
def Dev.setLane (d : Dev) (c r lane v : Nat) : Dev :=
  { d with mxc := { d.mxc with vreg := SMap.set (fun _ => 0) d.mxc.vreg (vregKey c r lane) (v % m32) } }

/-- Set a scalar register. -/
def Dev.setScalar (d : Dev) (c i v : Nat) : Dev :=
  { d with mxc := { d.mxc with sreg := SMap.set (fun _ => 0) d.mxc.sreg (c * 16 + i) (v % m32) } }

/-- Write a destination by its code: 64 lanes, or a scalar, which takes lane 0. -/
def Dev.dst (d : Dev) (c r : Nat) (vals : Nat → Nat) : Dev :=
  if r % 256 < 0xF0 then (List.range 64).foldl (fun d j => d.setLane c (r % 256) j (vals j)) d
  else d.setScalar c (r % 256 - 0xF0) (vals 0)

/-- A one-result instruction: every lane is computed from the registers as they stand before it. -/
def Dev.lanes (d : Dev) (c : Nat) (w : VWord) (f : Nat → Nat → Nat → Nat) : Dev :=
  d.dst c w.dst.toNat fun j => f (d.src c w.sa.toNat j) (d.src c w.sb.toNat j) (d.src c w.sc.toNat j)

/-- A two-result instruction: the pair lies in DST and DST + 1 (R169). -/
def Dev.lanePairs (d : Dev) (c : Nat) (w : VWord) (f : Nat → Nat → Nat × Nat) : Dev :=
  let v := fun j => f (d.src c w.sa.toNat j) (d.src c w.sb.toNat j)
  (d.dst c w.dst.toNat fun j => (v j).1).dst c (w.dst.toNat + 1) fun j => (v j).2

/-! ### Arithmetic per lane -/

def f32One : Nat := 0x3F800000
def f32NaN : Nat := 0x7FC00000
def f32Inf : Nat := 0x7F800000

/-- An operand as a result: a NaN becomes the canonical one (R165). -/
def f32Canon (a : Nat) : Nat := if f32 a = .nan then f32NaN else a

/-- IEEE maximum and minimum: a NaN operand gives NaN, and −0 is below +0. -/
def f32Max (a b : Nat) : Nat :=
  let x := f32 a
  let y := f32 b
  if x = .nan ∨ y = .nan then f32NaN
  else if x.lt y || (x.isZero && y.isZero && x.isNeg) then b else a

def f32Min (a b : Nat) : Nat :=
  let x := f32 a
  let y := f32 b
  if x = .nan ∨ y = .nan then f32NaN
  else if y.lt x || (x.isZero && y.isZero && y.isNeg) then b else a

/-- R169: the pair (s, e); lo is +0 when hi is not finite. -/
def twoSum (a b : Nat) : Nat × Nat :=
  let s := f32Add a b
  if (f32 s).finite then (s, toF32 (((f32 a).add (f32 b)).add (f32 s).neg)) else (s, 0)

/-- R169: p = RNE(a × b) and the remainder by a fused multiply-add. -/
def twoProd (a b : Nat) : Nat × Nat :=
  let p := f32Mul a b
  if (f32 p).finite then (p, toF32 (((f32 a).mul (f32 b)).add (f32 p).neg)) else (p, 0)

/-- R210: an EP32 addition: TWOSUM of the high parts, the low parts added in, and a FAST2SUM renormalization. The low part of an infinity or a NaN is
ignored, and is +0 (R169). -/
def ep32Add (a b : Nat × Nat) : Nat × Nat :=
  let s := twoSum a.1 b.1
  if (f32 s.1).finite then twoSum s.1 (f32Add s.2 (f32Add a.2 b.2)) else s

/-- An EP32 pair as a result: the low part of an infinity or a NaN is +0 (R169). -/
def ep32Canon (a : Nat × Nat) : Nat × Nat := if (f32 a.1).finite then a else (f32Canon a.1, 0)

/-! ### EXP2, RCP, RSQ and LOG2 (R209) -/

/-- Fixed-point one of the elementary functions. -/
def fxBits : Nat := 160
def fxOne : Nat := 2 ^ fxBits

/-- 2^(0.b₁b₂…) for a fraction given as `n` bits, most significant first, by repeated square roots of 2. -/
def exp2Bits : Nat → Nat → Nat → Nat → Nat
  | 0, _, _, acc => acc
  | n + 1, frac, root, acc =>
    let r := Nat.sqrt (root * fxOne)
    exp2Bits n frac r (if frac.testBit n then acc * r / fxOne else acc)

/-- log₂ of x / fxOne in [1, 2), to `n` bits, by repeated squaring. -/
def log2Bits : Nat → Nat → Nat → Nat
  | 0, _, acc => acc
  | n + 1, x, acc =>
    let y := x * x / fxOne
    if 2 * fxOne ≤ y then log2Bits n (y / 2) (2 * acc + 1) else log2Bits n y (2 * acc)

/-- R209: a result within 1 ulp: the FP32 code nearest to the exact value, or its neighbour on the exact value's side. Which of
the two the hardware gives is a fixed function of the input that the spec leaves open. The bound is for normal results: a subnormal one is open too, but
is not flushed to zero (R165). -/
def within1ulp (op code : Nat) (neg : Bool) (m : Nat) (e : Int) : Nat :=
  let near := toF32 (.fin neg m e)
  let dn := near % 2 ^ 31
  let sign := if neg then 2 ^ 31 else 0
  if dn = 0 then sign + Config.vecFun op code % 2
  else if dn < 0x00800000 then sign + 1 + Config.vecFun op code % 2 ^ 23
  else match f32 dn with
  | .fin _ nm ne =>
    let below := magLe nm ne m e && !magLe m e nm ne
    let other := if below then dn + 1 else dn - 1
    let exact := magLe nm ne m e && magLe m e nm ne
    if exact || Config.vecFun op code % 2 == 0 then sign + dn else sign + other
  | _ => near

/-- A result that the spec does not bound: a fixed function of the input that it leaves open. -/
def openResult (op code : Nat) : Nat := Config.vecFun op code % m32

def f32Exp2 (a : Nat) : Nat :=
  match f32 a with
  | .nan => f32NaN
  | .inf n => if n then 0 else f32Inf
  | .fin n m e =>
    if m = 0 then f32One
    else if magLe 128 0 m e && !n then f32Inf
    else if magLe 150 0 m e then Config.vecFun 0x10 a % 2
    else
      let i : Int := (if n then -1 else 1) * (shl m (e + 128) : Nat)
      let k := i / (2 ^ 128 : Nat)
      let frac := (i % (2 ^ 128 : Nat)).toNat
      let y := exp2Bits 128 frac (2 * fxOne) fxOne
      within1ulp 0x10 a false y (k - (fxBits : Int))

def f32Rcp (a : Nat) : Nat :=
  match f32 a with
  | .nan => f32NaN
  | .inf n => if n then 2 ^ 31 else 0
  | .fin n m e =>
    if m = 0 then (if n then 2 ^ 31 + f32Inf else f32Inf)
    else
      let q := 2 ^ 64 * 2 ^ (Nat.log2 m) / m
      let ex : Int := -e - 64 - (Nat.log2 m : Int)
      let r := if 2 ^ 64 * 2 ^ (Nat.log2 m) % m = 0 then 2 * q else 2 * q + 1
      within1ulp 0x11 a n r (ex - 1)

def f32Rsq (a : Nat) : Nat :=
  match f32 a with
  | .nan => f32NaN
  | .inf n => if n then f32NaN else 0
  | .fin n m e =>
    if m = 0 then (if n then openResult 0x12 a else f32Inf)
    else if n then f32NaN
    else
      let odd := e % 2 = 1
      let m2 := if odd then 2 * m else m
      let e2 := if odd then e - 1 else e
      let q := Nat.sqrt (2 ^ 192 / m2)
      within1ulp 0x12 a false (2 * q + 1) (-(e2 / 2) - 97)

def f32Log2 (a : Nat) : Nat :=
  match f32 a with
  | .nan => f32NaN
  | .inf n => if n then f32NaN else f32Inf
  | .fin n m e =>
    if m = 0 then (if n then openResult 0x13 a else 2 ^ 31 + f32Inf)
    else if n then f32NaN
    else
      let k := binade m e
      let x := m * fxOne / 2 ^ (Nat.log2 m)
      let frac := log2Bits 128 x 0
      let v : Int := k * (2 ^ 128 : Nat) + (frac : Int)
      if v = 0 then 0 else within1ulp 0x13 a (decide (v < 0)) v.natAbs (-128)

/-! ### The instructions -/

/-- FMA -/
def vFma (c : Nat) (w : VWord) (d : Dev) : Dev := d.lanes c w f32Fma
/-- ADD -/
def vAdd (c : Nat) (w : VWord) (d : Dev) : Dev := d.lanes c w fun a b _ => f32Add a b
/-- MUL -/
def vMul (c : Nat) (w : VWord) (d : Dev) : Dev := d.lanes c w fun a b _ => f32Mul a b
/-- MAX -/
def vMax (c : Nat) (w : VWord) (d : Dev) : Dev := d.lanes c w fun a b _ => f32Max a b
/-- MIN -/
def vMin (c : Nat) (w : VWord) (d : Dev) : Dev := d.lanes c w fun a b _ => f32Min a b
/-- SEL: d = a if c ≠ 0, else b. -/
def vSel (c : Nat) (w : VWord) (d : Dev) : Dev := d.lanes c w fun a b x => f32Canon (if (f32 x).isZero then b else a)
/-- CMPLT: 1.0 if a < b, else 0. -/
def vCmplt (c : Nat) (w : VWord) (d : Dev) : Dev := d.lanes c w fun a b _ => if (f32 a).lt (f32 b) then f32One else 0
/-- EXP2 -/
def vExp2 (c : Nat) (w : VWord) (d : Dev) : Dev := d.lanes c w fun a _ _ => f32Exp2 a
/-- RCP -/
def vRcp (c : Nat) (w : VWord) (d : Dev) : Dev := d.lanes c w fun a _ _ => f32Rcp a
/-- RSQ -/
def vRsq (c : Nat) (w : VWord) (d : Dev) : Dev := d.lanes c w fun a _ _ => f32Rsq a
/-- LOG2 -/
def vLog2 (c : Nat) (w : VWord) (d : Dev) : Dev := d.lanes c w fun a _ _ => f32Log2 a
/-- TWOSUM -/
def vTwoSum (c : Nat) (w : VWord) (d : Dev) : Dev := d.lanePairs c w twoSum
/-- FAST2SUM: the pair of TWOSUM where |a| ≥ |b| or a is 0 (R169); otherwise its low part is not stated. -/
def vFast2Sum (c : Nat) (w : VWord) (d : Dev) : Dev :=
  d.lanePairs c w fun a b =>
    let p := twoSum a b
    if (f32 a).isZero || !(f32 a).abs.lt (f32 b).abs then p else (p.1, openResult 0x19 (a * m32 + b))
/-- TWOPROD -/
def vTwoProd (c : Nat) (w : VWord) (d : Dev) : Dev := d.lanePairs c w twoProd

/-- R210: the tree over the lanes: j with j + 32, then with j + 16, down to 1. -/
def laneTree (f : Nat × Nat → Nat × Nat → Nat × Nat) : Nat → List (Nat × Nat) → Nat × Nat
  | 0, l => l.headD (0, 0)
  | n + 1, l =>
    let h := l.length / 2
    laneTree f n (List.zipWith f (l.take h) (l.drop h))

/-- A cross-lane reduction; `wide` reads and writes EP32 pairs (Table 8.6, R210). -/
def Dev.reduce (d : Dev) (c : Nat) (w : VWord) (wide : Bool) (f : Nat × Nat → Nat × Nat → Nat × Nat) : Dev :=
  let xs := (List.range 64).map fun j =>
    (d.src c w.sa.toNat j, if wide then d.src c (w.sa.toNat + 1) j else 0)
  let r := laneTree f 6 xs
  let d := d.dst c w.dst.toNat fun _ => r.1
  if wide then d.dst c (w.dst.toNat + 1) fun _ => r.2 else d

def wideBit (w : VWord) : Bool := w.mode.toNat.testBit 2

def vRedSum (c : Nat) (w : VWord) (d : Dev) : Dev :=
  d.reduce c w (wideBit w) fun a b => if wideBit w then ep32Add a b else (f32Add a.1 b.1, 0)

/-- The larger (or smaller) of two EP32 or FP32 values. -/
def pickPair (less : Bool) (wide : Bool) (a b : Nat × Nat) : Nat × Nat :=
  if !wide then ((if less then f32Min a.1 b.1 else f32Max a.1 b.1), 0)
  else
    let x := ep32Val a.1 a.2
    let y := ep32Val b.1 b.2
    if x = .nan ∨ y = .nan then (f32NaN, 0)
    else ep32Canon (if (if less then y.lt x else x.lt y) then b else a)

def vRedMax (c : Nat) (w : VWord) (d : Dev) : Dev := d.reduce c w (wideBit w) (pickPair false (wideBit w))
def vRedMin (c : Nat) (w : VWord) (d : Dev) : Dev := d.reduce c w (wideBit w) (pickPair true (wideBit w))

/-- KTH: the k-th largest magnitude over the 1,024 elements of 16 registers from SA, k = SB's value in 1–64; for another k the
spec states no result. -/
def vKth (c : Nat) (w : VWord) (d : Dev) : Dev :=
  let k := d.src c w.sb.toNat 0
  let mags := (List.range 16).flatMap fun r => (List.range 64).map fun j => d.src c (w.sa.toNat + r) j % 2 ^ 31
  let sorted := mags.mergeSort fun a b => b ≤ a
  if 1 ≤ k ∧ k ≤ 64 then d.dst c w.dst.toNat fun _ => f32Canon (sorted.getD (k - 1) 0)
  else
    let p := d.draw
    p.2.dst c w.dst.toNat fun _ => p.1

/-- The generator's seed: s14 low, s15 high (R212). -/
def Dev.seed (d : Dev) (c : Nat) : Nat := d.src c 0xFE 0 + m32 * d.src c 0xFF 0

/-- RNG: the words for element index (a, b) in DST to DST + 3 (R212). -/
def vRng (c : Nat) (w : VWord) (d : Dev) : Dev :=
  let g := fun j => philox (d.seed c) (d.src c w.sa.toNat j + m32 * d.src c w.sb.toNat j)
  let r := w.dst.toNat
  (((d.dst c r fun j => (g j).1).dst c (r + 1) fun j => (g j).2.1).dst c (r + 2) fun j => (g j).2.2.1).dst c (r + 3)
    fun j => (g j).2.2.2

/-! ### Loads, stores and histograms -/

def Dev.histOf (d : Dev) (c k : Nat) : Option HistAcc := SMap.get (fun _ => none) d.mxc.hist (c * 8 + k)

def Dev.setHist (d : Dev) (c k : Nat) (h : Option HistAcc) : Dev :=
  { d with mxc := { d.mxc with hist := SMap.set (fun _ => none) d.mxc.hist (c * 8 + k) h } }

/-- Count source values into an output index (R213). -/
def Dev.countInto (d : Dev) (c k fmt : Nat) (es : List (FVal × Bool × Bool)) : Dev :=
  let h := (d.histOf c k).getD (emptyHist fmt)
  d.setHist c k (some (es.foldl (fun h e => h.element e.1 e.2.1 e.2.2) h))

/-- The address a lane reaches: a byte offset in the cluster's own window (R195, R207), or none outside it. -/
def laneAddr (c a stride j off : Nat) : Option Nat :=
  let o := (a + j * stride + 4 * off) % m32
  if o + 4 ≤ mxcSize then some (mxcBase c + o) else none

/-- Load one lane; outside the window the spec states no result. -/
def Dev.loadLane (d : Dev) (a : Option Nat) (j : Nat) : Nat :=
  match a with
  | some x => d.rd x 4
  | none => Config.free (d.draws + j) % m32

/-- Load all lanes from the addresses given: late and poisoned words act as task input does (R340). -/
def Dev.loadLanes (d : Dev) (c : Nat) (w : VWord) (addr : Nat → Option Nat) : Dev :=
  let ranges := (List.range 64).filterMap fun j => (addr j).map fun a => (a, 4)
  let e := d.readChecks (unitKey 2 c 0) ranges
  let e := e.dst c w.dst.toNat fun j => d.loadLane (addr j) j
  { e with draws := e.draws + 64 }

def modeOff (w : VWord) : Nat := w.mode.toNat % 2 ^ 20

/-- LD: lane j loads SA + j × SB + offset. -/
def vLd (c : Nat) (w : VWord) (d : Dev) : Dev :=
  d.loadLanes c w fun j => laneAddr c (d.src c w.sa.toNat j) (d.src c w.sb.toNat j) j (modeOff w)

/-- GLD: lane j loads SA + a_j × SB + offset, a_j from register SC. -/
def vGld (c : Nat) (w : VWord) (d : Dev) : Dev :=
  d.loadLanes c w fun j => laneAddr c (d.src c w.sa.toNat j) (d.src c w.sb.toNat j) (d.src c w.sc.toNat j) (modeOff w)

/-- ST: lane j stores DST's lane at SA + j × SB + offset; a store outside the window is dropped. -/
def vSt (c : Nat) (w : VWord) (d : Dev) : Dev :=
  let e := (List.range 64).foldl (fun e j =>
    match laneAddr c (d.src c w.sa.toNat j) (d.src c w.sb.toNat j) j (modeOff w) with
    | some a => (e.wr a 4 (d.src c w.dst.toNat j)).produce (unitKey 2 c 0) [(a, 4)]
    | none => e) d
  if w.mode.toNat.testBit 20 then
    e.countInto c (bits w.mode.toNat 23 21) 0 ((List.range 64).map fun j => (f32 (d.src c w.dst.toNat j), false, false))
  else e

/-! ### CVT -/

/-- The value of an element held in a lane; `sc` is its scale, exponent or s_in. -/
def elemVal (f : Fmt) (code lo sc : Nat) : FVal :=
  match f with
  | .ep32 => ep32Val code lo
  | .w32 => w32Val (sc % 256) (sgn 32 code)
  | .tunin => (FVal.ofInt (dacCode (code % 16))).mul (f32 sc)
  | f =>
    let v := decode f (code % 2 ^ f.elemBits)
    if f.blocked || f.tiled then scaled v (sc % 256) else v

/-- The LAYER of the task that a cluster runs (Tables 8.2 and 8.3). -/
def Dev.taskLayer (d : Dev) (c : Nat) : Nat :=
  match d.running? (unitKey 2 c 0) with
  | some r => rdLe r.desc 4 2
  | none => 0

/-- The adjustment of a layer (R230). -/
def Dev.lpAdj (d : Dev) (l : Nat) : Int := sgn 4 (d.fld (Reg.NUM_LP_ADJ_ADJ (l / 16)) / 16 ^ (l % 16))

/-- R230: the bias of an AUTO scale: the four-bit formats take the layer's adjustment. -/
def Dev.sbias (d : Dev) (c : Nat) (f : Fmt) (sb : Int) : Int :=
  if f = .ts4f ∨ f = .ts4i ∨ f = .e2m1 then clampInt (-16) 15 (sb + d.lpAdj (d.taskLayer c)) else sb

/-- Fields of a CVT word (Table 8.6). -/
structure CvtMode where
  dstF : Fmt
  srcF : Fmt
  sbias : Int
  given : Bool
  spec : Bool
  rm : Nat
  out : Nat
  count : Bool
  deriving DecidableEq, Repr

/-- Read the MODE of a CVT; none where it is reserved (R171, Table 7.4, R208): SBIAS is an operand of AUTO scales alone, and TUNIN takes SMODE GIVEN. -/
def cvtMode (w : VWord) : Option CvtMode :=
  let m := w.mode.toNat
  match Fmt.ofCode (bits m 23 20), Fmt.ofCode (bits m 19 16) with
  | some df, some sf =>
    let sb := sgn 8 (bits m 15 8)
    if bits m 5 4 = 3 ∨ (df = sf ∧ !(df.tiled || (df.blocked && df ≠ .w32))) ∨ (df = .tunin ∧ !(sf = .fp32 ∨ sf = .bf16 ∨ sf = .fp16)) ∨
        (df = .tunin ∧ !bit m 7) ∨ ((df.tiled || df.blocked) ∧ !bit m 7 ∧ (sb < -16 ∨ 15 < sb)) then none
    else some ⟨df, sf, sb, bit m 7, bit m 6, bits m 5 4, bits m 3 1, bit m 0⟩
  | _, _ => none

/-- Add to what the device gathers for the token: this step's, or the next step's from the token frame on (R228). -/
def Dev.gather (d : Dev) (f : NumGather → NumGather) : Dev :=
  if d.lastFrame then { d with num := { d.num with next := f d.num.next } }
  else { d with num := { d.num with now := f d.num.now } }

/-- R226, R227: what a W32 block of a converting task of layer `l` does to the vote and the counts. -/
def Dev.w32Count (d : Dev) (l fault nsat : Nat) : Dev :=
  let d := if fault = 0xFF then (d.bump Cnt.NUM_OVF_BLOCK_CNT).gather fun g => { g with vote := true } else d
  if nsat = 0 then d
  else
    let d := (d.bumpBy Cnt.NUM_OVF_SAT_CNT nsat).sticky Reg.FLT_STK0_OVF_SAT
    d.gather fun g =>
      let n := min (m32 - 1) (SMap.get (fun _ => 0) g.ovfSat l + nsat)
      { g with sat := min (m32 - 1) (g.sat + nsat), ovfSat := SMap.set (fun _ => 0) g.ovfSat l n }

/-- The same for a task of cluster `c`. -/
def Dev.w32Block (d : Dev) (c fault nsat : Nat) : Dev := d.w32Count (d.taskLayer c) fault nsat

/-- Is the overflow policy in effect SATURATE (R225)? -/
def Dev.saturating (d : Dev) : Bool := d.fld Reg.NUM_OVF_POLICY_EFFECTIVE == 2

/-- A tensor's logical shape (R176). -/
structure Shape where
  rows : Nat
  cols : Nat
  deriving DecidableEq, Repr

def up (n k : Nat) : Nat := ceilDiv n k * k

/-- The shape as a format stores it: whole blocks of 32 columns, or whole tiles of 16 × 16 (R164, R168, R176). -/
def Shape.padded (f : Fmt) (s : Shape) : Shape :=
  if f.tiled then ⟨up s.rows 16, up s.cols 16⟩ else if f.blocked then ⟨s.rows, up s.cols 32⟩ else s

def Shape.holds (s : Shape) (q : Nat × Nat) : Bool := q.1 < s.rows && q.2 < s.cols

/-- The shape that the register SC gives, rows in [31:16] and columns in [15:0]. 0 stands for what the `p` issues before and this one convert: 16 columns of
64 rows each for a tile destination, otherwise a row of 64 elements each. -/
def cvtShape (f : Fmt) (v p : Nat) : Shape :=
  if v % m32 = 0 then (if f.tiled then ⟨64 * (p + 1), 16⟩ else ⟨p + 1, 64⟩) else ⟨v / 65536 % 65536, v % 65536⟩

/-- How many issues convert a tensor of a given shape; a CVT issued once more begins the next one. -/
def Shape.issues (f : Fmt) (s : Shape) : Nat :=
  let t := s.padded f
  max 1 (if f.tiled then ceilDiv t.rows 64 * (t.cols / 16) else ceilDiv (t.rows * t.cols) 64)

/-- The element that lane `j` of source register `r` is in issue `p` of a CVT: issues go along the stored rows of 64 elements, or along the columns of
bands of 64 rows for a tile destination, whose 16 registers are 16 columns. -/
def cvtPos (f : Fmt) (s : Shape) (p r j : Nat) : Nat × Nat :=
  let t := s.padded f
  if f.tiled then
    let per := max 1 (t.cols / 16)
    (64 * (p / per) + j, 16 * (p % per) + r)
  else ((64 * p + j) / max 1 t.cols, (64 * p + j) % max 1 t.cols)

/-- A CVT operand code that is a scalar names a stored tensor by its byte offset in the window, but for FP32, which a scalar holds itself. -/
def storedOper (code : Nat) (f : Fmt) : Bool := decide (0xF0 ≤ code % 256) && f != .fp32

/-- Where a stored operand lies, and how many bytes of it. -/
def Dev.tensorOf (d : Dev) (c code : Nat) (f : Fmt) (s : Shape) : Nat × Nat :=
  (mxcBase c + d.src c code 0, tensorBytes f (s.padded f).rows (s.padded f).cols)

/-- A byte of the SCALE array at SB; outside the window the spec states none. -/
def Dev.scaleByte (d : Dev) (c : Nat) (w : VWord) (k : Nat) : Nat :=
  let a := mxcBase c + d.src c w.sb.toNat 0 + k
  if inMxc c a 1 then d.rd a 1 else Config.free (d.draws + k) % 256

/-- The exact source value of the element `q` of a CVT, in lane `j` of source register `r` (R171, R178, R179). -/
def Dev.cvtIn (d : Dev) (c : Nat) (w : VWord) (m : CvtMode) (s : Shape) (q : Nat × Nat) (r j : Nat) : FVal :=
  let f := m.srcF
  let t := s.padded f
  let sIn := d.src c w.sb.toNat 0
  let k := scaleIndex f t.cols q.1 q.2
  if storedOper w.sa.toNat f then
    let a := d.tensorOf c w.sa.toNat f s
    if !inMxc c a.1 a.2 then f32 (Config.free (d.draws + 64 * r + j))
    else match f with
      | .ep32 => let e := a.1 + 8 * (q.1 * t.cols + q.2); ep32Val (d.rd e 4) (d.rd (e + 4) 4)
      | .tunin => elemVal f (d.inCode a.1 q.2) 0 sIn
      | .w32 => elemVal f (d.codeAt f a.1 t.cols q.1 q.2) 0 (d.scaleByte c w k)
      | f => d.valueAt f a.1 t.rows t.cols q.1 q.2
  else
    let g := w.sa.toNat + if f = .ep32 then 2 * r else r
    elemVal f (d.src c g j) (d.src c (g + 1) j) (if f = .tunin then sIn else d.scaleByte c w k)

/-- How one element of a CVT is stored: its code, the low word of an EP32 pair, the scale and fault bytes of its block, and its histogram marks. -/
structure CvtOut where
  code : Nat
  lo : Nat
  scale : Nat
  fault : Nat
  ufl : Bool
  sat : Bool
  deriving DecidableEq, Repr

def CvtOut.zero : CvtOut := ⟨0, 0, 0, 0, false, false⟩

/-- Write a CVT's results to registers: codes to DST (an EP32 pair to DST and DST + 1, a tile's 16 columns to 16 registers), then the scale or exponent of
each lane's group, and for W32 its fault byte. -/
def Dev.cvtRegs (d : Dev) (c dst : Nat) (f : Fmt) (out : Nat → Nat → CvtOut) : Dev :=
  let n := if f.tiled then 16 else 1
  let d := (List.range n).foldl (fun d r => d.dst c (dst + r) fun j => (out r j).code) d
  if f = .ep32 then d.dst c (dst + 1) fun j => (out 0 j).lo
  else if f.tiled || f.blocked then
    let d := d.dst c (dst + n) fun j => (out 0 j).scale
    if f = .w32 then d.dst c (dst + 2) fun j => (out 0 j).fault else d
  else d

/-- Store one element of a CVT in the destination's layout, padding included (R164, R168, R170, R176), with the scale byte of its group; the fault array
of W32 follows the exponent array at the next 64-byte boundary (R177). -/
def Dev.cvtStore (d : Dev) (f : Fmt) (a : Nat) (t : Shape) (q : Nat × Nat) (o : CvtOut) : Dev :=
  if !t.holds q then d
  else
    let k := scaleIndex f t.cols q.1 q.2
    let sc := a + scaleStart f t.rows t.cols
    if f = .ep32 then (d.wr (a + 8 * (q.1 * t.cols + q.2)) 4 o.code).wr (a + 8 * (q.1 * t.cols + q.2) + 4) 4 o.lo
    else
      let d := d.setCodeAt f a t.cols q.1 q.2 o.code
      let d := if f.tiled || f.blocked then d.wr (sc + k) 1 o.scale else d
      if f = .w32 then d.wr (align64 (sc + t.rows * t.cols / 32) + k) 1 o.fault else d

/-- Bytes of a stored destination, the fault array of W32 included. -/
def destBytes (f : Fmt) (t : Shape) : Nat :=
  if f = .w32 then align64 (tensorBytes f t.rows t.cols) + t.rows * t.cols / 32 else tensorBytes f t.rows t.cols

/-- Write one issue of a CVT: to registers, or to the stored tensor that a scalar DST names; one outside the window is dropped. -/
def Dev.cvtPut (d : Dev) (c : Nat) (w : VWord) (m : CvtMode) (s : Shape) (p : Nat) (out : Nat → Nat → CvtOut) : Dev :=
  let f := m.dstF
  if !storedOper w.dst.toNat f then d.cvtRegs c w.dst.toNat f out
  else
    let t := s.padded f
    let a := mxcBase c + d.src c w.dst.toNat 0
    if !inMxc c a (destBytes f t) then d
    else
      let n := if f.tiled then 16 else 1
      let d := (List.range n).foldl (fun d r => (List.range 64).foldl (fun d j => d.cvtStore f a t (cvtPos f s p r j) (out r j)) d) d
      d.produce (unitKey 2 c 0) [(a, destBytes f t)]

/-- The elements of one issue and how they are stored (R172 to R178): a group is an element, a block of 32 lanes, or a tile of 16 lanes of 16 registers.
`x` gives an element's source value, 0 for padding, and `rm` its rounding. -/
def Dev.cvtOut (d : Dev) (c : Nat) (w : VWord) (m : CvtMode) (s : Shape) (p : Nat) (x : Nat → Nat → FVal) (rm : Nat → Nat → RMode) (r j : Nat) : CvtOut :=
  let f := m.dstF
  let t := s.padded f
  let group := fun (r0 j0 : Nat) =>
    let q := cvtPos f s p r0 j0
    d.scaleByte c w (scaleIndex f t.cols q.1 q.2)
  if f.tiled then
    let j0 := j / 16 * 16
    let cells := (List.range 16).flatMap fun r => (List.range 16).map fun i => (x r (j0 + i), rm r (j0 + i))
    let g := cvtScaled f m.spec (if m.given then group 0 j0 else autoScale f (d.sbias c f m.sbias) (cells.map (·.1))) cells
    let e := g.elems.getD (16 * r + j % 16) ⟨0, false, false, false⟩
    ⟨e.code, 0, g.scale, 0, e.ufl, e.sat⟩
  else if f.blocked then
    let j0 := j / 32 * 32
    let cells := (List.range 32).map fun i => (x 0 (j0 + i), rm 0 (j0 + i))
    let sc := if m.given then group 0 j0 else autoScale f (d.sbias c f m.sbias) (cells.map (·.1))
    if f = .w32 then
      let b := cvtW32 d.saturating sc (cells.map (·.1))
      let marks := b.marks.getD (j % 32) (false, false)
      ⟨unsgn 32 (b.lanes.getD (j % 32) 0), 0, sc, b.fault, marks.1, marks.2⟩
    else
      let g := cvtScaled f m.spec sc cells
      let e := g.elems.getD (j % 32) ⟨0, false, false, false⟩
      ⟨e.code, 0, g.scale, 0, e.ufl, e.sat⟩
  else if f = .ep32 then
    let e := toEp32 (rm r j) m.spec (x r j)
    ⟨e.1, e.2.1, 0, 0, (x r j).finite && !(x r j).isZero && e.1 % 2 ^ 31 == 0 && e.2.1 % 2 ^ 31 == 0, e.2.2⟩
  else
    let e := roundInto f (rm r j) m.spec (x r j)
    ⟨e.code, 0, 0, 0, e.ufl, e.sat⟩

/-- R226, R227: the blocks of one issue into W32, for the vote and the counts. -/
def Dev.cvtVote (d : Dev) (c : Nat) (x : Nat → FVal) : Dev :=
  (List.range 2).foldl (fun d k =>
    let b := cvtW32 d.saturating 127 ((List.range 32).map fun i => x (32 * k + i))
    d.w32Block c b.fault b.nsat) d

/-- Issues of CVT for a destination in the running program. -/
def Dev.issues (d : Dev) (c dst : Nat) : Nat := SMap.get (fun _ => 0) d.mxc.elem (c * 256 + dst % 256)

def Dev.countIssue (d : Dev) (c dst : Nat) : Dev :=
  { d with mxc := { d.mxc with elem := SMap.set (fun _ => 0) d.mxc.elem (c * 256 + dst % 256) (d.issues c dst + 1) } }

/-- What a CVT reads of the local store: the stored source tensor and the SCALE array. -/
def Dev.cvtReads (d : Dev) (c : Nat) (w : VWord) (m : CvtMode) (s : Shape) : List (Nat × Nat) :=
  let scale := fun (f : Fmt) => (mxcBase c + d.src c w.sb.toNat 0, scaleIndex f (s.padded f).cols ((s.padded f).rows - 1) ((s.padded f).cols - 1) + 1)
  (if storedOper w.sa.toNat m.srcF then [d.tensorOf c w.sa.toNat m.srcF s] else []) ++
  (if m.srcF = .w32 ∨ ((m.srcF.tiled || m.srcF.blocked) ∧ !storedOper w.sa.toNat m.srcF) then [scale m.srcF] else []) ++
  (if m.given ∧ (m.dstF.tiled || m.dstF.blocked) then [scale m.dstF] else [])

/-- CVT (R171 to R178) into any format but TUNIN: one issue, 64 elements, or 1,024 for a tile destination. SCALE is SB: the byte offset of a scale array in
the window, or s_in. The seed of SR is that of the generator, its index the element's in the destination (R172). -/
def vCvt (c : Nat) (w : VWord) (m : CvtMode) (d : Dev) : Dev :=
  let n := d.issues c w.dst.toNat
  let s := cvtShape m.dstF (d.src c w.sc.toNat 0) n
  let p := n % s.issues m.dstF
  let q := cvtPos m.dstF s p
  let x := fun r j => if s.holds (q r j) then d.cvtIn c w m s (q r j) r j else FVal.fin false 0 0
  let rm := fun r j => rmOf m.rm (d.seed c) ((q r j).1 * s.cols + (q r j).2)
  let out := d.cvtOut c w m s p x rm
  let e := (d.readChecks (unitKey 2 c 0) (d.cvtReads c w m s)).cvtPut c w m s p out
  let e := if m.dstF = .w32 then e.cvtVote c (x 0) else e
  let e := if m.count then
      let n := if m.dstF.tiled then 16 else 1
      e.countInto c m.out m.dstF.code ((List.range n).flatMap fun r => ((List.range 64).filter fun j => s.holds (q r j)).map fun j =>
        (x r j, (out r j).ufl, (out r j).sat))
    else e
  { (e.countIssue c w.dst.toNat) with draws := e.draws + 1024 }

/-- CVT.TUNIN (R179): the elements of up to 16 registers from SA, or of the stored vector that a scalar SA names, DST's value of them; s_in in SB, the record
at SC in the cluster's window. A record that leaves the window is dropped. None where the source has more than 1,024 elements (R208). -/
def vCvtTunin (c : Nat) (w : VWord) (m : CvtMode) (d : Dev) : Option Dev :=
  let n := d.src c w.dst.toNat 0
  let sIn := d.src c w.sb.toNat 0
  if 1024 < n then none
  else
    let xs := (List.range n).map fun i => d.cvtIn c w m ⟨1, n⟩ (0, i) (i / 64) (i % 64)
    let el := xs.mapIdx fun i x => if tunScaleOk sIn then tunInElem (rmOf m.rm (d.seed c) i) x sIn else (8, none)
    let outs := (el.mapIdx fun i p => (i, p.2)).filterMap fun p => p.2.map fun r => natLe 8 (r * m32 + p.1)
    let codes := (List.range ((n + 1) / 2)).map fun i =>
      BitVec.ofNat 8 ((el.getD (2 * i) (0, none)).1 + 16 * (el.getD (2 * i + 1) (0, none)).1)
    let a := mxcBase c + d.src c w.sc.toNat 0
    let list := align64 (a + 16 + codes.length)
    let d := if storedOper w.sa.toNat m.srcF then d.readChecks (unitKey 2 c 0) [d.tensorOf c w.sa.toNat m.srcF ⟨1, n⟩] else d
    let d := if inMxc c a (16 + codes.length) && (outs.isEmpty || inMxc c list (8 * outs.length)) then
        let d := d.write a (natLe 4 sIn ++ natLe 2 outs.length ++ List.replicate 10 0 ++ codes)
        (d.write list outs.flatten).produce (unitKey 2 c 0) [(a, 16 + codes.length), (list, 8 * outs.length)]
      else d
    let d := if m.count then
        d.countInto c m.out Fmt.tunin.code ((xs.zip el).map fun p => (p.1, p.1.finite && !p.1.isZero && p.2.1 == 0, false))
      else d
    some { d with draws := d.draws + 1024 }

/-! ### Programs -/

def startPos : VecPos := ⟨0, [], false, false, 0⟩

def Dev.vecPos (d : Dev) (c : Nat) : VecPos := SMap.get (fun _ => startPos) d.mxc.pos c

def Dev.setPos (d : Dev) (c : Nat) (p : VecPos) : Dev :=
  { d with mxc := { d.mxc with pos := SMap.set (fun _ => startPos) d.mxc.pos c p } }

/-- The counts of a program's outputs so far are those of completed items (R184, R231). -/
def Dev.keepCounts (d : Dev) (c : Nat) : Dev :=
  (List.range 8).foldl (fun d k =>
    { d with mxc := { d.mxc with histDone := SMap.set (fun _ => none) d.mxc.histDone (c * 8 + k) (d.histOf c k) } }) d

def Dev.nextInsn (d : Dev) (c : Nat) : Dev := d.setPos c { d.vecPos c with pc := (d.vecPos c).pc + 1 }

/-- LOOP (R211): open a loop of as many passes as SA counts; a count of 0 passes over the body. -/
def vLoop (c : Nat) (w : VWord) (d : Dev) : Dev :=
  let p := d.vecPos c
  let n := d.src c w.sa.toNat 0
  if 0 < p.skip then d.setPos c { p with pc := p.pc + 1, skip := p.skip + 1 }
  else if n = 0 then d.setPos c { p with pc := p.pc + 1, skip := 1 }
  else d.setPos c { p with pc := p.pc + 1, loops := (p.pc + 1, n) :: p.loops }

/-- END (R211): end of the innermost loop's pass, or of the program. A pass of the outermost loop is an item. -/
def vEnd (c : Nat) (d : Dev) : Dev :=
  let p := d.vecPos c
  if 0 < p.skip then d.setPos c { p with pc := p.pc + 1, skip := p.skip - 1 }
  else match p.loops with
    | [] => (d.setPos c { p with ended := true }).keepCounts c
    | (first, n) :: ls =>
      let d := if ls.isEmpty then d.keepCounts c else d
      if 1 < n then d.setPos c { p with pc := first, loops := (first, n - 1) :: ls }
      else d.setPos c { p with pc := p.pc + 1, loops := ls }

/-- R208: a bad instruction stops the program and is recorded. -/
def Dev.badInsn (d : Dev) (c : Nat) : Dev :=
  let p := d.vecPos c
  let task := match d.running? (unitKey 2 c 0) with | some r => r.slot.task | none => 0
  let d := (d.setPos c { p with stopped := true }).bump Cnt.VEC_INSN_ERR_CNT
  let d := (d.setFld Reg.MXC_ERR_LAST_TASK task).setFld Reg.MXC_ERR_LAST_PC p.pc
  let d := (d.setFld Reg.MXC_ERR_LAST_CAUSE 9).setFld Reg.MXC_ERR_LAST_MXC c
  d.onRunning (unitKey 2 c 0) fun r => { r with failed := true }

/-- Opcodes whose MODE must be 0 (Table 8.6: "Others 0"). -/
def plainOp (c : Nat) (w : VWord) : Nat → Option (Dev → Dev)
  | 0x01 => some (vFma c w)
  | 0x02 => some (vAdd c w)
  | 0x03 => some (vMul c w)
  | 0x04 => some (vMax c w)
  | 0x05 => some (vMin c w)
  | 0x06 => some (vSel c w)
  | 0x07 => some (vCmplt c w)
  | 0x10 => some (vExp2 c w)
  | 0x11 => some (vRcp c w)
  | 0x12 => some (vRsq c w)
  | 0x13 => some (vLog2 c w)
  | 0x18 => some (vTwoSum c w)
  | 0x19 => some (vFast2Sum c w)
  | 0x1A => some (vTwoProd c w)
  | 0x29 => some (vKth c w)
  | 0x2A => some (vRng c w)
  | _ => none

/-- One instruction, by opcode and fields; a reserved opcode or MODE stops the program (R208). -/
def Dev.insn (d : Dev) (c op : Nat) (w : VWord) : Dev :=
  match plainOp c w op with
  | some f => if w.mode = 0 then (f d).nextInsn c else d.badInsn c
  | none =>
    match op with
    | 0x20 => match cvtMode w with
      | none => d.badInsn c
      | some m => if m.dstF = .tunin then
            match vCvtTunin c w m d with
            | some d => d.nextInsn c
            | none => d.badInsn c
          else (vCvt c w m d).nextInsn c
    | 0x28 => if 8 ≤ w.mode.toNat then d.badInsn c
        else match w.mode.toNat % 4 with
          | 0 => (vRedSum c w d).nextInsn c
          | 1 => (vRedMax c w d).nextInsn c
          | 2 => (vRedMin c w d).nextInsn c
          | _ => d.badInsn c
    | 0x30 => (vLd c w d).nextInsn c
    | 0x31 => (vSt c w d).nextInsn c
    | 0x32 => (vGld c w d).nextInsn c
    | 0x3E => if w.mode = 0 then vLoop c w d else d.badInsn c
    | 0x3F => if w.mode = 0 then vEnd c d else d.badInsn c
    | _ => d.badInsn c

/-- The fields of an instruction word (Table 8.6). -/
def parseWord (v : Nat) : Nat × VWord :=
  (bits v 63 56, ⟨BitVec.ofNat 8 (bits v 55 48), BitVec.ofNat 8 (bits v 47 40), BitVec.ofNat 8 (bits v 39 32),
    BitVec.ofNat 8 (bits v 31 24), BitVec.ofNat 24 (bits v 23 0)⟩)

/-- Inside a loop that is passed over, only LOOP and END act. -/
def Dev.fetchRun (d : Dev) (c prog : Nat) : Dev :=
  let p := d.vecPos c
  let a := prog + 8 * p.pc
  if !inMxc c a 8 then d.badInsn c
  else
    let d := d.readChecks (unitKey 2 c 0) [(a, 8)]
    let i := parseWord (d.rd a 8)
    if 0 < p.skip ∧ i.1 ≠ 0x3E ∧ i.1 ≠ 0x3F then d.nextInsn c else d.insn c i.1 i.2

/-- Run a program to its final END or to a bad instruction, within `fuel` instructions. -/
def Dev.vecRun (c prog : Nat) : Nat → Dev → Dev
  | 0, d => d
  | n + 1, d =>
    let p := d.vecPos c
    if p.ended || p.stopped then d else Dev.vecRun c prog n (d.fetchRun c prog)

/-- How many instructions one program may issue: more than any slot of 2¹⁶ quanta has cycles for. -/
def vecFuel : Nat := 2 ^ 32

/-- A command that issues one instruction on a cluster's vector unit. -/
def State.issue (s : State) (c op : Nat) (w : VWord) : Host.Outcome State Fault Refusal := s.run fun d => d.insn c op w

def execFma (c : Fin 128) (w : VWord) (s : State) : Host.Outcome State Fault Refusal := s.issue c 0x01 w
def execAdd (c : Fin 128) (w : VWord) (s : State) : Host.Outcome State Fault Refusal := s.issue c 0x02 w
def execMul (c : Fin 128) (w : VWord) (s : State) : Host.Outcome State Fault Refusal := s.issue c 0x03 w
def execMax (c : Fin 128) (w : VWord) (s : State) : Host.Outcome State Fault Refusal := s.issue c 0x04 w
def execMin (c : Fin 128) (w : VWord) (s : State) : Host.Outcome State Fault Refusal := s.issue c 0x05 w
def execSel (c : Fin 128) (w : VWord) (s : State) : Host.Outcome State Fault Refusal := s.issue c 0x06 w
def execCmplt (c : Fin 128) (w : VWord) (s : State) : Host.Outcome State Fault Refusal := s.issue c 0x07 w
def execExp2 (c : Fin 128) (w : VWord) (s : State) : Host.Outcome State Fault Refusal := s.issue c 0x10 w
def execRcp (c : Fin 128) (w : VWord) (s : State) : Host.Outcome State Fault Refusal := s.issue c 0x11 w
def execRsq (c : Fin 128) (w : VWord) (s : State) : Host.Outcome State Fault Refusal := s.issue c 0x12 w
def execLog2 (c : Fin 128) (w : VWord) (s : State) : Host.Outcome State Fault Refusal := s.issue c 0x13 w
def execTwosum (c : Fin 128) (w : VWord) (s : State) : Host.Outcome State Fault Refusal := s.issue c 0x18 w
def execFast2sum (c : Fin 128) (w : VWord) (s : State) : Host.Outcome State Fault Refusal := s.issue c 0x19 w
def execTwoprod (c : Fin 128) (w : VWord) (s : State) : Host.Outcome State Fault Refusal := s.issue c 0x1A w
def execKth (c : Fin 128) (w : VWord) (s : State) : Host.Outcome State Fault Refusal := s.issue c 0x29 w
def execRng (c : Fin 128) (w : VWord) (s : State) : Host.Outcome State Fault Refusal := s.issue c 0x2A w

/-- CVT: a convert into any format; one into TUNIN is CVT_TUNIN's. The memories report `e` meanwhile. -/
def execCvt (c : Fin 128) (w : VWord) (s : State) (e : Ecc := Ecc.clean) : Host.Outcome State Fault Refusal :=
  s.run fun d => (d.ecc e).insn c 0x20 w

/-- CVT_TUNIN: the destination format of the word is TUNIN whatever its MODE says. -/
def execCvtTunin (c : Fin 128) (w : VWord) (s : State) (e : Ecc := Ecc.clean) : Host.Outcome State Fault Refusal :=
  s.run fun d => (d.ecc e).insn c 0x20 { w with mode := (w.mode &&& 0x0FFFFF#24) ||| 0xB00000#24 }

/-- RED_SUM, RED_MAX and RED_MIN: RED with the operation of the row in MODE [1:0]. -/
def execRedSum (c : Fin 128) (w : VWord) (s : State) : Host.Outcome State Fault Refusal :=
  s.issue c 0x28 { w with mode := w.mode &&& 0xFFFFFC#24 }
def execRedMax (c : Fin 128) (w : VWord) (s : State) : Host.Outcome State Fault Refusal :=
  s.issue c 0x28 { w with mode := (w.mode &&& 0xFFFFFC#24) ||| 1#24 }
def execRedMin (c : Fin 128) (w : VWord) (s : State) : Host.Outcome State Fault Refusal :=
  s.issue c 0x28 { w with mode := (w.mode &&& 0xFFFFFC#24) ||| 2#24 }

/-- LD, ST and GLD read or write the local store; the memories report `e` meanwhile. -/
def execLd (c : Fin 128) (w : VWord) (e : Ecc) (s : State) : Host.Outcome State Fault Refusal :=
  s.run fun d => (d.ecc e).insn c 0x30 w
def execSt (c : Fin 128) (w : VWord) (e : Ecc) (s : State) : Host.Outcome State Fault Refusal :=
  s.run fun d => (d.ecc e).insn c 0x31 w
def execGld (c : Fin 128) (w : VWord) (e : Ecc) (s : State) : Host.Outcome State Fault Refusal :=
  s.run fun d => (d.ecc e).insn c 0x32 w
def execLoop (c : Fin 128) (w : VWord) (s : State) : Host.Outcome State Fault Refusal := s.issue c 0x3E w
def execEnd (c : Fin 128) (w : VWord) (s : State) : Host.Outcome State Fault Refusal := s.issue c 0x3F w

end Sys2Proof.Machine
end

