-- ==== Sys2Proof/Machine/Matrix.lean ====
section
/-!
DEFINITION. Matrix tasks and kernels (R186 to R203, R214 to R217): operands, descriptor checks, MATMUL in the common and the
Ost order, MOVE, GATHER, VPROG, ASSEMBLE, BWD_WOT, NORM_BWD, TIESUM, COMPARE and LR_FIT.
-/

namespace Sys2Proof.Machine

/-! ### Products -/

/-- R188: one output element: groups of `g` terms summed exactly, each added to the running FP32 value with one rounding. -/
def dotGroups (g : Nat) (a b : Nat → FVal) : Nat → Nat → Nat → Nat
  | 0, _, acc => acc
  | n + 1, k, acc =>
    let s := (List.range g).foldl (fun s i => s.add ((a (k + i)).mul (b (k + i)))) (FVal.fin false 0 0)
    dotGroups g a b n (k + g) (toF32 ((f32 acc).add s))

/-- Table 9.2: one group of 8 in the Ost order: rounded products, pairwise sums, then the scales. -/
def ostGroup (a b : Nat → FVal) (k : Nat) (sa sb : FVal) : Nat :=
  let p := fun i => toF32 ((a (k + i)).mul (b (k + i)))
  let s := f32Add (f32Add (f32Add (p 0) (p 1)) (f32Add (p 2) (p 3))) (f32Add (f32Add (p 4) (p 5)) (f32Add (p 6) (p 7)))
  toF32 (((f32 s).mul sa).mul sb)

/-- R224: one output element in the Ost order. -/
def ostDot (a b sa sb : Nat → FVal) : Nat → Nat → Nat → Nat
  | 0, _, acc => acc
  | n + 1, k, acc => ostDot a b sa sb n (k + 8) (f32Add acc (ostGroup a b k (sa k) (sb k)))

/-- Terms of one group (R188). -/
def groupTerms (f : Fmt) : Nat := if f.tiled then 16 else if f.blocked then 32 else 4

/-- Table 8.1: may the matrix engine multiply this pair? -/
def pairOk (a b : Fmt) : Bool :=
  (a = .ts4f && (b = .ts4f || b = .ts4i)) || (a = .ts4i && b = .ts4f) || (a = .e2m1 && b = .e2m1) ||
  ((a = .e4m3 || a = .e5m2) && (b = .e4m3 || b = .e5m2)) || (a = .mxint8 && b = .mxint8) ||
  (a = .bf16 && b = .bf16) || (a = .fp16 && b = .fp16)

/-! ### MATMUL descriptors (Table 8.2) -/

structure MatDesc where
  op : Nat
  form : Nat
  flags : Nat
  layer : Nat
  fmt : Nat
  patch : Nat
  m : Nat
  n : Nat
  k : Nat
  epi : Nat
  aAddr : Nat
  bAddr : Nat
  cAddr : Nat
  histBase : Nat
  histRsv : Nat
  hist : Nat
  countAddr : Nat
  deriving DecidableEq, Repr

def parseMat (b : List Byte) : MatDesc :=
  ⟨rdLe b 0 2, rdLe b 2 1, rdLe b 3 1, rdLe b 4 2, rdLe b 6 1, rdLe b 7 1, rdLe b 8 4, rdLe b 0xC 4, rdLe b 0x10 4,
    rdLe b 0x14 4, rdLe b 0x18 8, rdLe b 0x20 8, rdLe b 0x28 8, rdLe b 0x37 1, rdLe b 0x36 1, rdLe b 0x30 6, rdLe b 0x38 8⟩

def MatDesc.ta (x : MatDesc) : Bool := bit x.flags 0
def MatDesc.tb (x : MatDesc) : Bool := bit x.flags 1
def MatDesc.acc (x : MatDesc) : Bool := bit x.flags 2
def MatDesc.hadd (x : MatDesc) : Bool := bit x.flags 3
def MatDesc.epiFree (x : MatDesc) : Bool := bit x.flags 4
def MatDesc.fa (x : MatDesc) : Fmt := (Fmt.ofCode (x.fmt / 16)).getD .fp32
def MatDesc.fb (x : MatDesc) : Fmt := (Fmt.ofCode (x.fmt % 16)).getD .fp32

/-- Stored shapes of A and B (R191). -/
def MatDesc.aShape (x : MatDesc) : Nat × Nat := if x.ta then (x.k, x.m) else (x.m, x.k)
def MatDesc.bShape (x : MatDesc) : Nat × Nat := if x.tb then (x.n, x.k) else (x.k, x.n)

/-- Patch shape M_P × N_P (Table 8.2). -/
def MatDesc.patchShape (x : MatDesc) : Nat × Nat :=
  match x.patch with
  | 0 => (64, 128)
  | 1 => (128, 64)
  | 2 => (256, 32)
  | _ => (512, 16)

/-- Patches of the output (R193). -/
def MatDesc.patches (x : MatDesc) : Nat := ceilDiv x.m x.patchShape.1 * ceilDiv x.n x.patchShape.2

def MatDesc.aRange (x : MatDesc) : Nat × Nat := (x.aAddr, tensorBytes x.fa x.aShape.1 x.aShape.2)
def MatDesc.bRange (x : MatDesc) : Nat × Nat := (x.bAddr, tensorBytes x.fb x.bShape.1 x.bShape.2)
def MatDesc.cRange (x : MatDesc) : Nat × Nat := (x.cAddr, 4 * x.m * x.n)
def MatDesc.hRange (x : MatDesc) : Nat × Nat := (x.hist, 576)

/-! ### Kernel descriptors (Tables 8.3 and 8.4) -/

structure KerDesc where
  op : Nat
  form : Nat
  rsv : Nat
  layer : Nat
  p : List Nat
  countAddr : Nat
  deriving DecidableEq, Repr

def parseKer (b : List Byte) : KerDesc :=
  ⟨rdLe b 0 2, rdLe b 2 1, rdLe b 3 1 + rdLe b 6 2, rdLe b 4 2, (List.range 6).map fun i => rdLe b (8 + 8 * i) 8, rdLe b 0x38 8⟩

def KerDesc.par (x : KerDesc) (i : Nat) : Nat := x.p.getD i 0

def hi32 (v : Nat) : Nat := v / m32
def lo32 (v : Nat) : Nat := v % m32

/-- Attention extents (Table 8.11): query-side state and key block, forward and backward. -/
def attnState (bwd wide : Bool) : Nat :=
  match bwd, wide with
  | false, false => 37696
  | false, true => 41984
  | true, false => 41600
  | true, true => 67072
def attnBlock (bwd wide : Bool) : Nat :=
  match bwd, wide with
  | false, false => 8256
  | false, true => 33792
  | true, false => 73792
  | true, true => 99328

def Dev.wide (d : Dev) (layer : Nat) : Bool :=
  match d.layerEntry layer with | some e => e.wideAttn == 1 | none => false

/-- The bytes of a vector program from its first word to its final END, within `fuel` words (R207, R211); none where it does not end. -/
def Dev.progBytes (d : Dev) (a : Nat) : Nat → Nat → Nat → Option Nat
  | 0, _, _ => none
  | fuel + 1, k, depth =>
    let op := bits (d.rd (a + 8 * k) 8) 63 56
    if op = 0x3F then (if depth = 0 then some (8 * k + 8) else d.progBytes a fuel (k + 1) (depth - 1))
    else d.progBytes a fuel (k + 1) (if op = 0x3E then depth + 1 else depth)

/-- The program and the output table of a VPROG; a program that does not end in the window takes more bytes than the window has. -/
def Dev.progRange (d : Dev) (x : KerDesc) : List (Nat × Nat) :=
  [(x.par 0, (d.progBytes (x.par 0) (mxcSize / 8) 0 0).getD (mxcSize + 8)), (x.par 1, 128)]

/-- The histogram slots that a VPROG's output table names (R213). -/
def Dev.progHists (d : Dev) (x : KerDesc) : List (Nat × Nat) :=
  ((List.range 8).map fun k => (d.rd (x.par 1 + 16 * k) 8, 576)).filter fun q => q.1 != 0

/-- The four addresses of part `t` of an ASSEMBLE (R198): OUT, CORR, IN, SC. -/
def Dev.partAddr (d : Dev) (x : KerDesc) (t i : Nat) : Nat := d.rd (x.par 0 + 32 * t + 8 * i) 8

/-- What ASSEMBLE reads for vector `v`: the records of its parts, their scale arrays, and the low-rank term. -/
def Dev.partReads (d : Dev) (x : KerDesc) (v : Nat) : List (Nat × Nat) :=
  let cols := x.par 1 % 65536
  let off := v * hi32 (x.par 4)
  ((List.range (x.par 1 / 65536 % 256)).flatMap fun t =>
    [(d.partAddr x t 0 + off, 2112), (d.partAddr x t 1 + off, 2112), (d.partAddr x t 2 + off, 16), (d.partAddr x t 3, ceilDiv cols 16)]) ++
  (if x.par 2 = 0 then [] else [(x.par 2 + v * lo32 (x.par 4), 4 * cols)])

def KerDesc.hist (x : KerDesc) : Nat := x.par 5 % 2 ^ 48

/-- The buffers a kernel reads and writes, for the window check, the late marks and the pound check. `n` is its items. -/
def Dev.kerRanges (d : Dev) (x : KerDesc) (n : Nat) : List (Nat × Nat) × List (Nat × Nat) :=
  let p := x.par
  match x.op with
  | 0x12 => ([(p 0, p 2)], [(p 1, p 2)])
  | 0x13 => ((p 1, 4 * n) :: (List.range n).map fun k => (p 0 + d.rd (p 1 + 4 * k) 4 * p 2, p 2), [(p 3, n * p 2)])
  | 0x20 => (d.progRange x, d.progHists x)
  | 0x30 =>
    ((p 0, 32 * (p 1 / 65536 % 256)) :: (List.range n).flatMap fun v => d.partReads x v,
      ((List.range n).map fun v => (p 3 + v * lo32 (p 4), 4 * (p 1 % 65536))) ++ [(x.hist, 576)])
  | 0x31 => ([(p 0, d.wotBytes (p 0)), (p 1, tensorBytes .ts4f (p 4) 512), (p 3, 2048)], [(p 2, p 4 * 4096)])
  | 0x40 =>
    let w := d.wide x.layer
    let blocks := (List.range n).flatMap fun b => [(p 1 + b * p 5, attnBlock false w), (p 2 + b * p 5, attnBlock false w)]
    ((p 0, attnState false w) :: blocks, [(p 0, attnState false w)])
  | 0x41 =>
    let w := d.wide x.layer
    let blocks := (List.range n).flatMap fun b => [(p 1 + b * p 5, attnBlock true w), (p 2 + b * p 5, attnBlock true w)]
    ((p 0, attnState true w) :: blocks, (p 0, attnState true w) :: blocks)
  | 0x50 =>
    let width := hi32 (p 3)
    ([(p 0, 256 * n * width), (p 1, 256 * n * (width + 1)), (p 2, 4 * width), (p 5, 4 * width)],
      [(p 4, 256 * n * width), (p 5, 4 * width)])
  | 0x58 => ((p 0, 8 * p 1) :: (List.range (p 1)).map fun b => (d.rd (p 0 + 8 * b) 8, 4 * p 3), [(p 2, 4 * p 3)])
  | 0x60 => ([(p 0, 2097152), (p 1, 264192), (p 2, d.wotBytes (p 2)), (p 3, 4096)], [])
  | 0x61 =>
    let rank := match d.layerEntry x.layer with | some e => e.lrRank | none => 0
    ([(p 0, 2097152), (p 1, 264192), (p 2, d.wotBytes (p 2)), (p 3, 4096)], [(p 5, factorBytes rank)])
  | _ => ([], [])

/-- The address parameters of a kernel that are 64-byte aligned (R192, R196): operands, outputs and histogram slots. -/
def Dev.kerAligned (d : Dev) (x : KerDesc) : List Nat :=
  let p := x.par
  match x.op with
  | 0x12 => [p 0, p 1]
  | 0x13 => [p 0, p 1, p 3]
  | 0x20 => (d.progHists x).map (·.1)
  | 0x30 => [p 0, p 2, p 3, x.hist]
  | 0x31 => [p 0, p 1, p 2, p 3]
  | 0x40 => [p 0, p 1, p 2]
  | 0x41 => [p 0, p 1, p 2]
  | 0x50 => [p 0, p 1, p 2, p 4, p 5]
  | 0x58 => p 0 :: p 2 :: (List.range (p 1)).map fun b => d.rd (p 0 + 8 * b) 8
  | 0x60 => [p 0, p 1, p 2, p 3]
  | 0x61 => [p 0, p 1, p 2, p 3, p 5]
  | _ => []

/-- Bits of a kernel's parameters that Table 8.4 gives no meaning: HIST [55:48] of ASSEMBLE, the mask word of the attention kernels, the kind word of
NORM_BWD. -/
def kerReserved (x : KerDesc) : Nat :=
  match x.op with
  | 0x30 => bits (x.par 5) 55 48
  | 0x40 => bits (x.par 3) 29 0
  | 0x41 => bits (x.par 3) 29 0
  | 0x50 => bits (x.par 3) 31 2
  | _ => 0

/-- Does a kernel work inside the cluster's own window (Table 13.2)? MOVE and GATHER reach any mapped address. -/
def Dev.rangeOk (d : Dev) (c op : Nat) (r : Nat × Nat) : Bool :=
  if op = 0x12 ∨ op = 0x13 then d.mapped r.1 r.2 else inMxc c r.1 r.2

/-- Causes of Table 8.9. -/
def kerShapeOk (x : KerDesc) : Bool :=
  let p := x.par
  match x.op with
  | 0x12 => true
  | 0x13 => p 2 % 64 == 0 && p 2 != 0
  | 0x20 => true
  | 0x30 => 1 ≤ p 1 / 65536 && p 1 / 65536 ≤ 32 && 1 ≤ p 1 % 65536 && p 1 % 65536 ≤ 512
  | 0x31 => p 4 % 64 == 0
  | 0x40 => bits (p 3) 31 30 ≤ 1
  | 0x41 => bits (p 3) 31 30 ≤ 1
  | 0x50 => lo32 (p 3) % 4 ≤ 1
  | 0x58 => 2 ≤ p 1 && p 1 ≤ 16
  | 0x60 => p 4 < 2048
  | 0x61 => p 4 < 2048
  | _ => false

def kernelOp (op : Nat) : Bool := [0x12, 0x13, 0x20, 0x30, 0x31, 0x40, 0x41, 0x50, 0x58, 0x60, 0x61].contains op

/-- R192, R196, R203, R224: the check of a kernel descriptor: 0, or the cause of Table 8.9. `digital` admits FORM DIGITAL. -/
def Dev.kerCheck (d : Dev) (c : Nat) (x : KerDesc) (n : Nat) (digital : Bool) : Nat :=
  let attn := x.op == 0x40 || x.op == 0x41
  let r := d.kerRanges x n
  if !kernelOp x.op || x.rsv != 0 || kerReserved x != 0 then 1
  else if 2 < x.form ∨ (x.form = 2 ∧ !digital) then 6
  else if attn && (match d.layerEntry x.layer with | some e => decide (1 < e.wideAttn) | none => true) then 8
  else if attn && d.fld Reg.NUM_MODE_ACTIVE == 2 && !d.wide x.layer then 2
  else if !kerShapeOk x then 3
  else if !(r.1 ++ r.2).all (d.rangeOk c x.op) then 4
  else if !(d.kerAligned x).all (fun a => a % 64 == 0) || (x.op == 0x30 && x.hist == 0) then 4
  else if attn && decide (x.par 5 < attnBlock (x.op == 0x41) (d.wide x.layer)) then 4
  else 0

/-- R186, R191, R192, R224: the check of a MATMUL descriptor by itself. -/
def Dev.matCheck (d : Dev) (c : Nat) (x : MatDesc) (digital : Bool) : Nat :=
  let ost := d.fld Reg.NUM_MODE_ACTIVE == 2
  if 32 ≤ x.flags ∨ 4 ≤ x.patch ∨ x.histRsv ≠ 0 then 1
  else if 2 < x.form ∨ (x.form = 2 ∧ !digital) then 6
  else match Fmt.ofCode (x.fmt / 16), Fmt.ofCode (x.fmt % 16) with
    | some fa, some fb =>
      if !pairOk fa fb || (ost && fa.tiled) then 2
      else if (fa.blocked && (x.ta || !x.tb)) then 5
      else
        let nq := if fa.tiled || fa.blocked then 16 else 8
        let kq := groupTerms fa
        if x.m % 16 ≠ 0 ∨ x.m < 16 ∨ x.n % nq ≠ 0 ∨ x.n < nq ∨ x.k % kq ≠ 0 ∨ x.k = 0 then 3
        else
          let rs := [x.aRange, x.bRange, x.cRange, x.hRange]
          if !rs.all (fun r => inMxc c r.1 r.2 && r.1 % 64 == 0) || x.hist == 0 then 4
          else if rangesOverlap x.aAddr x.aRange.2 x.cAddr x.cRange.2 || rangesOverlap x.bAddr x.bRange.2 x.cAddr x.cRange.2 ||
              rangesOverlap x.hist 576 x.cAddr x.cRange.2 then 4
          else 0
    | _, _ => 2

/-- Token bands of a NORM_BWD companion: the bands of the product's rows (R214). -/
def MatDesc.bands (x : MatDesc) : Nat := ceilDiv x.m 64

/-- May this kernel be a product's companion: a VPROG, or, with EPI_FREE, BWD_WOT (R192, R194) or NORM_BWD (R214)? -/
def MatDesc.companionOk (x : MatDesc) (e : KerDesc) : Bool := e.op == 0x20 || ((e.op == 0x31 || e.op == 0x50) && x.epiFree)

/-- The check of any MXC descriptor (R192): a companion is checked with it. -/
def Dev.mxcCheck (d : Dev) (c : Nat) (b : List Byte) (n : Nat) (digital : Bool) : Nat :=
  if rdLe b 0 2 = 0x10 then
    let x := parseMat b
    let r := d.matCheck c x digital
    if r ≠ 0 then r
    else if x.epi = 0xFFFFFFFF then 0
    else
      let e := parseKer (imgTask d.program 2 c x.epi)
      if !x.companionOk e || d.kerCheck c e x.bands true != 0 then 7
      else 0
  else d.kerCheck c (parseKer b) n digital

/-- Items of an MXC task before any DATA_DEP count (R193 and Table 8.4); `items` is the slot's ITEMS. -/
def Dev.mxcItems (d : Dev) (b : List Byte) (items : Nat) : Nat :=
  let x := parseKer b
  match x.op with
  | 0x10 => (parseMat b).patches
  | 0x12 => ceilDiv (x.par 2) 4096
  | 0x20 => x.par 2
  | 0x31 => d.rd (x.par 0) 4
  | 0x58 => ceilDiv (4 * x.par 3) 4096
  | 0x60 => 1025
  | _ => items

/-! ### Running -/

/-- The cluster's task in progress with operation `op`, when it may do more work. -/
def Dev.mxcTask (d : Dev) (c op : Nat) : Option Running :=
  match d.running? (unitKey 2 c 0) with
  | none => none
  | some r => if r.failed || r.complete || r.idle || decide (r.total ≤ r.done) || rdLe r.desc 0 2 != op then none else some r

def Dev.mxcDone (d : Dev) (c n : Nat) : Dev := d.onRunning (unitKey 2 c 0) fun r => { r with done := min r.total (r.done + n) }

/-- The key of a task's own histogram counts: beside the eight output indices of each cluster. -/
def taskHist (c : Nat) : Nat := 128 * 8 + c

def Dev.taskHistAcc (d : Dev) (c : Nat) : HistAcc := (SMap.get (fun _ => none) d.mxc.hist (taskHist c)).getD (emptyHist 0)

def Dev.setTaskHist (d : Dev) (c : Nat) (h : Option HistAcc) : Dev :=
  { d with mxc := { d.mxc with hist := SMap.set (fun _ => none) d.mxc.hist (taskHist c) h } }

/-- A pass of a vector program begins: registers s12 (passes of the outer loop) and s13 to s15 from the descriptor (Table 8.4, R211), position fresh. -/
def Dev.resetProg (d : Dev) (c : Nat) (x : KerDesc) (passes : Nat) : Dev :=
  let d := (((d.setScalar c 12 passes).setScalar c 13 (x.par 3)).setScalar c 14 (x.par 4)).setScalar c 15 (x.par 5)
  d.setPos c startPos

/-- A vector program starts on a cluster for a task: its outputs and its converts have counted nothing yet. -/
def Dev.startProg (d : Dev) (c : Nat) (x : KerDesc) (passes : Nat) : Dev :=
  let d := d.resetProg c x passes
  let k := d.mxc
  let d := { d with mxc := { k with outTab := SMap.set (fun _ => 0) k.outTab c (x.par 1), elem := k.elem.filter fun q => q.1 / 256 != c } }
  ((List.range 8).foldl (fun d k => d.setHist c k none) d).keepCounts c

/-- R231: judge one output of a completed program. -/
def Dev.judge (d : Dev) (l : Nat) (h : HistAcc) : Dev :=
  if d.fld Reg.NUM_LP_CFG_EN = 1 ∧ (h.fmt = 8 ∨ h.fmt = 9 ∨ h.fmt = 6) ∧ d.fld Reg.NUM_LP_CFG_MIN_COUNT ≤ h.count then
    let u := decide (d.fld Reg.NUM_LP_CFG_LP_UFL_MAX * h.count < h.ufl * 65536)
    let s := decide (d.fld Reg.NUM_LP_CFG_LP_SAT_MAX * h.count < h.sat * 65536)
    if u || s then
      (d.bump Cnt.NUM_LP_TROUBLE_CNT).gather fun g =>
        let t := SMap.get (fun _ => 0) g.trouble l
        let t := if u then setBit t 0 else t
        { g with trouble := SMap.set (fun _ => 0) g.trouble l (if s then setBit t 1 else t) }
    else d
  else d

/-- The end of a program's task on a cluster: its output histograms are written (R184, R213) and its outputs judged (R231), a stopped task's on the counts of
the items it completed. -/
def Dev.endProg (d : Dev) (c : Nat) (stopped : Bool) : Dev :=
  let key := unitKey 2 c 0
  let tab := SMap.get (fun _ => 0) d.mxc.outTab c
  let l := d.taskLayer c
  (List.range 8).foldl (fun d k =>
    let h := if stopped then SMap.get (fun _ => none) d.mxc.histDone (c * 8 + k) else d.histOf c k
    let d := d.setHist c k none
    match h with
    | none => d
    | some h =>
      let e := tab + 16 * k
      let d := d.consume key [(e, 16)]
      let a := d.rd e 8
      let d := if a = 0 then d else d.histWrite c a (sgn 8 (d.rd (e + 8) 1)) (d.rd (e + 9) 1 == 1) stopped h
      d.judge l h) d

/-- Run a program from its start to its end. -/
def Dev.runProg (d : Dev) (c : Nat) (x : KerDesc) (passes : Nat) : Dev := Dev.vecRun c (x.par 0) vecFuel (d.resetProg c x passes)

/-! ### MATMUL -/

/-- One element of C before it is written (R188, R224). In the Ost order a last group of 4 terms has +0 for the others. -/
def Dev.matElem (d : Dev) (x : MatDesc) (i j : Nat) : Nat :=
  let ash := x.aShape
  let bsh := x.bShape
  let ai := fun k => if x.ta then (k, i) else (i, k)
  let bi := fun k => if x.tb then (j, k) else (k, j)
  let start := if x.acc then d.rd (x.cAddr + 4 * (i * x.n + j)) 4 else 0
  if d.fld Reg.NUM_MODE_ACTIVE = 2 then
    let one : FVal := .fin false 1 0
    let sc := fun (f : Fmt) (a : Nat) (s : Nat × Nat) (p : Nat × Nat) =>
      if f.blocked then scaled one (d.scaleAt f a s.1 s.2 p.1 p.2) else one
    let term := fun (e : FVal) (k : Nat) => if k < x.k then e else .fin false 0 0
    ostDot (fun k => term (d.elemAt x.fa x.aAddr ash.2 (ai k).1 (ai k).2) k) (fun k => term (d.elemAt x.fb x.bAddr bsh.2 (bi k).1 (bi k).2) k)
      (fun k => sc x.fa x.aAddr ash (ai k)) (fun k => sc x.fb x.bAddr bsh (bi k)) (ceilDiv x.k 8) 0 start
  else
    let g := groupTerms x.fa
    dotGroups g (fun k => d.valueAt x.fa x.aAddr ash.1 ash.2 (ai k).1 (ai k).2)
      (fun k => d.valueAt x.fb x.bAddr bsh.1 bsh.2 (bi k).1 (bi k).2) (x.k / g) 0 start

/-- Rows and columns of patch `p` in row-band order (R193). -/
def MatDesc.patchCells (x : MatDesc) (p : Nat) : List (Nat × Nat) :=
  let s := x.patchShape
  let per := ceilDiv x.n s.2
  let r0 := p / per * s.1
  let c0 := p % per * s.2
  (List.range (min s.1 (x.m - r0))).flatMap fun i => (List.range (min s.2 (x.n - c0))).map fun j => (r0 + i, c0 + j)

/-- The descriptor of a product's companion (R190). -/
def Dev.companion (d : Dev) (c : Nat) (x : MatDesc) : Option KerDesc :=
  if x.epi = 0xFFFFFFFF then none else some (parseKer (imgTask d.program 2 c x.epi))

/-- The task of the cluster has been stopped. -/
def Dev.mxcFailed (d : Dev) (c : Nat) : Bool := match d.running? (unitKey 2 c 0) with | some r => r.failed | none => false

/-- Write the cells of a patch of C. -/
def Dev.writePatch (d : Dev) (x : MatDesc) (vals : List ((Nat × Nat) × Nat)) : Dev :=
  vals.foldl (fun d v => d.wr (x.cAddr + 4 * (v.1.1 * x.n + v.1.2)) 4 v.2) d

/-- A patch is complete: it counts in the output's histogram (R181). -/
def Dev.countPatch (d : Dev) (c : Nat) (vals : List ((Nat × Nat) × Nat)) : Dev :=
  let h := vals.foldl (fun h v => h.element (f32 v.2) false false) (d.taskHistAcc c)
  (((d.setTaskHist c (some h)).bump Cnt.MXC_PATCH_CNT).mxcDone c 1).keepCounts c

/-- One patch (R193, R194): its elements, then its companion, which finds them at their places in C before the patch is written. Where the companion is
stopped, the patch is not written and does not count (R208, R218). -/
def Dev.matPatch (c : Nat) (x : MatDesc) (d : Dev) (p : Nat) : Dev :=
  if d.mxcFailed c then d
  else
    let cells := x.patchCells p
    let vals := cells.map fun q => (q, d.matElem x q.1 q.2)
    let old := cells.map fun q => (q, d.rd (x.cAddr + 4 * (q.1 * x.n + q.2)) 4)
    let e := d.writePatch x vals
    match d.companion c x with
    | none => e.countPatch c vals
    | some k =>
      if x.epiFree then e.countPatch c vals
      else
        let e := e.runProg c k (k.par 2)
        if e.mxcFailed c then e.writePatch x old else e.countPatch c vals

/-- R184: write the histogram of the items done so far. -/
def Dev.matHist (d : Dev) (c : Nat) (x : MatDesc) (stopped : Bool) : Dev :=
  (d.histWrite c x.hist (sgn 8 x.histBase) x.hadd stopped (d.taskHistAcc c)).setTaskHist c none

/-! ### BWD_WOT (R201) -/

/-- E of a column under R62, from an image scale array. -/
def Dev.colScale (d : Dev) (sc c : Nat) : Int := (d.rd (sc + c / 16) 1 : Int) - 127

/-- One entry of the table applied to every token. -/
def Dev.wotBack (d : Dev) (x : KerDesc) (j : Nat) : Dev :=
  let n := d.rd (x.par 0) 4
  let e := d.wotEntry (x.par 0) n j
  let k := d.colScale (x.par 3) e.col
  (List.range (x.par 4)).foldl (fun d t =>
    let a := x.par 2 + 4 * (t * 1024 + e.row)
    let dy := d.valueAt .ts4f (x.par 1) (x.par 4) 512 t e.col
    d.wr a 4 (toF32 ((f32 (d.rd a 4)).add ((dy.mul e.exc).scale k)))) d

/-- Up to `n` further entries. -/
def Dev.wotEntriesBack (d : Dev) (x : KerDesc) (from_ n : Nat) : Dev :=
  (List.range n).foldl (fun d i => d.wotBack x (from_ + i)) d

/-- R214: one token's mean in EP32 of a row of terms. -/
def ep32Mean (xs : List Nat) : Nat :=
  let s := xs.foldl (fun s x => ep32Add s (x, 0)) (0, 0)
  toF32 ((ep32Val s.1 s.2).quot (FVal.ofInt xs.length))

/-- NORM_BWD of one token (R214); σ follows the token's x̂ row. -/
def Dev.normToken (d : Dev) (x : KerDesc) (t : Nat) : Dev :=
  let w := hi32 (x.par 3)
  let dy := fun i => d.rd (x.par 0 + 4 * (t * w + i)) 4
  let xh := fun i => d.rd (x.par 1 + 4 * (t * (w + 1) + i)) 4
  let sigma := xh w
  let gdy := fun i => f32Mul (d.rd (x.par 2 + 4 * i) 4) (dy i)
  let a := ep32Mean ((List.range w).map fun i => f32Mul (gdy i) (xh i))
  let b := if lo32 (x.par 3) % 4 = 1 then ep32Mean ((List.range w).map gdy) else 0
  let dx := (List.range w).map fun i => f32Div (f32Sub (f32Sub (gdy i) (f32Mul (xh i) a)) b) sigma
  let dg := (List.range w).map fun i => f32Add (d.rd (x.par 5 + 4 * i) 4) (f32Mul (dy i) (xh i))
  (d.write (x.par 4 + 4 * t * w) (dx.flatMap fun v => natLe 4 v)).write (x.par 5) (dg.flatMap fun v => natLe 4 v)

/-- What a product's task reads: its operands, C where it accumulates, and what its companion reads. -/
def Dev.matReads (d : Dev) (c : Nat) (x : MatDesc) : List (Nat × Nat) :=
  [x.aRange, x.bRange] ++ (if x.acc then [x.cRange] else []) ++
    match d.companion c x with
    | none => []
    | some e => (d.kerRanges e x.bands).1

/-- An EPI_FREE vector program runs once, independently of the patches (R194). -/
def Dev.freeProg (d : Dev) (c : Nat) (x : MatDesc) : Dev :=
  match d.companion c x with
  | some e => if x.epiFree ∧ e.op = 0x20 then d.runProg c e (e.par 2) else d
  | none => d

/-- A product's last patch is done: a companion that works on the whole result follows it, BWD_WOT on dX (R200) or NORM_BWD on dy (R214), and the
histograms of the product and of a vector program are written. -/
def Dev.matEnd (d : Dev) (c : Nat) (x : MatDesc) : Dev :=
  let d := match d.companion c x with
    | none => d
    | some e =>
      if e.op = 0x31 then (d.wotEntriesBack e 0 (d.rd (e.par 0) 4)).produce (unitKey 2 c 0) (d.kerRanges e 1).2
      else if e.op = 0x50 then
        ((List.range x.m).foldl (fun (d : Dev) t => d.normToken e t) d).produce (unitKey 2 c 0) (d.kerRanges e x.bands).2
      else d.endProg c false
  d.matHist c x false

/-- MATMUL: up to `n` further patches. -/
def Dev.matmul (d : Dev) (c n : Nat) : Dev :=
  match d.mxcTask c 0x10 with
  | none => d
  | some r =>
    let x := parseMat r.desc
    let key := unitKey 2 c 0
    let d := d.readChecks key (d.matReads c x)
    let d := if r.done = 0 then d.freeProg c x else d
    let m := min n (r.total - r.done)
    let d := ((List.range m).map (r.done + ·)).foldl (Dev.matPatch c x) d
    let d := d.produce key [x.cRange, x.hRange]
    if (d.mxcTask c 0x10).isNone && !d.mxcFailed c then d.matEnd c x else d

/-! ### MOVE and GATHER (R195) -/

/-- MOVE: up to `n` further items of 4 KiB. -/
def Dev.move (d : Dev) (c n : Nat) : Dev :=
  match d.mxcTask c 0x12 with
  | none => d
  | some r =>
    let x := parseKer r.desc
    let key := unitKey 2 c 0
    let d := d.readChecks key (d.kerRanges x r.total).1
    let m := min n (r.total - r.done)
    let o := 4096 * r.done
    let len := min (4096 * m) (x.par 2 - o)
    let d := d.write (x.par 1 + o) (d.read (x.par 0 + o) len)
    (d.mxcDone c m).produce key [(x.par 1, x.par 2)]

/-- GATHER: up to `n` further rows. -/
def Dev.gatherRows (d : Dev) (c n : Nat) : Dev :=
  match d.mxcTask c 0x13 with
  | none => d
  | some r =>
    let x := parseKer r.desc
    let key := unitKey 2 c 0
    let d := d.readChecks key (d.kerRanges x r.total).1
    let m := min n (r.total - r.done)
    let d := (List.range m).foldl (fun d i =>
      let k := r.done + i
      d.write (x.par 3 + k * x.par 2) (d.read (x.par 0 + d.rd (x.par 1 + 4 * k) 4 * x.par 2) (x.par 2))) d
    (d.mxcDone c m).produce key [(x.par 3, r.total * x.par 2)]

/-! ### VPROG, ASSEMBLE, NORM_BWD, TIESUM -/

/-- VPROG: the program runs to its end; a bad instruction leaves its items undone (R208). -/
def Dev.vprog (d : Dev) (c : Nat) : Dev :=
  match d.mxcTask c 0x20 with
  | none => d
  | some r =>
    let d := (d.readChecks (unitKey 2 c 0) (d.progRange (parseKer r.desc))).runProg c (parseKer r.desc) r.total
    if (d.vecPos c).stopped then d else (d.endProg c false).mxcDone c r.total

/-- R198: a_t[c] of one part. -/
def Dev.partTerm (d : Dev) (e off col : Nat) : FVal :=
  let out := d.rd e 8 + off
  let corr := d.rd (e + 8) 8 + off
  let rec_ := d.rd (e + 16) 8 + off
  let sc := d.rd (e + 24) 8
  let sum := (FVal.ofInt (sgn 32 (d.rd (out + 4 * col) 4))).add (f32 (d.rd (corr + 4 * col) 4))
  (scaled ((f32 (d.rd rec_ 4)).mul sum) (d.rd (sc + col / 16) 1))

/-- One assembled column: parts in list order, the low-rank term last. -/
def Dev.assembleCol (d : Dev) (x : KerDesc) (v col : Nat) : Nat :=
  let parts := x.par 1 / 65536 % 256
  let off := v * hi32 (x.par 4)
  let y := (List.range parts).foldl (fun acc t =>
    let a := toF32 (d.partTerm (x.par 0 + 32 * t) off col)
    match acc with
    | none => some a
    | some s => some (f32Add s a)) none
  let y := y.getD 0
  if x.par 2 = 0 then y else f32Add y (d.rd (x.par 2 + v * lo32 (x.par 4) + 4 * col) 4)

/-- R184: an ASSEMBLE writes the histogram of the vectors done so far; its P5 has no mode, which is FIRST. -/
def Dev.asmHist (d : Dev) (c : Nat) (x : KerDesc) (stopped : Bool) : Dev :=
  (d.histWrite c x.hist (sgn 8 (bits (x.par 5) 63 56)) false stopped (d.taskHistAcc c)).setTaskHist c none

/-- ASSEMBLE: up to `n` further vectors. -/
def Dev.assemble (d : Dev) (c n : Nat) : Dev :=
  match d.mxcTask c 0x30 with
  | none => d
  | some r =>
    let x := parseKer r.desc
    let key := unitKey 2 c 0
    let cols := x.par 1 % 65536
    let m := min n (r.total - r.done)
    let d := d.readChecks key [(x.par 0, 32 * (x.par 1 / 65536 % 256))]
    let d := (List.range m).foldl (fun d i =>
      let v := r.done + i
      let d := d.readChecks key (d.partReads x v)
      let ys := (List.range cols).map fun col => d.assembleCol x v col
      let h := ys.foldl (fun h y => h.element (f32 y) false false) (d.taskHistAcc c)
      let d := (d.setTaskHist c (some h)).write (x.par 3 + v * lo32 (x.par 4)) (ys.flatMap fun y => natLe 4 y)
      d.produce key [(x.par 3 + v * lo32 (x.par 4), 4 * cols)]) d
    let d := d.mxcDone c m
    if r.done + m = r.total then d.asmHist c x false else d

/-- BWD_WOT in its own slot: up to `n` further entries. -/
def Dev.bwdWot (d : Dev) (c n : Nat) : Dev :=
  match d.mxcTask c 0x31 with
  | none => d
  | some r =>
    let x := parseKer r.desc
    let key := unitKey 2 c 0
    let rg := d.kerRanges x r.total
    let d := d.readChecks key (rg.1 ++ rg.2)
    let m := min n (r.total - r.done)
    ((d.wotEntriesBack x r.done m).mxcDone c m).produce key rg.2

/-- NORM_BWD: up to `n` further token bands of 64. -/
def Dev.normBwd (d : Dev) (c n : Nat) : Dev :=
  match d.mxcTask c 0x50 with
  | none => d
  | some r =>
    let x := parseKer r.desc
    let key := unitKey 2 c 0
    let rg := d.kerRanges x r.total
    let d := d.readChecks key rg.1
    let m := min n (r.total - r.done)
    let d := (List.range (64 * m)).foldl (fun d i => d.normToken x (64 * r.done + i)) d
    (d.mxcDone c m).produce key rg.2

/-- TIESUM: up to `n` further items of 4 KiB of output. -/
def Dev.tiesum (d : Dev) (c n : Nat) : Dev :=
  match d.mxcTask c 0x58 with
  | none => d
  | some r =>
    let x := parseKer r.desc
    let key := unitKey 2 c 0
    let rg := d.kerRanges x r.total
    let d := d.readChecks key rg.1
    let m := min n (r.total - r.done)
    let first := 1024 * r.done
    let d := (List.range (min (1024 * m) (x.par 3 - first))).foldl (fun d i =>
      let e := first + i
      let term := fun b => d.rd (d.rd (x.par 0 + 8 * b) 8 + 4 * e) 4
      let s := (List.range (x.par 1 - 1)).foldl (fun s b => f32Add s (term (b + 1))) (term 0)
      d.wr (x.par 2 + 4 * e) 4 s) d
    (d.mxcDone c m).produce key rg.2

end Sys2Proof.Machine
end

