-- ==== Sys2Proof/Machine/Attention.lean ====
section
/-!
DEFINITION. Attention kernels (R203 to R206): ATTN_FWD and ATTN_BWD, one key block at a time.
-/

namespace Sys2Proof.Machine

/-- A matrix operand as the engine reads it: elements and their scales, by row and column. -/
structure Oper where
  el : Nat → Nat → FVal
  sc : Nat → Nat → FVal

def fOne : FVal := .fin false 1 0

/-- The transposed reading of an operand (R180). -/
def Oper.swap (o : Oper) : Oper := ⟨fun i j => o.el j i, fun i j => o.sc j i⟩

/-- A stored tensor of R × C in format `f` at `a`. -/
def Dev.oper (d : Dev) (f : Fmt) (a r c : Nat) : Oper :=
  ⟨fun i j => d.elemAt f a c i j, fun i j => scaled fOne (d.scaleAt f a r c i j)⟩

/-- A matrix converted inside a kernel into `f`, without the layer's adjustment (R230): tiles of 16 × 16, or blocks of 32 along its rows. -/
def formed (f : Fmt) (x : Nat → Nat → Nat) : Oper :=
  let group := fun i j =>
    let xs := if f.tiled then (List.range 256).map fun t => f32 (x (i / 16 * 16 + t / 16) (j / 16 * 16 + t % 16))
      else (List.range 32).map fun t => f32 (x i (j / 32 * 32 + t))
    cvtScaled f true (autoScale f 0 xs) (xs.map fun v => (v, RMode.rne))
  let at_ := fun i j => if f.tiled then i % 16 * 16 + j % 16 else j % 32
  ⟨fun i j => decode f (((group i j).elems.getD (at_ i j) ⟨0, false, false, false⟩).code),
    fun i j => scaled fOne (group i j).scale⟩

/-- One element of A·B with contraction length `k`, added to `start` in the order of the mode (R188, R224). -/
def Dev.engine (d : Dev) (f : Fmt) (a b : Oper) (k i j start : Nat) : Nat :=
  if d.fld Reg.NUM_MODE_ACTIVE = 2 then
    ostDot (fun t => a.el i t) (fun t => b.el t j) (fun t => a.sc i t) (fun t => b.sc t j) (k / 8) 0 start
  else
    dotGroups (groupTerms f) (fun t => (a.el i t).mul (a.sc i t)) (fun t => (b.el t j).mul (b.sc t j)) (k / groupTerms f) 0
      start

/-- The format of a layer's attention tensors (R203). -/
def Dev.attnFmt (d : Dev) (layer : Nat) : Fmt := if d.wide layer then .e4m3 else .ts4f

/-- Bytes of one stored orientation, with its padding to 64 bytes. -/
def attnPart (f : Fmt) (r c : Nat) : Nat := align64 (tensorBytes f r c)

/-- The orientation that a product contracting over the rows of a stored tensor reads: the tensor itself under TS4F (R180), its
stored transpose under MXFP8 (R203). The result is indexed as the stored tensor. -/
def Dev.byRows (d : Dev) (f : Fmt) (a r c : Nat) : Oper :=
  if f.tiled then d.oper f a r c else (d.oper f (a + attnPart f r c) c r).swap

/-- Is element (j, k) of the block masked (R205)? -/
def masked (x : KerDesc) (b j k : Nat) : Bool :=
  bits (x.par 3) 31 30 == 1 && decide (hi32 (x.par 4) + j < lo32 (x.par 4) + 128 * b + k)

def f32NegInf : Nat := 0xFF800000

/-- R204 steps 1 and 2: the scaled and masked score of row `j` and key `k` of block `b`. -/
def Dev.score (d : Dev) (x : KerDesc) (f : Fmt) (b j k : Nat) : Nat :=
  if masked x b j k then f32NegInf
  else
    let s := d.engine f (d.oper f (x.par 0) 64 128) (d.oper f (x.par 1 + b * x.par 5) 128 128).swap 128 j k 0
    f32Mul s (hi32 (x.par 3))

/-- A FP32 product of an EP32 pair, renormalized; the low part of an infinity or a NaN is ignored, and is +0 (R169). -/
def ep32Scale (a : Nat × Nat) (k : Nat) : Nat × Nat :=
  let p := twoProd a.1 k
  if (f32 p.1).finite then twoSum p.1 (f32Fma a.2 k p.2) else p

/-- Read and write rows of FP32 words. -/
def Dev.row32 (d : Dev) (a n : Nat) : List Nat := (List.range n).map fun i => d.rd (a + 4 * i) 4
def Dev.setRow32 (d : Dev) (a : Nat) (xs : List Nat) : Dev := d.write a (xs.flatMap (natLe 4))

/-- What R204 does to one query row against one key block: m′, α, P and the new l. -/
structure AttnRow where
  m : Nat
  alpha : Nat
  p : List Nat
  l : Nat × Nat
  deriving DecidableEq, Repr

def attnRow (scores : List Nat) (m : Nat) (l : Nat × Nat) : AttnRow :=
  let m1 := scores.foldl f32Max m
  if m1 = f32NegInf then ⟨m1, f32One, scores.map fun _ => 0, l⟩
  else
    let p := scores.map fun s => f32Exp2 (f32Sub s m1)
    let al := f32Exp2 (f32Sub m m1)
    ⟨m1, al, p, ep32Scale (p.foldl (fun l q => ep32Add l (q, 0)) l) al⟩

/-- ATTN_FWD against key block `b` (R204). -/
def Dev.attnFwdBlock (_c : Nat) (x : KerDesc) (d : Dev) (b : Nat) : Dev :=
  let f := d.attnFmt x.layer
  let oAt := x.par 0 + attnPart f 64 128
  let mAt := oAt + 32768
  let lAt := mAt + 256
  let rows := (List.range 64).map fun j =>
    attnRow ((List.range 128).map fun k => d.score x f b j k) (d.rd (mAt + 4 * j) 4)
      (d.rd (lAt + 8 * j) 4, d.rd (lAt + 8 * j + 4) 4)
  let row := fun j => rows.getD j ⟨0, 0, [], (0, 0)⟩
  let p := formed f fun j k => (row j).p.getD k 0
  let v := d.byRows f (x.par 2 + b * x.par 5) 128 128
  let o := (List.range (64 * 128)).map fun t =>
    d.engine f p v 128 (t / 128) (t % 128) (f32Mul (d.rd (oAt + 4 * t) 4) (row (t / 128)).alpha)
  let d := (d.setRow32 oAt o).setRow32 mAt (rows.map (·.m))
  (d.setRow32 lAt (rows.flatMap fun r => [r.l.1, r.l.2])).bump Cnt.MXC_ATTN_BLOCK_CNT

/-- Add a product to an FP32 accumulator of `r` × 128 (R206 step 5). -/
def Dev.accumulate (d : Dev) (f : Fmt) (a b : Oper) (k r at_ : Nat) : Dev :=
  d.setRow32 at_ ((List.range (r * 128)).map fun t => d.engine f a b k (t / 128) (t % 128) (d.rd (at_ + 4 * t) 4))

/-- ATTN_BWD against key block `b` (R206). -/
def Dev.attnBwdBlock (_c : Nat) (x : KerDesc) (d : Dev) (b : Nat) : Dev :=
  let f := d.attnFmt x.layer
  let both := fun r => if f.tiled then attnPart f r 128 else 2 * attnPart f r 128
  let qAt := x.par 0
  let dOAt := qAt + both 64
  let lseAt := dOAt + both 64
  let dAt := lseAt + 256
  let dQAt := dAt + 256
  let kAt := x.par 1 + b * x.par 5
  let vAt := x.par 2 + b * x.par 5
  let p := (List.range (64 * 128)).map fun t =>
    f32Exp2 (f32Sub (d.score x f b (t / 128) (t % 128)) (d.rd (lseAt + 4 * (t / 128)) 4))
  let ds := (List.range (64 * 128)).map fun t =>
    let dp := d.engine f (d.oper f dOAt 64 128) (d.oper f vAt 128 128).swap 128 (t / 128) (t % 128) 0
    f32Mul (p.getD t 0) (f32Sub dp (d.rd (dAt + 4 * (t / 128)) 4))
  let e := d.accumulate f (formed f fun j k => ds.getD (128 * j + k) 0) (d.byRows f kAt 128 128) 128 64 dQAt
  let e := e.accumulate f (formed f fun k j => ds.getD (128 * j + k) 0) (d.byRows f qAt 64 128) 64 128 (kAt + both 128)
  let e := e.accumulate f (formed f fun k j => p.getD (128 * j + k) 0) (d.byRows f dOAt 64 128) 64 128 (vAt + both 128)
  e.bump Cnt.MXC_ATTN_BLOCK_CNT

/-- Run up to `n` further key blocks of an attention task. -/
def Dev.attn (d : Dev) (c op n : Nat) (block : Nat → KerDesc → Dev → Nat → Dev) : Dev :=
  match d.mxcTask c op with
  | none => d
  | some r =>
    let x := parseKer r.desc
    let key := unitKey 2 c 0
    let rg := d.kerRanges x r.total
    let d := d.readChecks key rg.1
    let m := min n (r.total - r.done)
    let d := (List.range m).foldl (fun d i => block c x d (r.done + i)) d
    (d.mxcDone c m).produce key rg.2

end Sys2Proof.Machine
end

