-- ==== Sys2Proof/Machine/LowRank.lean ====
section
/-!
DEFINITION. The arithmetic of a low-rank fit (R135, R212, R217): Gaussian values, products on the matrix engine, the Householder QR and the
one-sided Jacobi singular value decomposition. A matrix is the list of its columns, each a list of FP32 codes.
-/

namespace Sys2Proof.Machine

/-! ### The generator -/

/-- R212: the Gaussian value of an element index: the Irwin–Hall sum of four words, scaled to unit variance and rounded once. -/
def gaussian (seed idx : Nat) : Nat :=
  let w := philox seed idx
  let s : Int := (bits w.1 31 8 + bits w.2.1 31 8 + bits w.2.2.1 31 8 + bits w.2.2.2 31 8 : Nat)
  toF32 (((FVal.ofInt (s - (2 ^ 25 - 2))).scale (-24)).mul (f32 0x3FDDB3D7))

/-- R135: column `j` of Ω, `rows` × `cols` and drawn in row-major order. -/
def omegaCol (seed rows cols j : Nat) : List Nat := (List.range rows).map fun i => gaussian seed (i * cols + j)

/-! ### Products on the matrix engine -/

/-- R217: the two BF16 parts of an FP32 operand. -/
def hiPart (x : Nat) : Nat := toBF16 (f32 x)
def loPart (x : Nat) : Nat := toBF16 ((f32 x).add (decode .bf16 (hiPart x)).neg)

/-- One BF16 product of two rows of operands, added to `start` in the order of R188, or of R224 under OSTEMU. -/
def Dev.bf16Dot (d : Dev) (a b : List Nat) (start : Nat) : Nat :=
  let v := fun (l : List Nat) k => decode .bf16 (l.getD k 0)
  let one := fun (_ : Nat) => FVal.fin false 1 0
  if d.fld Reg.NUM_MODE_ACTIVE = 2 then ostDot (v a) (v b) one one (ceilDiv a.length 8) 0 start
  else dotGroups (groupTerms .bf16) (v a) (v b) (a.length / groupTerms .bf16) 0 start

/-- R217: a product of FP32 operands as hi·hi + hi·lo + lo·hi. -/
def Dev.splitDot (d : Dev) (a b : List Nat) : Nat :=
  d.bf16Dot (a.map loPart) (b.map hiPart) (d.bf16Dot (a.map hiPart) (b.map loPart) (d.bf16Dot (a.map hiPart) (b.map hiPart) 0))

/-- Column by column, aᵀ × b. -/
def Dev.transMul (d : Dev) (a b : List (List Nat)) : List (List Nat) := b.map fun y => a.map fun x => d.splitDot x y

/-- The transpose of a matrix of `rows` rows. -/
def transpose (rows : Nat) (a : List (List Nat)) : List (List Nat) := (List.range rows).map fun i => a.map fun c => c.getD i 0

/-! ### Columns on the vector unit -/

/-- Σ a_i × b_i in ascending order (R210). -/
def colDot (a b : List Nat) : Nat := (a.zip b).foldl (fun s p => f32Fma p.1 p.2 s) 0

/-- k × a + b. -/
def colAxpy (k : Nat) (a b : List Nat) : List Nat := (a.zip b).map fun p => f32Fma k p.1 p.2

def f32Neg (a : Nat) : Nat := Nat.xor a 0x80000000

/-- √x as x × RSQ(x); 0 for 0. -/
def f32Root (x : Nat) : Nat := if (f32 x).isZero then 0 else f32Mul x (f32Rsq x)

/-! ### Householder QR -/

/-- A reflector 1 − k·v·vᵀ, by k and v. -/
abbrev Reflector := Nat × List Nat

def Reflector.apply (h : Reflector) (c : List Nat) : List Nat := colAxpy (f32Neg (f32Mul h.1 (colDot h.2 c))) h.2 c

/-- The reflector that clears a column below position `j`; none where nothing is to clear. -/
def reflectorOf (j : Nat) (c : List Nat) : Option Reflector :=
  let x := c.mapIdx fun i v => if i < j then 0 else v
  let root := f32Root (colDot x x)
  if (f32 root).isZero then none
  else
    let head := x.getD j 0
    let v := x.set j (f32Add head (if (f32 head).isNeg then f32Neg root else root))
    some (f32Mul 0x40000000 (f32Rcp (colDot v v)), v)

/-- The reflectors of the columns from position `j` on, `fuel` of them. -/
def reflectors : Nat → Nat → List (List Nat) → List Reflector
  | 0, _, _ => []
  | _, _, [] => []
  | fuel + 1, j, c :: cs =>
    match reflectorOf j c with
    | none => reflectors fuel (j + 1) cs
    | some h => h :: reflectors fuel (j + 1) (cs.map (Reflector.apply h))

/-- householder_qr of R135: the first columns of Q, as many as y has, of `rows` rows. -/
def householderQ (rows : Nat) (y : List (List Nat)) : List (List Nat) :=
  let hs := reflectors y.length 0 y
  (List.range y.length).map fun j =>
    hs.reverse.foldl (fun c h => h.apply c) ((List.range rows).map fun i => if i = j then 0x3F800000 else 0)

/-! ### One-sided Jacobi -/

/-- The working columns of a decomposition and the rotations applied to them. -/
structure Jacobi where
  a : List (List Nat)
  v : List (List Nat)
  deriving DecidableEq, Repr

/-- Columns p and q turned by cosine `c` and sine `s`. -/
def turn (c s p q : Nat) (m : List (List Nat)) : List (List Nat) :=
  let x := m.getD p []
  let y := m.getD q []
  let scaleBy := fun (k : Nat) (l : List Nat) => l.map (f32Mul k)
  (m.set p (colAxpy (f32Neg s) y (scaleBy c x))).set q (colAxpy s x (scaleBy c y))

/-- One rotation, which makes columns p and q orthogonal. -/
def Jacobi.rotate (j : Jacobi) (p q : Nat) : Jacobi :=
  let x := j.a.getD p []
  let y := j.a.getD q []
  let g := colDot x y
  if (f32 g).isZero then j
  else
    let zeta := f32Mul (f32Sub (colDot y y) (colDot x x)) (f32Rcp (f32Mul 0x40000000 g))
    let mag := zeta % 2 ^ 31
    let t := f32Rcp (f32Add mag (f32Root (f32Fma zeta zeta 0x3F800000)))
    let t := if (f32 zeta).isNeg then f32Neg t else t
    let c := f32Rsq (f32Fma t t 0x3F800000)
    let s := f32Mul c t
    ⟨turn c s p q j.a, turn c s p q j.v⟩

/-- One sweep over the pairs of `k` columns, by rows. -/
def Jacobi.sweep (k : Nat) (j : Jacobi) : Jacobi :=
  (List.range k).foldl (fun j p => (List.range (k - 1 - p)).foldl (fun j i => j.rotate p (p + 1 + i)) j) j

/-- R217: exactly 8 sweeps on the columns of bᵀ. -/
def jacobi (bt : List (List Nat)) : Jacobi :=
  let k := bt.length
  let unit := (List.range k).map fun j => (List.range k).map fun i => if i = j then 0x3F800000 else 0
  (List.range 8).foldl (fun j _ => j.sweep k) ⟨bt, unit⟩

/-- Positions of the singular values in descending order; equal ones keep their order. -/
def descending (s : List Nat) : List Nat :=
  let before := fun (i j : Nat) => (f32 (s.getD j 0)).lt (f32 (s.getD i 0))
  (List.range s.length).foldl (fun l i => l.takeWhile (fun j => !before i j) ++ i :: l.dropWhile (fun j => !before i j)) []

/-! ### The fit -/

/-- Factors U and V of rank `r` from the residual, given as its rows (one per output) of `inDim` values; `free` gives the elements of V for a singular value
of 0, whose vector is not determined. -/
def Dev.fitFactors (d : Dev) (resid : List (List Nat)) (inDim r seed : Nat) (free : Nat → Nat) : List Nat × List Nat :=
  let k := r + 8
  let outDim := resid.length
  let omega := (List.range k).map (omegaCol seed inDim k)
  let y := d.transMul resid omega
  let q := householderQ outDim y
  let bt := d.transMul (transpose inDim resid) q
  let j := jacobi bt
  let s := j.a.map fun c => f32Root (colDot c c)
  let order := (descending s).take r
  let qu := d.transMul (transpose outDim q) (order.map fun i => j.v.getD i [])
  let u := (qu.zip order).map fun p => p.1.map fun x => toBF16 (f32 (f32Mul x (s.getD p.2 0)))
  let v := order.mapIdx fun n i =>
    if (f32 (s.getD i 0)).isZero then (List.range inDim).map fun e => free (n * inDim + e) % 65536
    else (j.a.getD i []).map fun x => toBF16 (f32 (f32Mul x (f32Rcp (s.getD i 0))))
  ((transpose outDim u).flatten, (transpose inDim v).flatten)

end Sys2Proof.Machine
end

