-- ==== Sys2Proof/Machine/Tun.lean ====
section
/-!
DEFINITION. The Tun sequencer, the range monitors and the sparge units (chapters 3 and 4): FWD, COVER, SPARGE_PERIOD,
RM_WINDOW_CLOSE.
-/

namespace Sys2Proof.Machine

/-! ### Analog reading -/

/-- The key of a cell pair. -/
def cellKey (t r c : Nat) : Nat := t * 2 ^ 19 + r * 512 + c

/-- The level w held at row `r`, data column `c` of Tun `t` (R61). -/
def Dev.cell (d : Dev) (t r c : Nat) : Int := SMap.get (fun _ => 0) d.cells (cellKey t r c)

def Dev.setCell (d : Dev) (t r c : Nat) (w : Int) : Dev :=
  { d with cells := SMap.set (fun _ => 0) d.cells (cellKey t r c) w }

/-- The level of reference column `c` (512–519) at row `r` (Table 3.1). -/
def refLevel (c r : Nat) : Int :=
  match c with
  | 512 => 7
  | 513 => -7
  | 514 => 0
  | 515 => if r % 2 = 0 then 7 else -7
  | 516 => 1
  | 517 => -1
  | 518 => ((r % 15 : Nat) : Int) - 7
  | _ => 7 - ((r % 15 : Nat) : Int)

/-- The basin temperature in 1/16 °C (R143). -/
def Dev.basinTemp (d : Dev) (b : Nat) : Int := SMap.get (fun _ => 0) d.kln.temp b

/-- R69: the converter's n for an analog sum of `v` unit products at step 2^L. The residual error is a free value inside the
tolerance of R81: the gain error times v plus half a converter step; outside every tolerance it is free. -/
def convert (tol : Option Nat) (lsb : Nat) (v noise : Int) : Int :=
  let step : Int := 160000 * (2 ^ lsb : Nat)
  let err := match tol with
    | some g => let b : Int := (g * v.natAbs + 80000 * 2 ^ lsb : Nat); clampInt (-b) b noise
    | none => noise
  clampInt (-128) 127 ((2 * (v * 160000 + err) + step) / (2 * step))

/-- The gain tolerance of a data column's reading at junction temperature `temp`, in units of 1/160,000 (R81): 0.5% plus 0.02% per °C since the last
run; none where the spec bounds nothing: a degraded column (R82), or a junction outside 20–95 °C (R4). -/
def Dev.gainTol (d : Dev) (t c : Nat) (temp : Int) : Option Nat :=
  if d.kln.degraded.contains (t * 520 + c) || decide (temp < 20 * 16) || decide (95 * 16 < temp) then none
  else some (800 + 2 * (temp - sgn 16 (d.fld (Reg.KLN_STATUS_T_LAST (t / 64)))).natAbs)

/-- The key of code `k` of a Tun: 0–519 gains, 520–1039 offsets, 1040–1055 references (Table 6.1). -/
def trimKey (t k : Nat) : Nat := t * 2048 + k

/-- The trim code a Tun computes with: the working copy inside a unit of a KILN slot, and otherwise the active one (R149). -/
def Dev.trim (d : Dev) (t k : Nat) : Nat :=
  SMap.get (fun _ => 0) (if d.kln.applied.contains t then d.kln.working else d.kln.active) (trimKey t k)

/-- R142: what the trims make of an analog sum of `v` unit products, as an error in 1/160,000 unit product: the sum passes the column's bare gain and its
gain factor, takes the bare offset and the offset trim, and meets a converter whose bare scale the row group's reference code adjusts. `k` names the
reading's free values. -/
def Dev.trimError (d : Dev) (t c g k : Nat) (v : Int) : Int :=
  let gain : Int := ((192 + d.trim t c % 256 : Nat) : Int)
  let scale : Nat := max 1 (Config.analog (3 * k + 2)).natAbs * (480 + d.trim t (1040 + g) % 64)
  let sum := v * 160000 * Config.analog (3 * k) * gain / (256 * 65536 : Int) + Config.analog (3 * k + 1) + sgn 8 (d.trim t (520 + c)) * 10000
  sum * (512 * 65536 : Int) / (scale : Int) - v * 160000

/-- The code that column `c` reads in row group `g`: reading `k`, at junction temperature `temp`. R81 bounds data columns only. -/
def Dev.readColumn (d : Dev) (t c g lsb k : Nat) (temp v : Int) : Int :=
  convert (if c < 512 then d.gainTol t c temp else none) lsb v (d.trimError t c g k v)

/-- Is a converter code 0 or 255 (R71)? -/
def saturated (n : Int) : Bool := n == -128 || n == 127

/-! ### The range monitor -/

/-- The window a Tun opens with the settings now in force (R76, R85). -/
def Dev.newWindow (d : Dev) : RmWindow :=
  let band := d.fld Reg.TUN_RM_BAND_SAT_FRAC_MAX * 2 ^ 48 + d.fld Reg.TUN_RM_BAND_REF_RMS_MAX * 2 ^ 32 +
    d.fld Reg.TUN_RM_BAND_REF_MEAN_MAX * 2 ^ 16 + d.fld Reg.TUN_RM_BAND_REF_GAIN_MAX
  ⟨0, d.fld Reg.TUN_RM_CFG_WINDOW_LOG2, d.fld Reg.TUN_RM_CFG_HIST_BASE, d.fld Reg.TUN_RM_CFG_HIST_WIDTH_LOG2, band,
    0, 0, 0, 0, 0, 0, 0, List.replicate 32 0, 255, 0⟩

def noMonitor : RmTun := ⟨none, []⟩

def Dev.monitor (d : Dev) (t : Nat) : RmTun := SMap.get (fun _ => noMonitor) d.rmOpen t

def Dev.setMonitor (d : Dev) (t : Nat) (m : RmTun) : Dev := { d with rmOpen := SMap.set (fun _ => noMonitor) d.rmOpen t m }

/-- The window that a Tun's codes go to: a new window starts at the first monitored phase after the last one was full. -/
def Dev.window (d : Dev) (t : Nat) : RmWindow := (d.monitor t).cur.getD d.newWindow

def Dev.setWindow (d : Dev) (t : Nat) (w : RmWindow) : Dev := d.setMonitor t { d.monitor t with cur := some w }

/-- Add one to a histogram bin. -/
def bumpBin : List Nat → Nat → List Nat
  | [], _ => []
  | n :: l, 0 => (n + 1) :: l
  | n :: l, i + 1 => n :: bumpBin l i

/-- Table 3.9: the bin of a data code; codes below the base count in bin 0, those beyond the last bin in bin 31. -/
def histBin (base width code : Nat) : Nat := min 31 ((code - base) / 2 ^ width)

/-- Take one data code into a window (R76, R77). -/
def RmWindow.data (w : RmWindow) (n : Int) : RmWindow :=
  let code := (n + 128).toNat
  { w with
    hist := bumpBin w.hist (histBin w.histBase w.histWidth code)
    minCode := min w.minCode code
    maxCode := max w.maxCode code
    dataPhases := w.dataPhases + 1
    satPhases := w.satPhases + (if saturated n then 1 else 0) }

/-- Take one reference code into a window: the expected sum `v` is exact, and a code at 0 or 255 is left out (R72, R76). -/
def RmWindow.ref (w : RmWindow) (col lsb : Nat) (v n : Int) : RmWindow :=
  if saturated n then w
  else
    let e := v * (2 ^ (4 - lsb) : Nat)
    let m := n * 16
    let err := m - e
    let w := { w with errSum := w.errSum + err, errSq := w.errSq + (err * err).natAbs, refPhases := w.refPhases + 1 }
    if col = 512 ∨ col = 513 then { w with gainNum := w.gainNum + m * e, gainDen := w.gainDen + (e * e).natAbs } else w

/-- The Tun is under calibration (R78, R150). -/
def Dev.stale (d : Dev) (t : Nat) : Bool := bit (d.fld (Reg.TUN_STALE_STALE (t / 64))) (t % 64)

/-- A Tun's monitor takes codes: it is in a window, which started with EN = 1, or EN lets one start (R85); and the Tun is not under calibration (R78). -/
def Dev.monitored (d : Dev) (t : Nat) : Bool := ((d.monitor t).cur.isSome || d.flag Reg.TUN_RM_CFG_EN) && !d.stale t

/-- A vector of a monitored Tun ends: with its 2^WINDOW_LOG2-th vector the window is full (R77). -/
def Dev.countVector (d : Dev) (t : Nat) : Dev :=
  let m := d.monitor t
  let w : RmWindow := { d.window t with vecs := (d.window t).vecs + 1 }
  if 2 ^ w.windowLog2 ≤ w.vecs then d.setMonitor t { m with cur := none, full := m.full ++ [w] } else d.setWindow t w

/-- The published statistics of a window (R77): SEQ counts on; fractions are cut to their unit, and the gain of a window
whose reference sums are all 0 is a free value. -/
def RmWindow.stats (w : RmWindow) (seq free : Nat) : RmStats :=
  let gain : Nat := if w.gainDen = 0 then free % 2 ^ 16
    else unsgn 16 (clampInt (-32768) 32767 ((w.gainNum - w.gainDen) * 65536 / (w.gainDen : Int)))
  let n : Nat := max 1 w.refPhases
  let mean := unsgn 16 (clampInt (-32768) 32767 (w.errSum * 16 / (n : Int)))
  let rms := min 65535 (Nat.sqrt (w.errSq * 256 / n))
  let sat := min 65535 (w.satPhases * 65536 / max 1 w.dataPhases)
  ⟨(seq + 1) % 2 ^ 16, w.minCode, w.maxCode, w.hist, gain, mean, rms, sat⟩

/-! ### Kiln requests (R147) -/

/-- A trigger asks for a run of basin `b`: it makes a run pending, raises the pending kind, or merges. -/
def Dev.kilnRequest (d : Dev) (b : Nat) (measured : Bool) : Dev :=
  let f := Reg.KLN_STATUS_PENDING b
  let was := d.fld f
  let want := if measured then 2 else 1
  if was = 0 then d.setFld f want
  else if was < want then d.setFld f want
  else d.bump Cnt.KLN_REQ_MERGE_CNT

/-- R77: the close of a full window `w` of a Tun: publish, compare with the bands, report. -/
def Dev.closeWindow (d : Dev) (t : Nat) (w : RmWindow) : Dev :=
  let seq := match SMap.get (fun _ => none) d.rmStats t with | some (s : RmStats) => s.seq | none => 0
  let fd := d.draw
  let s := w.stats seq fd.1
  let d := { fd.2 with rmStats := SMap.set (fun _ => none) fd.2.rmStats t (some s) }
  let sat := decide (bits w.band 63 48 < s.satFrac)
  let rms := decide (bits w.band 47 32 < s.rms)
  let mean := decide (bits w.band 31 16 < (sgn 16 s.mean).natAbs)
  let gain := decide (bits w.band 15 0 < (sgn 16 s.gain).natAbs)
  if sat || rms || mean || gain then
    let d := d.bump Cnt.TUN_RM_OOB_CNT
    let d := ((((d.setFld Reg.TUN_RM_LAST_SAT sat.toNat).setFld Reg.TUN_RM_LAST_RMS rms.toNat).setFld
      Reg.TUN_RM_LAST_MEAN mean.toNat).setFld Reg.TUN_RM_LAST_GAIN gain.toNat).setFld Reg.TUN_RM_LAST_TUN t
    d.kilnRequest (t / 64) true
  else d

/-! ### Weir statistics (R107) -/

def zeroStats : LayerStats := ⟨0, 0, 0, 0, 0⟩

/-- Change one layer's counts in a table. -/
def onLayer (m : SMap LayerStats) (layer : Nat) (f : LayerStats → LayerStats) : SMap LayerStats :=
  SMap.set (fun _ => zeroStats) m layer (f (SMap.get (fun _ => zeroStats) m layer))

/-- Add to a layer's counts: the step's, or the next step's once the token frame has begun. -/
def Dev.addStats (d : Dev) (layer : Nat) (f : LayerStats → LayerStats) : Dev :=
  if d.lastFrame then { d with spg := { d.spg with nextStats := onLayer d.spg.nextStats layer f } }
  else { d with spg := { d.spg with stats := onLayer d.spg.stats layer f } }

/-! ### Capacity (R100, R101) -/

def poolFull : Nat := 1024

def Dev.pool (d : Dev) (b : Nat) : Nat := SMap.get (fun _ => poolFull) d.spg.pool b

def Dev.setPool (d : Dev) (b n : Nat) : Dev :=
  { d with spg := { d.spg with pool := SMap.set (fun _ => poolFull) d.spg.pool b n } }

/-- One entry of an outlier list (Table 4.2). -/
structure Outlier where
  row : Nat
  resid : Nat
  deriving DecidableEq, Repr

/-- R93: the valid entries of a list in list order, and how many entries are invalid. `seen` holds the rows named before. -/
def sortOutliers (f : FwdDesc) (code : Nat → Nat) : List Nat → List Nat → List Outlier × Nat
  | _, [] => ([], 0)
  | seen, e :: es =>
    let row := bits e 9 0
    let r := bits e 63 32
    let c := code (row - f.rowBase)
    let v := f32 r
    let ok := bits e 31 10 == 0 && f.rowBase ≤ row && row < f.rowBase + f.rowCount && v.finite && !v.isZero &&
      ((c == 7 && !v.isNeg) || (c == 9 && v.isNeg)) && !seen.contains row
    let rest := sortOutliers f code (row :: seen) es
    if ok then (⟨row, r⟩ :: rest.1, rest.2) else (rest.1, rest.2 + 1)

/-- R94: |r| descending, ties to the lower row. FP32 magnitudes order as their codes without the sign. -/
def outlierBefore (a b : Outlier) : Bool :=
  let x := a.resid % 2 ^ 31
  let y := b.resid % 2 ^ 31
  decide (y < x) || (x == y && a.row ≤ b.row)

/-- Serve outlier claims in order: the accepted ones and the pool left (R100). -/
def claimOutliers : Nat → Nat → List Outlier → List Outlier × Nat
  | _, pool, [] => ([], pool)
  | 0, pool, _ => ([], pool)
  | n + 1, pool, o :: os =>
    if 8 ≤ pool then
      let r := claimOutliers n (pool - 8) os
      (o :: r.1, r.2)
    else claimOutliers n pool os

/-! ### One vector on one Tun -/

/-- Read vector `v`'s record on Tun `i` of basin `b`: its codes, and the outlier claims of a covered vector (R92 to R94, R101). -/
def Dev.readVector (d : Dev) (f : FwdDesc) (b sub i v : Nat) (covered : Bool) : VecIn × Dev :=
  let rec_ := f.inAt sub i v
  let raw := (List.range f.rowCount).map fun j => d.inCode rec_ j
  let eights := (raw.filter fun c => c == 8).length
  let nOut := d.rd (rec_ + 4) 2
  if covered then
    let list := (List.range (min 1024 nOut)).map fun k => d.rd (f.outlierAt rec_ + 8 * k) 8
    let so := sortOutliers f (fun j => raw.getD j 0) [] list
    let d := d.bumpBy Cnt.SPG_LIST_ERR_CNT (so.2 + (if 1024 < nOut then 1 else 0))
    let sorted := so.1.mergeSort outlierBefore
    let acc := claimOutliers 32 (d.pool b) (sorted.take 32)
    let d := d.setPool b acc.2
    let clipped := sorted.length - acc.1.length
    (⟨b * 64 + i, rec_, f.outAt sub i v, raw.map dacCode, eights, acc.1.map fun o => (o.row, o.resid), clipped⟩, d)
  else (⟨b * 64 + i, rec_, f.outAt sub i v, raw.map dacCode, eights, [], 0⟩, d)

/-- The rows (as offsets into the task's range) of row group `g` (R66). -/
def FwdDesc.groupRows (f : FwdDesc) (g : Nat) : List Nat :=
  (List.range f.rowCount).filter fun j => (f.rowBase + j) / 64 == g

/-- The row groups a task covers, ascending (R66). -/
def FwdDesc.groups (f : FwdDesc) : List Nat :=
  (List.range 16).filter fun g => !(f.groupRows g).isEmpty

/-- The analog sum of one phase, in unit products: code times level over the driven rows. -/
def phaseSum (rows : List Nat) (codes : List Int) (level : Nat → Int) : Int :=
  (rows.map fun j => codes.getD j 0 * level j).sum

/-- Serve one saturated column-phase: accepted while the sparge unit covers, fewer than 64 are accepted and the pool has a
unit (R98, R100); otherwise declined (R71). -/
def Dev.claimSat (d : Dev) (b g c : Nat) (covered : Bool) (phaseVal : Int) (a : VecSum) : VecSum × Dev :=
  if covered && a.sats.length < 64 && 0 < d.pool b then
    ({ a with sats := a.sats ++ [(g, c, phaseVal)] }, (d.setPool b (d.pool b - 1)).bump Cnt.SPG_SAT_ACC_CNT)
  else
    ({ a with declined := a.declined + 1, mask := setBit a.mask c },
      (d.bump Cnt.TUN_SAT_CNT).sticky Reg.FLT_STK0_ADC_SAT)

/-- One data column of one phase: convert, accumulate (R69, R70), report a saturation, feed the range monitor. -/
def Dev.dataColumn (f : FwdDesc) (b g : Nat) (covered : Bool) (v : VecIn) (mon : Bool) (base : Nat)
    (st : VecSum × RmWindow × Dev) (c : Nat) : VecSum × RmWindow × Dev :=
  let (a, w, d) := st
  let x := phaseSum (f.groupRows g) v.codes fun j => d.cell v.tun (f.rowBase + j) c
  let n := d.readColumn v.tun c g f.lsb (base + c) (Config.junction base) x
  let val := n * (2 ^ f.lsb : Nat)
  let a := { a with sums := a.sums.set c (a.sums.getD c 0 + val) }
  let w := if mon then w.data n else w
  let p := if saturated n then d.claimSat b g c covered val a else (a, d)
  (p.1, w, p.2)

/-- The reference columns of one phase (R76). -/
def refColumns (d : Dev) (f : FwdDesc) (g : Nat) (v : VecIn) (base : Nat) (w : RmWindow) : RmWindow :=
  (List.range 8).foldl (fun w k =>
    let c := 512 + k
    let x := phaseSum (f.groupRows g) v.codes fun j => refLevel c (f.rowBase + j)
    w.ref c f.lsb x (d.readColumn v.tun c g f.lsb (base + c) (Config.junction base) x)) w

/-- One phase of a vector on one Tun. -/
def Dev.phase (f : FwdDesc) (b g : Nat) (covered : Bool) (st : List (VecIn × VecSum) × Dev) (p : VecIn × VecSum) : List (VecIn × VecSum) × Dev :=
  let d := st.2
  let v := p.1
  let mon := d.monitored v.tun
  let base := d.draws
  let r := (List.range f.colCount).foldl (Dev.dataColumn f b g covered v mon base) (p.2, d.window v.tun, d)
  let w := if mon then refColumns r.2.2 f g v base r.2.1 else r.2.1
  let d := { r.2.2 with draws := base + 520 }
  (st.1 ++ [(v, r.1)], if mon then d.setWindow v.tun w else d)

/-- R75: write an output record; columns at or above COL_COUNT keep their prior contents. -/
def Dev.writeOutput (d : Dev) (f : FwdDesc) (out : Nat) (a : VecSum) : Dev :=
  let d := (List.range f.colCount).foldl (fun d c => d.wr (out + 4 * c) 4 (unsgn 32 (a.sums.getD c 0))) d
  (List.range f.colCount).foldl (fun d c =>
    let ad := out + 0x800 + c / 8
    let b := (d.byte ad).toNat
    d.setByte ad (BitVec.ofNat 8 (if bit a.mask c then setBit b (c % 8) else clearBit b (c % 8)))) d

/-- The end of one vector on one Tun: its record, its counts, its monitor window, and its entry for the sparge unit. -/
def Dev.finishVector (f : FwdDesc) (sd : CoverDesc) (sub v : Nat) (covered late : Bool) (desc : List Byte) (key : Nat)
    (acc : List CoverItem × Dev) (p : VecIn × VecSum) : List CoverItem × Dev :=
  let t := p.1.tun
  let d := (acc.2.writeOutput f p.1.outAddr p.2).bump Cnt.TUN_VEC_CNT
  let d := if bit (d.fld (Reg.TUN_RETIRED_RETIRED (t / 64))) (t % 64) then d.bump Cnt.TUN_RETIRED_RUN_CNT else d
  let d := d.produce key [(p.1.outAddr, 2112)]
  let d := if d.monitored t then d.countVector t else d
  let d := d.addStats f.layer fun s =>
    { s with outAcc := s.outAcc + p.1.outliers.length, outClip := s.outClip + p.1.clipped,
             satAcc := s.satAcc + p.2.sats.length, satDec := s.satDec + p.2.declined }
  if covered then
    let d := d.bumpBy Cnt.SPG_IN_ACC_CNT p.1.outliers.length
    let d := d.bumpBy Cnt.SPG_WEIR_CNT p.1.clipped
    let d := if 0 < p.1.clipped then d.sticky Reg.FLT_STK0_WEIR else d
    let i := t % 64
    let item : CoverItem := ⟨t, f.layer, desc, p.1.inAddr, p.1.outAddr, sd.corrAt sub i v, sd.imgAt sub i,
      sd.wotAt sub i, p.1.codes, p.1.outliers, p.1.clipped, p.2.sats, p.2.declined, d.rack.bank,
      SMap.get (fun _ => 0) d.rack.pend t, late⟩
    (acc.1 ++ [item], if late then d.bump Cnt.TUN_RACK_FOLD_LATE_CNT else d)
  else (acc.1, d.markLate p.1.outAddr 2112)

/-- The COMPUTE slot that the sparge unit of a basin is inside. -/
def Dev.spargeSlot (d : Dev) (b : Nat) : Option Slot :=
  match d.running? (unitKey 3 b 0) with
  | some r => if r.slot.kind = 1 then some r.slot else none
  | none => none

/-- R68, R89: does a sparge slot last from the first phase of vector `v` of the slot `s` over `g` row groups to the vector's correction deadline? The
first phase begins one quantum and 2gv quanta after START, the vector is complete 2g(v + 1) + 4 quanta after it. -/
def Slot.covers (q s : Slot) (g v : Nat) : Bool :=
  q.start ≤ s.start + 1 + 2 * g * v && s.start + 2 * g * (v + 1) + 104 ≤ q.stop

/-- R91: the sparge descriptor of the basin task `r`, checked at its first covered vector. -/
def Dev.coverCheck (d : Dev) (b sub key : Nat) (r : Running) (sdesc : List Byte) : Bool × Dev :=
  if r.cover = 1 then (true, d)
  else if r.cover = 2 then (false, d)
  else if (parseCover sdesc).ok d b sub r.total then (true, d.onRunning key fun r => { r with cover := 1 })
  else (false, (d.onRunning key fun r => { r with cover := 2 }).bump Cnt.SPG_DESC_ERR_CNT)

/-- The vectors of a basin that wait for their corrections. -/
def Dev.work (d : Dev) (b : Nat) : List (List CoverItem) := SMap.get (fun _ => []) d.spg.work b

def Dev.setWork (d : Dev) (b : Nat) (l : List (List CoverItem)) : Dev :=
  { d with spg := { d.spg with work := SMap.set (fun _ => []) d.spg.work b l } }

/-- R65, R67: the sequencer reads the records of vector `v` of a basin's task, whether it is covered being settled then: the sparge unit must be in its
slot to take the outliers. -/
def Dev.readRecords (d : Dev) (b sub v : Nat) (r : Running) : Bool × List VecIn × Dev :=
  let key := unitKey 1 b sub
  let f := parseFwd r.desc
  let cc := if (d.spargeSlot b).any fun q => q.covers r.slot f.groups.length v then
      d.coverCheck b sub key r (imgTask d.program 3 b r.slot.task) else (false, d)
  let tuns := subTuns sub
  let d := cc.2.consume key (tuns.map fun i => (f.inAt sub i v, f.recordBytes cc.2 (f.inAt sub i v)))
  let ins := tuns.foldl (fun st i =>
    let p := Dev.readVector st.2 f b sub i v cc.1
    (st.1 ++ [p.1], p.2)) (([] : List VecIn), d)
  (cc.1, ins)

/-- A vector whose records have been read is ready for its first phase. -/
def newFlight (f : FwdDesc) (v : Nat) (x : Bool × List VecIn) : Flight :=
  ⟨v, x.1, 0, false, x.2.map fun p => (p, ⟨List.replicate f.colCount 0, [], 0, 0⟩), none⟩

/-- R64, R107: the DACs begin to apply a vector. -/
def Dev.applyInputs (d : Dev) (f : FwdDesc) (y : Flight) : Dev :=
  y.tuns.foldl (fun d p =>
    (d.bumpBy Cnt.TUN_IN_CODE_CNT p.1.eights).addStats f.layer fun s => { s with inElems := s.inElems + f.rowCount }) d

/-- The last phase of a vector has been converted: its records are written, and the sparge unit takes what it has to correct (R75, R89). -/
def Dev.landVector (d : Dev) (b sub : Nat) (r : Running) (f : FwdDesc) (y : Flight) : Dev :=
  let key := unitKey 1 b sub
  let sd := parseCover (imgTask d.program 3 b r.slot.task)
  let fin := y.tuns.foldl (Dev.finishVector f sd sub y.vec y.covered y.folding r.desc key) (([] : List CoverItem), d)
  let d := if y.covered then
      let d := fin.2.onRunning (unitKey 3 b 0) fun q => { q with total := q.total + 1 }
      d.setWork b (d.work b ++ [fin.1])
    else fin.2.bump Cnt.SPG_UNCOVERED_CNT
  d.onRunning key fun q => { q with done := y.vec + 1, fly := y.next.map (newFlight f (y.vec + 1)) }

/-- R66, R69: the next row group of the vector in flight, ascending Tuns within it (R101). -/
def Dev.convertPhase (d : Dev) (b sub : Nat) (r : Running) (y : Flight) : Dev :=
  let f := parseFwd r.desc
  let y := if y.phases = 0 then { y with folding := d.rack.folding.contains b } else y
  let d := if y.phases = 0 then d.applyInputs f y else d
  let x := y.tuns.foldl (Dev.phase f b (f.groups.getD y.phases 0) y.covered) (([] : List (VecIn × VecSum)), d)
  let y := { y with tuns := x.1, phases := y.phases + 1 }
  if y.phases < f.groups.length then x.2.onRunning (unitKey 1 b sub) fun q => { q with fly := some y } else x.2.landVector b sub r f y

/-- Stop a task before its remaining items, as at a failed check (R74): nothing further runs in the slot. -/
def Dev.stopTask (d : Dev) (key : Nat) : Dev := d.onRunning key fun r => { r with failed := true }

/-- R74: the records of vector `v` lie in the window. A vector beyond the checked ones runs only then. -/
def Dev.vectorOk (d : Dev) (b sub v : Nat) (r : Running) : Bool := (subTuns sub).all fun i => (parseFwd r.desc).recordsOk d b sub i v

/-- One action of the Tun sequencer, in the order of Table 3.3: it reads the first record; then, for each vector, it reads the record of the vector
after it and converts the vector's phases. -/
def Dev.fwdAct (d : Dev) (b sub : Nat) (r : Running) : Dev :=
  let key := unitKey 1 b sub
  match r.fly with
  | none =>
    if d.vectorOk b sub r.done r then
      let x := d.readRecords b sub r.done r
      x.2.2.onRunning key fun q => { q with fly := some (newFlight (parseFwd r.desc) r.done (x.1, x.2.1)) }
    else (d.stopTask key).bump Cnt.TUN_TASK_ERR_CNT
  | some y =>
    if y.phases = 0 && y.next.isNone && decide (y.vec + 1 < r.total) && d.vectorOk b sub (y.vec + 1) r then
      let x := d.readRecords b sub (y.vec + 1) r
      x.2.2.onRunning key fun q => { q with fly := some { y with next := some (x.1, x.2.1) } }
    else d.convertPhase b sub r y

/-- FWD: the Tun sequencer of basin `b` takes up to `n` further actions of the slot in progress under `sub`. -/
def Dev.fwd (d : Dev) (b sub : Nat) : Nat → Dev
  | 0 => d
  | n + 1 =>
    match d.running? (unitKey 1 b sub) with
    | none => d
    | some r =>
      if r.failed || r.complete || r.idle || r.slot.kind != 1 || r.total ≤ r.done then d
      else Dev.fwd (d.fwdAct b sub r) b sub n

/-! ### COVER -/

/-- The outlier terms of column `c` (R103), in ascending row order, each product and each sum rounded to FP32. -/
def outlierTerms (d : Dev) (it : CoverItem) (c acc : Nat) : Nat :=
  (it.outliers.mergeSort fun a b => a.1 ≤ b.1).foldl (fun acc o =>
    f32Add acc (f32Mul o.2 (toF32 (FVal.ofInt (d.rowLevel it.tun o.1 c))))) acc

/-- CORR of a vector after one weight-outlier entry (R96, R103). -/
def wotTerm (f : FwdDesc) (it : CoverItem) (corr : List Nat) (e : WotEntry) : List Nat :=
  if f.rowBase ≤ e.row ∧ e.row < f.rowBase + f.rowCount ∧ e.col < f.colCount then
    let code := toF32 (FVal.ofInt (it.codes.getD (e.row - f.rowBase) 0))
    let x := match it.outliers.find? fun o => o.1 == e.row with
      | some o => f32Add code o.2
      | none => code
    corr.set e.col (f32Add (corr.getD e.col 0) (toF32 ((f32 x).mul e.exc)))
  else corr

/-- R98: the exact phase sum minus the clamped phase value, added to SUM. -/
def Dev.rewriteSum (f : FwdDesc) (it : CoverItem) (d : Dev) (s : Nat × Nat × Int) : Dev :=
  let exact := phaseSum (f.groupRows s.1) it.codes fun j => d.imageLevel it.imgAddr (f.rowBase + j) s.2.1
  let a := it.outAddr + 4 * s.2.1
  d.wr a 4 (unsgn 32 (sgn 32 (d.rd a 4) + exact - s.2.2))

/-- R130: one pending entry, skipped for a phase of the column that was recomputed. -/
def Dev.applyPending (f : FwdDesc) (it : CoverItem) (d : Dev) (p : PendEntry) : Dev :=
  if f.rowBase ≤ p.row ∧ p.row < f.rowBase + f.rowCount ∧ p.col < f.colCount ∧
      !(it.sats.any fun s => s.1 == p.row / 64 && s.2.1 == p.col) then
    let a := it.outAddr + 4 * p.col
    d.wr a 4 (unsgn 32 (sgn 32 (d.rd a 4) + it.codes.getD (p.row - f.rowBase) 0 * (p.img - p.cell)))
  else d

/-- What the sparge unit reads for one vector on one Tun (R88, R98, R99, R130): the input record, the weight-outlier table, the row-order image of each
accepted outlier, the image slices of each accepted saturation, the pending entries, and the SUM words that it changes. -/
def Dev.coverReads (d : Dev) (f : FwdDesc) (it : CoverItem) : List (Nat × Nat) :=
  [(it.inAddr, f.recordBytes d it.inAddr), (it.wotAddr, if it.wotAddr = 0 then 0 else d.wotBytes it.wotAddr),
    (d.pendAddr (it.tun / 64) (it.tun % 64) it.bank 0, 4 * it.pend), (it.outAddr, if it.sats.isEmpty && it.pend == 0 then 0 else 4 * f.colCount)] ++
  (it.outliers.map fun o => (d.rowImage it.tun o.1, 256)) ++ it.sats.flatMap fun s => imageSlice it.imgAddr s.1 s.2.1

/-- The corrections of one vector on one Tun (R87, R98, R102, R103, R130). -/
def Dev.coverItem (b : Nat) (d : Dev) (it : CoverItem) : Dev :=
  let f := parseFwd it.desc
  let key := unitKey 3 b 0
  let d := d.consume key (d.coverReads f it)
  let wot := d.wotEntries it.wotAddr
  let d := d.bumpBy Cnt.SPG_WOT_ERR_CNT (wot.filter fun e => !e.2).length
  let corr0 := (List.range f.colCount).map fun c => outlierTerms d it c 0
  let corr := ((wot.filter fun e => e.2).map fun e => e.1).foldl (wotTerm f it) corr0
  let d := it.sats.foldl (Dev.rewriteSum f it) d
  let d := (d.pendEntries it.tun it.bank it.pend).foldl (Dev.applyPending f it) d
  let d := d.write it.corrAddr (corr.flatMap fun c => natLe 4 c)
  let d := d.write (it.corrAddr + 0x800) (natLe 2 it.outliers.length ++ natLe 2 it.clipped ++ natLe 2 it.sats.length ++
    natLe 2 it.declined ++ List.replicate 56 0)
  let d := d.produce key [(it.corrAddr, 2112), (it.outAddr, 2112)]
  if it.late || d.isLate it.inAddr f.inBytes then (d.markLate it.corrAddr 2112).markLate it.outAddr 2112 else d

/-- COVER: the sparge unit of basin `b` corrects up to `n` of the vectors that ran under its coverage, oldest first. -/
def Dev.cover (d : Dev) (b : Nat) : Nat → Dev
  | 0 => d
  | n + 1 =>
    if (d.spargeSlot b).isNone then d
    else
      match d.work b with
      | [] => d
      | v :: rest =>
        let d := v.foldl (Dev.coverItem b) d
        let d := d.setWork b rest
        Dev.cover (d.onRunning (unitKey 3 b 0) fun q => { q with done := q.done + 1 }) b n

/-- FWD (R66): the Tun sequencer of the basin takes up to `n` further actions of its task, each the read of a vector's records or the conversion of a
phase; the memories report `e` meanwhile. -/
def execFwd (b : Fin 32) (sub : Option (Fin 64)) (n : Nat) (e : Ecc) (s : State) : Host.Outcome State Fault Refusal :=
  s.run fun d => (d.ecc e).fwd b (match sub with | some i => i | none => 0xFF) n

/-- COVER (R89): the sparge unit corrects up to `n` covered vectors. -/
def execCover (b : Fin 32) (n : Nat) (e : Ecc) (s : State) : Host.Outcome State Fault Refusal :=
  s.run fun d => (d.ecc e).cover b n

/-- SPARGE_PERIOD (R100): the basin's pool of correction units refills. -/
def execSpargePeriod (b : Fin 32) (s : State) : Host.Outcome State Fault Refusal :=
  s.run fun d => d.setPool b poolFull

/-- The oldest full window of a Tun closes; under calibration its statistics hold (R78). -/
def Dev.windowClose (d : Dev) (t : Nat) : Dev :=
  match (d.monitor t).full with
  | [] => d
  | w :: rest => if d.stale t then d else (d.setMonitor t { d.monitor t with full := rest }).closeWindow t w

/-- RM_WINDOW_CLOSE (R77): a window of a Tun that has taken 2^WINDOW_LOG2 vectors closes. -/
def execRmWindowClose (t : Fin 2048) (s : State) : Host.Outcome State Fault Refusal := s.run fun d => d.windowClose t

end Sys2Proof.Machine
end

