-- ==== Sys2Proof/Machine/Rack.lean ====
section
/-!
DEFINITION. Racking (chapter 5): queues, pulse rounds, pending entries and the fold. PULSE_ROUND, PULSE_PERIOD,
PULSE_ROUND_END, FOLD_COMPLETE.
-/

namespace Sys2Proof.Machine

/-! ### The racking region (Table 5.11) -/

def Dev.stampAddr (d : Dev) (t r c : Nat) : Nat := d.rackBase + t * 0x100000 + 2 * (512 * r + c)
def Dev.queueAddr (d : Dev) (t k : Nat) : Nat := d.rackBase + 0x80000000 + t * 0x80000 + 8 * k
def Dev.journalAddr (d : Dev) (t bank e : Nat) : Nat := d.rackBase + 0xC0000000 + t * 0x4000 + bank * 0x2000 + 4 * e
def Dev.stagedAddr (d : Dev) (t : Nat) : Nat := d.rackBase + 0xC2000000 + t * 0x10000
def Dev.queueCountAddr (d : Dev) (t : Nat) : Nat := d.rackBase + 0xCA000000 + 8 * t

/-- Valid pending entries of a Tun's current bank. -/
def Dev.pendCount (d : Dev) (t : Nat) : Nat := SMap.get (fun _ => 0) d.rack.pend t

def Dev.setPendCount (d : Dev) (t n : Nat) : Dev :=
  { d with rack := { d.rack with pend := SMap.set (fun _ => 0) d.rack.pend t n } }

def Dev.queueCursor (d : Dev) (t : Nat) : Nat := SMap.get (fun _ => 0) d.rack.cursor t

def Dev.setCursor (d : Dev) (t n : Nat) : Dev :=
  { d with rack := { d.rack with cursor := SMap.set (fun _ => 0) d.rack.cursor t n } }

def Dev.round (d : Dev) (t : Nat) : Option PulseRound := SMap.find? d.rack.rounds t

def Dev.setRound (d : Dev) (t : Nat) (r : PulseRound) : Dev :=
  { d with rack := { d.rack with rounds := SMap.insert d.rack.rounds t r } }

def Dev.endRound (d : Dev) (t : Nat) : Dev := { d with rack := { d.rack with rounds := SMap.erase d.rack.rounds t } }

/-- The programmed image of a Tun, where the last full programming or compare placed it. -/
def Dev.tunImage (d : Dev) (t : Nat) : Nat := SMap.get (fun _ => 0) d.rack.imgAddr t

/-- The cell level c of R120: the level the cells hold, which is the image with the pending entry applied. -/
def Dev.stepLevel (d : Dev) (t r c : Nat) : Int := d.cell t r c

/-! ### Queues -/

/-- The entries of the queue that the controller of a Tun works on, and their number (Tables 5.2 and 5.11, R122). -/
def Dev.queueLen (d : Dev) (t : Nat) : Nat :=
  match SMap.find? d.rack.oldQueue t with
  | some q => q.length / 8
  | none => d.rd (d.queueCountAddr t) 8

def Dev.queueEntry (d : Dev) (t k : Nat) : Nat :=
  match SMap.find? d.rack.oldQueue t with
  | some q => rdLe q (8 * k) 8
  | none => d.rd (d.queueAddr t k) 8

/-- R123: has the limiter let this weight go? -/
def Dev.eligible (d : Dev) (t row col : Nat) : Bool :=
  let stamp := d.rd (d.stampAddr t row col) 2
  decide (d.rack.minSteps ≤ (d.epoch + 65536 - stamp % 65536) % 65536) &&
  !((d.pendEntries t d.rack.bank (d.pendCount t)).any fun p => p.row == row && p.col == col)

/-- Walk the queue from position `k`: up to `n` eligible entries, the entries passed over, and the next position (R123, R125). -/
def Dev.pickEntries (d : Dev) (t : Nat) : Nat → Nat → Nat → List RoundEntry × Nat × Nat
  | 0, _, k => ([], 0, k)
  | _, 0, k => ([], 0, k)
  | fuel + 1, n + 1, k =>
    if d.queueLen t ≤ k then ([], 0, k)
    else
      let q := d.queueEntry t k
      let row := bits q 18 9
      let col := bits q 8 0
      if d.eligible t row col then
        let r := d.pickEntries t fuel n (k + 1)
        (⟨row, col, cellLevel (sgn 4 (bits q 31 28)), d.cell t row col, false⟩ :: r.1, r.2.1, r.2.2)
      else
        let r := d.pickEntries t fuel (n + 1) (k + 1)
        (r.1, r.2.1 + 1, r.2.2)

/-- R122: at a RACK slot's start the queue that the last compare has written replaces the old one. -/
def Dev.installQueue (d : Dev) (t : Nat) : Dev :=
  match SMap.find? d.rack.oldQueue t with
  | none => d
  | some _ => { d.setCursor t 0 with rack := { (d.setCursor t 0).rack with oldQueue := SMap.erase d.rack.oldQueue t } }

/-- What the rack controller of a Tun reads to pick queue entries `k` to `k'` (R123): the entry count, the entries, their stamps and the current bank. -/
def Dev.rackReads (d : Dev) (t k k' : Nat) : List (Nat × Nat) :=
  [(d.queueCountAddr t, 8), (d.queueAddr t k, 8 * (k' - k)), (d.pendAddr (t / 64) (t % 64) d.rack.bank 0, 4 * d.pendCount t)] ++
  (List.range (k' - k)).map fun j =>
    let q := d.queueEntry t (k + j)
    (d.stampAddr t (bits q 18 9) (bits q 8 0), 2)

/-- The RACK slot of basin `b` that drives Tun `i`, with its key. -/
def Dev.slotFor (d : Dev) (b i kind : Nat) : Option Running :=
  match d.running? (unitKey 1 b 0xFF) with
  | some r => if r.slot.kind = kind ∧ !r.complete then some r else none
  | none => match d.running? (unitKey 1 b i) with
    | some r => if r.slot.kind = kind ∧ !r.complete then some r else none
    | none => none

/-- R126, R129, R134: may a round start on the Tun at `now` quanta after frame_start? -/
def Dev.roundAllowed (d : Dev) (r : Running) (t now : Nat) : Bool :=
  d.rack.en && !d.frm.frozen && (d.round t).isNone && decide (now + 600 ≤ r.slot.stop) &&
  !d.rack.fitStarted.contains t && !d.rack.full.contains t

/-- R125: start a pulse round on Tun `i` of basin `b`. -/
def Dev.startRound (d : Dev) (b i now : Nat) : Dev :=
  let t := 64 * b + i
  match d.slotFor b i 3 with
  | none => d
  | some r =>
    if !d.roundAllowed r t now then d
    else if 1024 < d.pendCount t + 16 then
      { d with rack := { d.rack with full := t :: d.rack.full } }.bump Cnt.TUN_RACK_PEND_FULL_CNT
    else
      let p := d.pickEntries t 65552 16 (d.queueCursor t)
      let d := d.readStep (d.rackReads t (d.queueCursor t) p.2.2)
      let d := (d.setCursor t p.2.2).bumpBy Cnt.TUN_RACK_LIMIT_CNT p.2.1
      if p.1.isEmpty then d else d.setRound t ⟨p.1, 0⟩

/-- Mark the weights that a verify read found at their targets. -/
def verifyMarks (mask : Nat) : Nat → List RoundEntry → List RoundEntry
  | _, [] => []
  | k, e :: es => { e with verified := e.verified || bit mask k } :: verifyMarks mask (k + 1) es

/-- R125: a pulse period ends with its verify read; a verified weight holds its target. -/
def Dev.pulsePeriod (d : Dev) (t mask : Nat) : Dev :=
  match d.round t with
  | none => d
  | some r =>
    if r.period = 6 ∨ r.entries.all (·.verified) then d
    else
      let es := verifyMarks mask 0 r.entries
      let d := d.setRound t ⟨es, r.period + 1⟩
      es.foldl (fun d e => if e.verified then d.setCell t e.row e.col e.target else d) d

/-- R128: the level an unverified weight is found to hold, by its place among the unverified. -/
def finalLevels : List RoundEntry → List Int → List (RoundEntry × Int)
  | [], _ => []
  | e :: es, ls =>
    if e.verified then (e, e.target) :: finalLevels es ls
    else (e, clampInt (-7) 7 (ls.headD 0)) :: finalLevels es ls.tail

/-- R129: enter one changed weight in the current bank and in the journal. -/
def Dev.addPending (d : Dev) (t : Nat) (p : PendEntry) : Dev :=
  let n := d.pendCount t
  let d := d.wr (d.journalAddr t d.rack.bank n) 4 p.word
  let d := d.wr (d.pendAddr (t / 64) (t % 64) d.rack.bank n) 4 p.word
  d.setPendCount t (n + 1)

/-- R125, R128, R129: the end of a round. -/
def Dev.roundEnd (d : Dev) (t : Nat) (levels : List Int) : Dev :=
  match d.round t with
  | none => d
  | some r =>
    if !(r.entries.all (·.verified)) && r.period != 6 then d
    else
      let d := (d.endRound t).bump Cnt.TUN_RACK_ROUND_CNT
      let d := d.bumpBy Cnt.TUN_RACK_VFAIL_CNT (r.entries.filter fun e => !e.verified).length
      (finalLevels r.entries levels).foldl (fun d p =>
        let d := d.setCell t p.1.row p.1.col p.2
        if p.2 = p.1.start then d
        else (d.addPending t ⟨p.1.start, p.2, p.1.row, p.1.col⟩).bump Cnt.TUN_RACK_WRITE_CNT) d

/-! ### The fold (R131) -/

/-- The boundary's part of the fold: the current bank becomes the fold bank and every basin starts its fold. `epoch` is the step epoch after the
boundary; the fits that have completed are active from it on (R134). -/
def Dev.foldStart (d : Dev) (epoch : Nat) : Dev :=
  let rk := d.rack
  let fits := rk.fitReady.foldl (fun m x => SMap.set (fun _ => 0) m x.1 epoch) rk.lastFit
  { d with rack := { rk with bank := 1 - rk.bank, foldPend := rk.pend, pend := [], folding := List.range 32,
                             foldEpoch := epoch, full := [], lastFit := fits } }

/-- R417: the retention signature of a Tun over the levels that `level` gives for its four rows. -/
def tunSig (t : Nat) (level : Nat → Nat → Int) : Nat :=
  crc32c ([0, 256, 512, 768].flatMap fun o => (List.range 512).map fun c => BitVec.ofInt 8 (level (7 * t % 256 + o) c))

/-- Recompute SIG[t] from the programmed image (R417). -/
def Dev.setSig (d : Dev) (t : Nat) : Dev :=
  { d with flt := { d.flt with sig := SMap.set (fun _ => 0) d.flt.sig t (tunSig t (d.imageLevel (d.tunImage t))) } }

/-- Write pending entries into a Tun's image, its row-order copy and its stamps; SIG[t] follows where one of its rows changes (R131, R417). -/
def Dev.writeFold (d : Dev) (t epoch : Nat) (ps : List PendEntry) : Dev :=
  let d := ps.foldl (fun d p =>
    let d := d.setTileCode (d.tunImage t) 512 p.row p.col (unsgn 4 p.cell)
    (d.setRowLevel t p.row p.col p.cell).wr (d.stampAddr t p.row p.col) 2 epoch) d
  if ps.any fun p => p.row % 256 == 7 * t % 256 then d.setSig t else d

/-- Fold one Tun's bank and clear it (R131 2, 5). -/
def Dev.foldTun (d : Dev) (t : Nat) : Dev :=
  let n := SMap.get (fun _ => 0) d.rack.foldPend t
  let d := d.readStep [(d.pendAddr (t / 64) (t % 64) (1 - d.rack.bank) 0, 4 * n)]
  let d := d.writeFold t d.rack.foldEpoch (d.pendEntries t (1 - d.rack.bank) n)
  { d with rack := { d.rack with foldPend := SMap.set (fun _ => 0) d.rack.foldPend t 0 } }

/-- Install a staged weight-outlier table (R131 3). -/
def Dev.installWot (d : Dev) (t : Nat) : Dev :=
  if d.rack.staged.contains t then
    let src := d.stagedAddr t
    let n := d.wotBytes src
    let d := d.readStep [(src, n)]
    let d := (d.wotTables t).foldl (fun d a => d.write a (d.read src n)) d
    { d with rack := { d.rack with staged := d.rack.staged.filter (· ≠ t) } }
  else d

/-- Make a completed fit's factors active (R131 4, R135). -/
def Dev.installFit (d : Dev) (t : Nat) : Dev :=
  match d.rack.fitReady.find? fun x => x.1 == t with
  | none => d
  | some x =>
    let d := (d.write x.2.1 x.2.2).bump Cnt.TUN_LR_FIT_CNT
    let rk := d.rack
    { d with rack := { rk with fitReady := rk.fitReady.filter (fun x => x.1 ≠ t), fitStarted := rk.fitStarted.filter (· ≠ t) } }

/-- FOLD_COMPLETE (R131, R132): a basin's fold completes. -/
def Dev.foldComplete (d : Dev) (b : Nat) : Dev :=
  if d.rack.folding.contains b then
    let d := (List.range 64).foldl (fun d i =>
      ((d.foldTun (64 * b + i)).installWot (64 * b + i)).installFit (64 * b + i)) d
    { d with rack := { d.rack with folding := d.rack.folding.filter (· ≠ b) } }
  else d

/-- PULSE_ROUND (R125): Tun `i` of basin `b`, at `now` quanta after frame_start; the memories report `e` meanwhile. -/
def execPulseRound (b : Fin 32) (i : Fin 64) (now : Nat) (s : State) (e : Ecc := Ecc.clean) : Host.Outcome State Fault Refusal :=
  s.run fun d => (d.ecc e).startRound b i now

/-- PULSE_PERIOD (R125): bit k of `verified` says that weight k of the round reads at its target. -/
def execPulsePeriod (b : Fin 32) (i : Fin 64) (verified : BitVec 16) (s : State) : Host.Outcome State Fault Refusal :=
  s.run fun d => d.pulsePeriod (64 * b + i) verified.toNat

/-- PULSE_ROUND_END (R128, R129): `levels` are the nearest levels of the weights that did not verify, in round order. -/
def execPulseRoundEnd (b : Fin 32) (i : Fin 64) (levels : List Int) (s : State) : Host.Outcome State Fault Refusal :=
  s.run fun d => d.roundEnd (64 * b + i) levels

/-- FOLD_COMPLETE (R131); the memories report `e` while the fold reads them. -/
def execFoldComplete (b : Fin 32) (s : State) (e : Ecc := Ecc.clean) : Host.Outcome State Fault Refusal :=
  s.run fun d => (d.ecc e).foldComplete b

end Sys2Proof.Machine
end

