-- ==== Sys2Proof/Machine/Compare.lean ====
section
/-!
DEFINITION. COMPARE (R120 to R122, R216) and LR_FIT (R134, R135, R217), and the commands of the matrix tasks and kernels.
-/

namespace Sys2Proof.Machine

/-! ### COMPARE -/

/-- One weight as the compare task sees it: t, the cell level, the current excess, and the outcome of Table 5.1. -/
structure Target where
  row : Nat
  col : Nat
  /-- New level, and the excess t − n of an outlier. -/
  level : Int
  excess : Option FVal
  /-- Drift in 1/256 level, limited to 0xFFFF, and whether the weight is queued. -/
  mag : Nat
  queued : Bool
  deriving DecidableEq, Repr

/-- ⌊|x| × 256⌋, limited to 0xFFFF; the limit for an infinity. -/
def magOf : FVal → Nat
  | .fin _ m e => min 0xFFFF (shl m (e + 8))
  | .inf _ => 0xFFFF
  | .nan => 0

/-- |x| ≥ n / 256? -/
def atLeast256 (x : FVal) (n : Nat) : Bool :=
  match x with
  | .fin _ m e => magLe n (-8) m e
  | .inf _ => true
  | .nan => false

/-- Table 5.1 for one weight: `t` is m × 2^−E, `c` the cell level, `eps` the current excess. Table 5.1 gives a master value that is a NaN no target: such a
weight is neither queued nor in the outlier set. -/
def targetOf (thresh row col : Nat) (t : FVal) (c : Int) (eps : FVal) : Option Target :=
  let drift := (t.add (FVal.ofInt (-c))).add eps.neg
  let small := match t with
    | .fin _ m e => !magLe 15 (-1) m e
    | _ => false
  match t with
  | .nan => none
  | _ =>
    if small then
      let n : Int := match t with
        | .fin neg m e => let k : Int := (roundSteps .rne m e 0 : Nat); if neg then -k else k
        | _ => 0
      some ⟨row, col, n, none, magOf drift, atLeast256 drift thresh && decide (n ≠ c)⟩
    else
      let n : Int := if t.isNeg then -7 else 7
      some ⟨row, col, n, some (t.add (FVal.ofInt (-n))), magOf drift, decide (n ≠ c)⟩

/-- Insert by a comparison. -/
def insertBy {α : Type} (le : α → α → Bool) (x : α) : List α → List α
  | [] => [x]
  | y :: l => if le x y then x :: y :: l else y :: insertBy le x l

/-- Sort by a comparison. -/
def sortBy {α : Type} (le : α → α → Bool) (l : List α) : List α := l.foldr (insertBy le) []

/-- R122: descending MAG, then ascending ROW, then ascending COL. -/
def queueBefore (a b : Target) : Bool :=
  b.mag < a.mag || (a.mag == b.mag && decide (a.row * 512 + a.col ≤ b.row * 512 + b.col))

def posBefore (a b : Target) : Bool := decide (a.row * 512 + a.col ≤ b.row * 512 + b.col)

/-- Larger |excess| first; ties in (ROW, COL) order. -/
def excessBefore (a b : Target) : Bool :=
  match a.excess, b.excess with
  | some (.inf _), some (.inf _) => posBefore a b
  | some (.inf _), _ => true
  | _, some (.inf _) => false
  | some (.fin _ m1 e1), some (.fin _ m2 e2) =>
    if magLe m1 e1 m2 e2 && magLe m2 e2 m1 e1 then posBefore a b else magLe m2 e2 m1 e1
  | _, _ => posBefore a b

/-- Table 5.2: a queue entry. -/
def queueWord (t : Target) : Nat := t.mag * 2 ^ 32 + unsgn 4 t.level * 2 ^ 28 + t.row * 512 + t.col

/-- The staged table of R121 as bytes (Table 4.3) and the excess each entry then stands for. -/
def stagedTable (ts : List Target) : List Byte × List (Target × FVal) :=
  let n := ts.length
  let blocks := (List.range ((n + 31) / 32)).map fun k =>
    let xs := ((ts.drop (32 * k)).take 32).map fun t => t.excess.getD fOne
    cvtScaled .e4m3 true (autoScale .e4m3 0 xs) (xs.map fun v => (v, RMode.rne))
  let codes := blocks.flatMap fun g => g.elems.map (·.code)
  let scales := blocks.map (·.scale)
  let words := (ts.zip codes).flatMap fun p => natLe 4 (p.2 * 2 ^ 24 + p.1.row * 512 + p.1.col)
  let head := natLe 4 n ++ List.replicate 12 0 ++ scales.map (BitVec.ofNat 8)
  (head ++ List.replicate (wotHead n - head.length) 0 ++ words,
    (ts.zip codes).mapIdx fun j p => (p.1, scaled (decode .e4m3 p.2) (scales.getD (j / 32) 0)))

/-- The settings of the racking registers take effect at a compare (R137); RACK_THRESH is the compare's own (R216). -/
def Dev.takeRackSettings (d : Dev) (c : Nat) : Dev :=
  let k := d.rack
  let th := d.fld Reg.TUN_RACK_CFG_RACK_THRESH
  { d with rack := { k with
      en := d.flag Reg.TUN_RACK_CFG_EN
      minSteps := d.fld Reg.TUN_RACK_CFG_RACK_MIN_STEPS
      thresh := th
      threshOf := SMap.insert k.threshOf c th
      lrRefresh := d.fld Reg.TUN_LR_CFG_LR_REFRESH_STEPS } }

/-- A warm start takes them for every cluster. -/
def Dev.restartRackSettings (d : Dev) : Dev :=
  let d := d.takeRackSettings 0
  { d with rack := { d.rack with threshOf := [] } }

/-- The threshold of the compare on cluster `c`. -/
def Dev.thresh (d : Dev) (c : Nat) : Nat := (SMap.find? d.rack.threshOf c).getD d.rack.thresh

/-- What a COMPARE or LR_FIT task finds beside the image: pending entries of its bank (P3), entries of its weight-outlier table (P2). -/
def Dev.fitPend (d : Dev) (x : KerDesc) : List PendEntry :=
  ((List.range (d.pendCount (x.par 4))).map fun e => parsePend (d.rd (x.par 3 + 4 * e) 4)).reverse
def Dev.fitWot (d : Dev) (x : KerDesc) : List WotEntry := (d.wotEntries (x.par 2)).map (·.1)

/-- The cell level of a weight, the image level with the current pending entry applied (R120), and its current excess. -/
def Dev.held (d : Dev) (x : KerDesc) (pend : List PendEntry) (wot : List WotEntry) (r c : Nat) : Int × FVal :=
  (match pend.find? fun p => p.row == r && p.col == c with
    | some p => p.cell
    | none => d.imageLevel (x.par 1) r c,
  match wot.find? fun w => w.row == r && w.col == c with
    | some w => w.exc
    | none => FVal.fin false 0 0)

/-- The master value of a weight, and E of its column. -/
def Dev.master (d : Dev) (x : KerDesc) (r c : Nat) : FVal := f32 (d.rd (x.par 0 + 4 * (r * 512 + c)) 4)
def Dev.weightScale (d : Dev) (x : KerDesc) (c : Nat) : Int := d.colScale (x.par 1 + 262144) c

/-- The targets of every weight of Tun P4, in (ROW, COL) order. -/
def Dev.targets (d : Dev) (th : Nat) (x : KerDesc) : List Target :=
  let pend := d.fitPend x
  let wot := d.fitWot x
  (List.range (1024 * 512)).filterMap fun k =>
    let h := d.held x pend wot (k / 512) (k % 512)
    targetOf th (k / 512) (k % 512) ((d.master x (k / 512) (k % 512)).scale (-d.weightScale x (k % 512))) h.1 h.2

/-- R121: stage a new table where the outlier set or an excess has changed. -/
def Dev.stageWot (d : Dev) (th : Nat) (x : KerDesc) (ts : List Target) : Dev :=
  let outs := sortBy excessBefore (ts.filter fun t => t.excess.isSome)
  let d := d.bumpBy Cnt.TUN_RACK_WOT_OVF_CNT (outs.length - 8192)
  let tab := stagedTable (sortBy posBefore (outs.take 8192))
  let old := ((d.wotEntries (x.par 2)).filter (·.2)).map (·.1)
  let same := old.length == tab.2.length && (old.zip tab.2).all fun p =>
    p.1.row == p.2.1.row && p.1.col == p.2.1.col && !atLeast256 (p.2.2.add p.1.exc.neg) th
  if same then d
  else
    let d := d.write (d.stagedAddr (x.par 4)) tab.1
    { d with rack := { d.rack with staged := if d.rack.staged.contains (x.par 4) then d.rack.staged else x.par 4 :: d.rack.staged } }

/-- R122, R216: order the queue and write it with its entry count. A RACK slot in progress goes on with the queue it has. -/
def Dev.orderQueue (d : Dev) (x : KerDesc) (ts : List Target) : Dev :=
  let t := x.par 4
  let q := sortBy queueBefore (ts.filter (·.queued))
  let keep := q.take 65536
  let old := (SMap.find? d.rack.oldQueue t).getD (d.read (d.queueAddr t 0) (8 * min 65536 (d.rd (d.queueCountAddr t) 8)))
  let k := d.rack
  let d := { d with rack := { k with oldQueue := SMap.insert k.oldQueue t old, lastQueued := SMap.insert k.lastQueued t keep.length } }
  ((d.write (d.queueAddr t 0) (keep.flatMap fun t => natLe 8 (queueWord t))).wr (d.queueCountAddr t) 8 keep.length).bumpBy
    Cnt.TUN_RACK_QDROP_CNT (q.length - 65536)

/-- What a compare writes: the queue, its entry count and the staged table of its Tun. -/
def Dev.compareOutputs (d : Dev) (t : Nat) : List (Nat × Nat) := [(d.queueAddr t 0, 524288), (d.queueCountAddr t, 8), (d.stagedAddr t, 65536)]

/-- The compare of a Tun is over: its queue, its staged table, and the table it has named as the current one. -/
def Dev.compareEnd (d : Dev) (c : Nat) (x : KerDesc) : Dev :=
  let ts := d.targets (d.thresh c) x
  let d := (d.stageWot (d.thresh c) x ts).orderQueue x ts
  let k := d.rack
  { d with rack := { k with wotAddr := SMap.set (fun _ => 0) k.wotAddr (x.par 4) (x.par 2) } }

/-- COMPARE: up to `n` further items: rows, and last the ordering of the queue. With EN = 0 no compare runs and the queue holds (Table 5.7). -/
def Dev.compare (d : Dev) (c n : Nat) : Dev :=
  match d.mxcTask c 0x60 with
  | none => d
  | some r =>
    let x := parseKer r.desc
    let key := unitKey 2 c 0
    let d := if r.done = 0 then d.takeRackSettings c else d
    let d := d.readChecks key (d.kerRanges x r.total).1
    let m := min n (r.total - r.done)
    let d := d.mxcDone c m
    if r.done + m = r.total ∧ r.total = 1025 ∧ d.rack.en then (d.compareEnd c x).produce key (d.compareOutputs (x.par 4)) else d

/-! ### LR_FIT -/

/-- R135: the residual against the cells, in FP32, as its 512 rows of 1,024 inputs. -/
def Dev.residual (d : Dev) (x : KerDesc) : List (List Nat) :=
  let pend := d.fitPend x
  let wot := d.fitWot x
  (List.range 512).map fun c => (List.range 1024).map fun r =>
    let h := d.held x pend wot r c
    toF32 ((d.master x r c).add (((FVal.ofInt h.1).add h.2).scale (d.weightScale x c)).neg)

/-- The bytes of U and V that a fit of Tun P4 forms, row-major and U first (R199). -/
def Dev.fitBytes (d : Dev) (x : KerDesc) (rank : Nat) : List Byte :=
  let f := d.fitFactors (d.residual x) 1024 rank (Config.fitSeed x.layer (x.par 4) d.epoch) fun i => Config.free (d.draws + i)
  (f.1 ++ f.2).flatMap (natLe 2)

/-- LR_FIT: the fit of Tun P4; it is due no longer, and the next fold makes its factors active. A layer of rank 0 has no fit (R133). -/
def Dev.lrFit (d : Dev) (c : Nat) : Dev :=
  match d.mxcTask c 0x61 with
  | none => d
  | some r =>
    let x := parseKer r.desc
    let key := unitKey 2 c 0
    let d := d.readChecks key (d.kerRanges x r.total).1
    let t := x.par 4
    let rank := match d.layerEntry x.layer with | some e => e.lrRank | none => 0
    let d := d.mxcDone c r.total
    if rank = 0 then d
    else
      let bytes := d.fitBytes x rank
      let k := d.rack
      ({ d with draws := d.draws + 1024 * rank
                rack := { k with fitDue := k.fitDue.filter (· ≠ t)
                                 fitReady := (t, x.par 5, bytes) :: k.fitReady.filter (fun q => q.1 ≠ t) } }).produce key [(x.par 5, bytes.length)]

/-! ### Commands -/

/-- MATMUL (R188, R193, R194): cluster `c` runs up to `n` further patches. -/
def execMatmul (c : Fin 128) (n : Nat) (e : Ecc) (s : State) : Host.Outcome State Fault Refusal :=
  s.run fun d => (d.ecc e).matmul c n

/-- MOVE (R195): up to `n` further items of 4 KiB. -/
def execMove (c : Fin 128) (n : Nat) (e : Ecc) (s : State) : Host.Outcome State Fault Refusal :=
  s.run fun d => (d.ecc e).move c n

/-- GATHER (R195): up to `n` further rows. -/
def execGather (c : Fin 128) (n : Nat) (e : Ecc) (s : State) : Host.Outcome State Fault Refusal :=
  s.run fun d => (d.ecc e).gatherRows c n

/-- VPROG (R207, R211): the task's program runs to its end. -/
def execVprog (c : Fin 128) (e : Ecc) (s : State) : Host.Outcome State Fault Refusal :=
  s.run fun d => (d.ecc e).vprog c

/-- ASSEMBLE (R198): up to `n` further vectors. -/
def execAssemble (c : Fin 128) (n : Nat) (e : Ecc) (s : State) : Host.Outcome State Fault Refusal :=
  s.run fun d => (d.ecc e).assemble c n

/-- BWD_WOT (R201): up to `n` further entries. -/
def execBwdWot (c : Fin 128) (n : Nat) (e : Ecc) (s : State) : Host.Outcome State Fault Refusal :=
  s.run fun d => (d.ecc e).bwdWot c n

/-- ATTN_FWD (R204): up to `n` further key blocks. -/
def execAttnFwd (c : Fin 128) (n : Nat) (e : Ecc) (s : State) : Host.Outcome State Fault Refusal :=
  s.run fun d => (d.ecc e).attn c 0x40 n Dev.attnFwdBlock

/-- ATTN_BWD (R206): up to `n` further key blocks. -/
def execAttnBwd (c : Fin 128) (n : Nat) (e : Ecc) (s : State) : Host.Outcome State Fault Refusal :=
  s.run fun d => (d.ecc e).attn c 0x41 n Dev.attnBwdBlock

/-- NORM_BWD (R214): up to `n` further token bands. -/
def execNormBwd (c : Fin 128) (n : Nat) (e : Ecc) (s : State) : Host.Outcome State Fault Refusal :=
  s.run fun d => (d.ecc e).normBwd c n

/-- TIESUM (R215): up to `n` further items of 4 KiB. -/
def execTiesum (c : Fin 128) (n : Nat) (e : Ecc) (s : State) : Host.Outcome State Fault Refusal :=
  s.run fun d => (d.ecc e).tiesum c n

/-- COMPARE (R120 to R122, R216): up to `n` further items. -/
def execCompare (c : Fin 128) (n : Nat) (e : Ecc) (s : State) : Host.Outcome State Fault Refusal :=
  s.run fun d => (d.ecc e).compare c n

/-- LR_FIT (R135, R217): the fit of one block. -/
def execLrFit (c : Fin 128) (e : Ecc) (s : State) : Host.Outcome State Fault Refusal :=
  s.run fun d => (d.ecc e).lrFit c

end Sys2Proof.Machine
end

