-- ==== Sys2Proof/Machine/Flags.lean ====
section
/-!
DEFINITION. The sticky bits of FLT_STK0 and ALERT# (R17, R18, R409, R410), and how the repeat reasons of a step are read.
-/

namespace Sys2Proof.Machine

/-- FLT_STK0 as one word. -/
def Dev.stk0 (d : Dev) : Nat := d.raw 0xE0000

/-- R410: bit 19 of the mask reads 1. -/
def Dev.alertMask (d : Dev) : Nat := setBit (d.fld Reg.FLT_ALERT_MASK_MASK) 19

/-- R410: ALERT# is asserted. -/
def Dev.alert (d : Dev) : Bool := Nat.land d.stk0 d.alertMask != 0

/-- R11, R409: a write of 1 clears a W1C bit. -/
def Dev.clearSticky (d : Dev) (v : Nat) : Dev := d.setRaw 0xE0000 (d.stk0 - Nat.land d.stk0 v)

/-- The reason reported for a mask of repeat reasons with reason c at bit c (R268): the highest-numbered one, 0 for none. -/
def highestReason (mask : Nat) : Nat := ((List.range 7).reverse.find? fun k => k != 0 && bit mask k).getD 0

/-- STICKY_CLEAR (R17, R409): a write of `v` to FLT_STK0. -/
def execStickyClear (v : BitVec 64) (s : State) : Host.Outcome State Fault Refusal := s.run fun d => d.clearSticky v.toNat

end Sys2Proof.Machine
end

