-- ==== Sys2Proof/Machine/Ledger.lean ====
section
/-!
DEFINITION. The ledger (R415 to R417): the layout of a copy, the ledger writer, and the restore of a warm start.
-/

namespace Sys2Proof.Machine

/-- The register image of Table 16.3, in its order. -/
def ledgerRegs : List Nat :=
  [0x80038, 0x80028, 0x80000, 0x80030, 0x70000, 0x70008, 0x70018, 0x70028, 0x70058, 0x70060, 0x50010, 0x20008, 0x20010, 0xA0010,
    0xA0018, 0x40810, 0xE0000, 0xE0028, 0xE0008]

/-- Registers that the configuration image leaves out by name: NUM_LP_ADJ, TUN_HIST_SEL, KLN_TUN_SEL, PND_SEL and MBX_BIND (R416). -/
def configSkip (n : String) : Bool := ["NUM_LP_ADJ", "TUN_HIST_SEL", "KLN_TUN_SEL", "PND_SEL", "MBX_BIND"].contains n

/-- The registers of the configuration image, in the order of Table 20.2 (R416). -/
def configRegs : List Nat :=
  (regsFrm ++ regsTun ++ regsSpg ++ regsKln ++ regsNum ++ regsRed ++ regsPnd ++ regsFab ++ regsMbx ++ regsFlt ++ regsPwr ++
      regsSec).flatMap fun r =>
    if (r.fields.any fun f => f.acc == .rw || f.acc == .rwl) && !configSkip r.name then
      ((List.range r.count).map fun k => r.off + r.stride * k).filter fun o => !ledgerRegs.contains o
    else []

/-- Pad with zero bytes to a length. -/
def padTo (n : Nat) (l : List Byte) : List Byte := l ++ List.replicate (n - l.length) 0

/-- The code of dir[l] (Table 16.3). -/
def dirCode (x : Int) : Nat := if x = 1 then 1 else if x = -1 then 3 else 0

/-- Bytes 0x0040 to 0x5FFF of a copy. -/
def Dev.ledgerBody (d : Dev) : List Byte :=
  let words := fun (l : List Nat) => l.flatMap fun o => natLe 8 (d.raw o)
  let dirs := (List.range 1024).map fun i =>
    BitVec.ofNat 8 ((List.range 4).map fun j => dirCode (SMap.get (fun _ => 0) d.num.dir (4 * i + j)) * 4 ^ j).sum
  padTo 256 (words ledgerRegs) ++ words ((List.range 32).map fun b => 0xE0200 + 8 * b) ++ words [0xE0100, 0xE0108] ++
    List.replicate 16 0 ++ (List.range 64).flatMap (fun i => natLe 8 (d.fld (Reg.SPG_GRANT_GRANT i))) ++
    (List.range 256).flatMap (fun i => natLe 8 (d.fld (Reg.NUM_LP_ADJ_ADJ i))) ++ dirs ++
    (List.range 4096).map (fun l => BitVec.ofNat 8 (SMap.get (fun _ => 0) d.spg.hold l)) ++
    (List.range 2048).flatMap (fun t => natLe 4 (SMap.get (fun _ => 0) d.flt.sig t)) ++
    (List.range 32).flatMap (fun b => natLe 2 (d.fld (Reg.KLN_STATUS_T_LAST b))) ++ padTo 1024 (words configRegs) ++
    List.replicate (0x6000 - 0x44A0) 0

/-- Bytes 0x0000 to 0x003B of a copy with sequence number `seq`. -/
def Dev.ledgerHead (d : Dev) (seq : Nat) : List Byte :=
  natLe 8 0x47444C5A ++ natLe 8 seq ++ natLe 8 d.epoch ++ natLe 8 (d.fld Reg.FRM_TICK_NUM_NUM) ++ natLe 1 d.st ++
    natLe 1 d.active ++ natLe 1 d.armed ++ List.replicate 25 0

/-- The ledger writer (R416): SEQ rises by 1, and copy (SEQ mod 2) is written. -/
def Dev.writeLedger (d : Dev) : Dev :=
  let seq := d.flt.seq + 1
  let head := d.ledgerHead seq
  let body := d.ledgerBody
  let copy := head ++ natLe 4 (crc32c (head ++ body)) ++ body
  let flt := if seq % 2 = 0 then { d.flt with seq := seq, ledger0 := copy } else { d.flt with seq := seq, ledger1 := copy }
  let d := ({ d with flt := flt }.bump Cnt.FLT_LEDGER_WR_CNT).setFld Reg.FLT_LEDGER_STAT_SEQ seq
  d.setFld Reg.FLT_LEDGER_STAT_NEWEST (seq % 2)

/-- R416: the ledger is written after an accepted write to a register that the configuration image holds. -/
def Dev.configWritten (d : Dev) (off : Nat) : Dev := if configRegs.contains off then d.writeLedger else d

/-- Does a copy hold under its MAGIC and CRC? -/
def copyValid (c : List Byte) : Bool :=
  c.length == 0x6000 && rdLe c 0 4 == 0x47444C5A && crc32c (c.take 0x3C ++ c.drop 0x40) == rdLe c 0x3C 4

def copySeq (c : List Byte) : Nat := rdLe c 8 8

/-- The copy that a restore takes: the valid one with the higher SEQ. -/
def Dev.bestCopy (d : Dev) : Option (Nat × List Byte) :=
  match copyValid d.flt.ledger0, copyValid d.flt.ledger1 with
  | true, true => if copySeq d.flt.ledger0 < copySeq d.flt.ledger1 then some (1, d.flt.ledger1) else some (0, d.flt.ledger0)
  | true, false => some (0, d.flt.ledger0)
  | false, true => some (1, d.flt.ledger1)
  | false, false => none

/-- Count the copies that fail their CRC, and show the newest valid one. -/
def Dev.judgeCopies (d : Dev) : Dev :=
  let bad := (if copyValid d.flt.ledger0 then 0 else 1) + if copyValid d.flt.ledger1 then 0 else 1
  let d := d.bumpBy Cnt.FLT_LEDGER_BAD_CNT bad
  match d.bestCopy with
  | none => (d.setFld Reg.FLT_LEDGER_STAT_NEWEST 3).setFld Reg.FLT_LEDGER_STAT_SEQ 0
  | some (k, c) =>
    (({ d with flt := { d.flt with seq := copySeq c } }).setFld Reg.FLT_LEDGER_STAT_NEWEST k).setFld Reg.FLT_LEDGER_STAT_SEQ (copySeq c)

/-- Set registers, 8 bytes each, from a byte string. -/
def Dev.loadRegs (d : Dev) : List Nat → List Byte → Dev
  | [], _ => d
  | o :: os, l => (d.setRaw o (rdLe l 0 8)).loadRegs os (l.drop 8)

/-- Restore the settings and records of a copy (R416); FRM_STATUS keeps only what the start does not decide itself. -/
def Dev.restoreCopy (d : Dev) (c : List Byte) : Dev :=
  let at_ := fun (o n : Nat) => (c.drop o).take n
  let d := (d.loadRegs ledgerRegs (at_ 0x40 256)).loadRegs ((List.range 32).map fun b => 0xE0200 + 8 * b) (at_ 0x140 256)
  let d := d.loadRegs [0xE0100, 0xE0108] (at_ 0x240 16)
  let d := (List.range 64).foldl (fun d i => d.setFld (Reg.SPG_GRANT_GRANT i) (rdLe c (0x260 + 8 * i) 8)) d
  let d := (List.range 256).foldl (fun d i => d.setFld (Reg.NUM_LP_ADJ_ADJ i) (rdLe c (0x460 + 8 * i) 8)) d
  let dir := (List.range 4096).foldl (fun m l =>
    let x := bits (rdLe c (0xC60 + l / 4) 1) (l % 4 * 2 + 1) (l % 4 * 2)
    SMap.set (fun _ => (0 : Int)) m l (if x = 1 then 1 else if x = 3 then -1 else 0)) []
  let hold := (List.range 4096).foldl (fun m l => SMap.set (fun _ => 0) m l (rdLe c (0x1060 + l) 1)) []
  let sig := (List.range 2048).foldl (fun m t => SMap.set (fun _ => 0) m t (rdLe c (0x2060 + 4 * t) 4)) []
  let d := { d with num := { d.num with dir := dir }, spg := { d.spg with hold := hold }, flt := { d.flt with sig := sig } }
  let d := (List.range 32).foldl (fun d b => d.setFld (Reg.KLN_STATUS_T_LAST b) (rdLe c (0x4060 + 2 * b) 2)) d
  d.loadRegs configRegs (at_ 0x40A0 1024)

end Sys2Proof.Machine
end

