-- ==== Sys2Proof/Machine/Hash.lean ====
section
/-!
DEFINITION. SHA-512 and RSASSA-PSS verification with the parameters of R460, after FIPS 180-4 and RFC 8017.
-/

namespace Sys2Proof.Machine

/-- The greatest r below r₀ + 2^bits with r^k ≤ n, for r₀^k ≤ n: one bit at a time from the top. -/
def rootFrom (k n : Nat) : Nat → Nat → Nat
  | 0, r => r
  | i + 1, r => rootFrom k n i (if (r + 2 ^ i) ^ k ≤ n then r + 2 ^ i else r)

/-- The first 64 bits of the fraction of the k-th root of p, for a root below 2^6. -/
def rootBits (k p : Nat) : BitVec 64 := BitVec.ofNat 64 (rootFrom k (p * 2 ^ (64 * k)) 70 0)

/-- The 80 primes up to 409. -/
def shaPrimes : List Nat := (List.range 410).filter fun n => 1 < n && (List.range 21).all fun q => q < 2 || n ≤ q || n % q != 0

/-- The round constants of SHA-512: cube roots of the first 80 primes (FIPS 180-4, section 4.2.3). -/
def shaKs : List (BitVec 64) := shaPrimes.map (rootBits 3)

/-- The initial hash value of SHA-512: square roots of the first 8 primes (section 5.3.5). -/
def shaInit : List (BitVec 64) := (shaPrimes.take 8).map (rootBits 2)

/-- A big-endian byte string as a number (RFC 8017, OS2IP). -/
def beNat (l : List Byte) : Nat := leNat l.reverse

/-- The `n` big-endian bytes of a number (RFC 8017, I2OSP). -/
def natBe (n v : Nat) : List Byte := (natLe n v).reverse

/-- Are the bytes [off, off + n) all 0? -/
def zeroBytes (l : List Byte) (off n : Nat) : Bool := ((l.drop off).take n).all (· == 0)

/-- The bytes [off, off + n). -/
def slice (l : List Byte) (off n : Nat) : List Byte := (l.drop off).take n

/-- The sum modulo 2 of a word turned right by each of the distances given: the linear mixers of FIPS 180-4, section 4.1.3. -/
def turned (x : BitVec 64) (rots : List Nat) : BitVec 64 := rots.foldl (fun acc r => acc ^^^ x.rotateRight r) 0

/-- The hash in progress: the last four values of each of the two feedback registers (a, b, c, d and e, f, g, h), newest
first, and the sixteen message words that stand next, the coming one first. -/
structure Shake where
  front : List (BitVec 64)
  back : List (BitVec 64)
  words : List (BitVec 64)

/-- The word that enters the window of sixteen when its first one leaves (section 6.4.2, step 1). -/
def Shake.entering (m : Shake) : BitVec 64 :=
  let w := fun i => m.words.getD i 0
  w 0 + w 9 + (turned (w 1) [1, 8] ^^^ w 1 >>> 7) + (turned (w 14) [19, 61] ^^^ w 14 >>> 6)

/-- What both registers take from the back one: its oldest value, mixed with its newest three (step 3, T1). -/
def Shake.carry (m : Shake) (k : BitVec 64) : BitVec 64 :=
  let e := m.back.getD 0 0
  let choice := m.back.getD 2 0 ^^^ (e &&& (m.back.getD 1 0 ^^^ m.back.getD 2 0))
  m.back.getD 3 0 + choice + turned e [14, 18, 41] + m.words.headD 0 + k

/-- One step under a round constant: each register gains one value and drops its oldest. -/
def Shake.turn (m : Shake) (k : BitVec 64) : Shake :=
  let a := m.front.getD 0 0
  let major := (a &&& (m.front.getD 1 0 ||| m.front.getD 2 0)) ||| (m.front.getD 1 0 &&& m.front.getD 2 0)
  { front := (m.carry k + major + turned a [28, 34, 39]) :: m.front.take 3
    back := (m.front.getD 3 0 + m.carry k) :: m.back.take 3
    words := m.words.tail ++ [m.entering] }

/-- The eight chaining words after one 128-byte block. -/
def shaBlock (h : List (BitVec 64)) (block : List Byte) : List (BitVec 64) :=
  let start : Shake := ⟨h.take 4, h.drop 4, (List.range 16).map fun i => BitVec.ofNat 64 (beNat (slice block (8 * i) 8))⟩
  let m := shaKs.foldl Shake.turn start
  List.zipWith (· + ·) h (m.front ++ m.back)

/-- The padded message (section 5.1.2): the bit 1, zeros, and the length in bits in the last 16 bytes of a block. -/
def shaPad (m : List Byte) : List Byte :=
  let blocks := (m.length + 17 + 127) / 128
  m ++ 0x80 :: natBe (128 * blocks - m.length - 1) (8 * m.length)

/-- SHA-512 of a byte string, 64 bytes. -/
def sha512 (m : List Byte) : List Byte :=
  let p := shaPad m
  let h := (List.range (p.length / 128)).foldl (fun h i => shaBlock h (slice p (128 * i) 128)) shaInit
  h.flatMap fun w => natBe 8 w.toNat

/-- The first `n` bytes of MGF1 with SHA-512, from counter `i` on (RFC 8017, B.2.1), for at most `k` digests. -/
def maskFrom (seed : List Byte) : Nat → Nat → Nat → List Byte
  | 0, _, _ => []
  | k + 1, i, n => (sha512 (seed ++ natBe 4 i)).take n ++ maskFrom seed k (i + 1) (n - 64)

/-- x^(2^k) mod n. -/
def squares : Nat → Nat → Nat → Nat
  | 0, x, _ => x
  | k + 1, x, n => squares k (x * x % n) n

/-- x^65537 mod n. -/
def rsaPublic (x n : Nat) : Nat := squares 16 x n * x % n

/-- EMSA-PSS-VERIFY with a 64-byte salt and emBits 4095. -/
def pssOk (m em : List Byte) : Bool :=
  let maskedDb := em.take 447
  let h := (em.drop 447).take 64
  let db := List.zipWith (· ^^^ ·) maskedDb (maskFrom h 7 0 447)
  let db := (db.headD 0 &&& 0x7F) :: db.tail
  em.length == 512 && em.getLast? == some 0xBC && !(em.headD 0).getLsbD 7 &&
    (db.take 382).all (· == 0) && db.getD 382 0 == 1 &&
    sha512 (List.replicate 8 0 ++ sha512 m ++ db.drop 383) == h

/-- R460: does `sig` verify over `m` under a 4,096-bit modulus, both big-endian? -/
def rsaVerify (modulus sig m : List Byte) : Bool :=
  let n := beNat modulus
  let s := beNat sig
  modulus.length == 512 && sig.length == 512 && 2 ^ 4095 ≤ n && s < n && pssOk m (natBe 512 (rsaPublic s n))

end Sys2Proof.Machine
end

