-- ==== Sys2Proof/Machine/Mailbox.lean ====
section
/-!
DEFINITION. Mailbox channels (R372 to R383): word queues, bindings, dead channels. MBX_TX, MBX_RX, MBX_MSG_TIMEOUT,
DOMAIN_DOWN, VDDIO_RESTORED, MBX_LOCK.
-/

namespace Sys2Proof.Machine

/-- Table 15.4. -/
def masterId : Master → Nat
  | .hostPf => 0x01
  | .mgmt c => 0x10 + c
  | .sec => 0x20
  | .gauge => 0x30
  | .cmdproc => 0x40
  | .towpath => 0x50

def isMgmt (id : Nat) : Bool := 0x10 ≤ id && id ≤ 0x13

/-- A channel's binding: EN, OSTEMU, END_A and END_B; the secure channels have theirs fixed (R378). -/
structure Binding where
  en : Bool
  ostemu : Bool
  a : Nat
  b : Nat
  deriving DecidableEq, Repr

def Dev.binding (d : Dev) (n : Nat) : Binding :=
  if n < 8 then ⟨true, false, 0x20, 0x00⟩
  else ⟨d.flag (Reg.MBX_BIND_EN n), d.flag (Reg.MBX_BIND_OSTEMU n), d.fld (Reg.MBX_BIND_END_A n), d.fld (Reg.MBX_BIND_END_B n)⟩

/-- R380: the end that a master is on an enabled channel: true for end A. -/
def Dev.endOf (d : Dev) (n id : Nat) : Option Bool :=
  let b := d.binding n
  if !b.en || (n < 8 && id != 0x20) then none
  else if id = b.a then some true
  else if id = b.b then some false
  else none

/-- Table 15.6: is the power domain of an end up? -/
def Dev.domainUp (d : Dev) (id : Nat) : Bool :=
  if isMgmt id then d.mbx.mgmtUp
  else if id = 0x30 then d.flag Reg.GAU_CTL_PWR
  else if id = 0x50 then d.mbx.vddio
  else if id = 0x01 then d.hif.power != 2
  else true

/-- R381: is channel `n` dead? -/
def Dev.dead (d : Dev) (n : Nat) : Bool :=
  let b := d.binding n
  !(d.domainUp b.a && d.domainUp b.b)

def emptyQueue : MQueue := ⟨[], 0, 0, 0, false⟩

/-- The queue of channel `n` toward end B (`toB`) or end A. -/
def Dev.queue (d : Dev) (n : Nat) (toB : Bool) : MQueue :=
  (SMap.get (fun _ => none) d.mbx.q (2 * n + if toB then 0 else 1)).getD emptyQueue

def Dev.setQueue (d : Dev) (n : Nat) (toB : Bool) (q : MQueue) : Dev :=
  let v := if q = emptyQueue then none else some q
  { d with mbx := { d.mbx with q := SMap.set (fun _ => none) d.mbx.q (2 * n + if toB then 0 else 1) v } }

/-- LEN of a header word (Table 15.3). -/
def msgLen (h : Nat) : Nat := bits h 23 21
def msgType (h : Nat) : Nat := bits h 31 24

/-- R373: does a complete message wait at the front of the queue? -/
def MQueue.complete (q : MQueue) : Bool :=
  if q.front ≠ 0 then decide (q.front ≤ q.words.length)
  else match q.words with
    | [] => false
    | h :: _ => decide (msgLen h + 1 ≤ q.words.length)

/-- What an append does: the new queue, whether a header was refused (R374), whether a message became complete. -/
structure Pushed where
  q : MQueue
  full : Bool
  complete : Bool
  deriving DecidableEq, Repr

/-- R372 to R374: append one word. -/
def MQueue.push (q : MQueue) (w : Nat) : Pushed :=
  if q.skip ≠ 0 then ⟨{ q with skip := q.skip - 1 }, false, false⟩
  else if q.open_ ≠ 0 then ⟨{ q with words := q.words ++ [w], open_ := q.open_ - 1 }, false, q.open_ == 1⟩
  else if 8 < q.words.length + msgLen w + 1 then ⟨{ q with skip := msgLen w }, true, false⟩
  else ⟨{ q with words := q.words ++ [w], open_ := msgLen w }, false, msgLen w == 0⟩

/-- R372, R383: remove the oldest word. A message wholly removed clears the sender's timeout flag. -/
def MQueue.pop (q : MQueue) : Nat × MQueue :=
  match q.words with
  | [] => (0, q)
  | w :: ws =>
    let front := if q.front = 0 then msgLen w else q.front - 1
    (w, { q with words := ws, front := front, tmo := q.tmo && front != 0 })

/-- Append a word toward the end that `toB` names, raising the receiver's event at a complete message (R373). -/
def Dev.append (d : Dev) (n : Nat) (toB : Bool) (w : Nat) : Dev :=
  let p := (d.queue n toB).push w
  let d := d.setQueue n toB p.q
  let d := if p.full then d.bump Cnt.MBX_FULL_CNT else d
  let d := if p.complete then d.bump Cnt.MBX_MSG_CNT else d
  let dest := if toB then (d.binding n).b else (d.binding n).a
  if p.complete && dest != 0x01 then d.emit (.mailboxEvent dest) else d

/-- R380: a refused access. -/
def Dev.refuseMbx (d : Dev) (n id : Nat) : Dev :=
  ((d.bump Cnt.MBX_DENY_CNT).sticky Reg.FLT_STK0_MBX_DENIED).trace 135 id n id

/-- MBX_TX by master `id` (R372, R380 to R383). -/
def Dev.mbxTx (d : Dev) (id n w : Nat) : Dev :=
  match d.endOf n id with
  | none =>
    let d := d.refuseMbx n id
    if id = 0x01 then d else d.emit .portError
  | some isA =>
    if d.dead n && !(d.binding n).ostemu then
      let d := d.bump Cnt.MBX_DEAD_CNT
      if id = 0x01 then d else d.emit .portError
    else d.append n isA w

/-- MBX_RX by master `id`. -/
def Dev.mbxRx (d : Dev) (id n : Nat) : Dev :=
  let bad := fun (d : Dev) => d.emit (if id = 0x01 then .completerAbort else .portError)
  match d.endOf n id with
  | none => bad (d.refuseMbx n id)
  | some isA =>
    if d.dead n then
      if (d.binding n).ostemu then d.emit (.data 0) else bad (d.bump Cnt.MBX_DEAD_CNT)
    else
      let p := (d.queue n (!isA)).pop
      (d.setQueue n (!isA) p.2).emit (.data p.1)

/-- A read of MBX_TX or a write of MBX_RX by master `id`: it moves no word, and R380 and R382 answer it as any access (R480). -/
def Dev.mbxIdle (d : Dev) (id n : Nat) (isRead : Bool) : Dev :=
  let bad := fun (d : Dev) =>
    if id = 0x01 then (if isRead then d.emit .completerAbort else d) else d.emit .portError
  let good := fun (d : Dev) => if isRead then d.emit (.data 0) else d
  if (d.endOf n id).isNone then bad (d.refuseMbx n id)
  else if d.dead n && !(d.binding n).ostemu then bad (d.bump Cnt.MBX_DEAD_CNT)
  else good d

/-- Send a whole message from a master: the header and its payload words, each under R380 to R382. -/
def Dev.mbxSend (d : Dev) (id n : Nat) (words : List Nat) : Dev := words.foldl (fun d w => d.mbxTx id n w) d

/-- Has the queue of channel `n` toward end B (`toB`) or end A `k` free words? A sender reads that before it writes (R374). -/
def Dev.hasRoom (d : Dev) (n : Nat) (toB : Bool) (k : Nat) : Bool := (d.queue n toB).words.length + k ≤ 8

/-- Take the whole message at the front of a queue. -/
def MQueue.take (q : MQueue) : Option (List Nat × MQueue) :=
  if q.front ≠ 0 ∨ !q.complete then none
  else
    let n := msgLen (q.words.headD 0) + 1
    some (q.words.take n, { q with words := q.words.drop n, tmo := false })

/-- MBX_MSG_TIMEOUT (R383): the message at the front of an OSTEMU queue is discarded. -/
def Dev.mbxTimeout (d : Dev) (n : Nat) (toB : Bool) : Dev :=
  let q := d.queue n toB
  if (d.binding n).ostemu && (d.binding n).en && q.complete then
    let k := if q.front = 0 then msgLen (q.words.headD 0) + 1 else q.front
    (d.setQueue n toB { q with words := q.words.drop k, front := 0, tmo := true }).bump Cnt.MBX_TMO_CNT
  else d

/-- R381: empty both queues of every channel with an end in a domain, counting the words discarded. -/
def Dev.flush (d : Dev) (inDomain : Nat → Bool) : Dev :=
  (List.range 64).foldl (fun d n =>
    let b := d.binding n
    if inDomain b.a || inDomain b.b then
      let k := (d.queue n true).words.length + (d.queue n false).words.length
      ((d.setQueue n true { emptyQueue with tmo := (d.queue n true).tmo }).setQueue n false
        { emptyQueue with tmo := (d.queue n false).tmo }).bumpBy Cnt.MBX_FLUSH_CNT k
    else d) d

/-- The MGMT domain goes down. -/
def Dev.mgmtDown (d : Dev) : Dev := ({ d with mbx := { d.mbx with mgmtUp := false } }).flush isMgmt

/-- DOMAIN_DOWN (R381): the domain of a channel end goes down; those of SEC and CMDPROC never do. -/
def Dev.domainDown (d : Dev) (m : Master) : Dev :=
  match m with
  | .mgmt _ => d.mgmtDown
  | .gauge => (d.setFld Reg.GAU_CTL_PWR 0).flush (· == 0x30)
  | .towpath => ({ d with mbx := { d.mbx with vddio := false } }).flush (· == 0x50)
  | .hostPf => ({ d with hif := { d.hif with power := 2 } }).flush (· == 0x01)
  | .sec => d
  | .cmdproc => d

/-- MBX_LOCK (R379). -/
def Dev.lockMbx (d : Dev) : Dev := d.setFld Reg.MBX_STATUS_LOCKED 1

/-- MBX_HOST_PEND: bit n for each channel on which a complete message waits for HOST_PF (R373). -/
def Dev.hostPend (d : Dev) : Nat :=
  ((List.range 64).map fun n => match d.endOf n 0x01 with
    | some isA => if (d.queue n (!isA)).complete then 2 ^ n else 0
    | none => 0).sum

/-- MBX_CH_STAT[n] (Table 15.22). TMO_A is the flag of end A as the sender (the worked example of R383). -/
def Dev.chStat (d : Dev) (n : Nat) : Nat :=
  let ab := d.queue n true
  let ba := d.queue n false
  let b := fun (x : Bool) (k : Nat) => if x then 2 ^ k else 0
  b (d.dead n) 31 + b ab.tmo 30 + b ba.tmo 29 + b ab.complete 28 + b ba.complete 27 +
    (8 - ab.words.length) * 2 ^ 20 + (8 - ba.words.length) * 2 ^ 16

/-- MBX_TX (R372): master `m` writes `w` to channel `n`. -/
def execMbxTx (m : Master) (n : Fin 64) (w : BitVec 32) (s : State) : Host.Outcome State Fault Refusal :=
  s.run fun d => d.mbxTx (masterId m) n w.toNat

/-- MBX_RX (R372): master `m` reads channel `n`. -/
def execMbxRx (m : Master) (n : Fin 64) (s : State) : Host.Outcome State Fault Refusal :=
  s.run fun d => d.mbxRx (masterId m) n

/-- MBX_LOCK (R379): a write of `v`. -/
def execMbxLock (v : BitVec 32) (s : State) : Host.Outcome State Fault Refusal :=
  s.run fun d => if v.toNat % 2 = 1 then d.lockMbx else d

/-- MBX_MSG_TIMEOUT (R383): MBX_TMO passes for the message at the front of the queue toward end B or end A. -/
def execMbxMsgTimeout (n : Fin 64) (toB : Bool) (s : State) : Host.Outcome State Fault Refusal :=
  s.run fun d => d.mbxTimeout n toB

/-- DOMAIN_DOWN (R381). -/
def execDomainDown (m : Master) (s : State) : Host.Outcome State Fault Refusal := s.run fun d => d.domainDown m

/-- VDDIO_RESTORED (R381): the towpath domain comes up. -/
def execVddioRestored (s : State) : Host.Outcome State Fault Refusal :=
  s.always fun d => { d with mbx := { d.mbx with vddio := true } }

/-- TP_MBX_TX (R494): the towpath writes a word to channel 16 + j. -/
def execTpMbxTx (j : Fin 8) (w : BitVec 32) (s : State) : Host.Outcome State Fault Refusal :=
  s.run fun d => d.mbxTx 0x50 (16 + j) w.toNat

/-- TP_MBX_RX (R494): the towpath reads channel 16 + j. -/
def execTpMbxRx (j : Fin 8) (s : State) : Host.Outcome State Fault Refusal :=
  s.run fun d => d.mbxRx 0x50 (16 + j)

end Sys2Proof.Machine
end

