-- ==== Sys2Proof/Machine/Kiln.lean ====
section
/-!
DEFINITION. The Kiln controller (chapter 6): the calibration store, interpolation, runs, degradation and retirement.
KILN_UNIT, KILN_RESTORE, KLN_REQ_INTERP, KLN_REQ_MEASURED.
-/

namespace Sys2Proof.Machine

/-- The set temperatures in °C (R140). -/
def setTemp : Nat → Int
  | 0 => 25
  | 1 => 45
  | 2 => 65
  | _ => 85

/-- Code `k` of set `j` of a Tun: 0–519 gains, 520–1039 offsets, 1040–1055 references; set 4 is the manufacture record. -/
def storeKey (t j k : Nat) : Nat := (t * 5 + j) * 2048 + k

def Dev.storeCode (d : Dev) (t j k : Nat) : Nat := SMap.get Config.kilnStore d.kln.store (storeKey t j k)

/-- The bytes that the CRC of a set covers (Table 6.1), and those of the manufacture record: the gain codes of its sets, a byte for each column's degraded
flag, and the retired flag's byte. -/
def Dev.storeBytes (d : Dev) (t j : Nat) : List Byte :=
  if j < 4 then (List.range 1056).map fun k => BitVec.ofNat 8 (d.storeCode t j k)
  else
    let flag := fun (x : Bool) => if x then (1 : Byte) else 0
    ((List.range 2080).map fun k => BitVec.ofNat 8 (Config.kilnStore (storeKey t 4 k))) ++
      ((List.range 520).map fun c => flag (d.kln.degraded.contains (t * 520 + c))) ++ [flag (d.kln.retired.contains t)]

/-- R141: does the stored CRC of a set, or of the manufacture record (set 4), fail? -/
def Dev.setBad (d : Dev) (t j : Nat) : Bool := SMap.get Config.kilnCrc d.kln.crc (t * 5 + j) != crc32c (d.storeBytes t j)

/-- A set or a record is written with a new CRC (R152). -/
def Dev.storeCrc (d : Dev) (t j : Nat) : Dev :=
  let k := d.kln
  { d with kln := { k with crc := SMap.set Config.kilnCrc k.crc (t * 5 + j) (crc32c (d.storeBytes t j)) } }

/-- The valid sets of a Tun (R141). -/
def Dev.validSets (d : Dev) (t : Nat) : List Nat := (List.range 4).filter fun j => !d.setBad t j

/-- R144: the pair of sets for a temperature in 1/16 °C. -/
def setPair (temp : Int) : Nat × Nat := if temp < 45 * 16 then (0, 1) else if temp < 65 * 16 then (1, 2) else (2, 3)

/-- R141: the two valid sets nearest the reading, the lower one where two are equally near, in ascending order. -/
def nearestPair (temp : Int) (l : List Nat) : Option (Nat × Nat) :=
  match l.mergeSort (fun a b =>
    let x := (temp - 16 * setTemp a).natAbs
    let y := (temp - 16 * setTemp b).natAbs
    decide (x < y) || (x == y && a ≤ b)) with
  | a :: b :: _ => some (min a b, max a b)
  | _ => none

/-- The kinds of code: lowest and highest value (Table 6.2). -/
def codeRange (k : Nat) : Int × Int := if k < 520 then (0, 255) else if k < 1040 then (-128, 127) else (0, 63)

/-- The value of a stored code: offsets are signed. -/
def codeValue (k v : Nat) : Int := if k < 520 then ((v % 256 : Nat) : Int) else if k < 1040 then sgn 8 v else ((v % 64 : Nat) : Int)

/-- R144: interpolate between sets `a` and `b`, RNE of the sum, before the limit. For a pair that R141 substitutes the divisor is that pair's own gap. -/
def interp (ca cb : Int) (a b : Nat) (temp : Int) : Int :=
  let gap := ((setTemp b - setTemp a) * 16).toNat
  rneDiv (ca * gap + (cb - ca) * (temp - 16 * setTemp a)) gap

/-- The nominal codes of R141. -/
def nominal (k : Nat) : Int := if k < 520 then 64 else if k < 1040 then 0 else 32

/-- The interpolated code before its limit (R141, R144), from the Tun's valid sets `v`. -/
def Dev.rawCode (d : Dev) (v : List Nat) (t k : Nat) (temp : Int) : Int :=
  let at_ := fun (p : Nat × Nat) =>
    interp (codeValue k (d.storeCode t p.1 k)) (codeValue k (d.storeCode t p.2 k)) p.1 p.2 temp
  if v.length = 4 then at_ (setPair temp)
  else match nearestPair temp v with
    | some p => at_ p
    | none => match v with
      | j :: _ => codeValue k (d.storeCode t j k)
      | [] => nominal k

/-- The working copy of a Tun's code. -/
def Dev.working (d : Dev) (t k : Nat) : Nat := SMap.get (fun _ => 0) d.kln.working (trimKey t k)

def Dev.setWorking (d : Dev) (t k v : Nat) : Dev :=
  { d with kln := { d.kln with working := SMap.set (fun _ => 0) d.kln.working (trimKey t k) v } }

/-- Load interpolated trims into the working copy (unit 0); each limited code counts (R144). Unit 0 reads all four sets, so that each that fails its CRC counts
(R141), whichever pair the temperature asks for. -/
def Dev.loadTrims (d : Dev) (t : Nat) (temp : Int) : Dev :=
  let v := d.validSets t
  let d := d.bumpBy Cnt.KLN_STORE_ERR_CNT (4 - v.length)
  (List.range 1056).foldl (fun d k =>
    let x := d.rawCode v t k temp
    let r := codeRange k
    let y := clampInt r.1 r.2 x
    let d := if x = y then d else d.bump Cnt.KLN_CLAMP_CNT
    d.setWorking t k (unsgn 8 y)) d

/-! ### Degradation and retirement (R153, R154) -/

/-- R470: a write to the calibration store raises the calibration epoch. -/
def Dev.calWrite (d : Dev) : Dev := { d with sec := { d.sec with calEpoch := d.sec.calEpoch + 1 } }

def Dev.retire (d : Dev) (t : Nat) : Dev :=
  if d.kln.retired.contains t then d
  else
    let d := d.calWrite
    let d := { d with kln := { d.kln with retired := t :: d.kln.retired } }.storeCrc t 4
    let f := Reg.TUN_RETIRED_RETIRED (t / 64)
    ((d.setFld f (setBit (d.fld f) (t % 64))).sticky Reg.FLT_STK0_TUN_RETIRED).bump Cnt.KLN_RETIRE_CNT

/-- Degraded data columns and reference columns of a Tun. -/
def Dev.degData (d : Dev) (t : Nat) : Nat := ((List.range 512).filter fun c => d.kln.degraded.contains (t * 520 + c)).length
def Dev.degRef (d : Dev) (t : Nat) : Nat :=
  ((List.range 8).filter fun c => d.kln.degraded.contains (t * 520 + 512 + c)).length

/-- The manufacture gain at a temperature (R153). Its limit to the code range does not count in KLN_CLAMP_CNT: no trim is loaded from it. -/
def freshGain (t c : Nat) (temp : Int) : Int :=
  let p := setPair temp
  clampInt 0 255 (interp (codeValue c (Config.kilnStore (storeKey t 4 (c + 520 * p.1))))
    (codeValue c (Config.kilnStore (storeKey t 4 (c + 520 * p.2)))) p.1 p.2 temp)

/-- The window ratio ρ = f(g_fresh) / f(g) of a column in units of 2⁻¹⁶, with f(g) = (192 + g) / 256 (R153, Table 6.2). -/
def Dev.rho (d : Dev) (t : Nat) (temp : Int) (c : Nat) : Nat :=
  (192 + freshGain t c temp).toNat * 65536 / (192 + min 255 (d.working t c))

/-- Does a column become degraded: ρ < 0.70, or a gain correction beyond code 255 (R153)? -/
def Dev.narrow (d : Dev) (t : Nat) (temp : Int) (c : Nat) : Bool :=
  decide (10 * (192 + freshGain t c temp).toNat < 7 * (192 + min 255 (d.working t c))) || decide (255 < d.working t c)

def rhoMax : Nat := 0xFFFF

/-- R154: 11 or more degraded data columns, or a degraded reference column. -/
def Dev.wornOut (d : Dev) (t : Nat) : Bool := !(d.degData t < 11) || d.degRef t != 0

/-- Evaluate degradation at unit 17. -/
def Dev.degrade (d : Dev) (t : Nat) (temp : Int) : Dev :=
  let newly := (List.range 520).filter fun c => d.narrow t temp c && !d.kln.degraded.contains (t * 520 + c)
  let rho := (List.range 512).foldl (fun m c => min m (d.rho t temp c)) rhoMax
  let flags := newly.map (fun c => t * 520 + c) ++ d.kln.degraded
  let rhos := SMap.set (fun _ => 0) d.kln.rho t rho
  let d := { d with kln := { d.kln with degraded := flags, rho := rhos } }
  let d := if newly.isEmpty then d else (d.storeCrc t 4).calWrite
  let d := d.bumpBy Cnt.KLN_DEG_CNT newly.length
  if d.wornOut t then d.retire t else d

/-! ### Runs -/

def Dev.kilnRun (d : Dev) (b : Nat) : Option KilnRun := SMap.get (fun _ => none) d.kln.runs b

def Dev.setKilnRun (d : Dev) (b : Nat) (r : Option KilnRun) : Dev :=
  { d with kln := { d.kln with runs := SMap.set (fun _ => none) d.kln.runs b r } }

/-- R148: the Tun that the controller works on next under SUB = 0xFF: one left part-way through, the most recently worked one first, else the lowest that has
not completed. A Tun in `blocked` waits for the next KILN slot (R158). -/
def KilnRun.next (r : KilnRun) (blocked : List Nat) : Option Nat :=
  match r.part.find? fun p => !blocked.contains p.1 with
  | some p => some p.1
  | none => (List.range 64).find? fun i => !r.done.contains i && !blocked.contains i

/-- The register view of a run (Table 6.8). Where none is in progress, DONE keeps the 64 of a completed run and the other fields are 0. -/
def Dev.showRun (d : Dev) (b : Nat) : Dev :=
  match d.kilnRun b with
  | none => (((d.setFld (Reg.KLN_STATUS_ACTIVE b) 0).setFld (Reg.KLN_STATUS_T_RUN b) 0).setFld (Reg.KLN_STATUS_DONE b) 64).setFld (Reg.KLN_STATUS_CURSOR b) 0
  | some r =>
    (((d.setFld (Reg.KLN_STATUS_ACTIVE b) (if r.measured then 2 else 1)).setFld (Reg.KLN_STATUS_T_RUN b)
      (unsgn 16 r.tRun)).setFld (Reg.KLN_STATUS_DONE b) r.done.length).setFld (Reg.KLN_STATUS_CURSOR b) ((r.next []).getD 0)

/-- R147: at a KILN slot, the basin's pending run starts when none is in progress and KLN_CFG.EN is 1. -/
def Dev.startRun (d : Dev) (b : Nat) : Dev :=
  let p := d.fld (Reg.KLN_STATUS_PENDING b)
  match d.kilnRun b with
  | some _ => d
  | none =>
    if p = 0 ∨ d.fld Reg.KLN_CFG_EN = 0 then d
    else
      let d := d.setKilnRun b (some ⟨p == 2, d.basinTemp b, [], []⟩)
      let d := { d with kln := { d.kln with lagged := d.kln.lagged.filter (· ≠ b) } }
      (d.setFld (Reg.KLN_STATUS_PENDING b) 0).showRun b

/-- The Tun's place in the run: next unit and whether it is MEASURED (R141, R146). -/
def Dev.tunUnit (d : Dev) (b i : Nat) (r : KilnRun) : Nat × Bool :=
  match r.part.find? fun p => p.1 == i with
  | some p => p.2
  | none => (0, r.measured || (d.validSets (64 * b + i)).length != 4)

/-- R150 to R152: a Tun's calibration completes with the working copy as its active trims. -/
def Dev.kilnTunDone (d : Dev) (b i : Nat) (r : KilnRun) (measured : Bool) : Dev :=
  let t := 64 * b + i
  let k := d.kln
  let codes := (List.range 1056).map fun c => (c, if c < 520 then min 255 (d.working t c) else d.working t c)
  let active := codes.foldl (fun m c => SMap.set (fun _ => 0) m (trimKey t c.1) c.2) k.active
  let d := { d with kln := { k with active := active, applied := k.applied.filter (· ≠ t) } }
  let f := Reg.TUN_STALE_STALE b
  let d := (d.setFld f (clearBit (d.fld f) i)).bump Cnt.KLN_TUN_CAL_CNT
  let d := if measured then
      let d := d.bump Cnt.KLN_MEAS_CNT
      let n := (SMap.get (fun _ => 0) d.kln.meas t + 1) % 65536
      let d := { d with kln := { d.kln with meas := SMap.set (fun _ => 0) d.kln.meas t n } }
      match (List.range 4).find? fun j => decide ((r.tRun - 16 * setTemp j).natAbs ≤ 32) with
      | none => d
      | some j =>
        if d.kln.rewritten.contains (t * 4 + j) then d
        else
          let k := d.kln
          let store := codes.foldl (fun m c => SMap.set Config.kilnStore m (storeKey t j c.1) c.2) k.store
          (({ d with kln := { k with store := store, rewritten := (t * 4 + j) :: k.rewritten } }.storeCrc t j).calWrite).bump Cnt.KLN_STORE_WR_CNT
    else d
  let r := { r with done := i :: r.done, part := r.part.filter fun p => p.1 ≠ i }
  if r.done.length = 64 then
    let d := d.setFld (Reg.KLN_STATUS_T_LAST b) (unsgn 16 r.tRun)
    let d := { d with kln := { d.kln with lagged := d.kln.lagged.filter (· ≠ b) } }
    (d.setKilnRun b none).showRun b
  else (d.setKilnRun b (some r)).showRun b

/-- The work of one unit on a Tun (Table 6.3). -/
def Dev.unitWork (d : Dev) (b i u : Nat) (r : KilnRun) (m : KilnMeas) : Dev :=
  let t := 64 * b + i
  if u = 0 then
    let d := if d.setBad t 4 then d.retire t else d
    let f := Reg.TUN_STALE_STALE b
    (d.loadTrims t r.tRun).setFld f (setBit (d.fld f) i)
  else if u ≤ 16 then
    let d := (List.range 512).foldl (fun d c => d.setWorking t c (m.gains.getD c (d.working t c))) d
    d.setWorking t (1040 + (u - 1)) (min 63 m.reference)
  else
    let d := (List.range 520).foldl (fun d c => d.setWorking t (520 + c) (m.offsets.getD c 0 % 256)) d
    d.degrade t r.tRun

/-- R146: unit 0 of an INTERP calibration found more error than an interpolation may leave. -/
def measWide (m : KilnMeas) : Bool := decide (262 < m.gainErr) || decide (102 < m.zeroOff)

/-- R145, R146: after unit `u` of a Tun the calibration goes on, escalates, or completes. -/
def Dev.afterUnit (d : Dev) (b i u : Nat) (measured : Bool) (r : KilnRun) (m : KilnMeas) : Dev :=
  let t := 64 * b + i
  let esc := u == 0 && !measured && measWide m
  let d := if esc then d.bump Cnt.KLN_ESC_CNT else d
  let measured := measured || esc
  if (measured && u == 17) || !measured then d.kilnTunDone b i r measured
  else
    let part := (i, u + 1, measured) :: r.part.filter fun p => p.1 ≠ i
    let d := { d with kln := { d.kln with applied := t :: d.kln.applied.filter (· ≠ t) } }
    (d.setKilnRun b (some { r with part := part })).showRun b

/-- R158: uncorrectable words in what units 1 to 16 compare with: the programmed image and the current pending bank. -/
def Dev.unitReads (d : Dev) (t : Nat) : List Nat :=
  d.poisoned (d.tunImage t) 262144 ++ d.poisoned (d.pendAddr (t / 64) (t % 64) d.rack.bank 0) (4 * d.pendCount t)

/-- R145, R148, R149: one unit on Tun `i` of basin `b`, `now` quanta after frame_start, where the slot and the order allow it. -/
def Dev.kilnUnit (d : Dev) (b i now : Nat) (m : KilnMeas) : Dev :=
  match d.slotFor b i 4, d.kilnRun b with
  | some s, some r =>
    let p := d.tunUnit b i r
    let t := 64 * b + i
    let last := p.1 == 17 || (p.1 == 0 && !p.2)
    let blocked := (d.kln.blocked.filter fun t => t / 64 == b).map fun t => t % 64
    if r.done.contains i || blocked.contains i || (s.slot.sub == 0xFF && r.next blocked != some i) || d.frm.frozen ||
        decide (s.slot.stop < now + 200 + (if last then 0 else 50)) then d
    else if 1 ≤ p.1 ∧ p.1 ≤ 16 ∧ !(d.unitReads t).isEmpty then
      let d := (d.unitReads t).foldl (fun d w => d.uncorr false (8 * w)) d
      { d with kln := { d.kln with blocked := t :: d.kln.blocked } }
    else (d.unitWork b i p.1 r m).afterUnit b i p.1 p.2 r m
  | _, _ => d

/-- KILN_UNIT (R145). -/
def execKilnUnit (b : Fin 32) (i : Fin 64) (now : Nat) (m : KilnMeas) (e : Ecc) (s : State) :
    Host.Outcome State Fault Refusal :=
  s.run fun d => (d.ecc e).kilnUnit b i now m

/-- KILN_RESTORE (R149): the Tun's previously active trims are restored before the slot ends. -/
def execKilnRestore (b : Fin 32) (i : Fin 64) (s : State) : Host.Outcome State Fault Refusal :=
  s.run fun d => { d with kln := { d.kln with applied := d.kln.applied.filter (· ≠ 64 * b.val + i.val) } }

/-- KLN_REQ (R147): request runs of the basins named. -/
def Dev.kilnRequests (d : Dev) (basins : Nat) (measured : Bool) : Dev :=
  (List.range 32).foldl (fun d b => if bit basins b then d.kilnRequest b measured else d) d

/-- KLN_REQ_INTERP: a KLN_REQ write with KIND 1. -/
def execKlnReqInterp (basins : BitVec 32) (s : State) : Host.Outcome State Fault Refusal :=
  s.run fun d => d.kilnRequests basins.toNat false

/-- KLN_REQ_MEASURED: a KLN_REQ write with KIND 2. -/
def execKlnReqMeasured (basins : BitVec 32) (s : State) : Host.Outcome State Fault Refusal :=
  s.run fun d => d.kilnRequests basins.toNat true

/-- R147, R156: a new unflagged temperature of a basin, in 1/16 °C. Each result beyond DT is a trigger of its own, which merges where a run is pending. -/
def Dev.newTemp (d : Dev) (b : Nat) (temp : Int) : Dev :=
  let d := { d with kln := { d.kln with temp := SMap.set (fun _ => 0) d.kln.temp b temp } }
  let ref := match d.kilnRun b with
    | some r => r.tRun
    | none => sgn 16 (d.fld (Reg.KLN_STATUS_T_LAST b))
  let diff := (temp - ref).natAbs
  let dt := 16 * d.fld Reg.KLN_CFG_DT
  let d := if dt < diff then d.kilnRequest b false else d
  if 2 * dt < diff ∧ !d.kln.lagged.contains b then
    let d := { d with kln := { d.kln with lagged := b :: d.kln.lagged } }
    (d.sticky Reg.FLT_STK0_KILN_STALE).bump Cnt.KLN_LAG_CNT
  else d

end Sys2Proof.Machine
end

