-- ==== Sys2Proof/Machine/Gauge.lean ====
section
/-!
DEFINITION. Gauge (chapter 17): monitors, scan lists, urgent conversions, references and alarms. SCAN_PASS_DUE,
SCAN_ENTRY_DONE, GAU_URG, URGENT_DONE, GAU_PWR, GAU_REF_CHANGE, REF_SETTLED, GAU_MON_SEL, GAU_MON_CLR, GAU_MON_CLR_ALL,
GAU_MON_CFG.
-/

namespace Sys2Proof.Machine

/-! ### Channels (Table 17.1) -/

/-- The converter of a channel. -/
def chanConv (k : Nat) : Nat := if k < 48 then 0 else 1

def isDiode (k : Nat) : Bool := k < 32 || (48 ≤ k && k < 72)
def isRail (k : Nat) : Bool := (40 ≤ k && k < 48) || (72 ≤ k && k < 80)

/-- The basins whose calibration makes a channel stale (R430). -/
def Dev.staleBasin (d : Dev) (k : Nat) : Option Nat :=
  if k < 32 then some k
  else if k < 40 then some ((256 * (k - 32) + d.fld (Reg.GAU_RCM_SEL_TUN (k - 32))) / 64)
  else none

/-- R430: a KILN slot of basin `b` is open in which the controller works on a Tun of the basin. -/
def Dev.kilnWorking (d : Dev) (b : Nat) : Bool :=
  d.run.any fun p => match p.2 with
    | some r => p.1 / 65536 == 1 && p.1 / 256 % 256 == b && r.slot.kind == 4 && r.begun
    | none => false

/-! ### Monitors (R435, R436) -/

def monLo : Int := 0x7FFFFFFF
def monHi : Int := -0x80000000
def sat48 (n : Nat) : Nat := min (2 ^ 48 - 1) n

/-- Reset BASE and W of Table 17.4. -/
def monCfg (i : Nat) : Int × Nat :=
  if i < 96 then (if isDiode i then (512, 5) else if isRail i then (0, 16) else (0, 17))
  else if i < 112 then (1500, 2)
  else if i < 128 then (0, 0)
  else if i = 128 then (-256, 6)
  else (-3968, 7)

def freshMon (base : Int) (w : Nat) : Mon := ⟨monLo, monHi, 0, [], base, w⟩

def Dev.mon (d : Dev) (i : Nat) : Mon :=
  (SMap.get (fun _ => none) d.gau.mons i).getD (freshMon (monCfg i).1 (monCfg i).2)

def Dev.setMon (d : Dev) (i : Nat) (m : Mon) : Dev :=
  { d with gau := { d.gau with mons := SMap.set (fun _ => none) d.gau.mons i (some m) } }

/-- The bin of a sample. -/
def Mon.bin (m : Mon) (x : Int) : Nat := (clampInt 0 31 ((x - m.base) / (2 ^ m.w : Nat))).toNat

def Mon.sample (m : Mon) (x : Int) : Mon :=
  let x := clampInt (-0x80000000) 0x7FFFFFFF x
  let b := m.bin x
  { m with min := Min.min m.min x, max := Max.max m.max x, count := sat48 (m.count + 1),
           bins := SMap.set (fun _ => 0) m.bins b (sat48 (SMap.get (fun _ => 0) m.bins b + 1)) }

/-- Take a sample. Monitors 112 to 129 take none while the frame program is frozen (R436). -/
def Dev.monSample (d : Dev) (i : Nat) (x : Int) : Dev :=
  if 112 ≤ i ∧ (d.frm.frozen ∨ d.st = DS.held) then d else d.setMon i ((d.mon i).sample x)

def Dev.clearMon (d : Dev) (i : Nat) : Dev := d.setMon i (freshMon (d.mon i).base (d.mon i).w)

/-- R436: copy the selected monitor into the snapshot registers. -/
def Dev.monSelect (d : Dev) (i : Nat) : Dev :=
  if 129 < i then d
  else
    let m := d.mon i
    let d := (d.setFld Reg.GAU_MON_SEL_MON i).setFld Reg.GAU_MON_MINMAX_MAX (unsgn 32 m.max)
    let d := (d.setFld Reg.GAU_MON_MINMAX_MIN (unsgn 32 m.min)).setFld Reg.GAU_MON_COUNT_COUNT m.count
    let d := (d.setFld Reg.GAU_MON_CFG_BASE (unsgn 32 m.base)).setFld Reg.GAU_MON_CFG_W m.w
    (List.range 32).foldl (fun d b => d.setFld (Reg.GAU_MON_HIST_COUNT b) (SMap.get (fun _ => 0) m.bins b)) d

/-- R435: write the bin configuration of the selected monitor and clear it. -/
def Dev.monConfig (d : Dev) (base : Int) (w : Nat) : Dev :=
  let i := d.fld Reg.GAU_MON_SEL_MON
  ((d.setFld Reg.GAU_MON_CFG_BASE (unsgn 32 base)).setFld Reg.GAU_MON_CFG_W w).setMon i (freshMon base (w % 32))

/-! ### Scan lists (R427) -/

def Dev.conv (d : Dev) (g : Nat) : Option Conv := SMap.get (fun _ => none) d.gau.conv g
def Dev.waits (d : Dev) (g : Nat) : List Nat := SMap.get (fun _ => []) d.gau.wait g

def Dev.setConv (d : Dev) (g : Nat) (c : Option Conv) : Dev :=
  let d := { d with gau := { d.gau with conv := SMap.set (fun _ => none) d.gau.conv g c } }
  match c with
  | none => (d.setFld (Reg.GAU_STATUS_BUSY g) 0).setFld (Reg.GAU_STATUS_URGENT g) 0
  | some c =>
    let d := (d.setFld (Reg.GAU_STATUS_BUSY g) 1).setFld (Reg.GAU_STATUS_URGENT g) (if c.list = 4 then 1 else 0)
    if c.list = 4 then d else (d.setFld (Reg.GAU_STATUS_LIST g) c.list).setFld (Reg.GAU_STATUS_ENTRY g) c.entry

def Dev.setWaits (d : Dev) (g : Nat) (l : List Nat) : Dev :=
  { d with gau := { d.gau with wait := SMap.set (fun _ => []) d.gau.wait g l } }

def Dev.settling (d : Dev) (g : Nat) : Bool := d.flag (Reg.GAU_STATUS_REF_SETTLING g)

/-- The channels of a list, as its registers name them. -/
def Dev.listChans (d : Dev) (l : Nat) : List Nat :=
  (List.range (d.fld (Reg.GAU_SCAN_COUNT l))).map fun i => bits (d.fld (Reg.GAU_SCAN_ENT_CHAN l (i / 8))) (8 * (i % 8) + 7) (8 * (i % 8))

/-- Begin the next entry of a pass that converter `g` can convert; the others are passed over and counted. -/
def Dev.nextEntry (d : Dev) (g l : Nat) : Nat → List Nat → Dev
  | _, [] => d.setConv g none
  | i, k :: ks =>
    if 95 < k ∨ chanConv k ≠ g then (d.bump Cnt.GAU_SCAN_ERR_CNT).nextEntry g l (i + 1) ks
    else
      let basin := d.staleBasin k
      d.setConv g (some ⟨l, i, k, ks, basin, basin.any d.kilnWorking, d.settling g⟩)

/-- Start waiting passes until one has an entry to convert. -/
def Dev.startPass (d : Dev) (g : Nat) : Nat → Dev
  | 0 => d
  | n + 1 =>
    match d.conv g, d.waits g with
    | none, l :: rest => ((d.setWaits g rest).nextEntry g l 0 (d.listChans l)).startPass g n
    | _, _ => d

/-- SCAN_PASS_DUE: list `l` falls due (R427). -/
def Dev.passDue (d : Dev) (l : Nat) : Dev :=
  let g := d.fld (Reg.GAU_SCAN_CONV l)
  if !d.flag Reg.GAU_CTL_PWR || !d.flag (Reg.GAU_SCAN_EN l) then d
  else
    let busy := (List.range 2).any fun g => (match d.conv g with | some c => c.list == l | none => false) ||
      (d.waits g).contains l
    if busy then d.bump Cnt.GAU_SCAN_LATE_CNT
    else (d.setWaits g (d.waits g ++ [l])).startPass g 5

/-! ### Results (R430 to R432) -/

def Dev.inAlarm (d : Dev) (k : Nat) (hi : Bool) : Bool := d.gau.alarm.contains (2 * k + hi.toNat)

/-- Change an alarm's state, with its message on channel 24 + g (R432, Table 17.5). -/
def Dev.alarmEdge (d : Dev) (k : Nat) (hi enter : Bool) (v : Int) : Dev :=
  let key := 2 * k + hi.toNat
  let l := if enter then key :: d.gau.alarm else d.gau.alarm.filter (· ≠ key)
  let d := { d with gau := { d.gau with alarm := l } }
  let f := Reg.GAU_ALARM_ALARM (k / 64)
  let on := l.contains (2 * k) || l.contains (2 * k + 1)
  let d := d.setFld f (if on then setBit (d.fld f) (k % 64) else clearBit (d.fld f) (k % 64))
  let d := if enter then d.bump Cnt.GAU_ALARM_CNT else d
  let head := 0x40 * 2 ^ 24 + 2 * 2 ^ 21 + d.mbx.alarmSeq % 65536
  let word := (if enter then 512 else 0) + (if hi then 256 else 0) + k
  let d := d.mbxSend 0x30 (24 + chanConv k) [head, word, unsgn 32 v]
  { d with mbx := { d.mbx with alarmSeq := d.mbx.alarmSeq + 1 } }

/-- R432: judge a result against the thresholds, HI first. -/
def Dev.judgeAlarms (d : Dev) (k : Nat) (v : Int) : Dev :=
  let hi := d.sfld (Reg.GAU_THRESH_HI k)
  let lo := d.sfld (Reg.GAU_THRESH_LO k)
  let hyst : Int := d.fld (Reg.GAU_THRESH_HYST k)
  let d := if !d.inAlarm k true && decide (hi < v) then d.alarmEdge k true true v
    else if d.inAlarm k true && decide (v ≤ hi - hyst) then d.alarmEdge k true false v
    else d
  if !d.inAlarm k false && decide (v < lo) then d.alarmEdge k false true v
  else if d.inAlarm k false && decide (lo + hyst ≤ v) then d.alarmEdge k false false v
  else d

/-- Write one scan result. -/
def Dev.scanResult (d : Dev) (c : Conv) (v : Int) : Dev :=
  let k := c.chan
  if c.stale then (d.setFld (Reg.GAU_RESULT_STALE k) 1).bump Cnt.GAU_STALE_CNT
  else
    let d := (d.setFld (Reg.GAU_RESULT_VALUE k) (unsgn 24 v)).setFld (Reg.GAU_RESULT_SEQ k) (d.fld (Reg.GAU_RESULT_SEQ k) + 1)
    let d := (d.setFld (Reg.GAU_RESULT_STALE k) 0).setFld (Reg.GAU_RESULT_RS k) (if c.rs then 1 else 0)
    if c.rs then d.bump Cnt.GAU_RS_CNT
    else
      let d := (d.judgeAlarms k v).monSample k v
      if k < 32 then d.newTemp k v else d

/-- SCAN_ENTRY_DONE on converter `g` with the value measured (R427, R432). A list of PERIOD 0 falls due again at its end, on the converter
that it then names. -/
def Dev.entryDone (d : Dev) (g : Nat) (v : Int) : Dev :=
  match d.conv g with
  | none => d
  | some c =>
    if c.list = 4 then d
    else
      let d := d.scanResult c v
      let d := d.nextEntry g c.list (c.entry + 1) c.rest
      if (d.conv g).isSome then d
      else
        (if d.fld (Reg.GAU_SCAN_PERIOD c.list) = 0 then d.passDue c.list else d).startPass g 5

/-- R430: a KILN slot in which the controller works on basin `b` overlaps the conversions in progress. -/
def Dev.kilnOverlaps (d : Dev) (b : Nat) : Dev :=
  (List.range 2).foldl (fun d g => match d.conv g with
    | some c => if c.basin = some b ∧ c.list ≠ 4 then d.setConv g (some { c with stale := true }) else d
    | none => d) d

/-- R429: settling starts, and the conversion in progress overlaps it. -/
def Dev.startSettling (d : Dev) (g : Nat) : Dev :=
  let d := d.setFld (Reg.GAU_STATUS_REF_SETTLING g) 1
  match d.conv g with
  | some c => d.setConv g (some { c with rs := true })
  | none => d

/-! ### Commands -/

/-- SCAN_PASS_DUE (R427). -/
def execScanPassDue (l : Fin 4) (s : State) : Host.Outcome State Fault Refusal := s.run fun d => d.passDue l

/-- SCAN_ENTRY_DONE (R430 to R432): the conversion of converter `g` ends with `v` in the unit of Table 17.1. -/
def execScanEntryDone (g : Fin 2) (v : BitVec 24) (s : State) : Host.Outcome State Fault Refusal :=
  s.run fun d => d.entryDone g (sgn 24 v.toNat)

/-- R428: the urgent request's fields are set; the request is accepted only on an idle converter that will stay idle. -/
def Dev.urgent (d : Dev) (g order n chan : Nat) (fits : Bool) : Dev :=
  let d := if 1 ≤ order ∧ order ≤ 5 then d.setFld (Reg.GAU_URG_ORDER g) order else d
  let d := if 64 ≤ n ∧ n ≤ 16384 then d.setFld (Reg.GAU_URG_N g) n else d
  let d := if chan ≤ 95 ∧ chanConv chan = g then d.setFld (Reg.GAU_URG_CHAN g) chan else d
  let always := (List.range 4).any fun l => d.flag (Reg.GAU_SCAN_EN l) && d.fld (Reg.GAU_SCAN_CONV l) == g &&
    d.fld (Reg.GAU_SCAN_PERIOD l) == 0
  let k := d.fld (Reg.GAU_URG_CHAN g)
  if !d.flag Reg.GAU_CTL_PWR || (d.conv g).isSome || !(d.waits g).isEmpty || always || !fits || chanConv k != g then
    d.bump Cnt.GAU_URG_DROP_CNT
  else (d.setFld (Reg.GAU_URG_RESULT_DONE g) 0).setConv g (some ⟨4, 0, k, [], none, false, d.settling g⟩)

/-- GAU_URG (R428): a GO write to `GAU_URG[g]`; `fits` says that the conversion would end before any list of the converter
falls due. -/
def execGauUrg (g : Fin 2) (order : BitVec 3) (n : BitVec 15) (chan : BitVec 7) (fits : Bool) (s : State) :
    Host.Outcome State Fault Refusal :=
  s.run fun d => d.urgent g order.toNat n.toNat chan.toNat fits

/-- URGENT_DONE (R428). -/
def Dev.urgentDone (d : Dev) (g : Nat) (v : Int) : Dev :=
  match d.conv g with
  | some c =>
    if c.list ≠ 4 then d
    else
      let d := (d.setFld (Reg.GAU_URG_RESULT_DONE g) 1).setFld (Reg.GAU_URG_RESULT_RS g) (if c.rs then 1 else 0)
      let d := (d.setFld (Reg.GAU_URG_RESULT_CHAN g) c.chan).setFld (Reg.GAU_URG_RESULT_VALUE g) (unsgn 24 v)
      let d := if c.rs then d.bump Cnt.GAU_RS_CNT else d
      ((d.bump Cnt.GAU_URG_DONE_CNT).setConv g none).startPass g 5
  | none => d

def execUrgentDone (g : Fin 2) (v : BitVec 24) (s : State) : Host.Outcome State Fault Refusal :=
  s.run fun d => d.urgentDone g (sgn 24 v.toNat)

/-- R434: power Gauge down or up; accepted only in READY. -/
def Dev.gaugePower (d : Dev) (on : Bool) : Dev :=
  if d.st ≠ DS.ready then d.bump Cnt.GAU_CFG_REJ_CNT
  else if on then
    if d.flag Reg.GAU_CTL_PWR then d else ((d.setFld Reg.GAU_CTL_PWR 1).startSettling 0).startSettling 1
  else
    let d := d.setFld Reg.GAU_CTL_PWR 0
    let d := (((d.setConv 0 none).setConv 1 none).setWaits 0 []).setWaits 1 []
    d.flush (· == 0x30)

def execGauPwr (on : Bool) (s : State) : Host.Outcome State Fault Refusal := s.run fun d => d.gaugePower on

/-- GAU_REF_CHANGE (R429): a write of REF; 3 is ignored. -/
def execGauRefChange (g : Fin 2) (r : BitVec 2) (s : State) : Host.Outcome State Fault Refusal :=
  s.run fun d =>
    if r.toNat = 3 ∨ r.toNat = d.fld (Reg.GAU_CONV_REF g) then d
    else (d.setFld (Reg.GAU_CONV_REF g) r.toNat).startSettling g

/-- REF_SETTLED (R429). -/
def execRefSettled (g : Fin 2) (s : State) : Host.Outcome State Fault Refusal :=
  s.run fun d => d.setFld (Reg.GAU_STATUS_REF_SETTLING g) 0

/-- GAU_MON_SEL (R436); a number above 129 is out of range and ignored. -/
def execGauMonSel (mon : BitVec 8) (s : State) : Host.Outcome State Fault Refusal := s.run fun d => d.monSelect mon.toNat

/-- GAU_MON_CLR (R435): clear the monitor that `GAU_MON_SEL` selects. -/
def execGauMonClr (s : State) : Host.Outcome State Fault Refusal :=
  s.run fun d => d.clearMon (d.fld Reg.GAU_MON_SEL_MON)

/-- GAU_MON_CLR_ALL (R435). -/
def execGauMonClrAll (s : State) : Host.Outcome State Fault Refusal :=
  s.run fun d => (List.range 130).foldl Dev.clearMon d

/-- GAU_MON_CFG (R435). -/
def execGauMonCfg (base : BitVec 32) (w : BitVec 5) (s : State) : Host.Outcome State Fault Refusal :=
  s.run fun d => d.monConfig (sgn 32 base.toNat) w.toNat

end Sys2Proof.Machine
end

