-- ==== Sys2Proof/Machine/Fabric.lean ====
section
/-!
DEFINITION. The Thrumway fabric: ports, flits and the link layer, messages and routing, upstream ports, link loss, bring-up
and discovery (R294 to R326). FLIT_RX_DATA, FLIT_RX_CTRL, FLIT_RX_IDLE, ACK_TIMEOUT, FLIT_IDLE_TIMEOUT, LINK_LOST,
PORT_RETRAIN, PORT_DISABLE, GUARD_PROBE, PROBE, PARENT, and the operations behind the rest.
-/

namespace Sys2Proof.Machine

/-! ### Ports and coordinates -/

/-! Port states (Table 12.20). -/

namespace PS
def unused : Nat := 0
def training : Nat := 1
def up : Nat := 2
def down : Nat := 3
def miswired : Nat := 4
def disabled : Nat := 5
def wait : Nat := 6
end PS

/-- Table 12.1: axis (0 P, 1 S, 2 D, 3 X) and direction of a port; ports 8–15 are member 1. -/
def portAxis (p : Nat) : Nat := match p % 8 with
  | 3 => 0
  | 4 => 0
  | 5 => 1
  | 6 => 1
  | 7 => 2
  | 0 => 2
  | _ => 3

def portPlus (p : Nat) : Bool := [1, 3, 5, 7].contains (p % 8)
def portMember (p : Nat) : Nat := p / 8

/-- The port of an axis, direction and member. -/
def portOf (axis : Nat) (plus : Bool) (member : Nat) : Nat :=
  8 * member + match axis, plus with
    | 0, true => 3
    | 0, false => 4
    | 1, true => 5
    | 1, false => 6
    | 2, true => 7
    | 2, false => 0
    | _, true => 1
    | _, false => 2

def Dev.portState (d : Dev) (p : Nat) : Nat := d.fld (Reg.FAB_PORT_STATUS_STATE p)
def Dev.portUp (d : Dev) (p : Nat) : Bool := d.portState p == PS.up
/-- R31: a trained port. -/
def Dev.portTrained (d : Dev) (p : Nat) : Bool := d.portState p == PS.up || d.portState p == PS.wait

def ports : List Nat := List.range 16

/-- The four bytes of a SHAPE or COORD word, P first. -/
def quad (v : Nat) : List Nat := [bits v 7 0, bits v 15 8, bits v 23 16, bits v 31 24]
def unquad (l : List Nat) : Nat := leNat (l.map fun n => BitVec.ofNat 8 n)

/-- The coordinate held and the shape found by discovery. -/
def Dev.coord (d : Dev) : List Nat :=
  [d.fld Reg.FAB_COORD_P, d.fld Reg.FAB_COORD_S, d.fld Reg.FAB_COORD_D, d.fld Reg.FAB_COORD_X]
def Dev.shape (d : Dev) : List Nat :=
  [d.fld Reg.FAB_SHAPE_P, d.fld Reg.FAB_SHAPE_S, d.fld Reg.FAB_SHAPE_D, d.fld Reg.FAB_SHAPE_X]

def at_ (l : List Nat) (k : Nat) : Nat := l.getD k 0

/-- R313. -/
def addrOf (c sz : List Nat) : Nat := at_ c 0 + at_ sz 0 * (at_ c 1 + at_ sz 1 * (at_ c 2 + at_ sz 2 * at_ c 3))

/-- The coordinate of an address. -/
def coordOf (a : Nat) (sz : List Nat) : List Nat :=
  [a % at_ sz 0, a / at_ sz 0 % at_ sz 1, a / (at_ sz 0 * at_ sz 1) % at_ sz 2, a / (at_ sz 0 * at_ sz 1 * at_ sz 2)]

def product (sz : List Nat) : Nat := sz.foldl (· * ·) 1

/-- The neighbour's coordinate over a port (R295). -/
def neighbour (c sz : List Nat) (p : Nat) : List Nat :=
  let a := portAxis p
  let n := at_ sz a
  c.set a (if n = 0 then 0 else if portPlus p then (at_ c a + 1) % n else (at_ c a + n - 1) % n)

/-- R315: the axes on the way to the origin, lowest first, with the toward-origin direction (true is +). -/
def toward (c sz : List Nat) : List (Nat × Bool) :=
  (List.range 4).filterMap fun a => if at_ c a % at_ sz a = 0 then none else some (a, !decide (at_ c a ≤ at_ sz a - at_ c a))

/-- R315: h = Σ δ_a, and DEPTH_MAX. -/
def depthOf (c sz : List Nat) : Nat := ((List.range 4).map fun a => min (at_ c a) (at_ sz a - at_ c a)).sum
def depthMax (sz : List Nat) : Nat := (sz.map fun n => n / 2).sum

/-- Member 0 where it is UP, and otherwise member 1. -/
def pickMember (up : Nat → Bool) (axis : Nat) (plus : Bool) : Nat :=
  if up (portOf axis plus 0) then portOf axis plus 0 else portOf axis plus 1

/-- R315: the primary upstream port; none at the origin. -/
def primaryOf (up : Nat → Bool) (c sz : List Nat) : Option Nat :=
  (toward c sz).head?.map fun x => pickMember up x.1 x.2

/-- R315: the backup upstream port. -/
def backupOf (up : Nat → Bool) (c sz : List Nat) : Option Nat :=
  match toward c sz with
  | [] => none
  | x :: rest =>
    let prim := pickMember up x.1 x.2
    let other := if prim < 8 then prim + 8 else prim - 8
    let second := match rest with
      | [] => none
      | y :: _ => let p := pickMember up y.1 y.2; if up p then some p else none
    match second with
    | some p => some p
    | none => if up other then some other else none

/-- R315: is the neighbour over port `p` an expected child: does its primary upstream port lead here? -/
def expectedChild (up : Nat → Bool) (c sz : List Nat) (p : Nat) : Bool :=
  up p && pickMember up (portAxis p) (portPlus p) == p &&
    (toward (neighbour c sz p) sz).head? == some (portAxis p, !portPlus p)

/-! ### Messages (R304, R305) -/

/-! Message type codes (Table 12.6). -/

namespace MT
def tick : Nat := 0x01
def probe : Nat := 0x02
def echo : Nat := 0x03
def token : Nat := 0x10
def result : Nat := 0x11
def credit : Nat := 0x12
def permAck : Nat := 0x13
def parent : Nat := 0x14
def ring : Nat := 0x18
def assign : Nat := 0x19
def census : Nat := 0x1A
def done : Nat := 0x1B
def confirm : Nat := 0x1C
def reduce : Nat := 0x20
def barge : Nat := 0x30
def mgmt : Nat := 0x40
end MT

/-- The virtual channel of a message type (Table 12.6). -/
def vcOf (mt : Nat) : Nat :=
  if mt < 0x10 then 0 else if mt < 0x20 then 1 else if mt = 0x20 then 2 else if mt = 0x30 then 3 else 4

/-- ECRC of Table 12.5: bytes 0x00, 0x02–0x05 and 0x07–0x0B, and the body. -/
def msgEcrc (mt dst src len : Nat) (body : List Byte) : Nat :=
  crc32c (natLe 1 mt ++ natLe 2 dst ++ natLe 2 src ++ [0] ++ natLe 4 len ++ body)

/-- The bytes of a message (Table 12.5). -/
def msgBytes (mt flags dst src hops ecrc : Nat) (body : List Byte) : List Byte :=
  natLe 1 mt ++ natLe 1 flags ++ natLe 2 dst ++ natLe 2 src ++ natLe 1 hops ++ [0] ++ natLe 4 body.length ++ natLe 4 ecrc ++ body

/-- R305: the checks of an arriving message. `lenOk` says whether LEN matches the type; a routed message's DST must be an address
of the discovered shape. A discarded message is counted. -/
def Dev.checkMsg (d : Dev) (mt : Nat) (lenOk routed : Bool) (m : Msg) : Bool × Dev :=
  if msgEcrc mt m.dst.toNat m.src.toNat m.len.toNat m.body ≠ m.ecrc.toNat then (false, d.bump Cnt.FAB_ECRC_ERR_CNT)
  else if !lenOk || m.body.length ≠ m.len.toNat || (routed && product d.shape ≤ m.dst.toNat) then
    (false, d.bump Cnt.FAB_BAD_MSG_CNT)
  else (true, d)

/-- The sender's address; 0 before discovery. -/
def Dev.ownAddr (d : Dev) : Nat := if d.flag Reg.FAB_COORD_VALID then d.fld Reg.FAB_COORD_ADDR else 0

/-! ### Link layer (R299 to R303) -/

def Dev.link (d : Dev) (p : Nat) : Option Link := SMap.get (fun _ => none) d.fab.links p
def Dev.setLink (d : Dev) (p : Nat) (l : Option Link) : Dev :=
  { d with fab := { d.fab with links := SMap.set (fun _ => none) d.fab.links p l } }

/-- Table 12.4: the buffers that the device advertises, by channel 2 × VC + DL. -/
def ownCredits : List Nat := [8, 0, 64, 64, 1024, 1024, 1024, 1024, 32, 32]

def zeroAt : Nat → Nat := fun _ => 0

def Link.credit (l : Link) (ch : Nat) : Nat := SMap.get zeroAt l.credits ch

/-- A fresh link at the end of PHY training, with the settings that take effect at bring-up (R327). -/
def freshLink (drift replayMax : Nat) : Link :=
  ⟨0, [], [], [], [], 4095, false, false, 0, [], false, [], none, 0, false, false, drift, replayMax, 0⟩

/-- The first waiting flit of a virtual channel that holds a credit for its channel. -/
def Link.readyVc (l : Link) (vc : Nat) : Option Flit := l.waiting.find? fun f => f.ch / 2 == vc && 0 < l.credit f.ch

/-- R301: the flit that the port sends next. -/
def Link.pick (l : Link) : Option Flit :=
  (l.readyVc 0).or ((l.readyVc 1).or
    ((if l.alt then (l.readyVc 3).or (l.readyVc 2) else (l.readyVc 2).or (l.readyVc 3)).or (l.readyVc 4)))

/-- Payload bytes of a flit (R299). -/
def flitRoom : Nat := 242

/-- R299: the bytes of a message follow those of its channel without a gap, from room for `room` bytes in the open flit on; `head` says
that the message header starts here. -/
def cutFlits (ch id : Nat) : Nat → List Byte → Bool → List Flit
  | 0, _, _ => []
  | n + 1, l, head =>
    if l.isEmpty then [] else ⟨0, ch, [id], if head then 0 else 0xFF, l.take flitRoom, false⟩ :: cutFlits ch id n (l.drop flitRoom) false

/-- A flit with the first bytes of a message added. -/
def Flit.join (f : Flit) (id : Nat) (l : List Byte) : Flit :=
  { f with msgs := f.msgs ++ [id]
           fmo := if f.fmo = 0xFF then f.payload.length else f.fmo
           payload := f.payload ++ l.take (flitRoom - f.payload.length) }

/-- Queue a message on a channel: it fills the channel's last waiting flit before it takes new ones. -/
def queueMsg (ch id : Nat) (l : List Byte) (w : List Flit) : List Flit :=
  match w.reverse.find? fun f => f.ch == ch with
  | some f =>
    if f.payload.length < flitRoom then
      w.map (fun g => if g = f then f.join id l else g) ++
        cutFlits ch id (l.length / flitRoom + 1) (l.drop (flitRoom - f.payload.length)) false
    else w ++ cutFlits ch id (l.length / flitRoom + 1) l true
  | none => w ++ cutFlits ch id (l.length / flitRoom + 1) l true

/-- Link header of Table 12.3, with the receiver's ACK, and a credit return in CR0. -/
def Link.head (l : Link) (nak : Bool) (ftype ch fmo fseq crCh crN : Nat) : Nat :=
  crN * 2 ^ 52 + crCh * 2 ^ 48 + (if nak then 2 ^ 41 else 0) + (if l.ackv then 2 ^ 40 + l.rxLast * 2 ^ 28 else 0) +
    fseq * 2 ^ 16 + fmo * 2 ^ 8 + ch % 2 * 2 ^ 7 + ch / 2 * 2 ^ 4 + ftype

/-- Send one flit (R299): header, payload with its fill, and the CRC-32C of both. -/
def Dev.putFlit (d : Dev) (p head : Nat) (payload : List Byte) : Dev :=
  let body := payload ++ List.replicate (flitRoom - payload.length) 0
  d.emit (.flit p head body (crc32c (natLe 10 head ++ body)))

/-- An IDLE flit that carries the receiver's ACK, NAK and `n` credits of a channel (R299, R302, R303). -/
def Dev.idleFlit (d : Dev) (p : Nat) (nak : Bool) (ch n : Nat) : Dev :=
  match d.link p with
  | none => d
  | some l => d.putFlit p (l.head nak 0 0 0xFF 0 ch n) []

/-- A DATA flit of the replay buffer, with the ACK of this moment. -/
def Dev.dataOut (d : Dev) (p : Nat) (l : Link) (f : Flit) : Dev := d.putFlit p (l.head false 1 f.ch f.fmo f.fseq 0 0) f.payload

/-- The flits that credits and replay room let leave, in order (R301 to R303), and the link after them. -/
def Link.drain : Nat → Link → List Flit × Link
  | 0, l => ([], l)
  | n + 1, l =>
    if 2048 ≤ l.unacked.length then ([], l)
    else match l.pick with
      | none => ([], l)
      | some f =>
        let g := { f with fseq := l.next }
        let r := Link.drain n { l with
          next := (l.next + 1) % 4096
          unacked := l.unacked ++ [g]
          waiting := l.waiting.erase f
          credits := SMap.set zeroAt l.credits f.ch (l.credit f.ch - 1)
          alt := if f.ch / 2 = 2 then true else if f.ch / 2 = 3 then false else l.alt }
        (g :: r.1, r.2)

/-- R302: a waiting flit whose channel holds no credit waits for one, and counts once. -/
def Link.stalled (l : Link) (f : Flit) : Bool := !f.waited && l.credit f.ch == 0
def Link.markWaits (l : Link) : Link := { l with waiting := l.waiting.map fun f => if l.stalled f then { f with waited := true } else f }

/-- Drain a port's waiting flits, counting those sent and those that wait for a credit. -/
def Dev.drain (d : Dev) (p : Nat) : Dev :=
  match d.link p with
  | none => d
  | some l =>
    let r := l.drain l.waiting.length
    let d := (d.setLink p (some r.2.markWaits)).bumpBy (Cnt.FAB_TX_FLIT_CNT p) r.1.length
    let d := r.1.foldl (fun (d : Dev) f => d.dataOut p r.2 f) d
    d.bumpBy (Cnt.FAB_CREDIT_STALL_CNT p) (r.2.waiting.filter fun f => r.2.stalled f).length

/-- Hand a message to a port's transmitter: its bytes join those of its channel, and flits leave as they may. -/
def Dev.txRaw (d : Dev) (p mt : Nat) (bytes : List Byte) : Dev :=
  match d.link p with
  | none => d.bump Cnt.FAB_DROP_CNT
  | some l =>
    let ch := 2 * vcOf mt + (if (bytes.getD 1 0).getLsbD 1 then 1 else 0)
    let id := d.fab.nextMsg
    let d := d.setLink p (some { l with waiting := queueMsg ch id bytes l.waiting })
    ({ d with fab := { d.fab with nextMsg := id + 1 } }.emit (.msg p bytes)).drain p

/-- Does a port carry messages of a type? A WAIT port carries VC0 and CTRL flits only (R324). -/
def Dev.carries (d : Dev) (p mt : Nat) : Bool :=
  d.portUp p || (d.portState p == PS.wait && vcOf mt == 0)

/-- Send on a port; a message for a port that is not UP is discarded and counted (R318). -/
def Dev.tx (d : Dev) (p mt : Nat) (bytes : List Byte) : Dev :=
  if d.carries p mt then d.txRaw p mt bytes else d.bump Cnt.FAB_DROP_CNT

/-- Build a message with a computed ECRC, HOPS 1, and send it to the neighbour over port `p`. -/
def Dev.txLocal (d : Dev) (p mt : Nat) (body : List Byte) : Dev :=
  d.tx p mt (msgBytes mt 0 0 d.ownAddr 1 (msgEcrc mt 0 d.ownAddr body.length body) body)

/-! ### Routing (R318 to R321) -/

/-- R320: the ROUTE_OVERRIDE entry of the active variant for a destination and virtual channel. -/
def Dev.overridePort (d : Dev) (dst vc : Nat) : Option Nat :=
  ((imgEntries d.program 6).find? fun e => rdLe e 0 8 % 4096 == dst).bind fun e =>
    let v := leNat e
    if vc != 0 && bit (bits v 27 24) (vc - 1) then some (bits v 19 16) else none

/-- R318: the port on which a message for `dst` leaves, keeping the member. -/
def Dev.routePort (d : Dev) (dst vc member : Nat) : Nat :=
  match d.overridePort dst vc with
  | some p => p
  | none =>
    let c := d.coord
    let sz := d.shape
    let t := coordOf dst sz
    match (List.range 4).find? fun a => at_ t a != at_ c a with
    | none => portOf 0 true member
    | some a =>
      let k := (at_ t a + at_ sz a - at_ c a) % at_ sz a
      portOf a (decide (k ≤ at_ sz a - k)) member

/-- R319: DL of a message that leaves on `p`, having arrived on a port of axis `axis` (none at its source) with DL `dl`. -/
def Dev.dlOut (d : Dev) (p : Nat) (axis : Option Nat) (dl : Bool) : Bool :=
  let a := portAxis p
  let wraps := if portPlus p then at_ d.coord a + 1 == at_ d.shape a else at_ d.coord a == 0
  wraps || (dl && axis == some a)

/-- FLAGS of a message: LATE and DL. -/
def flagsOf (late dl : Bool) : Nat := (if late then 1 else 0) + (if dl then 2 else 0)

/-- A routed message that this device builds leaves on port `p` (R318, R319). -/
def Dev.txRouted (d : Dev) (p mt dst : Nat) (late : Bool) (body : List Byte) : Dev :=
  d.tx p mt (msgBytes mt (flagsOf late (d.dlOut p none false)) dst d.ownAddr 1
    (msgEcrc mt dst d.ownAddr body.length body) body)

/-- R318: a routed message in transit, arrived on `p`, is sent on with its ECRC kept. -/
def Dev.forward (d : Dev) (p mt : Nat) (m : Msg) : Dev :=
  let q := d.routePort m.dst.toNat (vcOf mt) (portMember p)
  if m.hops = 63 then d.bump Cnt.FAB_TTL_DROP_CNT
  else
    let dl := d.dlOut q (some (portAxis p)) (m.flags.getLsbD 1)
    d.tx q mt (msgBytes mt (flagsOf (m.flags.getLsbD 0) dl) m.dst.toNat m.src.toNat (m.hops.toNat + 1) m.ecrc.toNat m.body)

/-- A routed message arrives on port `p`: discarded, delivered or sent on (R305, R318). -/
def Dev.routed (d : Dev) (p mt : Nat) (lenOk : Bool) (m : Msg) (deliver : Dev → Dev) : Dev :=
  if !d.carries p mt then d
  else match d.checkMsg mt lenOk true m with
    | (false, d) => d
    | (true, d) => if m.dst.toNat = d.ownAddr then deliver d else d.forward p mt m

/-- A link-local or flooded message arrives on port `p`. -/
def Dev.localMsg (d : Dev) (p mt : Nat) (lenOk : Bool) (m : Msg) (deliver : Dev → Dev) : Dev :=
  if !d.carries p mt then d
  else match d.checkMsg mt lenOk false m with
    | (false, d) => d
    | (true, d) => deliver d

/-! ### Upstream ports, link loss, partition (R315, R316, R322 to R325) -/

/-- Some variant slot is valid: the device holds a frame program. -/
def Dev.holdsProgram (d : Dev) : Bool := (List.range 8).any fun v => match d.variant v with
  | some x => x.valid
  | none => false

/-- The primary upstream port: ROLE 1 of FAB_PORT_STATUS. -/
def Dev.primaryPort (d : Dev) : Option Nat := ports.find? fun p => d.fld (Reg.FAB_PORT_STATUS_ROLE p) == 1

/-- Write the roles of the ports for a coordinate and shape (R315): primary, backup and expected children. -/
def Dev.writeRoles (d : Dev) (c sz : List Nat) : Dev :=
  let prim := primaryOf d.portUp c sz
  let back := backupOf d.portUp c sz
  let d := d.setFld Reg.RED_TREE_BACKUP_PORT (back.getD 0xFF)
  ports.foldl (fun d p =>
    d.setFld (Reg.FAB_PORT_STATUS_ROLE p)
      (if prim = some p then 1 else if back = some p then 2 else if expectedChild d.portUp c sz p then 3 else 0)) d

/-- R315, R316: the port to the parent: the primary when it is UP, otherwise the backup where there is one. -/
def parentPort (up : Nat → Bool) (c sz : List Nat) : Option Nat :=
  match primaryOf up c sz with
  | none => none
  | some p => if up p then some p else some ((backupOf up c sz).getD p)

/-- Derive the upstream ports again (R316), and send PARENT where the parent or the primary port has changed. -/
def Dev.deriveUp (d : Dev) (c sz : List Nat) (force : Bool) : Dev :=
  let prim := d.primaryPort
  let old := d.fld Reg.RED_TREE_UP_PORT
  let d := d.writeRoles c sz
  let new := (parentPort d.portUp c sz).getD 0xFF
  let d := d.setFld Reg.RED_TREE_UP_PORT new
  let d := ports.foldl (fun d p => d.setFld (Reg.FAB_PORT_STATUS_PARENT p) (if p = new then 1 else 0)) d
  if new ≠ 0xFF ∧ (force ∨ new ≠ old ∨ d.primaryPort ≠ prim) then
    d.txLocal new MT.parent (natLe 1 (depthOf c sz) ++ List.replicate 7 0)
  else d

/-- R325: PARTITION, at most once between two step boundaries, while a frame program is active. -/
def Dev.partition (d : Dev) : Dev :=
  if d.ticking && !d.fab.partitioned then
    ({ d with fab := { d.fab with partitioned := true } }.sticky Reg.FLT_STK0_PARTITION).bump Cnt.FAB_PARTITION_CNT
  else d

/-- R325, first case: not the origin, and neither upstream port is UP. -/
def Dev.checkPartition (d : Dev) : Dev :=
  let up := fun r => ports.any fun p => d.fld (Reg.FAB_PORT_STATUS_ROLE p) == r && d.portUp p
  if !d.frm.origin && d.flag Reg.FAB_COORD_VALID && !up 1 && !up 2 then d.partition else d

/-- A port changes state (trace point 132), with R316 and R325. -/
def Dev.setPort (d : Dev) (p v : Nat) : Dev :=
  if d.portState p = v then d
  else
    let d := (d.setFld (Reg.FAB_PORT_STATUS_STATE p) v).trace 132 0 p v
    let d := if v = PS.down ∨ v = PS.disabled then
        d.setFld Reg.RED_TREE_CHILDREN (clearBit (d.fld Reg.RED_TREE_CHILDREN) p) else d
    let d := if d.holdsProgram && d.flag Reg.FAB_COORD_VALID then d.deriveUp d.coord d.shape false else d
    d.checkPartition

/-- Messages discarded by a link loss: in the replay buffer or queued, and partly received (R323). -/
def Link.lostMsgs (l : Link) : Nat :=
  (((l.unacked ++ l.waiting).flatMap (·.msgs)).dedup).length + (l.part.filter fun x => !x.2.isEmpty).length

/-- Bring-up has completed or failed. -/
def Dev.settlePort (d : Dev) (p : Nat) : Dev :=
  { d with fab := { d.fab with settled := if d.fab.settled.contains p then d.fab.settled else p :: d.fab.settled } }

/-- R323: a link loss leaves the port in state `v` (DOWN, or DISABLED under R322). -/
def Dev.loseLink (d : Dev) (p v : Nat) : Dev :=
  match d.link p with
  | none => d
  | some l =>
    let d := (d.bump (Cnt.FAB_LINK_LOST_CNT p)).sticky Reg.FLT_STK0_LINK_LOST
    let d := (d.bumpBy Cnt.FAB_DROP_CNT l.lostMsgs).setLink p none
    let d := { d with fab := { d.fab with lost := if d.fab.lost.contains p then d.fab.lost else p :: d.fab.lost } }
    (d.settlePort p).setPort p v

/-- R322: a protocol error. -/
def Dev.protoError (d : Dev) (p : Nat) : Dev := (d.bump (Cnt.FAB_PROTO_ERR_CNT p)).loseLink p PS.down

/-- R303: a TICK of a resent flit is restamped: its ACC_LAT grows by the wait `w`, and its ECRC is computed anew (R304, R306). -/
def restampTick (w : Nat) (m : List Byte) : List Byte :=
  let body := m.drop 16
  let body := body.take 8 ++ natLe 4 (rdLe body 8 4 + w) ++ body.drop 12
  msgBytes MT.tick (rdLe m 1 1) (rdLe m 2 2) (rdLe m 4 2) (rdLe m 6 1)
    (msgEcrc MT.tick (rdLe m 2 2) (rdLe m 4 2) body.length body) body

/-- The TICKs of the bytes of VC0, restamped. -/
def restamp (w : Nat) : Nat → List Byte → List Byte
  | 0, l => l
  | n + 1, l =>
    let k := 16 + rdLe l 8 4
    if l.length < 16 ∨ l.length < k then l
    else (if rdLe l 0 1 = MT.tick then restampTick w (l.take k) else l.take k) ++ restamp w n (l.drop k)

/-- Give the bytes of VC0 back to its flits. -/
def refill : List Flit → List Byte → List Flit
  | [], _ => []
  | f :: fs, l =>
    if f.ch = 0 then { f with payload := l.take f.payload.length } :: refill fs (l.drop f.payload.length) else f :: refill fs l

/-- The replay buffer with its TICKs restamped: a message that begins before the oldest flit stays as it is. -/
def restampFlits (w : Nat) (fs : List Flit) : List Flit :=
  let ones := fs.filter fun f => f.ch == 0
  let bytes := ones.flatMap (·.payload)
  let skip := match ones with
    | f :: _ => if f.fmo = 0xFF then f.payload.length else f.fmo
    | [] => 0
  refill fs (bytes.take skip ++ restamp w bytes.length (bytes.drop skip))

/-- R303: resend every unacknowledged flit; REPLAY_MAX replays without progress lose the link (R322). The wait that restamps a TICK is a free
value: no command names the time of a replay. -/
def Dev.replay (d : Dev) (p : Nat) : Dev :=
  match d.link p with
  | none => d
  | some l =>
    if l.unacked.isEmpty then d
    else
      let d := (d.bump (Cnt.FAB_REPLAY_CNT p)).bumpBy (Cnt.FAB_TX_FLIT_CNT p) l.unacked.length
      let w := d.draw
      let l := { l with unacked := restampFlits w.1 l.unacked, replays := l.replays + 1 }
      let d := l.unacked.foldl (fun (d : Dev) f => d.dataOut p l f) (w.2.setLink p (some l))
      if l.replayMax ≤ l.replays then d.loseLink p PS.down else d

/-- Return `n` credits of a channel; none where they exceed those outstanding. -/
def Link.giveBack (l : Link) (ch n : Nat) : Option Link :=
  if n = 0 then some l
  else if SMap.get zeroAt l.limit ch < l.credit ch + n then none
  else some { l with credits := SMap.set zeroAt l.credits ch (l.credit ch + n) }

/-- Process an ACK: none where it lies outside the window. The last acknowledged number acknowledges nothing new. -/
def Link.acked (l : Link) (a : Nat) : Option Link :=
  if a = (l.next + 4095 - l.unacked.length) % 4096 then some l
  else match l.unacked.findIdx? fun f => f.fseq == a with
    | none => none
    | some k => some { l with unacked := l.unacked.drop (k + 1), replays := 0 }

/-- Link header fields (Table 12.3). -/
def flitF (x : FlitIn) (hi lo : Nat) : Nat := bits x.head.toNat hi lo

/-- R299: is a flit intact: right CRC, and in no uncorrectable codeword? -/
def flitIntact (x : FlitIn) : Bool :=
  x.uncorr == 0 && crc32c (natLe 10 x.head.toNat ++ x.payload) == x.crc.toNat && x.payload.length == 242

/-- R303: a flit in error: NAK once, until the awaited flit arrives. -/
def Dev.nak (d : Dev) (p : Nat) : Dev :=
  match d.link p with
  | none => d
  | some l => if l.nak then d else (d.setLink p (some { l with nak := true })).idleFlit p true 0 0

/-- Credit returns and the ACK of an intact flit; false where the link was lost. -/
def Dev.flitHead (d : Dev) (p : Nat) (x : FlitIn) : Bool × Dev :=
  match d.link p with
  | none => (false, d)
  | some l =>
    match (l.giveBack (flitF x 51 48) (flitF x 63 52)).bind fun l => l.giveBack (flitF x 67 64) (flitF x 79 68) with
    | none => (false, d.protoError p)
    | some l =>
      if flitF x 40 40 = 0 then (true, (d.setLink p (some l)).drain p)
      else match l.acked (flitF x 39 28) with
        | none => (false, d.protoError p)
        | some l =>
          let d := d.setLink p (some l)
          let d := if flitF x 41 41 = 1 then d.replay p else d
          ((d.link p).isSome, d.drain p)

/-- Take the whole messages out of a channel's received bytes: what is left of a message partly received. MTYPE 0x00 is fill. -/
def takeMsgs : Nat → List Byte → List Byte
  | 0, l => l
  | n + 1, l =>
    if l.headD 0 = 0 then []
    else if l.length < 16 then l
    else
      let k := 16 + rdLe l 8 4
      if l.length < k then l else takeMsgs n (l.drop k)

/-- An arriving flit is counted, judged intact or not, and its header processed; `body` does the rest of an intact flit. -/
def Dev.flitRx (d : Dev) (p : Nat) (x : FlitIn) (body : Dev → Dev) : Dev :=
  match d.link p with
  | none => d
  | some _ =>
    let d := (d.bumpBy (Cnt.FAB_FEC_CORR_CNT p) x.corr).bumpBy (Cnt.FAB_FEC_UNCORR_CNT p) x.uncorr
    if !flitIntact x then (if x.uncorr = 0 then d.bump (Cnt.FAB_CRC_ERR_CNT p) else d).nak p
    else match d.flitHead p x with
      | (false, d) => d
      | (true, d) => body d

/-- R303: is FSEQ `f` ahead of the one awaited, so that it leaves a gap? A flit of the last 2,048 received is resent, and discarded. -/
def Link.gap (l : Link) (f : Nat) : Bool := (f + 4096 - (l.rxLast + 1) % 4096) % 4096 < 2048

/-- R303: an intact DATA flit is accepted in sequence, or leaves a gap. A buffer is freed, and its credit returned, at once. -/
def Dev.dataFlit (d : Dev) (p : Nat) (x : FlitIn) : Dev :=
  match d.link p with
  | none => d
  | some l =>
    if flitF x 27 16 ≠ (l.rxLast + 1) % 4096 then (if l.gap (flitF x 27 16) then d.nak p else d)
    else
      let ch := 2 * flitF x 6 4 + flitF x 7 7
      let old := SMap.get (fun _ => []) l.part ch
      let l := { l with rxLast := flitF x 27 16, ackv := true, nak := false,
                        part := SMap.set (fun _ => []) l.part ch (takeMsgs 16 (old ++ x.payload)) }
      (d.setLink p (some l)).idleFlit p false ch 1

/-- Bring-up begins on a port (R311). -/
def Dev.trainPort (d : Dev) (p : Nat) : Dev :=
  if d.flag (Reg.FAB_PORT_CTL_EN p) then
    { (d.setLink p none).setPort p PS.training with
        fab := { ((d.setLink p none).setPort p PS.training).fab with settled := d.fab.settled.filter (· != p) } }
  else d

/-- PORT_RETRAIN (R322, R324): a write of 1 to RETRAIN declares loss and starts bring-up. -/
def Dev.retrain (d : Dev) (p : Nat) : Dev :=
  if d.portState p = PS.unused then d else (d.loseLink p PS.down).trainPort p

/-- PORT_DISABLE (R322): a write of 0 to EN declares loss and leaves the port DISABLED. -/
def Dev.disablePort (d : Dev) (p : Nat) : Dev :=
  (((d.setFld (Reg.FAB_PORT_CTL_EN p) 0).loseLink p PS.disabled).setPort p PS.disabled).settlePort p

/-- EN written 1 on a DISABLED port: bring-up begins. -/
def Dev.enablePort (d : Dev) (p : Nat) : Dev :=
  let d := d.setFld (Reg.FAB_PORT_CTL_EN p) 1
  if d.portState p = PS.disabled then d.trainPort p else d

/-! ### Bring-up (R311, R312, R317) -/

/-- Send a PROBE, at tick timer value `t`. -/
def Dev.sendProbe (d : Dev) (p t : Nat) : Dev :=
  match d.link p with
  | none => d
  | some l =>
    let body := natLe 4 l.probeId ++ natLe 4 0
    (d.setLink p (some { l with probe := some (l.probeId, t), probeId := (l.probeId + 1) % 2 ^ 32 })).txRaw p MT.probe
      (msgBytes MT.probe 0 0 d.ownAddr 1 (msgEcrc MT.probe 0 d.ownAddr 8 body) body)

/-- The number of latency samples of a bring-up (Table 12.10). -/
def probeCount : Nat := 64

/-- The mean of the samples, which are twice the latency, rounded to 0.1 ns; at a tie the direction is a free value. -/
def Dev.meanLat (d : Dev) (samples : List Int) : Nat × Dev :=
  let sum := samples.foldl (· + ·) (0 : Int)
  let q := sum / (128 : Int)
  let r := sum % (128 : Int)
  if r = 64 then
    let x := d.draw
    ((q + ((x.1 % 2 : Nat) : Int)).toNat, x.2)
  else ((if 64 < r then q + 1 else q).toNat, d)

/-- The body of CONFIRM: shape and coordinate of the sender (Table 12.9). -/
def Dev.sendConfirm (d : Dev) (p : Nat) : Dev :=
  let body := natLe 4 (unquad d.shape) ++ natLe 4 (unquad d.coord)
  d.txRaw p MT.confirm (msgBytes MT.confirm 0 0 d.ownAddr 1 (msgEcrc MT.confirm 0 d.ownAddr 8 body) body)

/-- A port's latency takes effect (R296, R324). -/
def Dev.setLat (d : Dev) (p v : Nat) : Dev :=
  (d.setFld (Reg.FAB_PORT_STATUS_LAT p) v).setFld (Reg.FAB_PORT_STATUS_LONG p) (if 2500 < v then 1 else 0)

/-- A port becomes UP: a return after a loss is counted. -/
def Dev.bringUp (d : Dev) (p : Nat) : Dev :=
  match d.link p with
  | none => d
  | some l =>
    let d := d.setLat p l.newLat
    let d := if d.fab.lost.contains p then
        { d.bump Cnt.FAB_RETRAIN_CNT with fab := { d.fab with lost := d.fab.lost.filter (· != p) } } else d
    d.setPort p PS.up

/-- Table 12.10, order 6: bring-up completes where the latency is known and the CONFIRM agreed, or none is owed. -/
def Dev.finishBringUp (d : Dev) (p : Nat) : Dev :=
  match d.link p with
  | none => d
  | some l =>
    if d.portState p = PS.training ∧ l.samples.length = probeCount ∧ (l.confirmed ∨ !d.flag Reg.FAB_COORD_VALID) then
      (if d.ticking then d.setPort p PS.wait else d.bringUp p).settlePort p
    else d

/-- A port becomes MISWIRED and carries nothing (R311, R317). -/
def Dev.miswire (d : Dev) (p : Nat) : Dev :=
  (((d.setLink p none).bump Cnt.FAB_MISWIRE_CNT).setPort p PS.miswired).settlePort p

/-- PORT_TRAINED (R311): the CTRL exchange begins. -/
def Dev.portTrain (d : Dev) (p : Nat) : Dev :=
  if d.portState p = PS.training ∧ d.link p = none then
    (d.setLink p (some (freshLink (d.fld Reg.FAB_LINK_CFG_DRIFT) (d.fld Reg.FAB_LINK_CFG_REPLAY_MAX)))).emit (.ctrl p p ownCredits)
  else d

/-- A CTRL flit with the peer's port number and credits (Table 12.10, orders 2 to 4); `t` is when the first PROBE leaves. -/
def Dev.ctrlFlit (d : Dev) (p peer : Nat) (credits : List Nat) (t : Nat) : Dev :=
  match d.link p with
  | none => d
  | some l =>
    if d.portState p ≠ PS.training ∨ l.ctrl then d
    else if portAxis peer ≠ portAxis p ∨ portMember peer ≠ portMember p ∨ portPlus peer = portPlus p then d.miswire p
    else
      let c := (List.range 16).foldl (fun m ch => SMap.set zeroAt m ch (credits.getD ch 0)) []
      ((d.setFld (Reg.FAB_PORT_STATUS_NBR_PORT p) peer).setLink p (some { l with ctrl := true, credits := c, limit := c })).sendProbe p t

/-- An ECHO arrives at `t`; `next` is when the next PROBE of a bring-up leaves. A sample is twice the one-way latency. -/
def Dev.echo (d : Dev) (p id turn t next : Nat) : Dev :=
  match d.link p with
  | none => d
  | some l =>
    match l.probe with
    | none => d
    | some (pid, sent) =>
      if pid ≠ id then d
      else
        let x : Int := (t : Int) - (sent : Int) - (turn : Int)
        if d.portState p = PS.training then
          if probeCount ≤ l.samples.length then d
          else
            let l := { l with samples := l.samples ++ [x], probe := none }
            if l.samples.length < probeCount then (d.setLink p (some l)).sendProbe p next
            else
              let m := d.meanLat l.samples
              let d := m.2.setLink p (some { l with newLat := m.1 })
              (if d.flag Reg.FAB_COORD_VALID then d.sendConfirm p else d).finishBringUp p
        else
          let d := (d.setLink p (some { l with probe := none })).monSample (96 + p) (x / 2)
          if 2 * l.drift < (x - 2 * (d.fld (Reg.FAB_PORT_STATUS_LAT p) : Int)).natAbs then d.bump Cnt.FAB_LAT_DRIFT_CNT else d

/-- R317: a CONFIRM arrives: does the peer stand at this device's coordinate ±1 on the port's axis, with the same shape? -/
def Dev.confirm (d : Dev) (p shape coord : Nat) : Dev :=
  match d.link p with
  | none => d
  | some l =>
    if !d.flag Reg.FAB_COORD_VALID then d
    else if quad shape ≠ d.shape ∨ quad coord ≠ neighbour d.coord d.shape p then d.miswire p
    else (d.setLink p (some { l with confirmed := true })).finishBringUp p

/-- Messages of bring-up are carried by a port in training too. -/
def Dev.bringUpMsg (d : Dev) (p mt : Nat) (m : Msg) (deliver : Dev → Dev) : Dev :=
  if !(d.portTrained p || (d.portState p == PS.training && (d.link p).isSome)) then d
  else match d.checkMsg mt (m.len.toNat == 8) false m with
    | (false, d) => d
    | (true, d) => deliver d

/-- GUARD_PROBE (R312): the guard of a frame starts at `t`. -/
def execGuardProbe (t : Nat) (s : State) : Host.Outcome State Fault Refusal :=
  s.run fun d => ports.foldl (fun d p => if d.portUp p then d.sendProbe p t else d) d

/-- PROBE (R311): reflected as ECHO with the reflector's TURN time. -/
def execProbe (p : Fin 16) (m : Msg) (turn : Nat) (s : State) : Host.Outcome State Fault Refusal :=
  s.run fun d => d.bringUpMsg p MT.probe m fun d =>
    let body := m.body.take 4 ++ natLe 4 turn
    d.txRaw p MT.echo (msgBytes MT.echo 0 0 d.ownAddr 1 (msgEcrc MT.echo 0 d.ownAddr 8 body) body)

/-- PARENT (R316). -/
def execParent (p : Fin 16) (m : Msg) (s : State) : Host.Outcome State Fault Refusal :=
  s.run fun d => d.localMsg p MT.parent (m.len == 8) m fun d =>
    d.setFld Reg.RED_TREE_CHILDREN (setBit (d.fld Reg.RED_TREE_CHILDREN) p)

/-! ### Ticks on the wire (R306) -/

/-- TICK body (Table 12.7). -/
def tickBody (num : Nat) (test : Bool) (acc : Nat) : List Byte :=
  natLe 6 num ++ natLe 1 (if test then 1 else 0) ++ [0] ++ natLe 4 acc ++ natLe 4 0

/-- Send a tick on every trained port but `skip`, with `acc` plus the LAT of the port. -/
def Dev.floodTick (d : Dev) (num : Nat) (test : Bool) (acc : Nat) (skip : Option Nat) : Dev :=
  ports.foldl (fun d p =>
    if d.portTrained p && skip != some p then
      d.txLocal p MT.tick (tickBody num test (acc + d.fld (Reg.FAB_PORT_STATUS_LAT p)))
    else d) d

/-! ### Discovery (R314) -/

def emptyDisc : Disc := ⟨false, [], [], false, [], [], [], false, [], none, false, false, 0⟩

def Dev.setDisc (d : Dev) (x : Disc) : Dev := { d with fab := { d.fab with disc := x } }

/-- Discovery begins on this device. -/
def Dev.beginDisc (d : Dev) : Dev :=
  ((d.setDisc { emptyDisc with active := true }).setFld Reg.FAB_DISC_STATUS_STATE 1).setFld Reg.FAB_DISC_STATUS_CODE 0

/-- DONE applied (R314): success writes the coordinate, the shape and the tree; failure clears VALID and is counted. -/
def Dev.applyDone (d : Dev) (code dmax devices maxLat : Nat) : Dev :=
  let x := d.fab.disc
  let d := d.setDisc { x with active := false, done := true }
  if code = 0 ∧ x.hasCoord then
    let c := x.coord
    let d := ((d.setFld Reg.FAB_COORD_P (at_ c 0)).setFld Reg.FAB_COORD_S (at_ c 1)).setFld Reg.FAB_COORD_D (at_ c 2)
    let d := ((d.setFld Reg.FAB_COORD_X (at_ c 3)).setFld Reg.FAB_COORD_ADDR (addrOf c x.shape)).setFld Reg.FAB_COORD_VALID 1
    let d := ((d.setFld Reg.FAB_SHAPE_P (at_ x.shape 0)).setFld Reg.FAB_SHAPE_S (at_ x.shape 1)).setFld Reg.FAB_SHAPE_D (at_ x.shape 2)
    let d := ((d.setFld Reg.FAB_SHAPE_X (at_ x.shape 3)).setFld Reg.RED_TREE_DEVICES devices).setFld Reg.RED_TREE_DEPTH_MAX dmax
    let d := (d.setFld Reg.RED_TREE_DEPTH (depthOf c x.shape)).deriveUp c x.shape false
    ((d.setFld Reg.FAB_DISC_STATUS_MAX_LAT maxLat).setFld Reg.FAB_DISC_STATUS_CODE 0).setFld Reg.FAB_DISC_STATUS_STATE 2
  else
    let d := (d.setFld Reg.FAB_COORD_VALID 0).setFld Reg.FAB_DISC_STATUS_CODE (if code = 0 then 4 else code)
    (d.setFld Reg.FAB_DISC_STATUS_STATE 3).bump Cnt.FAB_DISC_FAIL_CNT

/-- The origin floods DONE and applies it. -/
def Dev.finishDisc (d : Dev) (code devices maxLat : Nat) : Dev :=
  let dmax := depthMax d.fab.disc.sizes
  let body := natLe 1 code ++ natLe 1 dmax ++ natLe 2 devices ++ natLe 4 maxLat
  (ports.foldl (fun d p => if d.portUp p then d.txLocal p MT.done body else d) d).applyDone code dmax devices maxLat

/-- Phase CENSUS: a device sends its CENSUS once it may; the origin decides (Table 12.11). -/
def Dev.tryCensus (d : Dev) : Dev :=
  let x := d.fab.disc
  if !x.active || !x.hasCoord || x.sent then d
  else
    let ups := ports.filter fun p => d.portUp p
    let kids := ups.filter fun p => expectedChild d.portUp x.coord x.shape p
    if !(ups.all fun p => x.assigned.contains p) || !(kids.all fun p => x.census.any fun q => q.1 == p) then d
    else
      let err := x.conflict || x.census.any fun q => q.2.2.1
      let count := 1 + (x.census.map fun q => q.2.1).sum
      let lat := (x.census.map fun q => q.2.2.2).foldl max (x.testLat.getD 0)
      if d.frm.origin then
        let d := d.setDisc { x with sent := true }
        if err then d.finishDisc 3 count lat
        else if count ≠ product x.shape then d.finishDisc 4 count lat
        else d.finishDisc 0 count lat
      else match x.testLat, primaryOf d.portUp x.coord x.shape with
        | some _, some p =>
          (d.setDisc { x with sent := true }).txLocal p MT.census
            (natLe 2 count ++ natLe 1 (if err then 1 else 0) ++ [0] ++ natLe 4 lat)
        | _, _ => d

/-- Phase ASSIGN: take a coordinate, send ASSIGN on every UP port and PARENT on the primary upstream port. -/
def Dev.takeCoord (d : Dev) (c sz : List Nat) : Dev :=
  let d := d.setDisc { d.fab.disc with hasCoord := true, coord := c, shape := sz }
  let d := ports.foldl (fun d p =>
    if d.portUp p then d.txLocal p MT.assign (natLe 4 (unquad sz) ++ natLe 4 (unquad (neighbour c sz p))) else d) d
  match primaryOf d.portUp c sz with
  | none => d
  | some p => if d.portUp p then d.txLocal p MT.parent (natLe 1 (depthOf c sz) ++ List.replicate 7 0) else d

/-- Phase SIZE ends when every RING has returned. -/
def Dev.trySizes (d : Dev) : Dev :=
  let x := d.fab.disc
  if !x.active || !x.rings.isEmpty || x.hasCoord then d
  else if 4096 < product x.sizes then d.finishDisc 2 0 0
  else (d.takeCoord [0, 0, 0, 0] x.sizes).tryCensus

/-- Phase SIZE: the origin sends a RING on each axis on which a port of it is UP. -/
def Dev.startSize (d : Dev) : Dev :=
  let d := d.beginDisc
  let anyUp := fun (d : Dev) a => [(true, 0), (true, 1), (false, 0), (false, 1)].any fun x => d.portUp (portOf a x.1 x.2)
  let plusUp := fun (d : Dev) a => d.portUp (pickMember d.portUp a true)
  let axes := (List.range 4).filter fun a => anyUp d a
  let d := d.setDisc { d.fab.disc with rings := axes, sizes := [1, 1, 1, 1] }
  if axes.all fun a => plusUp d a then
    (axes.foldl (fun d a => d.txLocal (pickMember d.portUp a true) MT.ring (natLe 1 a ++ List.replicate 7 0)) d).trySizes
  else d.finishDisc 1 0 0

/-- R314: does the device take part in discovery? Elsewhere discovery messages are counted and ignored. -/
def Dev.discMsg (d : Dev) (p mt : Nat) (m : Msg) (deliver : Dev → Dev) : Dev :=
  d.localMsg p mt (m.len == 8) m fun d =>
    if d.st = DS.booting ∨ d.st = DS.ready then deliver d else d.bump Cnt.FAB_DISC_IGN_CNT

/-- A message of a new discovery joins this device to it. -/
def Dev.joinDisc (d : Dev) : Dev := if d.fab.disc.active then d else d.beginDisc

/-- RING arrives on port `p`: forwarded along its axis, or returned to the origin. -/
def Dev.ringIn (d : Dev) (p : Nat) (m : Msg) : Dev :=
  if d.frm.origin then
    let x := d.fab.disc
    let a := portAxis p
    if !x.active || !x.rings.contains a || portPlus p then d
    else if 16 < m.hops.toNat then d.finishDisc 1 0 0
    else (d.setDisc { x with rings := x.rings.filter (· != a), sizes := x.sizes.set a m.hops.toNat }).trySizes
  else if portPlus p then d
  else if m.hops = 63 then d.joinDisc.bump Cnt.FAB_TTL_DROP_CNT
  else
    d.joinDisc.tx (portOf (portAxis p) true (portMember p)) MT.ring
      (msgBytes MT.ring m.flags.toNat 0 m.src.toNat (m.hops.toNat + 1) m.ecrc.toNat m.body)

/-- ASSIGN arrives on port `p`. -/
def Dev.assignIn (d : Dev) (p : Nat) (m : Msg) : Dev :=
  let d := if d.frm.origin then d else d.joinDisc
  let x := d.fab.disc
  if !x.active then d
  else
    let sz := quad (rdLe m.body 0 4)
    let c := quad (rdLe m.body 4 4)
    let d := d.setDisc { x with assigned := if x.assigned.contains p then x.assigned else p :: x.assigned }
    let d := if x.hasCoord then
        (if c ≠ x.coord ∨ sz ≠ x.shape then d.setDisc { d.fab.disc with conflict := true } else d)
      else if d.frm.origin then d else d.takeCoord c sz
    d.tryCensus

/-- CENSUS arrives on port `p`. -/
def Dev.censusIn (d : Dev) (p : Nat) (m : Msg) : Dev :=
  let x := d.fab.disc
  if !x.active then d
  else
    let e := (p, rdLe m.body 0 2, bit (rdLe m.body 2 1) 0, rdLe m.body 4 4)
    (d.setDisc { x with census := e :: x.census.filter fun q => q.1 != p }).tryCensus

/-- A TEST tick (R306, R314): its ACC_LAT on the primary upstream port is the device's MAX_LAT. It is passed on once, as
discovery traffic, so that the devices behind this one receive it. -/
def Dev.testTick (d : Dev) (p num acc delay : Nat) : Dev :=
  let x := d.fab.disc
  if !x.active || !x.hasCoord || d.frm.origin || primaryOf d.portUp x.coord x.shape ≠ some p then d
  else
    let d := if x.testNum < num + 1 then
        (d.setDisc { x with testNum := num + 1 }).floodTick num true (acc + delay) (some p) else d
    (d.setDisc { d.fab.disc with testLat := some acc }).tryCensus

/-- DISC_TEST_TICK (R314): during discovery the origin emits a TEST tick. -/
def execDiscTestTick (s : State) : Host.Outcome State Fault Refusal :=
  s.run fun d =>
    let x := d.fab.disc
    if d.frm.origin && x.active && x.hasCoord then
      (d.setDisc { x with testNum := x.testNum + 1 }).floodTick x.testNum true 0 none
    else d

/-- DONE arrives on port `p`: passed on, and applied once. -/
def Dev.doneIn (d : Dev) (p : Nat) (m : Msg) : Dev :=
  if d.frm.origin || d.fab.disc.done || !d.fab.disc.active then d
  else
    let d := ports.foldl (fun d q => if d.portUp q && q != p then
      d.tx q MT.done (msgBytes MT.done m.flags.toNat 0 m.src.toNat (m.hops.toNat + 1) m.ecrc.toNat m.body) else d) d
    d.applyDone (rdLe m.body 0 1) (rdLe m.body 1 1) (rdLe m.body 2 2) (rdLe m.body 4 4)

end Sys2Proof.Machine
end

