-- ==== Sys2Proof/Machine/Reduction.lean ====
section
/-!
DEFINITION. Gradient reduction (R247 to R264): packets, the tasks RS, AG, PRE_X, NOTICE, REPLAY and FETCH, the arrival of their
packets and the deadline; and the ready token and result (R265 to R268). A task row does one item, where the packet it needs is
in or its deadline has passed; an arriving packet lets a waiting task do its next item.
-/

namespace Sys2Proof.Machine

/-! ### Packets (Table 10.1) -/

structure Pkt where
  epoch : Nat
  bucket : Nat
  packet : Nat
  hop : Nat
  flags : Nat
  need : List Nat
  bflag : List Nat
  lane : List Byte
  deriving DecidableEq, Repr

def parsePkt (b : List Byte) : Pkt :=
  ⟨rdLe b 0 8, rdLe b 8 4, rdLe b 12 2, rdLe b 14 1, rdLe b 15 1, (List.range 32).map fun k => rdLe b (0x40 + k) 1,
    (List.range 32).map fun k => rdLe b (0x60 + k) 1, (b.drop 0x80).take 4096⟩

def Pkt.bytes (p : Pkt) : List Byte :=
  natLe 8 p.epoch ++ natLe 4 p.bucket ++ natLe 2 p.packet ++ natLe 1 p.hop ++ natLe 1 p.flags ++ List.replicate 48 0 ++
    p.need.flatMap (natLe 1) ++ p.bflag.flatMap (natLe 1) ++ p.lane

def Pkt.late (p : Pkt) : Bool := bit p.flags 1
def Pkt.kind (p : Pkt) : Nat := bits p.flags 6 4

/-- A packet of zeros: what a chain starts from, and what stands in for an absent packet (R255, R261). -/
def zeroPkt (epoch bucket packet hop kind : Nat) : Pkt :=
  ⟨epoch, bucket, packet, hop, kind * 16, List.replicate 32 0, List.replicate 32 0, List.replicate 4096 0⟩

/-- FLAGS of a packet from its parts. -/
def pktFlags (replay late fault nonfin : Bool) (kind : Nat) : Nat :=
  replay.toNat + 2 * late.toNat + 4 * fault.toNat + 8 * nonfin.toNat + 16 * kind

/-! ### Descriptors (Table 10.3) -/

structure RedDesc where
  op : Nat
  axis : Nat
  flags : Nat
  bucket : Nat
  packets : Nat
  layer : Nat
  rsv : Nat
  lanes : Nat
  ownx : Nat
  faults : Nat
  result : Nat
  source : Nat
  countAddr : Nat
  deriving DecidableEq, Repr

def parseRed (b : List Byte) : RedDesc :=
  ⟨rdLe b 0 2, rdLe b 2 1, rdLe b 3 1, rdLe b 4 4, rdLe b 8 4, rdLe b 12 2, rdLe b 14 2, rdLe b 0x10 8, rdLe b 0x18 8,
    rdLe b 0x20 8, rdLe b 0x28 8, rdLe b 0x30 8, rdLe b 0x38 8⟩

def RedDesc.first (x : RedDesc) : Bool := bit x.flags 0
def RedDesc.last (x : RedDesc) : Bool := bit x.flags 1

/-- Packets of a bucket under a task: two in a PRE_X exchange, 256 otherwise. -/
def RedDesc.perBucket (x : RedDesc) : Nat := if x.op = 0x92 then 2 else 256

/-- The tag of a task's packets. -/
def redTag (op : Nat) : Nat := match op with
  | 0x90 => 0
  | 0x91 => 1
  | 0x92 => 2
  | 0x93 => 3
  | 0x94 => 4
  | _ => 5

def redKey : Nat := unitKey 4 0 0

/-- Base of bucket `b` in the scale state region (R253), and its three arrays. -/
def Dev.scaleBase (d : Dev) (b : Nat) : Nat := d.fld Reg.RED_SCALE_BASE_ADDR * 64 + 24576 * b
def Dev.storeAt (d : Dev) (b blk : Nat) : Nat := d.scaleBase b + blk
def Dev.pendingAt (d : Dev) (b blk : Nat) : Nat := d.scaleBase b + 8192 + blk
def Dev.agreedAt (d : Dev) (b blk : Nat) : Nat := d.scaleBase b + 16384 + blk

def Dev.preMode (d : Dev) : Bool := d.fld Reg.RED_SCALE_CFG_MODE == 1

/-- A bucket of an axis as one number. -/
def axisKey (axis b : Nat) : Nat := axis * 65536 + b

/-- Ring position and size on an axis (R247). -/
def Dev.ringPos (d : Dev) (axis : Nat) : Nat := at_ d.coord axis
def Dev.ringSize (d : Dev) (axis : Nat) : Nat := at_ d.shape axis

/-- R257: the check at slot start; `items` are the planned items. -/
def RedDesc.ok (x : RedDesc) (d : Dev) : Bool :=
  0x90 ≤ x.op && x.op ≤ 0x95 && x.axis ≤ 3 && x.flags < 8 && x.rsv == 0 && (x.op == 0x95 || x.layer == 0) &&
  1 < d.ringSize x.axis &&
  [x.lanes, x.ownx, x.faults, x.result, x.source].all (· % 64 == 0) && x.countAddr % 8 == 0 &&
  (x.op == 0x94 || x.source == 0) && !(x.op != 0x94 && x.first && x.last) &&
  x.bucket < d.fld Reg.RED_SCALE_BASE_BUCKETS &&
  (if x.op = 0x93 then true
    else if x.op = 0x94 then x.packets ≤ 256 && x.packets != 0
    else x.bucket + ceilDiv x.packets x.perBucket ≤ d.fld Reg.RED_SCALE_BASE_BUCKETS)

/-- The RED task in hand with op `op`, where it may do a further item. -/
def Dev.redTask (d : Dev) (op : Nat) : Option Running :=
  match d.running? redKey with
  | some r => if (parseRed r.desc).op = op && !r.failed && !r.idle && !d.frm.frozen && r.done < r.total then some r else none
  | none => none

def Dev.redDone (d : Dev) : Dev := d.onRunning redKey fun r => { r with done := min r.total (r.done + 1) }
def Dev.setRed (d : Dev) (f : Red → Red) : Dev := { d with red := f d.red }

/-- Send a packet to the next position of the ring (R247), on the port that the routing procedure chooses with member 0. -/
def Dev.sendPkt (d : Dev) (axis : Nat) (p : Pkt) : Dev :=
  let n := d.ringSize axis
  let c := d.coord.set axis ((d.ringPos axis + 1) % n)
  let dst := addrOf c d.shape
  d.txRouted (d.routePort dst 2 0) MT.reduce dst p.late
    (natLe 1 (d.fld Reg.RED_STEP_STATE_REPEATS) ++ List.replicate 7 0 ++ p.bytes)

/-! ### Packets in and packets absent (R261) -/

/-- The arrived packet that an item needs; `tag` is that of the inbox. -/
def Dev.takePkt (d : Dev) (tag bucket packet : Nat) (hop : Option Nat) : Option (Nat × Pkt × Dev) :=
  let good := fun (x : Nat × Nat × List Byte) =>
    x.1 == tag && rdLe x.2.2 8 4 == bucket && rdLe x.2.2 12 2 == packet &&
      (match hop with | none => true | some h => rdLe x.2.2 14 1 == h)
  match d.red.inbox.find? good with
  | none => none
  | some x => some (x.2.1, parsePkt x.2.2, d.setRed fun r => { r with inbox := r.inbox.erase x })

/-- A consumed packet's sample for monitor 129: arrival minus deadline, in quanta (R435). -/
def Dev.arrival (d : Dev) (t : Nat) : Dev :=
  d.monSample 129 (((t : Int) - (d.frm.frameStart : Int)) / 100 - (d.fld Reg.RED_SLACK_SLACK : Int))

/-- R261: the engine proceeds without a packet; one that has come since its deadline is late, not missing. -/
def Dev.missing (d : Dev) (tag bucket packet : Nat) : Dev :=
  let d := (d.bump Cnt.RED_MISSING_CNT).onRunning redKey fun r => { r with late := true }
  let k := (tag, bucket, packet)
  let came := d.red.lateIn.contains k
  if d.frm.tokenFormed then
    { d with frm := { d.frm with nextOk := false },
             red := { d.red with absentNext := if came then d.red.absentNext else k :: d.red.absentNext, hadAbsentNext := true } }
  else { d with frm := { d.frm with ok := false },
                red := { d.red with absent := if came then d.red.absent else k :: d.red.absent, hadAbsent := true } }

/-- The device's own reasons: LATE where every absent packet and awaited barge has arrived since, MISSING
otherwise (R261, R283). -/
def Dev.ownReasons (d : Dev) : Nat :=
  let r := if d.red.hadAbsent then setBit d.frm.reasons (if d.red.absent.isEmpty then Reason.late else Reason.missing)
    else d.frm.reasons
  if d.pnd.hadAwaited then setBit r (if d.pnd.awaited.isEmpty then Reason.late else Reason.missing) else r

/-- An incoming packet for an item: `some` with it (or with zeros once the deadline has passed), or none while it is awaited. -/
def Dev.incoming (d : Dev) (tag bucket packet kind hop : Nat) (which : Option Nat) : Option (Bool × Pkt × Dev) :=
  match d.takePkt tag bucket packet which with
  | some (t, p, d) => some (true, p, d.arrival t)
  | none =>
    if d.red.past then some (false, { zeroPkt d.epoch bucket packet hop kind with flags := kind * 16 + 2 }, d.missing tag bucket packet)
    else none

/-! ### RS (R255) -/

/-- Own need of a block (R255). -/
def ownNeed (fault ownx : Nat) : Nat := if fault ≠ 0 ∧ fault ≠ 0xFF then fault else ownx

/-- The tag of a task's packets in the inbox: those of each axis are kept apart. -/
def RedDesc.tag (x : RedDesc) : Nat := redTag x.op + 8 * x.axis

/-- What `forced` reads of the scale state for packet `k` of a bucket. -/
def Dev.storeReads (d : Dev) (b k : Nat) : List (Nat × Nat) := if d.preMode then [] else [(d.storeAt b (32 * k), 32)]

/-- R251: a STORE of 0 under STALE forces the FAULT bit. -/
def Dev.forced (d : Dev) (b blk : Nat) : Bool := !d.preMode && d.rd (d.storeAt b blk) 1 == 0

/-- Combine this device's lanes, fault bytes and needs of packet `k` of bucket `b` into an incoming packet (R255). -/
def Dev.combine (d : Dev) (inc : Pkt) (b k hop : Nat) (replay late : Bool) (lane : Nat → Nat) (fault ownx : Nat → Nat) : Pkt :=
  let own := fun j => fault j
  let bf := (List.range 32).map fun j =>
    let f := (own j ≠ 0 ∧ own j ≠ 0xFF) || d.forced b (32 * k + j)
    (inc.bflag.getD j 0) ||| ((if f then 1 else 0) + (if own j = 0xFF then 2 else 0))
  let fl := pktFlags replay (late || inc.late) (bit inc.flags 2 || bf.any (bit · 0)) (bit inc.flags 3 || bf.any (bit · 1)) 0
  { epoch := d.epoch, bucket := b, packet := k, hop := hop, flags := fl,
    need := (List.range 32).map fun j => max (inc.need.getD j 0) (ownNeed (own j) (ownx j)), bflag := bf,
    lane := (List.range 1024).flatMap fun i => natLe 4 (rdLe inc.lane (4 * i) 4 + lane i) }

/-- R258: count the device's own faulted blocks of a packet. -/
def Dev.countFaults (d : Dev) (fault : Nat → Nat) : Dev :=
  let n := ((List.range 32).filter fun j => fault j ≠ 0 ∧ fault j ≠ 0xFF).length
  if n = 0 then d else (d.bumpBy Cnt.RED_FAULT_BLK_CNT n).sticky Reg.FLT_STK0_SCALE_FAULT

/-- The blocks of a packet, by block of the bucket, whose BFLAG has NONFINITE set, as keys of `Red.nonfin`. -/
def Pkt.nonfinite (p : Pkt) (axis : Nat) : List Nat :=
  ((List.range 32).filter fun j => bit (p.bflag.getD j 0) 1).map fun j => axisKey axis p.bucket * 8192 + 32 * p.packet + j

/-- The owner's end of a chain: RESULT, PENDING and the replay list, which a NONFINITE block does not enter (R255). -/
def Dev.ownerResult (d : Dev) (axis : Nat) (p : Pkt) (result : Nat) : Dev :=
  let d := (d.write result p.lane).write (d.pendingAt p.bucket (32 * p.packet)) (p.need.flatMap (natLe 1))
  let d := d.produce redKey [(result, 4096)]
  let key := axisKey axis p.bucket
  let d := d.setRed fun r => { r with nonfin := (p.nonfinite axis ++ r.nonfin).dedup }
  if p.bflag.any fun f => bit f 0 && !bit f 1 then
    d.setRed fun r => { r with ownFaults := if r.ownFaults.contains key then r.ownFaults else key :: r.ownFaults }
  else d

/-- One item of an RS task. -/
def Dev.rs (d : Dev) : Dev :=
  match d.redTask 0x90 with
  | none => d
  | some r =>
    let x := parseRed r.desc
    let i := r.done
    let b := x.bucket + i / 256
    let k := i % 256
    let got := if x.first then some (true, zeroPkt d.epoch b k 0 0, d) else d.incoming x.tag b k 0 0 none
    match got with
    | none => d
    | some (_, inc, d) =>
      let d := d.readChecks redKey (d.storeReads b k ++ [(x.lanes + 4096 * i, 4096), (x.ownx + 32 * i, 32), (x.faults + 32 * i, 32)])
      let fault := fun j => d.rd (x.faults + 32 * i + j) 1
      let d := d.countFaults fault
      let d := if inc.late then d.onRunning redKey fun r => { r with late := true } else d
      let p := d.combine inc b k (inc.hop + 1) false (d.taskLate redKey) (fun j => d.rd (x.lanes + 4096 * i + 4 * j) 4) fault
        (fun j => d.rd (x.ownx + 32 * i + j) 1)
      let d := if x.last then d.ownerResult x.axis p (x.result + 4096 * i) else d.sendPkt x.axis p
      d.redDone

/-! ### AG and FETCH (R263, R264) -/

/-- R263, R264: an epoch mismatch. -/
def Dev.shardVer (d : Dev) : Dev := ((d.bump Cnt.RED_SHARD_VER_CNT).sticky Reg.FLT_STK0_SHARD_VER).trouble Reason.shardVer

/-- One item of an AG task. The owner, which has no incoming packet, sends; the others write and pass on. -/
def Dev.ag (d : Dev) : Dev :=
  match d.redTask 0x91 with
  | none => d
  | some r =>
    let x := parseRed r.desc
    let i := r.done
    let b := x.bucket + i / 256
    let k := i % 256
    let n := d.ringSize x.axis
    let beforeOwner := (d.ringPos x.axis + 1) % n == b % n
    if x.first || x.last then
      let d := d.readChecks redKey [(x.result + 4096 * i, 4096), (d.pendingAt b (32 * k), 32)]
      let p : Pkt := ⟨d.epoch + 1, b, k, 1, pktFlags false (d.taskLate redKey) false false 1,
        (List.range 32).map fun j => d.rd (d.pendingAt b (32 * k + j)) 1, List.replicate 32 0, d.read (x.result + 4096 * i) 4096⟩
      (d.sendPkt x.axis p).redDone
    else match d.incoming x.tag b k 1 0 none with
      | none => d
      | some (arrived, p, d) =>
        if !arrived then (d.markLate (x.lanes + 4096 * i) 4096).redDone
        else if p.epoch ≠ d.epoch + 1 then d.shardVer.redDone
        else
          let d := (d.write (x.lanes + 4096 * i) p.lane).write (d.pendingAt b (32 * k)) (p.need.flatMap (natLe 1))
          let d := if p.late then d.markLate (x.lanes + 4096 * i) 4096 else d
          (if beforeOwner then d else d.sendPkt x.axis { p with hop := p.hop + 1 }).redDone

/-- R264: a PASS = 0 fetch records the content epoch of its layer, which then must be the step's; a PASS = 1 fetch's must be the one recorded. -/
def Dev.recordEpoch (d : Dev) (x : RedDesc) (e : Nat) : Dev :=
  if bit x.flags 2 then d else d.setRed fun r => { r with fetched := (x.layer, e) :: r.fetched.filter fun q => q.1 != x.layer }

/-- R264: may a packet with content epoch `e` be taken? -/
def Dev.fetchOk (d : Dev) (x : RedDesc) (e : Nat) : Bool :=
  if bit x.flags 2 then d.red.fetched.any fun p => p.1 == x.layer && p.2 == e else e == d.epoch

/-- One item of a FETCH task. FIRST sends the layer's values, LAST takes them, the others take them and pass them on. -/
def Dev.fetch (d : Dev) : Dev :=
  match d.redTask 0x95 with
  | none => d
  | some r =>
    let x := parseRed r.desc
    let i := r.done
    let b := x.bucket + i / 256
    let k := i % 256
    if x.first then
      let d := d.readChecks redKey [(x.result + 4096 * i, 4096)]
      let p : Pkt := ⟨d.epoch, b, k, 1, pktFlags false (d.taskLate redKey) false false 1, List.replicate 32 0, List.replicate 32 0,
        d.read (x.result + 4096 * i) 4096⟩
      (d.sendPkt x.axis p).redDone
    else match d.incoming x.tag b k 1 0 none with
      | none => d
      | some (arrived, p, d) =>
        if !arrived then (d.markLate (x.lanes + 4096 * i) 4096).redDone
        else if !(d.recordEpoch x p.epoch).fetchOk x p.epoch then (d.recordEpoch x p.epoch).shardVer.redDone
        else
          let d := (d.recordEpoch x p.epoch).write (x.lanes + 4096 * i) p.lane
          let d := if p.late then d.markLate (x.lanes + 4096 * i) 4096 else d
          (if x.last then d else d.sendPkt x.axis { p with hop := p.hop + 1 }).redDone

/-! ### PRE_X (R252) -/

/-- Write one packet of a bucket's agreed array; the exchange has ended with the second packet. -/
def Dev.writeAgreed (d : Dev) (b k : Nat) (xs : List Byte) : Dev :=
  if d.preMode then
    let d := d.write (d.agreedAt b (4096 * k)) xs
    if k = 1 then d.setRed fun r => { r with agreed := if r.agreed.contains b then r.agreed else b :: r.agreed } else d
  else d

/-- The maximum of two exponent arrays, byte by byte. -/
def maxBytes (a b : List Byte) : List Byte := List.zipWith (fun x y => if x.toNat < y.toNat then y else x) a b

/-- One step of a PRE_X item: the chain of maxima toward the owner, then the distribution with HOP = n. -/
def Dev.preX (d : Dev) : Dev :=
  match d.redTask 0x92 with
  | none => d
  | some r =>
    let x := parseRed r.desc
    let i := r.done
    let b := x.bucket + i / 2
    let k := i % 2
    let n := d.ringSize x.axis
    let beforeOwner := (d.ringPos x.axis + 1) % n == b % n
    let mk := fun (d : Dev) hop late (xs : List Byte) =>
      (⟨d.epoch, b, k, hop, pktFlags false late false false 2, List.replicate 32 0, List.replicate 32 0, xs⟩ : Pkt)
    if d.red.preSent.contains (axisKey x.axis b, k) then
      match d.incoming x.tag b k 2 n (some n) with
      | none => d
      | some (arrived, p, d) =>
        let d := if arrived then d.writeAgreed b k p.lane else d
        let d := if p.late then d.markLate (d.agreedAt b (4096 * k)) 4096 else d
        (if beforeOwner || !arrived then d else d.sendPkt x.axis p).redDone
    else
      let own := fun (d : Dev) => d.read (x.ownx + 4096 * i) 4096
      let got := if x.first then some (true, mk d 0 false (List.replicate 4096 0), d) else
        match (List.range n).findSome? fun h => d.takePkt x.tag b k (some h) with
        | some (t, p, d) => some (true, p, d.arrival t)
        | none => if d.red.past then some (false, mk d 0 true (List.replicate 4096 0), d.missing x.tag b k) else none
      match got with
      | none => d
      | some (_, inc, d) =>
        let d := d.readChecks redKey [(x.ownx + 4096 * i, 4096)]
        let late := inc.late || d.taskLate redKey
        let xs := maxBytes inc.lane (own d)
        if x.last then
          let d := (d.writeAgreed b k xs).sendPkt x.axis (mk d n late xs)
          (if late then d.markLate (d.agreedAt b (4096 * k)) 4096 else d).redDone
        else (d.setRed fun r => { r with preSent := (axisKey x.axis b, k) :: r.preSent }).sendPkt x.axis (mk d (inc.hop + 1) late xs)

/-! ### NOTICE (R259) -/

/-- The buckets of an axis that a list of keys names, ascending. -/
def Dev.bucketsOf (d : Dev) (axis : Nat) (keys : List Nat) : List Nat :=
  (List.range (d.fld Reg.RED_SCALE_BASE_BUCKETS)).filter fun b => keys.contains (axisKey axis b)

/-- The faulted buckets of the axis's group that this device knows of, ascending. -/
def Dev.faulted (d : Dev) (axis : Nat) : List Nat := d.bucketsOf axis (d.red.ownFaults ++ d.red.known)

/-- Faulted owned buckets of the axis that no own notice has named yet, ascending. -/
def Dev.ownList (d : Dev) (axis : Nat) : List Nat := d.bucketsOf axis (d.red.ownFaults.filter fun k => !d.red.noticed.contains k)

/-- The buckets that the notice of ring position `q` names, once its first packet is in or sent. -/
def Dev.noticeOf (d : Dev) (q : Nat) : Option (List Nat) := (d.red.noticeMap.find? fun p => p.1 == q).map (·.2)

/-- The buckets of this device's own notice in the NOTICE task in hand. -/
def Dev.ownNamed (d : Dev) (axis : Nat) : List Nat := (d.noticeOf (d.ringPos axis)).getD (d.ownList axis)

/-- The bitmap of a list of buckets (Table 10.2). -/
def bitmap (l : List Nat) : List Byte :=
  (List.range 4096).map fun j => BitVec.ofNat 8 (((List.range 8).map fun i => if l.contains (8 * j + i) then 2 ^ i else 0).sum)

/-- The buckets of a bitmap. -/
def unbitmap (bs : List Byte) : List Nat :=
  (List.range bs.length).flatMap fun j => (List.range 8).filterMap fun i => if (bs.getD j 0).getLsbD i then some (8 * j + i) else none

/-- Packet `k` of this device's own notice. -/
def Dev.ownNotice (d : Dev) (axis k : Nat) : Pkt :=
  let l := d.ownNamed axis
  let b := l.getD ((k - 1) / 2) 0
  ⟨d.epoch, if k = 0 then 0 else b, k, 1, pktFlags false (d.taskLate redKey) false false 3, List.replicate 32 0,
    List.replicate 32 0, if k = 0 then bitmap l else d.read (d.pendingAt b (4096 * ((k - 1) % 2))) 4096⟩

/-- NEED bytes of a bucket of an axis, as noticed; `key` is its axis key. -/
def Dev.needOf (d : Dev) (key : Nat) : List Byte :=
  SMap.get (fun _ => List.replicate 8192 0) d.red.need key

def Dev.setNeed (d : Dev) (key half : Nat) (xs : List Byte) : Dev :=
  let old := d.needOf key
  let v := if half = 0 then xs ++ old.drop 4096 else old.take 4096 ++ xs
  d.setRed fun r => { r with need := SMap.set (fun _ => List.replicate 8192 0) r.need key v }

/-- Packets of the notice of ring position `q` expected after those that are in or given up: none once it is whole. -/
def Dev.noticeNext (d : Dev) (q : Nat) : Option Nat :=
  let mine := d.red.noticeIn.filter fun p => p.1 == q
  let n := match d.noticeOf q with
    | some l => 1 + 2 * l.length
    | none => 1
  (List.range n).find? fun k => !mine.any fun p => p.2 == k

/-- Take a notice packet of position `q` that has made `hop` hops, and send it on until it has made n − 1. -/
def Dev.takeNotice (d : Dev) (axis q : Nat) (p : Pkt) : Dev :=
  let d := d.setRed fun r => { r with noticeIn := (q, p.packet) :: r.noticeIn }
  let d := if p.packet = 0 then
      let l := unbitmap p.lane
      d.setRed fun r => { r with noticeMap := (q, l) :: r.noticeMap, known := (l.map (axisKey axis) ++ r.known).dedup }
    else match d.noticeOf q with
      | some l => d.setNeed (axisKey axis (l.getD ((p.packet - 1) / 2) 0)) ((p.packet - 1) % 2) p.lane
      | none => d
  let d := if p.late then d.onRunning redKey fun r => { r with late := true } else d
  if p.hop + 1 < d.ringSize axis then d.sendPkt axis { p with hop := p.hop + 1 } else d

/-- R260: the count words of the REPLAY tasks, written after a NOTICE task: the faulted buckets that no REPLAY task has taken. -/
def Dev.writeCounts (d : Dev) : Dev :=
  let descs := ((imgSegs d.program).filter fun s => s.kind == 3 && s.cls == 4).flatMap fun s => entries 64 (imgBytes d.program s)
  descs.foldl (fun d b =>
    let x := parseRed b
    if x.op = 0x94 then
      d.wr x.countAddr 8 ((d.faulted x.axis).filter fun k => x.bucket ≤ k && !d.red.taken.contains (axisKey x.axis k)).length
    else d) d

/-- Every notice of the group is in or given up, and the own one is sent. -/
def Dev.noticeWhole (d : Dev) (axis : Nat) : Bool :=
  let n := d.ringSize axis
  decide (1 + 2 * (d.ownNamed axis).length ≤ d.red.noticeSent) &&
    (List.range n).all fun q => q == d.ringPos axis || (d.noticeNext q).isNone

/-- An item of a NOTICE task is done. With the last the count words are written; a task whose notices are whole is done. -/
def Dev.noticeItem (d : Dev) (axis : Nat) : Dev :=
  let d := if d.noticeWhole axis then d.onRunning redKey fun r => { r with done := r.total } else d.redDone
  if (d.redTask 0x93).isNone then d.writeCounts else d

/-- The own notice: its first packet fixes the buckets that it names. -/
def Dev.sendNotice (d : Dev) (axis : Nat) : Dev :=
  let k := d.red.noticeSent
  let l := d.ownNamed axis
  let b := l.getD ((k - 1) / 2) 0
  let d := if k = 0 then
      d.setRed fun r => { r with noticeMap := (d.ringPos axis, l) :: r.noticeMap, noticed := l.map (axisKey axis) ++ r.noticed }
    else d.readChecks redKey [(d.pendingAt b (4096 * ((k - 1) % 2)), 4096)]
  let p := d.ownNotice axis k
  let d := if k = 0 then d else d.setNeed (axisKey axis b) ((k - 1) % 2) p.lane
  ((d.sendPkt axis p).setRed fun r => { r with noticeSent := k + 1 }).noticeItem axis

/-- One item of a NOTICE task: a packet of the own notice, or one of another position's, or one that is absent (R261). -/
def Dev.notice (d : Dev) : Dev :=
  match d.redTask 0x93 with
  | none => d
  | some r =>
    let x := parseRed r.desc
    let n := d.ringSize x.axis
    let me := d.ringPos x.axis
    if d.red.noticeSent < 1 + 2 * (d.ownNamed x.axis).length then d.sendNotice x.axis
    else
      let others := (List.range n).filter fun q => q != me && (d.noticeNext q).isSome
      let posOf := fun (y : Nat × Nat × List Byte) => (me + n - rdLe y.2.2 14 1 % n) % n
      match d.red.inbox.find? fun y => y.1 == x.tag && others.any fun q => q == posOf y && d.noticeNext q == some (rdLe y.2.2 12 2) with
      | some y =>
        let d := (d.setRed fun r => { r with inbox := r.inbox.erase y }).arrival y.2.1
        (d.takeNotice x.axis (posOf y) (parsePkt y.2.2)).noticeItem x.axis
      | none =>
        match d.red.past, others with
        | true, q :: _ =>
          let k := (d.noticeNext q).getD 0
          ((d.missing x.tag q k).setRed fun r => { r with noticeIn := (q, k) :: r.noticeIn }).noticeItem x.axis
        | _, _ => d

/-! ### REPLAY (R259, R260) -/

/-- One packet of the bucket that a REPLAY task has in hand; the bucket is its item. A block whose own fault byte is 0xFF is not reconverted, and the owner
keeps the first result of a NONFINITE block (R255). -/
def Dev.replayRed (d : Dev) : Dev :=
  match d.redTask 0x94 with
  | none => d
  | some r =>
    let x := parseRed r.desc
    let pick := if d.red.replayPkt = 0 then (d.faulted x.axis).find? fun b => x.bucket ≤ b && !d.red.taken.contains (axisKey x.axis b)
      else d.red.taken.head?.map (· % 65536)
    match pick with
    | none => d.onRunning redKey fun r => { r with done := r.total }
    | some b =>
      let key := axisKey x.axis b
      let k := d.red.replayPkt
      let n := d.ringSize x.axis
      let pos := d.ringPos x.axis
      let owner := pos == b % n
      let first := pos == (b + 1) % n
      let o := (b - x.bucket) * 256 + k
      let got := if first then some (true, zeroPkt d.epoch b k 0 0, d) else d.incoming x.tag b k 0 0 none
      match got with
      | none => d
      | some (_, inc, d) =>
        let d := d.readChecks redKey (d.storeReads b k ++
          [(x.source + 4096 * o, 4096), (x.ownx + 32 * o, 32), (x.faults + 32 * o, 32), (d.agreedAt b (32 * k), 32)])
        let out := fun j => d.rd (x.faults + 32 * o + j) 1 == 0xFF
        let blocks := (List.range 32).map fun j =>
          let blk := 32 * k + j
          let xr := max (d.rd (d.agreedAt b blk) 1) ((d.needOf key).getD blk 0).toNat
          cvtW32 d.saturating xr ((List.range 32).map fun i => f32 (d.rd (x.source + 4096 * o + 128 * j + 4 * i) 4))
        let was := fun j => (List.range 32).map fun i => d.rd (x.lanes + 4096 * o + 128 * j + 4 * i) 4
        let lanes := (List.range 32).flatMap fun j => if out j then was j else ((blocks.map (·.lanes)).getD j []).map (unsgn 32)
        let faults := (List.range 32).map fun j => if out j then 0xFF else (blocks.map (·.fault)).getD j 0
        let d := (List.range 32).foldl (fun (d : Dev) j =>
          if out j then d else d.w32Count x.layer (faults.getD j 0) ((blocks.map (·.nsat)).getD j 0)) d
        let d := (d.write (x.lanes + 4096 * o) (lanes.flatMap (natLe 4))).write (x.faults + 32 * o) (faults.flatMap (natLe 1))
        let d := d.countFaults fun j => faults.getD j 0
        let d := if inc.late then d.onRunning redKey fun r => { r with late := true } else d
        let d := d.produce redKey [(x.lanes + 4096 * o, 4096), (x.faults + 32 * o, 32)]
        let p := d.combine inc b k (inc.hop + 1) true (d.taskLate redKey) (fun j => lanes.getD j 0) (fun j => faults.getD j 0)
          (fun j => d.rd (x.ownx + 32 * o + j) 1)
        let d := if owner then
            let keep := fun j => d.red.nonfin.contains (key * 8192 + 32 * k + j) || bit (p.bflag.getD j 0) 1
            let d := (List.range 32).foldl (fun (d : Dev) j =>
              if keep j then d
              else (d.write (x.result + 4096 * o + 128 * j) ((p.lane.drop (128 * j)).take 128)).wr (d.pendingAt b (32 * k + j)) 1 (p.need.getD j 0)) d
            let d := d.produce redKey [(x.result + 4096 * o, 4096)]
            if (List.range 32).any fun j => !keep j && bit (p.bflag.getD j 0) 0 && !d.forced b (32 * k + j) then d.trouble Reason.missing else d
          else d.sendPkt x.axis p
        let d := d.setRed fun r => { r with taken := if k = 0 then key :: r.taken else r.taken, replayPkt := k + 1 }
        if k + 1 < x.packets then d
        else
          let d := d.setRed fun r => { r with replayPkt := 0, replays := if owner then r.replays + 1 else r.replays }
          (if owner then d.bump Cnt.RED_REPLAY_CNT else d).redDone

/-! ### Arrivals and the deadline -/

/-- Does a slot of the current frame consume a packet? Such a packet is late once the frame's deadline has passed (R261). -/
def Dev.dueNow (d : Dev) (tag bucket packet : Nat) : Bool :=
  (d.slots 4 0).any fun s =>
    let x := parseRed (imgTask d.program 4 0 s.task)
    0x90 ≤ x.op && x.op ≤ 0x95 && x.tag == tag &&
      (tag % 8 == 3 || tag % 8 == 4 ||
        (x.bucket * x.perBucket ≤ bucket * x.perBucket + packet &&
          bucket * x.perBucket + packet < x.bucket * x.perBucket + x.packets))

/-- The next item of whatever RED task is in hand. -/
def Dev.redStep (d : Dev) : Dev := ((((d.rs.ag).fetch).preX).notice).replayRed

/-- The axis that a packet of address `src` came along: the one on which its sender differs from this device. -/
def Dev.srcAxis (d : Dev) (src : Nat) : Nat :=
  ((List.range 4).find? fun a => at_ (coordOf src d.shape) a != at_ d.coord a).getD 0

/-- A packet as `missing` and `lateIn` name it: a notice by its sender's ring position, any other by its bucket. -/
def Dev.pktName (d : Dev) (tag : Nat) (p : Pkt) : Nat × Nat × Nat :=
  let n := d.ringSize (tag / 8)
  (tag, if tag % 8 = 3 then (d.ringPos (tag / 8) + n - p.hop % n) % n else p.bucket, p.packet)

/-- A REDUCE message for this device, delivered at `t`: stale runs are discarded (R309), late packets are discarded and counted
(R261), others wait for their task. `tag` tells the kinds and the axes apart. -/
def Dev.redArrive (d : Dev) (tag : Nat) (m : Msg) (t : Nat) : Dev :=
  if rdLe m.body 0 1 ≠ d.fld Reg.RED_STEP_STATE_REPEATS then d.bump Cnt.FAB_STALE_CNT
  else
    let b := m.body.drop 8
    let p := parsePkt b
    let late := bit m.flags.toNat 0
    let b := if late then (b.take 15) ++ natLe 1 (p.flags ||| 2) ++ b.drop 16 else b
    let name := d.pktName tag p
    let wrong := tag % 8 ≠ 1 ∧ tag % 8 ≠ 5 ∧ p.epoch ≠ d.epoch
    if d.red.absent.contains name || d.red.absentNext.contains name then
      (d.bump Cnt.RED_LATE_PKT_CNT).setRed fun r => { r with absent := r.absent.erase name, absentNext := r.absentNext.erase name }
    else if wrong then d.bump Cnt.RED_LATE_PKT_CNT
    else if d.red.past && d.dueNow tag p.bucket p.packet then
      (d.bump Cnt.RED_LATE_PKT_CNT).setRed fun r => { r with lateIn := name :: r.lateIn }
    else (d.setRed fun r => { r with inbox := r.inbox ++ [(tag, t, b)] }).redStep

/-- A REDUCE message arrives on port `p`. -/
def Dev.reduceIn (d : Dev) (p : Nat) (tag : Nat → Nat) (m : Msg) (t : Nat) : Dev :=
  d.routed p MT.reduce (m.len == 4232) m fun d => d.redArrive (tag (rdLe m.body 23 1) + 8 * d.srcAxis m.src.toNat) m t

/-- RS (R255). -/
def execRs (e : Ecc) (s : State) : Host.Outcome State Fault Refusal := s.run fun d => (d.ecc e).rs
/-- AG (R263). -/
def execAg (e : Ecc) (s : State) : Host.Outcome State Fault Refusal := s.run fun d => (d.ecc e).ag
/-- PRE_X (R252). -/
def execPreX (e : Ecc) (s : State) : Host.Outcome State Fault Refusal := s.run fun d => (d.ecc e).preX
/-- NOTICE (R259). -/
def execNotice (e : Ecc) (s : State) : Host.Outcome State Fault Refusal := s.run fun d => (d.ecc e).notice
/-- REPLAY (R259). -/
def execReplay (e : Ecc) (s : State) : Host.Outcome State Fault Refusal := s.run fun d => (d.ecc e).replayRed
/-- FETCH (R264). -/
def execFetch (e : Ecc) (s : State) : Host.Outcome State Fault Refusal := s.run fun d => (d.ecc e).fetch

/-- REDUCE (R255): a packet of an RS or, with REPLAY set, of a REPLAY chain arrives on port `p` at `t`. -/
def execReduce (p : Fin 16) (m : Msg) (t : Nat) (s : State) : Host.Outcome State Fault Refusal :=
  s.run fun d => d.reduceIn p (fun fl => if bit fl 0 then 4 else 0) m t
/-- AG_RX (R263). -/
def execAgRx (p : Fin 16) (m : Msg) (t : Nat) (s : State) : Host.Outcome State Fault Refusal :=
  s.run fun d => d.reduceIn p (fun _ => 1) m t
/-- FETCH_RX (R264). -/
def execFetchRx (p : Fin 16) (m : Msg) (t : Nat) (s : State) : Host.Outcome State Fault Refusal :=
  s.run fun d => d.reduceIn p (fun _ => 5) m t
/-- PRE_X_RX (R252). -/
def execPreXRx (p : Fin 16) (m : Msg) (t : Nat) (s : State) : Host.Outcome State Fault Refusal :=
  s.run fun d => d.reduceIn p (fun _ => 2) m t
/-- NOTICE_RX (R259). -/
def execNoticeRx (p : Fin 16) (m : Msg) (t : Nat) (s : State) : Host.Outcome State Fault Refusal :=
  s.run fun d => d.reduceIn p (fun _ => 3) m t

/-- PACKET_DEADLINE (R261): the deadline of the current frame's packets passes, and a task that waits proceeds. -/
def execPacketDeadline (s : State) : Host.Outcome State Fault Refusal :=
  s.run fun d => (d.setRed fun r => { r with past := true }).redStep

/-! ### Tokens (R265 to R268) -/

def tokenBytes (t : Token) : List Byte :=
  natLe 8 t.epoch ++ natLe 2 t.count ++ natLe 1 t.ok.toNat ++ natLe 1 (t.reasons / 2) ++ natLe 1 t.armMin ++ natLe 1 t.armMax ++
    natLe 1 t.vote.toNat ++ natLe 1 (t.hold.toNat + 2 * t.short.toNat) ++ natLe 4 t.satcnt ++ natLe 2 t.layers ++
    natLe 1 t.repeats ++ List.replicate 41 0 ++
    t.entries.flatMap fun e => natLe 8 e.n ++ natLe 8 e.d ++ natLe 2 e.req ++ natLe 1 e.trb ++ List.replicate 5 0

/-- Parse a token. REASONS bit (c − 1) stands for reason c; the mask kept here has reason c at bit c. -/
def parseToken (b : List Byte) : Token :=
  { epoch := rdLe b 0 8, count := rdLe b 8 2, ok := rdLe b 10 1 == 1, reasons := 2 * rdLe b 11 1, armMin := rdLe b 12 1,
    armMax := rdLe b 13 1, vote := rdLe b 14 1 == 1, hold := bit (rdLe b 15 1) 0, short := bit (rdLe b 15 1) 1,
    satcnt := rdLe b 16 4, layers := rdLe b 20 2, repeats := rdLe b 22 1,
    entries := (entries 24 (b.drop 64)).map fun e => ⟨rdLe e 0 8, rdLe e 8 8, rdLe e 16 2, rdLe e 18 1⟩ }

/-- LEN of a token or result matches its LAYERS. -/
def tokenLenOk (m : Msg) : Bool := m.len.toNat == 64 + 24 * rdLe m.body 20 2

/-- Combine two payload entries (Table 10.5). -/
def TokenEntry.merge (a b : TokenEntry) : TokenEntry :=
  ⟨(a.n + b.n) % 2 ^ 64, (a.d + b.d) % 2 ^ 64, max a.req b.req, a.trb ||| b.trb⟩

def emptyEntry : TokenEntry := ⟨0, 0, 0, 0⟩

/-- Combine two tokens (Table 10.4). -/
def Token.merge (a b : Token) : Token :=
  { epoch := a.epoch, count := (a.count + b.count) % 65536, ok := a.ok && b.ok, reasons := a.reasons ||| b.reasons,
    armMin := min a.armMin b.armMin, armMax := max a.armMax b.armMax, vote := a.vote || b.vote,
    hold := a.hold || b.hold || a.epoch != b.epoch || a.layers != b.layers || a.repeats != b.repeats,
    short := a.short || b.short, satcnt := min (2 ^ 32 - 1) (a.satcnt + b.satcnt), layers := a.layers, repeats := a.repeats,
    entries := (List.range a.layers).map fun l => (a.entries.getD l emptyEntry).merge (b.entries.getD l emptyEntry) }

/-- Is the device in the token frame of a running step? -/
def Dev.tokenFrame (d : Dev) : Bool :=
  d.st == DS.running && !d.frm.frozen && d.lastFrame

/-- R282, R340: after a credit violation or an overfill the device sends no token; after a class-1 or class-3 error it sends none that it has not
yet formed. -/
def Dev.tokenBarred (d : Dev) : Bool :=
  d.frm.freezeDue == some 7 || (!d.frm.tokenFormed && (d.frm.freezeDue == some 8 || d.flt.ledgerFault))

/-- Address of the update-to-weight partial table (R239). -/
def Dev.partTable (d : Dev) : Nat := d.fld Reg.NUM_PARAM_BASE_ADDR * 64 + 0x1000

/-- EN and ED of a layer (R240). -/
def Dev.uwrExp (d : Dev) (den : Bool) (l : Nat) : Int := SMap.get (fun _ => -64) (if den then d.num.ed else d.num.en) l

/-- R240: one lane of a layer, and whether it met the limit. A sum that is not a number leaves a free value. -/
def Dev.uwrLane (d : Dev) (den : Bool) (l : Nat) : Nat × Bool × Dev :=
  let a := d.partTable + 16 * l + (if den then 8 else 0)
  let lim := 2 ^ 52 - 1
  match ep32Val (d.rd a 4) (d.rd (a + 4) 4) with
  | .fin neg m e =>
    let q := shl m (e - d.uwrExp den l)
    if neg then (0, false, d) else if lim ≤ q then (lim, true, d) else (q, false, d)
  | .inf neg => if neg then (0, false, d) else (lim, true, d)
  | .nan => let x := d.draw; (x.1 % lim, false, x.2)

/-- R240: the lanes of the held layers below LAYERS. -/
def Dev.uwrLanes (d : Dev) (ls : List Nat) : List (Nat × Nat × Nat) × Dev :=
  ls.foldl (fun (acc : List (Nat × Nat × Nat) × Dev) l =>
    let n := acc.2.uwrLane false l
    let e := n.2.2.uwrLane true l
    let hits := n.2.1.toNat + e.2.1.toNat
    let d := e.2.2.bumpBy Cnt.NUM_UWR_SAT_CNT hits
    let d := if hits = 0 then d else { d with num := { d.num with uwrSat := if d.num.uwrSat.contains l then d.num.uwrSat else l :: d.num.uwrSat } }
    (acc.1 ++ [(l, n.1, e.1)], d)) ([], d)

/-- Does a vector program store: an ST, or a CVT that may name a stored tensor? -/
def Dev.progStores (d : Dev) (x : KerDesc) : Bool :=
  (List.range ((d.progBytes (x.par 0) (mxcSize / 8) 0 0).getD 0 / 8)).any fun k =>
    let op := bits (d.rd (x.par 0 + 8 * k) 8) 63 56
    op == 0x31 || op == 0x20

/-- R265: does a task feed the token: one that writes the partial table, or a reduction whose result this device owns? What a vector program stores to is not
known before it runs; one that stores, on a cluster whose window holds the table, counts. -/
def Dev.feedsToken (d : Dev) (cls idx : Nat) (r : Running) : Bool :=
  let onTable := fun (q : Nat × Nat) => rangesOverlap q.1 q.2 d.partTable 65536
  match cls with
  | 2 =>
    let x := parseKer r.desc
    if x.op = 0x20 then onTable (mxcBase idx, mxcSize) && d.progStores x
    else if x.op = 0x10 then onTable (parseMat r.desc).cRange
    else (d.kerRanges x r.planned).2.any onTable
  | 4 => (parseRed r.desc).op == 0x94 || ((parseRed r.desc).op == 0x90 && (parseRed r.desc).last)
  | _ => false

/-- A task has begun and has not completed. -/
def Running.unfinished (r : Running) (cls : Nat) : Bool := r.begun && !r.complete && (r.failed || r.beyondItems cls || decide (r.done < r.total))

/-- R265: a task of the token frame that feeds the token has begun and has not completed: it is in hand, or its slot has ended over it. -/
def Dev.tokenWorkOpen (d : Dev) : Bool :=
  d.red.openWork || d.run.any fun q => match q.2 with
    | some r => d.feedsToken (q.1 / 65536) (q.1 / 256 % 256) r && r.unfinished (q.1 / 65536)
    | none => false

/-- R265: the device's contribution. -/
def Dev.formToken (d : Dev) : Dev :=
  let n := d.fld Reg.RED_TOKEN_CFG_LAYERS
  let held := (imgLayers d.program).map (·.layer)
  let lanes := d.uwrLanes (held.filter (· < n))
  let short := d.tokenWorkOpen
  let d := lanes.2
  let above := held.any fun l => n ≤ l
  let d := if above then d.bump Cnt.RED_TASK_ERR_CNT else d
  let g := d.num.now
  let entry := fun l =>
    if short || !held.contains l then emptyEntry
    else match lanes.1.find? fun x => x.1 == l with
      | some x => ⟨x.2.1, x.2.2, SMap.get (fun _ => 0) d.spg.request l, SMap.get (fun _ => 0) g.trouble l⟩
      | none => emptyEntry
  let rs := if short then setBit d.ownReasons Reason.missing else d.ownReasons
  let t : Token :=
    { epoch := d.epoch, count := 1, ok := d.frm.ok, reasons := rs, armMin := d.armed, armMax := d.armed, vote := g.vote,
      hold := above || d.red.holdNext, short := short, satcnt := g.sat, layers := n,
      repeats := d.fld Reg.RED_STEP_STATE_REPEATS, entries := (List.range n).map entry }
  let d := if short then { d with frm := { d.frm with reasons := setBit d.frm.reasons Reason.missing } } else d
  { d with frm := { d.frm with tokenFormed := true }, red := { d.red with own := some t, holdNext := false } }

/-- The ports that lead to children. -/
def Dev.childPorts (d : Dev) : List Nat := ports.filter fun p => bit (d.fld Reg.RED_TREE_CHILDREN) p

/-- The combined token of this device and of the children that are in. A device that must send no token adds none of its own (R282). -/
def Dev.combined (d : Dev) : Option Token :=
  match (if d.tokenBarred then none else d.red.own), d.red.tokens.map (·.2) with
  | some t, l => some (l.foldl Token.merge t)
  | none, t :: l => some (l.foldl Token.merge t)
  | none, [] => none

/-- A token that no device is in: the origin's result where it has none of its own and no child's (R267). -/
def Dev.noToken (d : Dev) : Token :=
  { epoch := d.epoch, count := 0, ok := true, reasons := 0, armMin := 0xFF, armMax := 0xFF, vote := false, hold := true, short := false, satcnt := 0
    layers := d.fld Reg.RED_TOKEN_CFG_LAYERS, repeats := d.fld Reg.RED_STEP_STATE_REPEATS
    entries := List.replicate (d.fld Reg.RED_TOKEN_CFG_LAYERS) emptyEntry }

/-- Hold a result: within the token frame, with the device's own EPOCH and REPEATS (R268). -/
def Dev.holdResult (d : Dev) (t : Token) : Dev :=
  if d.tokenFrame && t.epoch == d.epoch && t.repeats == d.fld Reg.RED_STEP_STATE_REPEATS then
    { d with red := { d.red with result := some t } }
  else d.bump Cnt.RED_TOKEN_LATE_CNT

/-- R267: the origin decides and sends the result; a short COUNT sets HOLD. -/
def Dev.decideToken (d : Dev) : Dev :=
  let t := d.combined.getD d.noToken
  let short := decide (t.count < d.fld Reg.RED_TREE_DEVICES)
  let t := { t with hold := t.hold || short }
  let d := { d with red := { d.red with sent := true, seen := (t.epoch, t.repeats) :: d.red.seen } }
  let d := if short then d.partition else d
  (ports.foldl (fun d p => if d.portUp p then d.txLocal p MT.result (tokenBytes t) else d) d).holdResult t

/-- R266: send the combined token to the parent, or decide at the origin. A device that must send no token, or has formed none, sends nothing (R282). -/
def Dev.forwardToken (d : Dev) : Dev :=
  if d.frm.origin then d.decideToken
  else
    let d := { d with red := { d.red with sent := true } }
    match (if d.red.own.isNone || d.tokenBarred then none else d.combined) with
    | none => d
    | some t => if d.fld Reg.RED_TREE_UP_PORT = 0xFF then d else d.txLocal (d.fld Reg.RED_TREE_UP_PORT) MT.token (tokenBytes t)

/-- R266, R267: forward once the own contribution and those of all children are in; the origin decides when COUNT is full. -/
def Dev.tryToken (d : Dev) : Dev :=
  if d.red.sent || d.red.own.isNone || d.tokenBarred then d
  else
    let count := match d.combined with | some t => t.count | none => 0
    let allIn := d.childPorts.all fun p => d.red.tokens.any fun q => q.1 == p
    if d.frm.origin then (if d.fld Reg.RED_TREE_DEVICES ≤ count then d.decideToken else d)
    else if allIn then d.forwardToken else d

/-- What the formation of the token reads of the partial table (R240): the entries of the held layers. -/
def Dev.tokenReads (d : Dev) : List (Nat × Nat) :=
  ((imgLayers d.program).filter fun e => e.layer < d.fld Reg.RED_TOKEN_CFG_LAYERS).map fun e => (d.partTable + 16 * e.layer, 16)

/-- TOKEN_FORM (R265); the memories report `e` while the command processor reads the partial table (R244). -/
def execTokenForm (s : State) (e : Ecc := Ecc.clean) : Host.Outcome State Fault Refusal :=
  s.run fun d =>
    let d := d.ecc e
    if d.tokenFrame && !d.frm.tokenFormed && !d.tokenBarred then (d.readStep d.tokenReads).formToken.tryToken else d

/-- A child's TOKEN on port `p` (R266). -/
def Dev.tokenIn (d : Dev) (p : Nat) (m : Msg) : Dev :=
  if d.red.sent || !d.tokenFrame then d.bump Cnt.RED_TOKEN_LATE_CNT
  else
    let rest := d.red.tokens.filter fun q => q.1 != p
    (d.setRed fun r => { r with tokens := rest ++ [(p, parseToken m.body)] }).tryToken

/-- TOKEN (R266). -/
def execToken (p : Fin 16) (m : Msg) (s : State) : Host.Outcome State Fault Refusal :=
  s.run fun d => d.localMsg p MT.token (tokenLenOk m) m fun d => d.tokenIn p m

/-- TOKEN_FORWARD_DEADLINE (R266). -/
def execTokenForwardDeadline (s : State) : Host.Outcome State Fault Refusal :=
  s.run fun d => if d.tokenFrame && !d.red.sent && !d.frm.origin then d.forwardToken else d

/-- TOKEN_DECIDE_DEADLINE (R267). -/
def execTokenDecideDeadline (s : State) : Host.Outcome State Fault Refusal :=
  s.run fun d => if d.tokenFrame && !d.red.sent && d.frm.origin then d.decideToken else d

/-- A copy of a result that has been flooded (R267): one of this run, or, outside the token frame, one of the run before it. -/
def Dev.seenResult (d : Dev) (t : Token) : Bool :=
  d.red.seen.contains (t.epoch, t.repeats) || (!d.tokenFrame && d.red.lastSeen.contains (t.epoch, t.repeats))

/-- RESULT on port `p` (R267, R268): forwarded once, held where it fits. -/
def Dev.resultIn (d : Dev) (p : Nat) (m : Msg) : Dev :=
  let t := parseToken m.body
  if d.seenResult t then d
  else
    let d := { d with red := { d.red with seen := (t.epoch, t.repeats) :: d.red.seen } }
    let d := ports.foldl (fun d q => if d.portUp q && q != p then
      d.tx q MT.result (msgBytes MT.result m.flags.toNat 0 m.src.toNat (m.hops.toNat + 1) m.ecrc.toNat m.body) else d) d
    d.holdResult t

/-- RESULT (R268). -/
def execResult (p : Fin 16) (m : Msg) (s : State) : Host.Outcome State Fault Refusal :=
  s.run fun d => d.localMsg p MT.result (tokenLenOk m) m fun d => d.resultIn p m

end Sys2Proof.Machine
end

