-- ==== Sys2Proof/Machine/Pounds.lean ====
section
/-!
DEFINITION. Pounds, barges and pound credits (R275 to R284), host transfers (R286) and the permute (R288, R289). SEND,
HOST_PUT, HOST_GET, HOST_XFER_COMPLETION, POUND_RELEASE, CREDIT, and the operations behind BARGE and PERM_ACK.
-/

namespace Sys2Proof.Machine

/-- A POUND entry (Table 11.1). -/
structure PoundEntry where
  pound : Nat
  dir : Nat
  kind : Nat
  nbuf : Nat
  peer : Nat
  bytes : Nat
  addr : Nat
  rel : Nat
  rsv : Nat
  deriving DecidableEq, Repr

def parsePound (e : List Byte) : PoundEntry :=
  ⟨rdLe e 0 2, rdLe e 2 1, rdLe e 3 1, rdLe e 4 1, rdLe e 8 4, rdLe e 12 4, rdLe e 0x10 8, rdLe e 0x18 2, rdLe e 5 3 + rdLe e 0x1A 6⟩

def imgPounds (i : List Byte) : List PoundEntry := (imgEntries i 5).map parsePound
def imgRx (i : List Byte) : List PoundEntry := (imgPounds i).filter fun e => e.dir == 0
def imgTx (i : List Byte) : List PoundEntry := (imgPounds i).filter fun e => e.dir == 1

/-- R276: one entry's ranges. -/
def PoundEntry.ok (e : PoundEntry) : Bool :=
  e.pound ≤ 1023 && e.dir ≤ 1 && e.kind ≤ 3 && 1 ≤ e.nbuf && e.nbuf ≤ 16 && (e.kind != 3 || e.nbuf == 1) && e.rsv == 0 &&
  e.bytes != 0 && e.bytes % 64 == 0 && (if e.dir = 0 then e.addr % 64 == 0 else e.addr == 0) &&
  (if e.dir = 0 ∧ e.kind ≠ 3 then e.rel != 0 else e.rel == 0)

def PoundEntry.span (e : PoundEntry) : Nat := if e.kind = 3 then e.bytes else e.nbuf * e.bytes

/-- R276: the POUND segment of an image. -/
def poundsOk (i : List Byte) : Bool :=
  (imgPounds i).all PoundEntry.ok &&
  pairwiseOk (fun a b => a.pound != b.pound && !rangesOverlap a.addr a.span b.addr b.span) (imgRx i) &&
  pairwiseOk (fun a b => !(a.pound == b.pound && a.peer == b.peer)) (imgTx i)

def freshRx : RxPound := ⟨0, [], none, 0⟩

def Dev.rxEntry (d : Dev) (k : Nat) : Option PoundEntry := (imgRx d.program).find? fun e => e.pound == k
def Dev.rx (d : Dev) (k : Nat) : RxPound := (SMap.get (fun _ => none) d.pnd.rx k).getD freshRx
def Dev.setPnd (d : Dev) (f : Pnd → Pnd) : Dev := { d with pnd := f d.pnd }
def Dev.setRx (d : Dev) (k : Nat) (r : RxPound) : Dev :=
  d.setPnd fun p => { p with rx := SMap.set (fun _ => none) p.rx k (if r = freshRx then none else some r) }

/-- The TX entry of a destination and pound, with its place among the TX entries. -/
def Dev.txEntry (d : Dev) (pound peer : Nat) : Option (Nat × PoundEntry) :=
  let l := imgTx d.program
  (l.findIdx? fun e => e.pound == pound && e.peer == peer).bind fun k => (l[k]?).map fun e => (k, e)

def Dev.txPound (d : Dev) (k : Nat) (e : PoundEntry) : TxPound := (SMap.get (fun _ => none) d.pnd.tx k).getD ⟨e.nbuf, 0, 0⟩
def Dev.setTx (d : Dev) (k : Nat) (t : TxPound) : Dev :=
  d.setPnd fun p => { p with tx := SMap.set (fun _ => none) p.tx k (some t) }

/-- R277: every buffer EMPTY, every credit count NBUF, every sequence count 0. -/
def Dev.resetPounds (d : Dev) : Dev :=
  d.setPnd fun p => { p with rx := [], tx := [], sending := [], awaited := [], hadAwaited := false, awaitedNext := [], hadAwaitedNext := false, refused := [] }

/-- R282: a credit violation (cause 1) or an overfill (cause 2). -/
def Dev.poundHalt (d : Dev) (cause pound : Nat) : Dev :=
  let d := (d.bump (if cause = 1 then Cnt.PND_CREDIT_VIOL_CNT else Cnt.PND_OVERFILL_CNT)).sticky Reg.FLT_STK0_POUND_CREDIT
  let d := (d.setFld Reg.PND_STATUS_CAUSE cause).setFld Reg.PND_STATUS_POUND pound
  { d with frm := { d.frm with ok := false } }.freeze 7

/-- The coordinate word of an address (one byte per axis, P lowest), as in a PEER or DEST field. -/
def Dev.coordWord (d : Dev) (a : Nat) : Nat := unquad (coordOf a d.shape)
def Dev.addrOfWord (d : Dev) (w : Nat) : Nat := addrOf (quad w) d.shape

/-! ### SEND (R278, R281) -/

/-- A barge descriptor (Table 11.3). -/
structure BargeDesc where
  kind : Nat
  pound : Nat
  dest : Nat
  src : Nat
  len : Nat
  layer : Nat
  chunk : Nat
  mb : Nat
  off : Nat
  rsv : Nat
  deriving DecidableEq, Repr

def parseBarge (e : List Byte) : BargeDesc :=
  ⟨rdLe e 0 1, rdLe e 2 2, rdLe e 4 4, rdLe e 8 8, rdLe e 0x10 4, rdLe e 0x14 2, rdLe e 0x16 2, rdLe e 0x18 4, rdLe e 0x20 8,
    rdLe e 1 1 + rdLe e 0x1C 4 + rdLe e 0x28 24⟩

structure SendDesc where
  op : Nat
  first : Nat
  count : Nat
  rsv : Nat
  countAddr : Nat
  deriving DecidableEq, Repr

def parseSend (b : List Byte) : SendDesc := ⟨rdLe b 0 2, rdLe b 4 4, rdLe b 8 4, rdLe b 2 2 + rdLe b 0xC 44, rdLe b 0x38 8⟩

/-- The barge descriptors that a SEND descriptor names. -/
def Dev.barges (d : Dev) (x : SendDesc) : List BargeDesc := (((imgEntries d.program 4).drop x.first).take x.count).map parseBarge

/-- MEM_POLICY of a layer; 0 where the device does not hold it. -/
def Dev.memPolicy (d : Dev) (l : Nat) : Nat := match d.layerEntry l with | some e => e.memPolicy | none => 0

def bargeItems (b : BargeDesc) : Nat := ceilDiv b.len 4096

/-- R278: the port's check of both descriptors at slot start. -/
def Dev.sendOk (d : Dev) (x : SendDesc) (dataDep : Bool) : Bool :=
  let l := d.barges x
  x.op == 0xB0 && x.rsv == 0 && 1 ≤ x.count && x.count ≤ 65535 && l.length == x.count && (dataDep || x.countAddr == 0) &&
  l.all fun b =>
    b.kind ≤ 5 && b.rsv == 0 && b.len != 0 && b.len % 64 == 0 && b.layer ≤ 4095 && b.src % 64 == 0 && d.mapped b.src b.len &&
    b.off % 64 == 0 && (b.kind == 5 || b.off == 0) && (b.kind != 5 || d.memPolicy b.layer == 2) &&
    match d.txEntry b.pound b.dest with
    | some e => b.len ≤ e.2.bytes
    | none => false

def portKey (p : Nat) : Nat := unitKey 5 p 0

def freshSend : SendPos := ⟨0, 0, false, false, false⟩
def Dev.sendPos (d : Dev) (p : Nat) : SendPos := (SMap.get (fun _ => none) d.pnd.sending p).getD freshSend
def Dev.setSend (d : Dev) (p : Nat) (x : SendPos) : Dev :=
  d.setPnd fun q => { q with sending := SMap.set (fun _ => none) q.sending p (if x = freshSend then none else some x) }

/-- The barge header of Table 12.8. -/
def bargeHead (kind run pound layer chunk mb seq epoch len segOff off move : Nat) : List Byte :=
  natLe 1 kind ++ natLe 1 run ++ natLe 2 pound ++ natLe 2 layer ++ natLe 2 chunk ++ natLe 4 mb ++ natLe 4 seq ++ natLe 8 epoch ++
    natLe 4 len ++ natLe 4 segOff ++ natLe 8 off ++ natLe 4 move ++ List.replicate 20 0

/-- One item of 4 KiB of the barge in hand on port `p`; a segment leaves with its last item. -/
def Dev.sendItem (d : Dev) (p : Nat) : Dev :=
  match d.running? (portKey p) with
  | none => d
  | some r =>
    if r.failed || r.idle || d.frm.frozen || r.total ≤ r.done then d
    else
      let l := d.barges (parseSend r.desc)
      let q := d.sendPos p
      match l[q.barge]? with
      | none => d
      | some b => match d.txEntry b.pound b.dest with
        | none => d
        | some (k, e) =>
          let t := d.txPound k e
          -- R281: one credit before the first byte of a barge other than STORE.
          if b.kind ≠ 5 ∧ !q.credit ∧ t.credits = 0 then d.setSend p { q with waited := true }
          else
            let d := if b.kind ≠ 5 ∧ !q.credit then
                (if q.waited then d.bump Cnt.PND_CREDIT_WAIT_CNT else d).setTx k { t with credits := t.credits - 1 } else d
            let q := { q with credit := q.credit || b.kind != 5, waited := false }
            let t := d.txPound k e
            -- The items that the count word leaves cut the barge short.
            let len := min b.len (q.off + 4096 * (r.total - r.done))
            let stop := min len (q.off + 4096)
            let seg := q.off / 65536 * 65536
            let ends := stop == len || stop % 65536 == 0
            let d := d.readChecks (portKey p) [(b.src + q.off, stop - q.off)]
            let seq := if q.left then t.sent - 1 else t.sent
            -- R49: a barge built from a buffer with late bytes is late as a whole.
            let late := d.taskLate (portKey p) || d.isLate b.src b.len
            let d := if ends then
                let head := bargeHead b.kind (d.fld Reg.RED_STEP_STATE_REPEATS) b.pound b.layer b.chunk b.mb seq d.epoch len seg b.off 0
                let d := d.txRouted p MT.barge (d.addrOfWord b.dest) late (head ++ d.read (b.src + seg) (stop - seg))
                if q.left then d else d.setTx k { t with sent := t.sent + 1 }
              else d
            let d := if stop = len then (d.bump Cnt.PND_BARGE_TX_CNT).setSend p { freshSend with barge := q.barge + 1 }
              else d.setSend p { q with off := stop, left := q.left || ends }
            d.onRunning (portKey p) fun r => { r with done := r.done + 1 }

/-- SEND (R278): up to `n` further items on port `p`. -/
def execSend (p : Fin 16) (n : Nat) (e : Ecc) (s : State) : Host.Outcome State Fault Refusal :=
  s.run fun d => (List.range n).foldl (fun d _ => d.sendItem p) (d.ecc e)

/-- The SEND slot of port `p` ends with its task unfinished (R281): a credit taken is given back; a barge that still waits for one
is a credit violation. -/
def Dev.sendStop (d : Dev) (p : Nat) (r : Running) : Dev :=
  let q := d.sendPos p
  let d := match (d.barges (parseSend r.desc))[q.barge]? with
    | none => d
    | some b => match d.txEntry b.pound b.dest with
      | none => d
      | some (k, e) =>
        let t := d.txPound k e
        if q.credit then d.setTx k { t with credits := min e.nbuf (t.credits + 1) }
        else if b.kind ≠ 5 ∧ t.credits = 0 ∧ q.waited then d.poundHalt 1 b.pound
        else d
  d.setSend p freshSend

/-! ### Receiving (R279, R307) -/

/-- R279: does a barge kind suit a pound kind? -/
def kindSuits (barge pound : Nat) : Bool :=
  match barge with
  | 0 => pound == 0
  | 1 => pound == 0
  | 2 => pound == 1
  | 3 => pound == 1
  | 4 => pound == 2
  | 5 => pound == 3
  | _ => false

/-- Write a segment of the barge in hand; its last byte fills the buffer. -/
def Dev.bargeWrite (d : Dev) (e : PoundEntry) (c : BargeIn) (store : Bool) (off : Nat) (data : List Byte) (late : Bool) : Dev :=
  let buf := c.seq % e.nbuf
  let base := if store then e.addr + off else e.addr + buf * e.bytes
  let d := d.write (base + c.got) data
  let c := { c with got := c.got + data.length, late := c.late || late }
  let d := if late then d.markLate (if store then base else e.addr + buf * e.bytes) (if store then c.len else e.bytes) else d
  let r := d.rx e.pound
  if c.got < c.len then d.setRx e.pound { r with cur := some c }
  else
    let d := d.bump Cnt.PND_BARGE_RX_CNT
    if store then d.setRx e.pound { r with cur := none }
    else
      let d := d.setRx e.pound { r with cur := none, filled := (buf, d.fld Reg.FRM_STEP_POS_FRAME) :: r.filled }
      d.setPnd fun p =>
        { p with awaited := p.awaited.filter (· != (e.pound, buf)), awaitedNext := p.awaitedNext.filter (· != (e.pound, buf)) }

/-- A barge is discarded: the rest of its segments is known by sender, pound and sequence count. -/
def Dev.refuse (d : Dev) (src pound seq : Nat) : Dev := d.setPnd fun p => { p with refused := ((src, pound, seq) :: p.refused).dedup }

/-- The first segment of a barge: accepted, or discarded and counted once (R279, R281). -/
def Dev.bargeFirst (d : Dev) (src : Nat) (late : Bool) (h data : List Byte) : Dev :=
  let kind := rdLe h 0 1
  let pound := rdLe h 2 2
  let seq := rdLe h 0xC 4
  let len := rdLe h 0x18 4
  let off := rdLe h 0x20 8
  let store := kind == 5
  match d.rxEntry pound with
  | none => (d.refuse src pound seq).bump Cnt.PND_SEQ_ERR_CNT
  | some e =>
    let r := d.rx pound
    if e.peer ≠ d.coordWord src || !kindSuits kind e.kind || (!store && seq ≠ r.expected) || len < data.length then
      (d.refuse src pound seq).bump Cnt.PND_SEQ_ERR_CNT
    else if (if store then decide (e.bytes < off + len) else (decide (e.bytes < len) || r.filled.any fun f => f.1 == seq % e.nbuf)) then
      (d.refuse src pound seq).poundHalt 2 pound
    else
      let d := if store then d else d.setRx pound { r with expected := (r.expected + 1) % 2 ^ 32 }
      d.bargeWrite e ⟨seq, 0, len, false⟩ store off data late

/-- A BARGE segment for this device, other than a permute's. A segment of another epoch or run is discarded, and its barge counts with the first. -/
def Dev.bargeIn (d : Dev) (src : Nat) (late : Bool) (h data : List Byte) : Dev :=
  let pound := rdLe h 2 2
  let seq := rdLe h 0xC 4
  let segOff := rdLe h 0x1C 4
  let n := data.length
  if rdLe h 0x10 8 ≠ d.epoch ∨ rdLe h 1 1 ≠ d.fld Reg.RED_STEP_STATE_REPEATS then
    if segOff = 0 then d.bump Cnt.PND_STALE_CNT else d
  else if segOff = 0 then d.bargeFirst src late h data
  else if d.pnd.refused.contains (src, pound, seq) then d
  else
    let bad := fun (d : Dev) => (d.refuse src pound seq).bump Cnt.PND_SEQ_ERR_CNT
    match d.rxEntry pound, (d.rx pound).cur with
    | some e, some c =>
      if c.seq ≠ seq ∨ e.peer ≠ d.coordWord src then bad d
      else if c.got ≠ segOff ∨ c.len < segOff + n then bad (d.setRx pound { d.rx pound with cur := none })
      else d.bargeWrite e c (rdLe h 0 1 == 5) (rdLe h 0x20 8) data late
    | _, _ => bad d

/-! ### Release and credits (R280, R308) -/

/-- A CREDIT for this device (R281, R308). -/
def Dev.creditIn (d : Dev) (src : Nat) (body : List Byte) : Dev :=
  let released := rdLe body 4 4
  if rdLe body 8 8 ≠ d.epoch ∨ rdLe body 2 1 ≠ d.fld Reg.RED_STEP_STATE_REPEATS then d.bump Cnt.FAB_STALE_CNT
  else match d.txEntry (rdLe body 0 2) (d.coordWord src) with
    | none => d.bump Cnt.PND_CREDIT_EXCESS_CNT
    | some (k, e) =>
      let t := d.txPound k e
      if released ≤ t.released then d
      else
        let c := t.credits + (released - t.released)
        let d := if e.nbuf < c then d.bump Cnt.PND_CREDIT_EXCESS_CNT else d
        d.setTx k { t with credits := min e.nbuf c, released := released }

/-- Send a pound credit on every member of the first hop's axis and direction that is UP (R308). -/
def Dev.sendCredit (d : Dev) (peer pound released : Nat) : Dev :=
  let dst := d.addrOfWord peer
  let body := natLe 2 pound ++ natLe 1 (d.fld Reg.RED_STEP_STATE_REPEATS) ++ [0] ++ natLe 4 released ++ natLe 8 d.epoch
  if dst = d.ownAddr then d.creditIn dst body
  else
    let p := d.routePort dst 1 0
    let q := if p < 8 then p + 8 else p - 8
    let ups := [p, q].filter fun x => d.portUp x
    if ups.isEmpty then d.bump Cnt.FAB_DROP_CNT else ups.foldl (fun d x => d.txRouted x MT.credit dst false body) d

/-- R280: release the buffers of the active program that are due at the current frame. -/
def Dev.releaseDue (d : Dev) : Dev :=
  let f := d.fld Reg.FRM_STEP_POS_FRAME
  (imgRx d.program).foldl (fun d e =>
    if e.kind = 3 then d
    else ((d.rx e.pound).filled.filter fun x => x.2 + e.rel ≤ f).foldl (fun d x =>
      let r := d.rx e.pound
      (d.setRx e.pound { r with filled := r.filled.erase x, released := r.released + 1 }).sendCredit e.peer e.pound (r.released + 1)) d) d

/-- POUND_RELEASE (R280): at a frame_start, every buffer whose RELEASE_FRAMES have passed is released. -/
def execPoundRelease (s : State) : Host.Outcome State Fault Refusal :=
  s.run fun d => if d.st == DS.running && !d.frm.frozen then d.releaseDue else d

/-- CREDIT (R308). -/
def execCredit (p : Fin 16) (m : Msg) (s : State) : Host.Outcome State Fault Refusal :=
  s.run fun d => d.routed p MT.credit (m.len == 16) m fun d => d.creditIn m.src.toNat m.body

/-- PND_POUND_STAT (Table 11.14): SEQ, FILLED and CREDITS of the selected pound. -/
def Dev.poundStat (d : Dev) : Nat :=
  let k := d.fld Reg.PND_SEL_POUND
  if d.fld Reg.PND_SEL_DIR = 0 then
    let r := d.rx k
    r.expected % 65536 * 2 ^ 48 + ((List.range 16).map fun b => if r.filled.any (fun f => f.1 == b) then 2 ^ (32 + b) else 0).sum
  else
    let l := imgTx d.program
    match l.findIdx? fun e => e.pound == k with
    | none => 0
    | some j =>
      let t := d.txPound j (l.getD j ⟨0, 0, 0, 0, 0, 0, 0, 0, 0⟩)
      t.sent % 65536 * 2 ^ 48 + t.credits % 256 * 2 ^ 24

/-! ### Unfilled buffers (R283) -/

/-- A slot's check of the pound buffers that lie within its input ranges. -/
def Dev.poundCheck (d : Dev) (k : Nat) (ranges : List (Nat × Nat)) : Dev :=
  let empty := (imgRx d.program).flatMap fun e =>
    if e.kind = 3 then []
    else (List.range e.nbuf).filterMap fun b =>
      if ranges.any (fun r => inside (e.addr + b * e.bytes) e.bytes r.1 r.2) && !(d.rx e.pound).filled.any (fun f => f.1 == b)
      then some (e.pound, b) else none
  if empty.isEmpty then d
  else
    let d := (d.bump Cnt.PND_UNFILLED_CNT).onRunning k fun r => { r with late := true }
    if d.frm.tokenFormed then
      { d with frm := { d.frm with nextOk := false },
               pnd := { d.pnd with hadAwaitedNext := true, awaitedNext := (d.pnd.awaitedNext ++ empty).dedup } }
    else { d with frm := { d.frm with ok := false },
                  pnd := { d.pnd with hadAwaited := true, awaited := (d.pnd.awaited ++ empty).dedup } }

/-! ### Host transfers (R286) -/

def hostKey : Nat := unitKey 6 0 0

/-- The check of a HOST_PUT or HOST_GET descriptor at slot start (R285, R286). -/
def Dev.hostOk (d : Dev) (x : KerDesc) : Bool :=
  (x.op == 0xC0 || x.op == 0xC1) && x.form == 0 && x.rsv == 0 && x.par 2 % 64 == 0 && x.par 2 != 0 &&
  x.par 3 == 0 && x.par 4 == 0 && x.par 5 == 0 && d.mapped (x.par 0) (x.par 2) &&
  x.par 1 + x.par 2 ≤ 4096 * d.fld Reg.PND_HOST_SIZE_PAGES && d.memPolicy x.layer == 1

def Dev.hostTask (d : Dev) (op : Nat) : Option Running :=
  match d.running? hostKey with
  | some r => if rdLe r.desc 0 2 == op && !r.failed && !d.frm.frozen && r.done < r.total then some r else none
  | none => none

/-- Host bus address of a window offset. -/
def Dev.hostWin (d : Dev) (off : Nat) : Nat := d.fld Reg.PND_HOST_WIN_BASE * 4096 + off

/-- One item of a HOST_PUT. -/
def Dev.hostPut (d : Dev) : Dev :=
  match d.hostTask 0xC0 with
  | none => d
  | some r =>
    let x := parseKer r.desc
    let o := 4096 * r.done
    let n := min 4096 (x.par 2 - o)
    if n = 0 then d else
    let d := d.readChecks hostKey [(x.par 0 + o, n)]
    (d.emit (.hostWrite (d.hostWin (x.par 1 + o)) (d.read (x.par 0 + o) n))).onRunning hostKey fun r => { r with done := r.done + 1 }

/-- One item of a HOST_GET, whose data has arrived. -/
def Dev.hostGet (d : Dev) (data : List Byte) : Dev :=
  match d.hostTask 0xC1 with
  | none => d
  | some r =>
    let x := parseKer r.desc
    let o := 4096 * r.done
    let n := min 4096 (x.par 2 - o)
    if n = 0 then d else
    let d := (d.emit (.hostRead (d.hostWin (x.par 1 + o)) n)).write (x.par 0 + o) (data.take n)
    (d.onRunning hostKey fun r => { r with done := r.done + 1 }).produce hostKey [(x.par 0 + o, n)]

/-- A host transfer's error completion or completion timeout (R286). -/
def Dev.hostError (d : Dev) : Dev :=
  match d.running? hostKey with
  | none => d
  | some r =>
    let x := parseKer r.desc
    if x.op = 0xC0 ∨ x.op = 0xC1 then
      let d := (d.bump Cnt.PND_HOST_ERR_CNT).onRunning hostKey fun r =>
        { r with late := true, done := if x.op = 0xC1 then min r.total (r.done + 1) else r.done }
      ((if x.op = 0xC1 then d.produce hostKey [(x.par 0, x.par 2)] else d)).trouble Reason.missing
    else d

/-- HOST_PUT (R286). -/
def execHostPut (e : Ecc) (s : State) : Host.Outcome State Fault Refusal := s.run fun d => (d.ecc e).hostPut
/-- HOST_GET (R286): an item's data arrives from host memory. -/
def execHostGet (data : List Byte) (e : Ecc) (s : State) : Host.Outcome State Fault Refusal := s.run fun d => (d.ecc e).hostGet data
/-- HOST_XFER_COMPLETION (R286): with an error status, or by timeout. -/
def execHostXferCompletion (s : State) : Host.Outcome State Fault Refusal := s.run fun d => d.hostError

/-! ### Permute (R288, R289) -/

/-- PND_PERM_STATUS.STATE: 0 idle, 1 running, 2 done, 3 aborted. -/
def Dev.permState (d : Dev) : Nat := d.fld Reg.PND_PERM_STATUS_STATE

/-- The permute ends once every move is acknowledged and EXPECT_IN bytes have arrived. -/
def Dev.permCheck (d : Dev) : Dev :=
  match d.pnd.perm with
  | none => d
  | some p =>
    if p.unacked.isEmpty ∧ p.expect ≤ d.fld Reg.PND_PERM_STATUS_IN_BYTES then
      (({ d with pnd := { d.pnd with perm := none } }).setFld Reg.PND_PERM_STATUS_STATE 2).bump Cnt.PND_PERM_CNT
    else d

/-- PERM_ACK of move `k`. -/
def Dev.permAck (d : Dev) (k : Nat) : Dev :=
  match d.pnd.perm with
  | none => d
  | some p => { d with pnd := { d.pnd with perm := some { p with unacked := p.unacked.filter (· != k) } } }.permCheck

/-- A segment of an incoming move (R289, R307). -/
def Dev.permIn (d : Dev) (src : Nat) (h data : List Byte) : Dev :=
  match d.pnd.perm with
  | none => d.bump Cnt.PND_PERM_REJ_CNT
  | some p =>
    let segOff := rdLe h 0x1C 4
    let a := rdLe h 0x20 8 + segOff
    if !inside a data.length p.base p.size || !d.mapped a data.length then d.bump Cnt.PND_PERM_REJ_CNT
    else
      let d := (d.write a data).setFld Reg.PND_PERM_STATUS_IN_BYTES (d.fld Reg.PND_PERM_STATUS_IN_BYTES + data.length)
      let d := if segOff + data.length = rdLe h 0x18 4 then
          let move := rdLe h 0x28 4
          if src = d.ownAddr then d.permAck move
          else d.txRouted (d.routePort src 1 0) MT.permAck src false (natLe 4 move ++ natLe 4 0)
        else d
      d.permCheck

/-- Send one move as PERMUTE barges of 65,536 bytes. -/
def Dev.permMove (d : Dev) (j : Nat) (e : List Byte) : Dev :=
  let src := rdLe e 0 8
  let off := rdLe e 8 8
  let dst := d.addrOfWord (rdLe e 16 4)
  let len := rdLe e 20 4
  (List.range (ceilDiv len 65536)).foldl (fun d k =>
    let o := 65536 * k
    let n := min 65536 (len - o)
    let head := bargeHead 6 (d.fld Reg.RED_STEP_STATE_REPEATS) 0 0 0 0 0 0 len o off j
    let data := d.read (src + o) n
    if dst = d.ownAddr then d.permIn dst head data else d.txRouted (d.routePort dst 3 0) MT.barge dst false (head ++ data)) d

/-- The permute begins: the table at `a` has been checked. A move of no bytes has nothing to be acknowledged. -/
def Dev.permStart (d : Dev) (a : Nat) : Dev :=
  let n := d.rd a 4
  let moves := (List.range n).filter fun j => d.rd (a + 0x20 + 32 * j + 20) 4 != 0
  let d := ({ d with pnd := { d.pnd with perm := some ⟨moves, d.rd (a + 8) 8, d.rd (a + 0x10) 8, d.rd (a + 0x18) 8⟩ } }).setFld
    Reg.PND_PERM_STATUS_STATE 1
  let d := d.setFld Reg.PND_PERM_STATUS_IN_BYTES 0
  ((List.range n).foldl (fun d j => d.permMove j (d.read (a + 0x20 + 32 * j) 32)) d).permCheck

/-- R289: TMO_MS passes. -/
def Dev.permTimeout (d : Dev) : Dev :=
  match d.pnd.perm with
  | none => d
  | some _ => (({ d with pnd := { d.pnd with perm := none } }).setFld Reg.PND_PERM_STATUS_STATE 3).bump Cnt.PND_PERM_ABORT_CNT

/-- A BARGE message arrives on port `p` (R279, R307). -/
def Dev.bargeMsg (d : Dev) (p : Nat) (m : Msg) : Dev :=
  let n := m.len.toNat
  d.routed p MT.barge (72 ≤ n && n ≤ 65600 && n % 8 == 0) m fun d =>
    let h := m.body.take 64
    let data := m.body.drop 64
    if rdLe h 0 1 = 6 then d.permIn m.src.toNat h data
    else d.bargeIn m.src.toNat (m.flags.getLsbD 0) h data

end Sys2Proof.Machine
end

