-- ==== Sys2Proof/Machine/Acisk.lean ====
section
/-!
DEFINITION. What the Acisk firmware does on its mailboxes and shared rings (R374 to R376, R384 to R386). PING, SR_DOORBELL, SR_ECHO,
SR_VERSION, LOG_LEVEL, MGMT_SEND, CASK_INFO, MGMT.
-/

namespace Sys2Proof.Machine

/-- Completion status codes (Table 14.8). -/
inductive Status where
  | done | stepCommitted | stepSkipped | stepRepeated | stateReject | badArg | authFail | held | loadErr | versionRefused
  | exhausted | aborted
  deriving DecidableEq, Repr

def Status.code : Status → Nat
  | .done => 0
  | .stepCommitted => 1
  | .stepSkipped => 2
  | .stepRepeated => 3
  | .stateReject => 4
  | .badArg => 5
  | .authFail => 6
  | .held => 7
  | .loadErr => 8
  | .versionRefused => 9
  | .exhausted => 10
  | .aborted => 11

/-- MBX_STATUS.FW: an image runs while it is RUNNING, STAGING, STAGED or REFUSED. -/
def Dev.fwRuns (d : Dev) : Bool :=
  let f := d.fld Reg.MBX_STATUS_FW
  f == 1 || f == 2 || f == 3 || f == 6

/-- Acisk serves requests; in REFUSED it answers only PING (R391). -/
def Dev.fwServes (d : Dev) : Bool := d.fwRuns && d.st != DS.refused

/-! ### Messages toward a management core -/

/-- The management core at an end of channel `n`, and whether it is end B. -/
def Dev.mgmtEnd (d : Dev) (n : Nat) : Option (Nat × Bool) :=
  let b := d.binding n
  if !b.en then none else if isMgmt b.b then some (b.b, true) else if isMgmt b.a then some (b.a, false) else none

/-- A TYPE of Table 15.3 that is not reserved. -/
def typeKnown (t : Nat) : Bool := (1 ≤ t && t ≤ 4) || 0x40 ≤ t

/-- R375: a pointer form's limits. -/
def Dev.pointerOk (d : Dev) (ws : List Nat) : Bool :=
  match ws with
  | h :: a :: b :: n :: _ =>
    let addr := a + 2 ^ 32 * (b % 65536)
    msgLen h == 3 && b < 65536 && 64 ≤ n && n ≤ 1048576 && n % 64 == 0 && addr % 64 == 0 && d.mapped addr n
  | _ => false

/-- Acisk looks at the message at the front of channel `n`: one of type `want` is taken and `act` runs; a reserved type, or a pointer
form that breaks its limits, is discarded and counted (R374, R375). -/
def Dev.aciskTake (d : Dev) (n want : Nat) (act : Nat → List Nat → Dev → Dev) : Dev :=
  match d.mgmtEnd n with
  | none => d
  | some (id, toB) =>
    match (d.queue n toB).take with
    | none => d
    | some (ws, q) =>
      let h := ws.headD 0
      if !typeKnown (msgType h) || (bit h 20 && !d.pointerOk ws) then (d.setQueue n toB q).bump Cnt.MBX_SR_ERR_CNT
      else if msgType h = want then act id ws (d.setQueue n toB q)
      else d

/-- Has the queue of channel `n` away from the management core `k` free words? -/
def Dev.canReply (d : Dev) (n k : Nat) : Bool := match d.mgmtEnd n with
  | some (_, toB) => d.hasRoom n (!toB) k
  | none => false

/-- PING (R376): PONG with the same TAG, once the queue has room for it. -/
def execPing (n : Fin 64) (s : State) : Host.Outcome State Fault Refusal :=
  s.run fun d => if d.fwRuns && d.canReply n 1 then d.aciskTake n 3 fun id ws d => d.mbxTx id n (0x04000000 + ws.headD 0 % 65536) else d

/-! ### Shared rings (Table 15.7) -/

def Dev.sr (d : Dev) (k : Nat) : Nat := d.fwRegion + 0x11000000 + 0x100000 * k
def Dev.reqHead (d : Dev) (k : Nat) : Nat := d.rd (d.sr k) 4 % 256
def Dev.reqTail (d : Dev) (k : Nat) : Nat := d.rd (d.sr k + 4) 4 % 256
def Dev.rspHead (d : Dev) (k : Nat) : Nat := d.rd (d.sr k + 8) 4 % 256
def Dev.rspTail (d : Dev) (k : Nat) : Nat := d.rd (d.sr k + 12) 4 % 256

/-- The request at the head of pair `k`, once its doorbell has been taken. -/
def Dev.request (d : Dev) (k : Nat) : Option (List Byte) :=
  if d.mbx.rung.contains k && d.reqHead k != d.reqTail k then some (d.read (d.sr k + 0x1000 + 256 * d.reqHead k) 256) else none

/-- Is the response ring full: its tail one below its head? -/
def Dev.rspFull (d : Dev) (k : Nat) : Bool := (d.rspTail k + 1) % 256 == d.rspHead k

/-- Does an SR_NOTICE still stand in the queue toward the host? -/
def noticeIn : Nat → List Nat → Bool
  | 0, _ => false
  | _, [] => false
  | n + 1, h :: ws => msgType h == 2 || noticeIn n (ws.drop (msgLen h))

/-- SR_NOTICE on the channel of pair `k`, unless the previous one has not been removed (R384). -/
def Dev.srNotice (d : Dev) (k : Nat) : Dev :=
  let n := 8 + k
  match d.mgmtEnd n with
  | none => d
  | some (id, toB) =>
    let q := d.queue n (!toB)
    if q.front ≠ 0 ∨ noticeIn 9 q.words ∨ !d.canReply n 2 then d else d.mbxSend id n [0x02200000, k]

/-- Write a response entry and announce it. -/
def Dev.respond (d : Dev) (k type tag : Nat) (st : Status) (payload : List Byte) : Dev :=
  let a := d.sr k + 0x20000 + 256 * d.rspTail k
  let body := natLe 2 type ++ natLe 2 tag ++ natLe 2 payload.length ++ natLe 1 st.code ++ List.replicate 9 0 ++ payload
  ((d.write a (body ++ List.replicate (256 - body.length) 0)).wr (d.sr k + 12) 4 ((d.rspTail k + 1) % 256)).srNotice k

/-- Remove the request at the head. -/
def Dev.consumeReq (d : Dev) (k : Nat) : Dev := d.wr (d.sr k) 4 ((d.reqHead k + 1) % 256)

/-- Is a request of a served type with its LEN in range (Table 15.8)? -/
def requestOk (e : List Byte) : Bool :=
  let n := rdLe e 4 2
  match rdLe e 0 2 with
  | 0x0001 => decide (n ≤ 240)
  | 0x0002 => n == 0
  | 0x0010 => n == 1 && decide (rdLe e 16 1 ≤ 7)
  | 0x0020 => decide (10 ≤ n) && decide (n ≤ 226)
  | 0x0030 => n == 0
  | _ => false

/-- Answer the bad requests that have come to the head of a pair (R385). -/
def Dev.answerBad : Nat → Dev → Nat → Dev
  | 0, d, _ => d
  | fuel + 1, d, k =>
    match d.request k with
    | none => d
    | some e =>
      if requestOk e || d.rspFull k then d
      else Dev.answerBad fuel (((d.consumeReq k).respond k (rdLe e 0 2) (rdLe e 2 2) .badArg []).bump Cnt.MBX_SR_ERR_CNT) k

/-- Deliver waiting MGMT messages as MGMT_RECV responses on pair 0. -/
def Dev.deliverMgmt : Nat → Dev → Dev
  | 0, d => d
  | n + 1, d =>
    match d.mbx.mgmt with
    | [] => d
    | (src, bs) :: rest =>
      if !d.fwServes || d.rspFull 0 then d
      else Dev.deliverMgmt n (({ d with mbx := { d.mbx with mgmt := rest } }).respond 0 0x21 0 .done (natLe 2 src ++ bs))

/-- SR_DOORBELL (R384): Acisk takes the doorbell of pair `k`, and its requests from then on, in order. -/
def execSrDoorbell (k : Fin 4) (s : State) : Host.Outcome State Fault Refusal :=
  s.run fun d => if d.fwServes then
    d.aciskTake (8 + k) 1 fun _ _ d =>
      ({ d with mbx := { d.mbx with rung := if d.mbx.rung.contains k.val then d.mbx.rung else k.val :: d.mbx.rung } }.answerBad 256 k).deliverMgmt 64
    else d

/-- R388: Acisk writes a log entry, or none: the spec does not say when, so whether, the core, the level up to the one logged, the code and the
text are free values. -/
def Dev.aciskLog (d : Dev) : Dev :=
  let f := fun i => Config.free (d.draws + i)
  if f 0 % 2 = 0 then { d with draws := d.draws + 1 }
  else
    let head := d.fld Reg.MBX_LOG_HEAD_COUNT
    let ts := if d.frm.acquired then d.fld Reg.FRM_TICK_NUM_NUM * 65536 + f 1 % 65536 else 0
    let entry := natLe 8 ts ++ natLe 4 d.mbx.logSeq ++ natLe 1 (f 2 % 4) ++ natLe 1 (f 3 % (d.mbx.logLevel + 1)) ++ natLe 2 (f 4) ++
      (List.range 48).map fun i => BitVec.ofNat 8 (f (5 + i) % 128)
    let d := d.write (d.fwRegion + 0x0C000000 + 64 * (head % 262144)) entry
    let d := { d.setFld Reg.MBX_LOG_HEAD_COUNT (head + 1) with
                 draws := d.draws + 53, mbx := { d.mbx with logSeq := (d.mbx.logSeq + 1) % 2 ^ 32 } }
    if (head + 1) % 262144 = 0 then d.bump Cnt.MBX_LOG_WRAP_CNT else d

/-- Serve the request at the head of pair `k` where it is of a type: `act` gives the status, the response payload and the device. Acisk may log it
(R388). -/
def Dev.serve (d : Dev) (k type : Nat) (act : List Byte → Dev → Status × List Byte × Dev) : Dev :=
  if !d.fwServes || d.rspFull k then d
  else match d.request k with
    | none => d
    | some e =>
      if rdLe e 0 2 ≠ type ∨ !requestOk e then d
      else
        let r := act ((e.drop 16).take (rdLe e 4 2)) (d.consumeReq k)
        ((r.2.2.respond k type (rdLe e 2 2) r.1 r.2.1).answerBad 256 k).deliverMgmt 64 |>.aciskLog

/-- SR_ECHO (R385). -/
def execSrEcho (k : Fin 4) (s : State) : Host.Outcome State Fault Refusal :=
  s.run fun d => d.serve k 1 fun p d => (.done, p, d)

/-- SR_VERSION (R385). -/
def execSrVersion (k : Fin 4) (s : State) : Host.Outcome State Fault Refusal :=
  s.run fun d => d.serve k 2 fun _ d =>
    (.done, (d.mbx.header.drop 4).take 20 ++
      natLe 4 (d.fld Reg.MBX_CASK_VER_SUPPORTED * 65536 + d.fld Reg.MBX_CASK_VER_FOUND), d)

/-- LOG_LEVEL (R385). -/
def execLogLevel (k : Fin 4) (s : State) : Host.Outcome State Fault Refusal :=
  s.run fun d => d.serve k 0x10 fun p d => (.done, [], { d with mbx := { d.mbx with logLevel := rdLe p 0 1 } })

/-- CASK_INFO (R385). -/
def execCaskInfo (k : Fin 4) (s : State) : Host.Outcome State Fault Refusal :=
  s.run fun d => d.serve k 0x30 fun _ d => (.done, d.mbx.caskHdr, d)

/-! ### MGMT messages (R310, R386) -/

/-- A MGMT message for this device. -/
def Dev.mgmtIn (d : Dev) (src : Nat) (body : List Byte) : Dev :=
  let n := rdLe body 4 4
  if 64 ≤ d.mbx.mgmt.length then d.bump Cnt.FAB_MGMT_DROP_CNT
  else if rdLe body 0 2 ≠ 0x20 ∨ n < 8 ∨ 224 < n ∨ body.length ≠ 8 + (n + 7) / 8 * 8 then d.bump Cnt.MBX_SR_ERR_CNT
  else ({ d with mbx := { d.mbx with mgmt := d.mbx.mgmt ++ [(src, (body.drop 8).take n)] } }).deliverMgmt 64

/-- MGMT (R386): a message arrives on port `p`. -/
def execMgmt (p : Fin 16) (m : Msg) (s : State) : Host.Outcome State Fault Refusal :=
  s.run fun d =>
    let n := m.len.toNat
    d.routed p MT.mgmt (8 ≤ n && n ≤ 4096 && n % 8 == 0) m fun d => d.mgmtIn m.src.toNat m.body

/-- MGMT_SEND (R386): `full` says that the send queue has no room. -/
def execMgmtSend (k : Fin 4) (full : Bool) (s : State) : Host.Outcome State Fault Refusal :=
  s.run fun d => d.serve k 0x20 fun p d =>
    if full then (.exhausted, [], d)
    else
      let dst := rdLe p 0 2 % 4096
      let bs := p.drop 2
      let n := bs.length
      let body := natLe 2 0x20 ++ natLe 2 d.mbx.mgmtSeq ++ natLe 4 n ++ bs ++ List.replicate ((n + 7) / 8 * 8 - n) 0
      let d := { d with mbx := { d.mbx with mgmtSeq := (d.mbx.mgmtSeq + 1) % 65536 } }
      (.done, [], if dst = d.ownAddr then d.mgmtIn dst body else d.txRouted (d.routePort dst 4 0) MT.mgmt dst false body)

end Sys2Proof.Machine
end

