-- ==== Sys2Proof/Machine/Host.lean ====
section
/-!
DEFINITION. The host interface (R346 to R366): rings, doorbells, dispatch, completions, MSI-X, BAR4 and the commands that the
command processor handles alone. BAR4_READ, BAR4_WRITE, SQ_TAIL_DOORBELL, CQ_HEAD_DOORBELL, DESCRIPTOR_FETCH,
MSIX_COAL_TIMEOUT, NOP, CREATE_SQ, CREATE_CQ, DELETE_SQ, DELETE_CQ, QUERY, COUNTER_CLEAR, DMA_H2D, DMA_D2H,
ADMIN_RINGS_ENABLE, ADMIN_RINGS_DISABLE, PCIE_POWER_STATE, PCIE_LINK_TRAINING.
-/

namespace Sys2Proof.Machine

def Dev.sq (d : Dev) (n : Nat) : Option Sq := SMap.get (fun _ => none) d.hif.sqs n
def Dev.cq (d : Dev) (n : Nat) : Option Cq := SMap.get (fun _ => none) d.hif.cqs n
def Dev.setHif (d : Dev) (f : Hif → Hif) : Dev := { d with hif := f d.hif }
def Dev.setSq (d : Dev) (n : Nat) (q : Option Sq) : Dev := d.setHif fun h => { h with sqs := SMap.set (fun _ => none) h.sqs n q }
def Dev.setCq (d : Dev) (n : Nat) (q : Option Cq) : Dev := d.setHif fun h => { h with cqs := SMap.set (fun _ => none) h.cqs n q }

/-! ### MSI-X (R354) -/

/-- A dword of the MSI-X table at reset: the mask bit of each vector control is 1. PRESUMED: the PCIe base specification. -/
def msixReset : Nat → Nat := fun i => if i % 4 = 3 then 1 else 0

def Dev.msixMasked (d : Dev) (v : Nat) : Bool := d.hif.power != 0 || bit (SMap.get msixReset d.hif.msixTab (4 * v + 3)) 0

/-- The vector that stands for none (CREATE_CQ). -/
def noVector : Nat := 0xFFF

/-- Fire a vector: a masked one stays pending. -/
def Dev.fire (d : Dev) (v : Nat) : Dev :=
  if v = noVector then d
  else if d.msixMasked v then d.setHif fun h => { h with msixPend := if h.msixPend.contains v then h.msixPend else v :: h.msixPend }
  else d.emit (.msix v)

/-- Send the pending vectors that are no longer masked. -/
def Dev.firePending (d : Dev) : Dev :=
  let go := d.hif.msixPend.filter fun v => !d.msixMasked v
  let d := d.setHif fun h => { h with msixPend := h.msixPend.filter fun v => d.msixMasked v }
  go.foldl (fun d v => d.emit (.msix v)) d

/-- A write to a dword of the MSI-X table. -/
def Dev.msixWrite (d : Dev) (i v : Nat) : Dev :=
  let v := if i % 4 = 3 then v % 2 else v % 2 ^ 32
  (d.setHif fun h => { h with msixTab := SMap.set msixReset h.msixTab i v }).firePending

/-! ### Completions (R352, R353) -/

def Cq.size (q : Cq) : Nat := 2 ^ q.log2
def Sq.size (q : Sq) : Nat := 2 ^ q.log2

/-- R350, R352: has a CQ an entry that is neither written nor reserved? -/
def Cq.room (q : Cq) : Bool := (q.pos + q.reserved + 1) % q.size != q.head

/-- A completion entry (Table 14.4) with PHASE 0. -/
def cqEntry (cid sqid sqHead status flags i0 i1 i2 : Nat) : List Byte :=
  natLe 2 cid ++ natLe 2 sqid ++ natLe 2 sqHead ++ natLe 1 status ++ natLe 1 flags ++ natLe 8 i0 ++ natLe 8 i1 ++ natLe 8 i2

/-- Write a completion entry to a CQ and signal it (R353, R354). An unreserved one that finds no room, or no CQ, is discarded. -/
def Dev.post (d : Dev) (n : Nat) (reserved : Bool) (e : List Byte) : Dev :=
  match d.cq n with
  | none => d.bump Cnt.HIF_CQ_DROP_CNT
  | some q =>
    if !reserved && !q.room then d.bump Cnt.HIF_CQ_DROP_CNT
    else
      let e := if q.phase then e.set 7 (BitVec.ofNat 8 ((e.getD 7 0).toNat + 1)) else e
      let fires := q.coalCount == 0 || q.coalUs == 0 || q.coalCount ≤ q.unsig + 1
      let wraps := q.pos + 1 == q.size
      let d := d.setCq n (some { q with
        pos := if wraps then 0 else q.pos + 1
        phase := if wraps then !q.phase else q.phase
        reserved := if reserved then q.reserved - 1 else q.reserved
        unsig := if fires then 0 else q.unsig + 1 })
      let d := d.emit (.hostWrite (q.base + 32 * q.pos) e)
      if fires then d.fire q.vector else d

/-- R365: completions formed outside D0 wait for it. A step completion is the one with STEP set; only it is unreserved. -/
def Dev.postHeld (d : Dev) (n : Nat) (e : List Byte) : Dev :=
  if d.hif.power = 0 then d.post n (!(e.getD 7 0).getLsbD 1) e
  else d.setHif fun h => { h with waiting := h.waiting ++ [⟨n, e⟩] }

/-- A command leaves the commands in progress with a status and INFO fields. -/
def Dev.finish (d : Dev) (c : Cmd) (st : Status) (i0 i1 i2 : Nat) : Dev :=
  let d := (d.setHif fun h => { h with prog := h.prog.erase c }).trace 129 0 (c.cid + 65536 * c.sq + 2 ^ 32 * c.op) st.code
  let d := if (d.cq c.cq).isSome then d.bump Cnt.HIF_CMD_CNT else d
  let d := match st with
    | .stateReject => d.bump Cnt.HIF_STATE_REJ_CNT
    | .badArg => d.bump Cnt.HIF_BAD_ARG_CNT
    | _ => d
  d.postHeld c.cq (cqEntry c.cid c.sq c.sqHead st.code 0 i0 i1 i2)

/-! ### Judgement (R357) -/

/-- P<i> of a command. -/
def Cmd.par (c : Cmd) (i : Nat) : Nat := c.p.getD i 0

/-- The parameter bits that Table 14.5 names; the others are reserved (R355). -/
def paramMask (op i : Nat) : Nat :=
  let all := 2 ^ 64 - 1
  match op, i with
  | 0x01, 0 => all
  | 0x01, 1 => 0xFFF00FFFFFF
  | 0x02, 0 => all
  | 0x02, 1 => 0xFFF00FF0FFF
  | 0x02, 2 => 0xFFFFFFFF
  | 0x03, 1 => 0xFFFF
  | 0x04, 1 => 0xFFF
  | 0x05, 0 => 0xFFFFFFFF
  | 0x07, 0 => 0xFFFF
  | 0x10, 0 => all
  | 0x10, 1 => all
  | 0x10, 2 => 3
  | 0x10, 3 => all
  | 0x10, 4 => 2 ^ 48 - 1
  | 0x11, 0 => 1
  | 0x20, 0 => all
  | 0x20, 1 => all
  | 0x20, 2 => 7
  | 0x21, 2 => 7
  | 0x22, 2 => 0xFF
  | 0x23, 0 => all
  | 0x23, 1 => 2 ^ 48 - 1
  | 0x23, 2 => 7
  | 0x23, 3 => 0xFFF
  | 0x24, 1 => 2 ^ 48 - 1
  | 0x24, 3 => 0xFFF
  | 0x25, 0 => all
  | 0x27, 0 => all
  | 0x30, 0 => all
  | 0x30, 1 => all
  | 0x30, 2 => all
  | 0x31, 0 => all
  | 0x31, 1 => all
  | 0x31, 2 => all
  | 0x32, 0 => all
  | 0x32, 1 => all
  | 0x33, 0 => all
  | 0x33, 1 => all
  | _, _ => 0

/-- The opcodes of Table 14.5. -/
def opKnown (op : Nat) : Bool :=
  op ≤ 7 || (0x10 ≤ op && op ≤ 0x12) || (0x20 ≤ op && op ≤ 0x27) || (0x30 ≤ op && op ≤ 0x33)

/-- Test 1 of R357: a reserved opcode, bit or encoding. -/
def Cmd.reservedBad (c : Cmd) : Bool :=
  !opKnown c.op || 2 ≤ c.flags || c.rsv != 0 ||
  (List.range 7).any (fun i => Nat.land (c.par i) (paramMask c.op i) != c.par i) ||
  (c.op == 0x10 && c.par 2 == 3)

/-- Table 14.6 for the opcodes other than IMAGE_LOAD and START. -/
def opStates (op : Nat) : List Nat :=
  match op with
  | 0x05 => [3, 4, 5, 6, 7, 8]
  | 0x06 => [2, 3, 4, 5, 6, 7, 8, 9, 10]
  | 0x12 => [4]
  | 0x20 => [4, 5, 6, 7]
  | 0x21 => [4, 5, 6, 7]
  | 0x22 => [5, 6, 7]
  | 0x23 => [4]
  | 0x24 => [7, 8]
  | 0x25 => [6]
  | 0x26 => [5, 7, 8]
  | 0x27 => [7]
  | 0x30 => [4, 5, 6, 7, 8, 10]
  | 0x31 => [4, 5, 6, 7, 8, 10]
  | 0x32 => []
  | 0x33 => [4, 5, 6, 7, 8]
  | _ => [2, 3, 4, 5, 6, 7, 8, 10]

/-- Table 14.6: the states in which a command is allowed, but for the checkpoint stage. -/
def Cmd.states (c : Cmd) : List Nat :=
  if c.op = 0x10 then
    match c.par 2 with
    | 0 => [2]
    | 1 => [4, 5, 6, 7, 8]
    | _ => [4, 5, 7, 8, 9]
  else if c.op = 0x11 then (if c.par 0 = 0 then [4, 5, 7, 8] else [4, 5, 7, 8, 10])
  else opStates c.op

/-- The checkpoint stage: BOOTING with STAGE 0xF. -/
def Dev.checkpoint (d : Dev) : Bool := d.st == DS.booting && d.fld Reg.HIF_STATE_STAGE == 0xF

/-- Test 3 of R357: Table 14.6, and the commands that need a HELLO. -/
def Dev.allows (d : Dev) (c : Cmd) : Bool :=
  (c.states.contains d.st || ((0x30 ≤ c.op && c.op ≤ 0x32) && d.checkpoint)) &&
  (c.op ≤ 7 || c.op == 0x10 || c.op == 0x11 || c.op == 0x30 || c.op == 0x31 || d.flag Reg.HIF_STATE_HELLO)

/-- R368: does a command need Acisk? -/
def Cmd.needsAcisk (c : Cmd) : Bool :=
  !(c.op ≤ 4 || c.op == 6 || c.op == 7 || c.op == 0x10 || (c.op == 0x11 && c.par 0 == 1) || c.op == 0x30 || c.op == 0x31)

/-- A multiple of 64. -/
def al64 (a : Nat) : Bool := a % 64 == 0

/-- The range of ring geometry: base 4 KiB aligned, 2^6 to 2^16 entries (R350). -/
def ringOk (base log2 : Nat) : Bool := base % 4096 == 0 && 6 ≤ log2 && log2 ≤ 16

/-- Test 4 of R357: parameters within their stated ranges. -/
def Dev.inRange (d : Dev) (c : Cmd) : Bool :=
  let p0 := c.par 0
  let p1 := c.par 1
  let p2 := c.par 2
  match c.op with
  | 0x01 => ringOk p0 (bits p1 23 16) && bits p1 15 0 != 0 && (d.sq (bits p1 15 0)).isNone && (d.cq (bits p1 43 32)).isSome
  | 0x02 =>
    let v := bits p1 43 32
    ringOk p0 (bits p1 23 16) && bits p1 11 0 != 0 && (d.cq (bits p1 11 0)).isNone && ((2 ≤ v && v ≤ 2047) || v == noVector)
  | 0x03 => p1 != 0 && (d.sq p1).isSome && !d.hif.prog.any fun x => x != c && x.op == 3 && x.par 1 == p1
  | 0x04 => p1 != 0 && (d.cq p1).isSome
  | 0x07 => (countersOf p0).isSome
  | 0x10 => al64 p0 && al64 p1 && p1 ≤ 0x4000000 && (p2 != 1 || d.st != DS.running || d.epoch < c.par 3)
  | 0x20 => al64 p0 && al64 p1
  | 0x22 => p2 ≤ 7 || p2 == 0xFF
  | 0x23 => (d.cq (c.par 3)).isSome
  | 0x24 => (d.cq (c.par 3)).isSome
  | 0x25 => d.epoch < p0
  | 0x27 => al64 p0
  | 0x30 => al64 p0 && al64 p1 && al64 p2 && p2 ≤ 2 ^ 32 && (p2 == 0 || d.mapped p1 p2)
  | 0x31 => al64 p0 && al64 p1 && al64 p2 && p2 ≤ 2 ^ 32 && (p2 == 0 || d.mapped p1 p2)
  | 0x32 => al64 p0 && d.mapped p0 (2048 * 264192)
  | 0x33 => al64 p0 && al64 p1 && p1 ≤ 0x1000000
  | _ => true

/-! ### Dispatch (R352) -/

/-- The oldest fetched command of an SQ. -/
def Dev.headOf (d : Dev) (n : Nat) : Option Cmd := d.hif.ready.find? fun c => c.sq == n

/-- The CQ has a free entry, and a FENCE finds every earlier command of its SQ complete. -/
def Dev.canDispatch (d : Dev) (c : Cmd) : Bool :=
  DS.awaitImage ≤ d.st && (match d.cq c.cq with | some q => q.room | none => false) &&
  !(c.flags % 2 == 1 && d.hif.prog.any fun x => x.sq == c.sq)

/-- R352: how far SQ `n` lies behind the turn that comes next. -/
def Dev.behind (d : Dev) (n : Nat) : Nat := (n + 65535 - d.hif.lastSq) % 65536

/-- R352: the command that the rotation takes next: the oldest of the first SQ behind the one served last whose oldest command can be dispatched. -/
def Dev.atTurn (d : Dev) : Option Cmd :=
  (d.hif.ready.filter fun c => d.headOf c.sq == some c && d.canDispatch c).foldl (fun best c => match best with
    | none => some c
    | some b => if d.behind c.sq < d.behind b.sq then some c else some b) none

/-- Dispatch: reserve the CQ entry; the command is in progress. -/
def Dev.take (d : Dev) (c : Cmd) : Dev :=
  let d := d.setHif fun h => { h with ready := h.ready.erase c, prog := h.prog ++ [c], lastSq := c.sq }
  let d := match d.cq c.cq with
    | some q => d.setCq c.cq (some { q with reserved := q.reserved + 1 })
    | none => d
  d.trace 128 0 (c.cid + 65536 * c.sq + 2 ^ 32 * c.op) 0

/-- A DELETE_SQ in progress whose ring has no other command in progress. -/
def Dev.deletable (d : Dev) (c : Cmd) : Bool :=
  c.op == 3 && d.hif.prog.contains c && !d.hif.prog.any fun x => x != c && x.sq == c.par 1

/-- What follows by itself: commands of a reserved form complete at dispatch, and deletions complete. -/
def Dev.sweepN : Nat → Dev → Dev
  | 0, d => d
  | n + 1, d =>
    match d.atTurn.filter Cmd.reservedBad with
    | some c => Dev.sweepN n ((d.take c).finish c .badArg 0 0 0)
    | none => match d.hif.prog.find? d.deletable with
      | some c => Dev.sweepN n ((d.setSq (c.par 1) none).finish c .done 0 0 0)
      | none => d

def Dev.sweep (d : Dev) : Dev := d.sweepN (d.hif.ready.length + d.hif.prog.length)

/-- Complete a command. -/
def Dev.complete (d : Dev) (c : Cmd) (st : Status) (i0 i1 i2 : Nat) : Dev := (d.finish c st i0 i1 i2).sweep

/-- A command's row: the oldest command of SQ `n`, where it is of the row's kind and at its turn, is dispatched and judged, and acts. While no Acisk
image runs, a command that needs Acisk stays in progress (R368). -/
def Dev.command (d : Dev) (n : Nat) (kind : Cmd → Bool) (act : Cmd → Dev → Dev) : Dev :=
  match d.headOf n with
  | none => d
  | some c =>
    if !kind c || d.atTurn != some c then d
    else
      let d := d.take c
      if c.reservedBad then d.complete c .badArg 0 0 0
      else if d.st = DS.refused ∧ !(c.op = 6 ∨ (c.op = 0x10 ∧ c.par 2 = 2)) then
        (d.bump Cnt.HIF_REFUSED_CNT).complete c .versionRefused 0 0 0
      else if !d.allows c then d.complete c .stateReject 0 0 0
      else if !d.inRange c then d.complete c .badArg 0 0 0
      else if c.needsAcisk && !d.fwRuns then d
      else act c d

/-- A row whose opcode decides. -/
def Dev.opCommand (d : Dev) (n op : Nat) (act : Cmd → Dev → Dev) : Dev := d.command n (fun c => c.op == op) act

/-! ### Doorbells (R351) -/

/-- An SQ tail doorbell. -/
def Dev.tailDoorbell (d : Dev) (n v : Nat) : Dev :=
  if d.hif.power ≠ 0 then d
  else match d.sq n with
    | none => d.bump Cnt.HIF_DB_ERR_CNT
    | some q =>
      let used := (q.tail + q.size - q.fetch) % q.size
      if q.size ≤ v ∨ q.size ≤ used + (v + q.size - q.tail) % q.size then d.bump Cnt.HIF_DB_ERR_CNT
      else d.setSq n (some { q with tail := v })

/-- A CQ head doorbell. -/
def Dev.headDoorbell (d : Dev) (n v : Nat) : Dev :=
  if d.hif.power ≠ 0 then d
  else match d.cq n with
    | none => d.bump Cnt.HIF_DB_ERR_CNT
    | some q =>
      if q.size ≤ v ∨ (q.pos + q.size - q.head) % q.size < (v + q.size - q.head) % q.size then d.bump Cnt.HIF_DB_ERR_CNT
      else (d.setCq n (some { q with head := v })).sweep

/-- A write to BAR2: one that is not an aligned 8-byte write is ignored and counted (R349). -/
def Dev.bar2Write (d : Dev) (whole : Bool) (act : Dev → Dev) : Dev :=
  if d.hif.power = 0 && !whole then d.bump Cnt.HIF_DB_ERR_CNT else act d

/-- SQ_TAIL_DOORBELL (R351): a write of `v` to the tail doorbell of SQ `n`; `whole` says that it is aligned and of 8 bytes. -/
def execSqTailDoorbell (n : Fin 65536) (v : BitVec 64) (s : State) (whole : Bool := false) : Host.Outcome State Fault Refusal :=
  s.run fun d => d.bar2Write whole fun d => d.tailDoorbell n v.toNat

/-- CQ_HEAD_DOORBELL (R351). -/
def execCqHeadDoorbell (n : Fin 4096) (v : BitVec 64) (s : State) (whole : Bool := false) : Host.Outcome State Fault Refusal :=
  s.run fun d => d.bar2Write whole fun d => d.headDoorbell n v.toNat

/-! ### Fetch (R352, R356) -/

/-- R473: IDE is required and the stream is not Secure. -/
def Dev.ideBlocked (d : Dev) : Bool := d.flag Reg.SEC_CFG_IDE_REQ && d.fld Reg.SEC_STATUS_IDE != 2

def parseCmd (n cq head : Nat) (b : List Byte) : Cmd :=
  ⟨rdLe b 0 1, rdLe b 1 1, rdLe b 2 2, rdLe b 4 4, (List.range 7).map fun i => rdLe b (8 + 8 * i) 8, n, cq, head⟩

/-- A fetch from SQ `n` returns: the 64-byte descriptor, or nothing for an error completion or timeout. -/
def Dev.fetchDesc (d : Dev) (n : Nat) (data : Option (List Byte)) : Dev :=
  match d.sq n with
  | none => d
  | some q =>
    if d.st < DS.awaitImage || d.hif.power != 0 || d.ideBlocked || q.fetch == q.tail ||
        d.hif.prog.any (fun c => c.op == 3 && c.par 1 == n) then d
    else
      let h := (q.fetch + 1) % q.size
      let d := d.setSq n (some { q with fetch := h })
      match data with
      | none => (d.bump Cnt.HIF_DMA_ERR_CNT).post q.cq false (cqEntry 0xFFFF n h Status.aborted.code 0 0 0 0)
      | some b => (d.setHif fun x => { x with ready := x.ready ++ [parseCmd n q.cq h b] }).sweep

/-- DESCRIPTOR_FETCH (R356). -/
def execDescriptorFetch (n : Fin 65536) (data : Option (List Byte)) (s : State) : Host.Outcome State Fault Refusal :=
  s.run fun d => d.fetchDesc n data

/-- MSIX_COAL_TIMEOUT (R354): COAL_US passes after the first unsignalled entry of CQ `n`. -/
def execMsixCoalTimeout (n : Fin 4096) (s : State) : Host.Outcome State Fault Refusal :=
  s.run fun d => match d.cq n with
    | none => d
    | some q => if q.unsig = 0 then d else (d.setCq n (some { q with unsig := 0 })).fire q.vector

/-! ### Commands that the command processor handles alone -/

/-- NOP: completes at once. -/
def execNop (n : Fin 65536) (s : State) : Host.Outcome State Fault Refusal :=
  s.run fun d => d.opCommand n 0x00 fun c d => d.complete c .done 0 0 0

/-- CREATE_SQ: the ring is usable, empty, from here on. -/
def execCreateSq (n : Fin 65536) (s : State) : Host.Outcome State Fault Refusal :=
  s.run fun d => d.opCommand n 0x01 fun c d =>
    (d.setSq (bits (c.par 1) 15 0) (some ⟨c.par 0, bits (c.par 1) 23 16, bits (c.par 1) 43 32, 0, 0⟩)).complete c .done 0 0 0

/-- A new completion ring: its first pass carries phase 1 (R353). -/
def freshCq (base log2 vector coal us : Nat) : Cq := ⟨base, log2, vector, coal, us, 0, 0, true, 0, 0⟩

/-- CREATE_CQ. -/
def execCreateCq (n : Fin 65536) (s : State) : Host.Outcome State Fault Refusal :=
  s.run fun d => d.opCommand n 0x02 fun c d =>
    (d.setCq (bits (c.par 1) 11 0) (some (freshCq (c.par 0) (bits (c.par 1) 23 16) (bits (c.par 1) 43 32)
      (bits (c.par 2) 15 0) (bits (c.par 2) 31 16)))).complete c .done 0 0 0

/-- DELETE_SQ: commands not dispatched go with the ring; it completes when those dispatched have (R365). -/
def execDeleteSq (n : Fin 65536) (s : State) : Host.Outcome State Fault Refusal :=
  s.run fun d => d.opCommand n 0x03 fun c d =>
    (d.setHif fun h => { h with ready := h.ready.filter fun x => x.sq != c.par 1 }).sweep

/-- Is CQ `k` bound to an SQ, or named by a RUN or RESUME in effect? -/
def Dev.cqBound (d : Dev) (k : Nat) : Bool :=
  d.hif.sqs.any (fun x => match x.2 with | some q => q.cq == k | none => false) || d.hif.stepCq == some k

/-- DELETE_CQ. -/
def execDeleteCq (n : Fin 65536) (s : State) : Host.Outcome State Fault Refusal :=
  s.run fun d => d.opCommand n 0x04 fun c d =>
    if d.cqBound (c.par 1) then d.complete c .stateReject 0 0 0
    else (d.setCq (c.par 1) none).complete c .done 0 0 0

/-- QUERY. -/
def execQuery (n : Fin 65536) (s : State) : Host.Outcome State Fault Refusal :=
  s.run fun d => d.opCommand n 0x06 fun c d =>
    d.complete c .done (d.st + 2 ^ 8 * d.active + 2 ^ 16 * d.armed + 2 ^ 32 * (d.raw 0xE0000 % 2 ^ 32)) d.epoch
      (2 ^ 32 * d.fld Reg.FAB_COORD_ADDR + 2 ^ 63 * d.fld Reg.FAB_COORD_VALID)

/-- Clear the counters at some offsets. -/
def Dev.clearCounters (d : Dev) (l : List Nat) : Dev := { d with cnt := l.foldl (fun m o => SMap.set (fun _ => 0) m o 0) d.cnt }

/-- COUNTER_CLEAR (R483). -/
def execCounterClear (n : Fin 65536) (s : State) : Host.Outcome State Fault Refusal :=
  s.run fun d => d.opCommand n 0x07 fun c d => (d.clearCounters ((countersOf (c.par 0)).getD [])).complete c .done 0 0 0

/-- DMA_H2D: `data` is what arrives of the host's bytes; short of the length, the host request ended in an error. -/
def execDmaH2d (n : Fin 65536) (data : List Byte) (s : State) : Host.Outcome State Fault Refusal :=
  s.run fun d => d.opCommand n 0x30 fun c d =>
    let d := (d.emit (.hostRead (c.par 0) (c.par 2))).write (c.par 1) (data.take (c.par 2))
    if data.length < c.par 2 then (d.bump Cnt.HIF_DMA_ERR_CNT).complete c .aborted 0 0 0 else d.complete c .done 0 0 0

/-- The words of a range that read as poisoned, each acting by its class (R340). -/
def Dev.idleRead (d : Dev) (a n : Nat) : Dev := (d.poisoned a n).foldl (fun d w => d.uncorr false (8 * w)) d

/-- DMA_D2H: `sent` bytes reach the host; short of the length, the host request ended in an error. -/
def execDmaD2h (n : Fin 65536) (sent : Nat) (e : Ecc) (s : State) : Host.Outcome State Fault Refusal :=
  s.run fun d => d.opCommand n 0x31 fun c d =>
    let k := min sent (c.par 2)
    let d := (d.ecc e).idleRead (c.par 1) k
    let d := d.emit (.hostWrite (c.par 0) (d.read (c.par 1) k))
    if sent < c.par 2 then (d.bump Cnt.HIF_DMA_ERR_CNT).complete c .aborted 0 0 0 else d.complete c .done 0 0 0

/-! ### Admin rings (R366) -/

/-- The completion ring number that stands for a deleted admin CQ. -/
def goneCq : Nat := 4096

/-- A write to HIF_ADMIN_CFG. -/
def Dev.writeAdmin (d : Dev) (v : Nat) : Dev :=
  let en := bit v 31
  if d.flag Reg.HIF_ADMIN_CFG_EN then
    if en then d
    else
      let d := ((d.setFld Reg.HIF_ADMIN_CFG_EN 0).setSq 0 none).setCq 0 none
      (d.setHif fun h => { h with
        ready := h.ready.filter fun c => c.sq != 0
        prog := h.prog.map fun c => if c.cq = 0 then { c with cq := goneCq } else c }).sweep
  else
    let a := bits v 12 8
    let c := bits v 20 16
    let d := if 6 ≤ a ∧ a ≤ 16 then d.setFld Reg.HIF_ADMIN_CFG_ASQ_LOG2 a else d
    let d := if 6 ≤ c ∧ c ≤ 16 then d.setFld Reg.HIF_ADMIN_CFG_ACQ_LOG2 c else d
    if en then
      ((d.setFld Reg.HIF_ADMIN_CFG_EN 1).setSq 0 (some ⟨4096 * d.fld Reg.HIF_ASQ_BASE, d.fld Reg.HIF_ADMIN_CFG_ASQ_LOG2, 0, 0, 0⟩)).setCq 0
        (some (freshCq (4096 * d.fld Reg.HIF_ACQ_BASE) (d.fld Reg.HIF_ADMIN_CFG_ACQ_LOG2) 2 0 0))
    else d

/-- ADMIN_RINGS_ENABLE (R366): a write with EN 1, with its ASQ_LOG2 and ACQ_LOG2. -/
def execAdminRingsEnable (asq acq : Fin 32) (s : State) : Host.Outcome State Fault Refusal :=
  s.run fun d => d.writeAdmin (2 ^ 31 + 65536 * acq + 256 * asq)

/-- ADMIN_RINGS_DISABLE (R366): a write with EN 0. -/
def execAdminRingsDisable (asq acq : Fin 32) (s : State) : Host.Outcome State Fault Refusal :=
  s.run fun d => d.writeAdmin (65536 * acq + 256 * asq)

/-! ### BAR4 (R333, R340, R348, R473) -/

/-- The device address of a BAR4 offset: address bits below the window size are ignored in BASE. -/
def Dev.bar4Addr (d : Dev) (off : Nat) : Nat :=
  let w := 2 ^ d.hif.bar4Log2
  d.fld Reg.HIF_BAR4_BASE_BASE * gib / w * w + off % w

/-- An access that the function's power state or the IDE requirement refuses. -/
def Dev.bar4Gate (d : Dev) (refused blocked act : Dev → Dev) : Dev :=
  if d.hif.power ≠ 0 then refused d
  else if d.ideBlocked then blocked (d.bump Cnt.SEC_IDE_BLOCK_CNT)
  else act d

/-- Data of all ones. -/
def allOnes (n : Nat) : List Byte := List.replicate n 0xFF

/-- BAR4_READ of `n` bytes. -/
def execBar4Read (off : BitVec 40) (n : Fin 4097) (e : Ecc) (s : State) : Host.Outcome State Fault Refusal :=
  s.run fun d => d.bar4Gate (fun d => d.emit .unsupportedRequest) (fun d => d.emit (.bytes (allOnes n))) fun d =>
    let a := d.bar4Addr off.toNat
    if !d.mapped a n then (d.bump Cnt.MEM_UNMAPPED_CNT).emit (.bytes (allOnes n))
    else
      let d := d.ecc e
      let bad := !(d.poisoned a n).isEmpty
      let d := (d.idleRead a n).emit (.bytes (d.read a n))
      if bad then d.emit .poisoned else d

/-- BAR4_WRITE. -/
def execBar4Write (off : BitVec 40) (data : List Byte) (s : State) : Host.Outcome State Fault Refusal :=
  s.run fun d => d.bar4Gate id id fun d =>
    let a := d.bar4Addr off.toNat
    if d.mapped a data.length then d.write a data else d.bump Cnt.MEM_UNMAPPED_CNT

/-! ### The link (R346) -/

/-- The function enters a power state: on return to D0 the waiting completions and interrupts go out (R365). -/
def Dev.setPower (d : Dev) (p : Nat) : Dev :=
  let d := d.setHif fun h => { h with power := p }
  if p = 2 then d.domainDown .hostPf
  else if p = 0 then
    let w := d.hif.waiting
    let d := d.setHif fun h => { h with waiting := [] }
    (w.foldl (fun d x => d.postHeld x.cq x.bytes) d).firePending
  else d

/-- PCIE_POWER_STATE (R346): 0 D0, 1 D3hot, 2 D3cold. -/
def execPciePowerState (p : Fin 3) (s : State) : Host.Outcome State Fault Refusal := s.run fun d => d.setPower p

/-- PCIE_LINK_TRAINING (R346): rate 32, 64 or 128 GT/s (code 1 to 3) and width 4, 8 or 16. -/
def execPcieLinkTraining (rate width : Fin 3) (s : State) : Host.Outcome State Fault Refusal :=
  s.run fun d =>
    let d := ((d.setFld Reg.HIF_LINK_RATE (rate + 1)).setFld Reg.HIF_LINK_WIDTH (4 * 2 ^ width.val)).setFld Reg.HIF_LINK_FLIT 1
    if rate.val = 2 ∧ width.val = 2 then d else d.bump Cnt.HIF_DOWNTRAIN_CNT

end Sys2Proof.Machine
end

