-- ==== Sys2Proof/Machine/Secure.lean ====
section
/-!
DEFINITION. Secure boot and attestation (R460 to R475): signature checks, security version floors, SPDM and IDE_KM. GET_VERSION,
GET_CAPABILITIES, NEGOTIATE_ALGORITHMS, GET_DIGESTS, GET_CERTIFICATE, CHALLENGE, GET_MEASUREMENTS, KEY_EXCHANGE, FINISH,
HEARTBEAT, KEY_UPDATE, END_SESSION, SPDM_UNSUPPORTED_REQUEST, IDE_KM_QUERY, KEY_PROG, K_SET_GO, K_SET_STOP,
IDE_INTEGRITY_FAIL, SEC_LOCK.
-/

namespace Sys2Proof.Machine

def Dev.setSec (d : Dev) (f : Sec → Sec) : Dev := { d with sec := f d.sec }

/-! ### Signature checks (R462 to R465) -/

/-- What SEC finds: the code of Table 19.4, 0 for a pass, and the block's fields that a record or a commit needs. -/
structure SigResult where
  code : Nat
  keyId : Nat
  svn : Nat
  commit : Bool
  minCert : Nat
  deriving DecidableEq, Repr

/-- Check 1, FORMAT. -/
def sigFormat (kind : Nat) (b : List Byte) : Bool :=
  let chain := rdLe b 7 1
  rdLe b 0 4 == 0x4749535A && rdLe b 4 2 == 1 && rdLe b 6 1 == kind && chain == (if kind = 1 then 0 else 1) &&
  zeroBytes b 0x14 44 && zeroBytes b 0x244 60 && rdLe b 8 4 ≤ 64 && rdLe b 0x10 4 ≤ 32 && rdLe b 0xC 4 ≤ 1 &&
  (kind == 1 || (rdLe b 8 4 == 0 && rdLe b 0xC 4 == 0 && rdLe b 0x10 4 == 0)) &&
  0x280 + 1152 * chain + 512 ≤ b.length

/-- Check 2, ROOT. -/
def sigRoot (b : List Byte) : Bool :=
  beNat (slice b 0x240 4) == 65537 && sha512 (slice b 0x40 516) == (List.range 64).map Config.rootDigest

/-- Check 3, CERT; `b` is the certificate. -/
def sigCert (kind certMin : Nat) (rootN b : List Byte) : Bool :=
  let usage := rdLe b 4 2
  rdLe b 0 4 == 0x5452435A && beNat (slice b 0x240 4) == 65537 && usage ≤ 3 && zeroBytes b 6 2 && zeroBytes b 0x10 48 &&
  zeroBytes b 0x244 60 && rsaVerify rootN (slice b 0x280 512) (slice b 0 0x280) && bit usage (kind - 2) && certMin ≤ rdLe b 8 4

/-- R465: the checks of Table 19.4 over an object's bytes and the signature block that follows. -/
def Dev.sigCheck (d : Dev) (kind : Nat) (obj b : List Byte) : SigResult :=
  let chain := rdLe b 7 1
  let cert := slice b 0x280 1152
  let svn := rdLe b 8 4
  let res := fun (code : Nat) => (⟨code, if chain = 1 then rdLe cert 0xC 4 else 0, svn, bit (rdLe b 0xC 4) 0, rdLe b 0x10 4⟩ : SigResult)
  let rootN := slice b 0x40 512
  if !sigFormat kind b then res 1
  else if !sigRoot b then res 2
  else if chain = 1 ∧ !sigCert kind d.sec.certMin rootN cert then res 3
  else if kind = 1 ∧ svn < d.sec.fwMin then res 4
  else if !rsaVerify (if chain = 1 then slice cert 0x40 512 else rootN) (slice b (0x280 + 1152 * chain) 512) (obj ++ slice b 0 0x40) then res 5
  else res 0

/-- Record a check (R465). -/
def Dev.noteSig (d : Dev) (kind : Nat) (r : SigResult) : Dev :=
  if r.code = 0 then d.bump Cnt.SEC_AUTH_OK_CNT
  else
    let d := (d.bump Cnt.SEC_AUTH_FAIL_CNT).setFld Reg.SEC_AUTH_LAST_KIND kind
    ((d.setFld Reg.SEC_AUTH_LAST_CODE r.code).setFld Reg.SEC_AUTH_LAST_KEY_ID r.keyId).setFld Reg.SEC_AUTH_LAST_SVN r.svn

/-- The signed bytes of a frame program: header, segment table with the SIGNATURE entry's SEG_CRC taken as 0, and the other segments. -/
def fpSigned (i : List Byte) : List Byte :=
  let n := imgSegCount i
  let t := slice i (imgSegTable i) (32 * n)
  i.take 256 ++ t.take (32 * (n - 1) + 24) ++ [0, 0, 0, 0] ++ t.drop (32 * (n - 1) + 28) ++
    ((imgSegs i).filter fun s => s.kind != 10).flatMap (imgBytes i)

/-- The variant's digest (R464). -/
def fpDigest (i : List Byte) : List Byte := sha512 (fpSigned i)

/-- Check SIGNATURE of Table 2.8. -/
def Dev.fpSig (d : Dev) (i : List Byte) : SigResult :=
  d.sigCheck 2 (fpSigned i) (match imgFind i 10 with | some s => imgBytes i s | none => [])

/-- Write measurement index 3 (Table 19.6): the digest of the active variant, 0 when none is active. -/
def Dev.setFpDigest (d : Dev) : Dev :=
  let b := match d.variant d.active with
    | some v => fpDigest v.image
    | none => []
  (List.range 8).foldl (fun d k => d.setFld (Reg.SEC_FP_DIGEST_DIGEST k) (rdLe b (8 * k) 8)) d

/-- The object bytes of an Acisk image (Table 19.3) and its signature block. -/
def imageObj (b : List Byte) : List Byte := b.take (64 + rdLe b 0x10 8)
def imageSig (b : List Byte) : List Byte := b.drop (align64 (64 + rdLe b 0x10 8))

/-- R371: is an image malformed? -/
def imageMalformed (b : List Byte) : Bool :=
  rdLe b 0 4 != 0x4943415A || rdLe b 4 2 != 64 || b.length < 64 || b.length - 64 < rdLe b 0x10 8

/-! ### Floors (R466) -/

/-- The commit that a passed FIRMWARE object asks for. -/
def Dev.askCommit (d : Dev) (r : SigResult) : Dev :=
  d.setSec fun x => { x with commit := if r.commit then some (r.svn, r.minCert) else none }

/-- Burn the floors; `fwBad` and `certBad` are how many of the bits to burn fail to verify. -/
def Dev.burnFloors (d : Dev) (fwBad certBad : Nat) : Dev :=
  match d.sec.commit with
  | none => d
  | some (svn, cert) =>
    let fw := max d.sec.fwMin (svn - fwBad)
    let ce := max d.sec.certMin (cert - certBad)
    let err := (if d.sec.fwMin < svn ∧ fw < svn then 1 else 0) + (if d.sec.certMin < cert ∧ ce < cert then 1 else 0)
    ((d.setSec fun x => { x with commit := none, fwMin := fw, certMin := ce }).bump Cnt.SEC_SVN_COMMIT_CNT).bumpBy Cnt.SEC_FUSE_ERR_CNT err

/-! ### SPDM (R468 to R470) -/

/-- Bytes that only SEC can form: signatures, nonces, key shares. -/
def Dev.secretBytes (d : Dev) (n : Nat) : List Byte × Dev :=
  ((List.range n).map (Config.secret d.draws), { d with draws := d.draws + 1 })

/-- Send a response with its code and parameters. -/
def Dev.spdm (d : Dev) (ver code p1 p2 : Nat) (body : List Byte) : Dev :=
  d.emit (.spdm (natLe 1 ver ++ natLe 1 code ++ natLe 1 p1 ++ natLe 1 p2 ++ body))

/-- ERROR with an SPDM error code. -/
def Dev.spdmErr (d : Dev) (code data : Nat) : Dev := (d.bump Cnt.SEC_SPDM_ERR_CNT).spdm 0x13 0x7F code data []

/-! SPDM error codes. PRESUMED: DMTF SPDM 1.3. -/
namespace SpdmErr
def invalidRequest : Nat := 0x01
def unexpectedRequest : Nat := 0x04
def decryptError : Nat := 0x06
def unsupportedRequest : Nat := 0x07
def sessionLimitExceeded : Nat := 0x0A
def sessionRequired : Nat := 0x0B
def versionMismatch : Nat := 0x41
end SpdmErr

/-- A request reaches SEC in every state other than OFF and ROM, and is counted. -/
def Dev.spdmReq (d : Dev) (act : Dev → Dev) : Dev :=
  if d.st ≤ DS.rom then d else act (d.bump Cnt.SEC_SPDM_REQ_CNT)

/-- A request of SPDM version `ver` that needs the negotiation to have reached `phase`. -/
def Dev.spdmAt (d : Dev) (ver phase : Nat) (act : Dev → Dev) : Dev :=
  d.spdmReq fun d =>
    if ver ≠ 0x13 then d.spdmErr SpdmErr.versionMismatch 0
    else if d.sec.phase < phase then d.spdmErr SpdmErr.unexpectedRequest 0
    else act d

/-- GET_VERSION: 1.3 alone; the negotiation starts again. -/
def execGetVersion (s : State) : Host.Outcome State Fault Refusal :=
  s.run fun d => d.spdmReq fun d => (d.setSec fun x => { x with phase := 1 }).spdm 0x10 0x04 0 0 [0, 1, 0x00, 0x13]

/-- GET_CAPABILITIES: the capabilities of Table 19.5, CTExponent 17, messages of at most 4,096 bytes. -/
def execGetCapabilities (ver : Byte) (s : State) : Host.Outcome State Fault Refusal :=
  s.run fun d => d.spdmAt ver.toNat 1 fun d =>
    (d.setSec fun x => { x with phase := max x.phase 2 }).spdm 0x13 0x61 0 0 ([0, 17, 0, 0] ++ natLe 4 0x62F6 ++ natLe 4 4096 ++ natLe 4 4096)

/-- NEGOTIATE_ALGORITHMS: the requester's masks must offer RSAPSS_4096, SHA_512, secp384r1 and AES-256-GCM. -/
def execNegotiateAlgorithms (ver : Byte) (asym hash : BitVec 32) (dhe aead : BitVec 16) (s : State) : Host.Outcome State Fault Refusal :=
  s.run fun d => d.spdmAt ver.toNat 2 fun d =>
    if !asym.getLsbD 6 || !hash.getLsbD 2 || !dhe.getLsbD 4 || !aead.getLsbD 1 then d.spdmErr SpdmErr.invalidRequest 0
    else
      (d.setSec fun x => { x with phase := 3 }).spdm 0x13 0x63 3 0
        (natLe 2 48 ++ [1, 2] ++ natLe 4 8 ++ natLe 4 0x40 ++ natLe 4 4 ++ List.replicate 16 0 ++
          [2, 0x20, 0x10, 0, 3, 0x20, 2, 0, 5, 0x20, 1, 0])

/-- GET_DIGESTS: the digest of slot 0's chain (R467); slots 1 to 7 are empty. -/
def execGetDigests (ver : Byte) (s : State) : Host.Outcome State Fault Refusal :=
  s.run fun d => d.spdmAt ver.toNat 3 fun d => d.spdm 0x13 0x01 1 1 (sha512 Config.certChain)

/-- GET_CERTIFICATE: a portion of slot 0's chain. -/
def execGetCertificate (ver slot : Byte) (off len : BitVec 16) (s : State) : Host.Outcome State Fault Refusal :=
  s.run fun d => d.spdmAt ver.toNat 3 fun d =>
    let chain := Config.certChain
    if slot.toNat % 16 ≠ 0 ∨ chain.length ≤ off.toNat then d.spdmErr SpdmErr.invalidRequest 0
    else
      let portion := (chain.drop off.toNat).take (min len.toNat 4088)
      d.spdm 0x13 0x02 0 0 (natLe 2 portion.length ++ natLe 2 (chain.length - off.toNat - portion.length) ++ portion)

/-- Measurement block `i` (Table 19.6): index, measurement specification, size, value type, value size, value. -/
def Dev.measBlock (d : Dev) (i : Nat) : List Byte :=
  let v := match i with
    | 1 => (List.range 64).map Config.romDigest
    | 2 => d.sec.fwDigest
    | 3 => (List.range 8).flatMap fun k => natLe 8 (d.fld (Reg.SEC_FP_DIGEST_DIGEST k))
    | _ => natLe 8 d.sec.calEpoch
  let t := match i with
    | 1 => 0
    | 2 => 1
    | 3 => 3
    | _ => 0x84
  natLe 1 i ++ [1] ++ natLe 2 (3 + v.length) ++ natLe 1 t ++ natLe 2 v.length ++ v

def Dev.measAll (d : Dev) : List Byte := [1, 2, 3, 4].flatMap d.measBlock

/-- CHALLENGE: slot 0, with a measurement summary where it is asked for, signed by the identity key. -/
def execChallenge (ver slot kind : Byte) (context : BitVec 64) (s : State) : Host.Outcome State Fault Refusal :=
  s.run fun d => d.spdmAt ver.toNat 3 fun d =>
    if slot.toNat ≠ 0 ∨ !([0, 1, 0xFF].contains kind.toNat) then d.spdmErr SpdmErr.invalidRequest 0
    else
      let nonce := d.secretBytes 32
      let sig := nonce.2.secretBytes 512
      sig.2.spdm 0x13 0x03 0 1 (sha512 Config.certChain ++ nonce.1 ++ (if kind = 0 then [] else sha512 d.measAll) ++ [0, 0] ++
        natLe 8 context.toNat ++ sig.1)

/-- GET_MEASUREMENTS (R470): operation 0 asks for the count, 1 to 4 for one block, 0xFF for all; attribute bit 0 asks for a signature. -/
def execGetMeasurements (ver attr op : Byte) (context : BitVec 64) (s : State) : Host.Outcome State Fault Refusal :=
  s.run fun d => d.spdmAt ver.toNat 3 fun d =>
    let n := op.toNat
    if 4 < n ∧ n ≠ 0xFF then d.spdmErr SpdmErr.invalidRequest 0
    else
      let rec_ := if n = 0 then [] else if n = 0xFF then d.measAll else d.measBlock n
      let nonce := d.secretBytes 32
      let sig := if attr.getLsbD 0 then nonce.2.secretBytes 512 else ([], nonce.2)
      sig.2.spdm 0x13 0x60 (if n = 0 then 4 else 0) 0
        (natLe 1 (if n = 0 then 0 else if n = 0xFF then 4 else 1) ++ natLe 3 rec_.length ++ rec_ ++ nonce.1 ++ [0, 0] ++
          natLe 8 context.toNat ++ sig.1)

/-- Keep SEC_STATUS.SESSIONS with the open sessions. -/
def Dev.setSessions (d : Dev) (l : List Session) : Dev :=
  (d.setSec fun x => { x with sessions := l }).setFld Reg.SEC_STATUS_SESSIONS l.length

/-- KEY_EXCHANGE: at most two sessions at once. -/
def execKeyExchange (ver slot kind : Byte) (reqSession : BitVec 16) (s : State) : Host.Outcome State Fault Refusal :=
  s.run fun d => d.spdmAt ver.toNat 3 fun d =>
    if slot.toNat ≠ 0 ∨ !([0, 1, 0xFF].contains kind.toNat) then d.spdmErr SpdmErr.invalidRequest 0
    else if 2 ≤ d.sec.sessions.length then d.spdmErr SpdmErr.sessionLimitExceeded 0
    else
      let rsp := d.sec.nextSession % 65536
      let d := d.setSessions (d.sec.sessions ++ [⟨reqSession.toNat + 65536 * rsp, false, 0⟩])
      let x := (d.setSec fun x => { x with nextSession := x.nextSession + 1 }).secretBytes (32 + 96)
      let y := x.2.secretBytes (512 + 64)
      y.2.spdm 0x13 0x64 0 0 (natLe 2 rsp ++ [0, 0] ++ x.1 ++ (if kind = 0 then [] else sha512 d.measAll) ++ [0, 0] ++ y.1)

/-- A request inside a session: `done` says whether the handshake must be complete. -/
def Dev.inSession (d : Dev) (id : Nat) (done : Bool) (act : Session → Dev → Dev) : Dev :=
  d.spdmReq fun d => match d.sec.sessions.find? fun x => x.id == id && x.done == done with
    | none => d.spdmErr SpdmErr.sessionRequired 0
    | some x => act x d

def Dev.endSession (d : Dev) (id : Nat) : Dev := d.setSessions (d.sec.sessions.filter fun x => x.id != id)

/-- Change a session. -/
def Dev.onSession (d : Dev) (id : Nat) (f : Session → Session) : Dev :=
  d.setSec fun x => { x with sessions := x.sessions.map fun y => if y.id = id then f y else y }

/-- FINISH: `ok` says whether its verify data matches. -/
def execFinish (session : BitVec 32) (ok : Bool) (s : State) : Host.Outcome State Fault Refusal :=
  s.run fun d => d.inSession session.toNat false fun x d =>
    if ok then (d.onSession x.id fun y => { y with done := true }).spdm 0x13 0x65 0 0 []
    else (d.endSession x.id).spdmErr SpdmErr.decryptError 0

/-- HEARTBEAT. -/
def execHeartbeat (session : BitVec 32) (s : State) : Host.Outcome State Fault Refusal :=
  s.run fun d => d.inSession session.toNat true fun _ d => d.spdm 0x13 0x68 0 0 []

/-- KEY_UPDATE: operation 1 updates the requester's key, 2 both keys, 3 verifies the new key. -/
def execKeyUpdate (session : BitVec 32) (op tag : Byte) (s : State) : Host.Outcome State Fault Refusal :=
  s.run fun d => d.inSession session.toNat true fun x d =>
    if op = 0 ∨ 3 < op.toNat then d.spdmErr SpdmErr.invalidRequest 0
    else (d.onSession x.id fun y => { y with keys := y.keys + if op = 3 then 0 else 1 }).spdm 0x13 0x69 op.toNat tag.toNat []

/-- END_SESSION. -/
def execEndSession (session : BitVec 32) (s : State) : Host.Outcome State Fault Refusal :=
  s.run fun d => d.inSession session.toNat true fun x d => (d.endSession x.id).spdm 0x13 0x6C 0 0 []

/-- SPDM_UNSUPPORTED_REQUEST (R468). -/
def execSpdmUnsupportedRequest (code : Byte) (s : State) : Host.Outcome State Fault Refusal :=
  s.run fun d => d.spdmReq fun d => d.spdmErr SpdmErr.unsupportedRequest code.toNat

/-! ### IDE_KM (R471, R472) -/

/-- IDE stream states (Table 19.12). -/
def ideNone : Nat := 0
def ideKeyed : Nat := 1
def ideSecure : Nat := 2
def ideInsecure : Nat := 3

/-- The slot of a key set (0 or 1), direction (0 receive, 1 transmit) and substream (0 posted, 1 non-posted, 2 completion). -/
def keySlot (set dir sub : Nat) : Nat := 8 * set + 4 * dir + sub

/-- The six slots of a key set. -/
def keySlots (set : Nat) : List Nat := [0, 1, 2, 4, 5, 6].map (8 * set + ·)

def allIn (l m : List Nat) : Bool := l.all fun k => m.contains k

/-- The stream's state from its key slots: Secure while a whole key set is active, keyed once one is programmed. -/
def Dev.setIde (d : Dev) : Dev :=
  let sec := [0, 1].any fun k => allIn (keySlots k) d.sec.going
  let key := [0, 1].any fun k => allIn (keySlots k) d.sec.keys
  let v := if sec then ideSecure else if key then ideKeyed else if d.fld Reg.SEC_STATUS_IDE = ideInsecure then ideInsecure else ideNone
  (d.setFld Reg.SEC_STATUS_IDE v).setFld Reg.HIF_LINK_IDE (if sec then 1 else 0)

/-- The stream is lost: no key set is left (R472). -/
def Dev.loseIde (d : Dev) (v : Nat) : Dev :=
  ((d.setSec fun x => { x with keys := [], going := [] }).setFld Reg.SEC_STATUS_IDE v).setFld Reg.HIF_LINK_IDE 0

/-- An IDE_KM response inside VENDOR_DEFINED_RESPONSE. -/
def Dev.ideRsp (d : Dev) (body : List Byte) : Dev := d.spdm 0x13 0x7E 0 0 body

/-- An IDE_KM request: the session that carries it, none when it comes in the clear. -/
def Dev.ideReq (d : Dev) (session : Option (BitVec 32)) (bad act : Dev → Dev) : Dev :=
  d.spdmReq fun d =>
    if d.sec.sessions.any fun x => some x.id == session.map BitVec.toNat && x.done then act d else bad (d.bump Cnt.SEC_SPDM_ERR_CNT)

/-- IDE_KM QUERY: port 0, one link IDE stream. -/
def execIdeKmQuery (session : Option (BitVec 32)) (s : State) : Host.Outcome State Fault Refusal :=
  s.run fun d => d.ideReq session (fun d => d.spdm 0x13 0x7F SpdmErr.sessionRequired 0 []) fun d =>
    d.ideRsp ([1, 0, 0, 0, 0, 0, 0] ++ natLe 4 1 ++ natLe 4 (d.fld Reg.SEC_STATUS_IDE))

/-- KEY_PROG of stream `stream`: the acknowledgement carries status 0, 3 for a stream that does not exist, 4 outside a session. -/
def execKeyProg (session : Option (BitVec 32)) (stream : Byte) (set dir : Fin 2) (sub : Fin 3) (s : State) :
    Host.Outcome State Fault Refusal :=
  s.run fun d =>
    let k := keySlot set dir sub
    let ack := fun (st : Nat) (d : Dev) => d.ideRsp ([3, 0, 0] ++ natLe 1 stream.toNat ++ natLe 1 st ++ natLe 1 k ++ [0])
    d.ideReq session (ack 4) fun d =>
      if stream.toNat ≠ 0 then ack 3 (d.bump Cnt.SEC_SPDM_ERR_CNT)
      else ack 0 (d.setSec fun x => { x with keys := if x.keys.contains k then x.keys else k :: x.keys }).setIde

/-- K_SET_GO: an active slot uses the programmed key. -/
def execKSetGo (session : Option (BitVec 32)) (set dir : Fin 2) (sub : Fin 3) (s : State) : Host.Outcome State Fault Refusal :=
  s.run fun d =>
    let k := keySlot set dir sub
    d.ideReq session (fun d => d.spdm 0x13 0x7F SpdmErr.sessionRequired 0 []) fun d =>
      let d := if d.sec.keys.contains k && !d.sec.going.contains k then (d.setSec fun x => { x with going := k :: x.going }).setIde else d
      d.ideRsp ([6, 0, 0, 0, 0] ++ natLe 1 k ++ [0])

/-- K_SET_STOP. -/
def execKSetStop (session : Option (BitVec 32)) (set dir : Fin 2) (sub : Fin 3) (s : State) : Host.Outcome State Fault Refusal :=
  s.run fun d =>
    let k := keySlot set dir sub
    d.ideReq session (fun d => d.spdm 0x13 0x7F SpdmErr.sessionRequired 0 []) fun d =>
      (d.setSec fun x => { x with going := x.going.filter (· != k), keys := x.keys.filter (· != k) }).setIde.ideRsp
        ([6, 0, 0, 0, 0] ++ natLe 1 k ++ [0])

/-- IDE_INTEGRITY_FAIL (R472). -/
def execIdeIntegrityFail (s : State) : Host.Outcome State Fault Refusal :=
  s.run fun d => if d.fld Reg.SEC_STATUS_IDE = ideSecure then (d.bump Cnt.SEC_IDE_ERR_CNT).loseIde ideInsecure else d

/-! ### SEC_LOCK (R475) -/

/-- A write of LOCK. -/
def Dev.lockSec (d : Dev) : Dev := d.setSec fun x => { x with locked := true }

/-- SEC_LOCK (R475): a write of `v`. -/
def execSecLock (v : BitVec 32) (s : State) : Host.Outcome State Fault Refusal :=
  s.run fun d => if v.toNat % 2 = 1 then d.lockSec else d

end Sys2Proof.Machine
end

