-- ==== Sys2Proof/Machine/Faults.lean ====
section
/-!
DEFINITION. Silent errors and the deadman (R400 to R413): sentinel entries, the two checks, repeat to classify, test pattern packs
and the watchdog. MXC_CHECK, TUN_CHECK, WDOG_KICK.
-/

namespace Sys2Proof.Machine

/-! ### Sentinel entries (Table 16.1) -/

structure SentEntry where
  op : Nat
  cls : Nat
  unit : Nat
  inAddr : Nat
  inBytes : Nat
  task : Nat
  scratch : Nat
  size : Nat
  outOff : Nat
  outBytes : Nat
  sig : Nat
  lsb : Nat
  vecs : Nat
  rsv : Nat
  deriving DecidableEq, Repr

def parseSent (b : List Byte) : SentEntry :=
  ⟨rdLe b 0 2, rdLe b 2 1, rdLe b 4 2, rdLe b 8 8, rdLe b 0x10 4, rdLe b 0x14 4, rdLe b 0x18 8, rdLe b 0x20 4, rdLe b 0x24 4,
    rdLe b 0x28 4, rdLe b 0x2C 4, rdLe b 0x30 1, rdLe b 0x31 1, rdLe b 3 1 + rdLe b 6 2 + rdLe b 0x32 14⟩

/-- The SENTINEL segment of an image: its bytes. -/
def imgSent (i : List Byte) : List Byte := match imgFind i 8 with | some s => imgBytes i s | none => []

def sentEntries (b : List Byte) : List SentEntry := (entries 64 (b.drop 64)).map parseSent

/-- Is the entry's operation one of its class, with the other class's fields 0? -/
def SentEntry.shapeOk (x : SentEntry) : Bool :=
  x.rsv == 0 && x.inBytes % 64 == 0 &&
  (if x.cls = 2 then x.op == 0x70 && x.unit < 128 && x.lsb == 0 && x.vecs == 0
    else x.cls == 1 && x.op == 0x71 && x.unit < 32 && x.task == 0 && x.outOff == 0 && x.outBytes == 0 && x.sig == 0 &&
      x.lsb ≤ 4 && 1 ≤ x.vecs && x.vecs ≤ 64)

def SentEntry.ok (x : SentEntry) : Bool :=
  x.shapeOk && x.scratch % 64 == 0 && x.inBytes ≤ x.size &&
  (if x.cls = 2 then inMxc x.unit x.scratch x.size else inBasin x.unit x.scratch x.size)

/-- The units (class, index) with a SENTINEL slot in some template. -/
def sentUnits (i : List Byte) : List (Nat × Nat) :=
  (((imgSegs i).filter fun s => s.kind == 2 && (s.cls == 1 || s.cls == 2) &&
    ((entries 16 (imgBytes i s)).map parseSlot).any fun x => x.kind == 5).map fun s => (s.cls, s.unit)).dedup

/-- R400: the SENTINEL segment as check RESERVED_FIELD tests it. -/
def sentinelOk (i : List Byte) : Bool :=
  let b := imgSent i
  let us := sentUnits i
  if b.isEmpty then us.isEmpty
  else
    let es := sentEntries b
    64 ≤ b.length && b.length % 64 == 0 && es.length == rdLe b 0 4 && ((b.take 64).drop 8).all (· == 0) && es.all SentEntry.ok &&
    pairwiseOk (fun (a c : SentEntry) => !(a.cls == c.cls && a.unit == c.unit)) es &&
    es.all (fun x => us.contains (x.cls, x.unit)) && us.all fun u => es.any fun x => x.cls == u.1 && x.unit == u.2

/-- The built-in entry of a unit. -/
def Dev.sentEntry (d : Dev) (cls unit : Nat) : Option SentEntry :=
  (sentEntries (imgSent d.program)).find? fun x => x.cls == cls && x.unit == unit

/-! ### Unit records and the choice of an entry (R404, R408) -/

def freshSent : SentUnit := ⟨0, 0, 0, false⟩
/-- The record of a unit: key `c` of an MXC, 128 + b of a basin. -/
def Dev.sentUnit (d : Dev) (k : Nat) : SentUnit := (SMap.get (fun _ => none) d.flt.units k).getD freshSent
def Dev.setSentUnit (d : Dev) (k : Nat) (u : SentUnit) : Dev :=
  { d with flt := { d.flt with units := SMap.set (fun _ => none) d.flt.units k (if u = freshSent then none else some u) } }

/-- Start of pack bank `k` (R407). -/
def Dev.packBank (d : Dev) (k : Nat) : Nat := d.fwRegion + 0x11400000 + k * 0x1000000

/-- Entry `j` of the active pack, its 128 bytes. -/
def Dev.packEntry (d : Dev) (bank j : Nat) : List Byte := d.read (d.packBank bank + 64 + 128 * j) 128

/-- Add a base address to a field of a descriptor. -/
def addField (b : List Byte) (off n v : Nat) : List Byte := b.take off ++ natLe n (rdLe b off n + v) ++ b.drop (off + n)

/-- The parameters of a kernel operation that are addresses (Table 8.4). -/
def addrParams : Nat → List Nat
  | 0x12 => [0, 1]
  | 0x13 => [0, 1, 3]
  | 0x20 => [0, 1]
  | 0x30 => [0, 2, 3]
  | 0x31 => [0, 1, 2, 3]
  | 0x40 => [0, 1, 2]
  | 0x41 => [0, 1, 2]
  | 0x50 => [0, 1, 2, 4, 5]
  | 0x58 => [0, 2]
  | 0x60 => [0, 1, 2, 3]
  | 0x61 => [0, 1, 2, 3, 5]
  | _ => []

/-- Relocate a pack entry's task to a unit's scratch area (R406). -/
def relocate (b : List Byte) (base : Nat) : List Byte :=
  if rdLe b 0 2 = 0x10 then addField (addField (addField (addField b 0x18 8 base) 0x20 8 base) 0x28 8 base) 0x30 6 base
  else
    let b' := (addrParams (rdLe b 0 2)).foldl (fun b i =>
      if i = 2 ∧ rdLe b 0 2 = 0x30 ∧ rdLe b 0x18 8 = 0 then b else addField b (8 + 8 * i) 8 base) b
    if rdLe b 0 2 = 0x30 then addField b' 0x30 6 base else b'

/-- The buffers of an MXC task of `n` items. -/
def Dev.taskRanges (d : Dev) (b : List Byte) (n : Nat) : List (Nat × Nat) :=
  if rdLe b 0 2 = 0x10 then let x := parseMat b; [x.aRange, x.bRange, x.cRange, x.hRange]
  else
    let r := d.kerRanges (parseKer b) n
    r.1 ++ r.2

/-- R401: do a task's operands, output and histogram slot lie in the scratch area? -/
def Dev.inScratch (d : Dev) (x : SentEntry) (b : List Byte) (n : Nat) : Bool :=
  (d.taskRanges b n).all fun r => inside r.1 r.2 x.scratch x.size

/-- What a check runs: the entry with its addresses made absolute, the MXC task, and where it came from: a pack bank and the entry's index. -/
structure Check where
  entry : SentEntry
  desc : List Byte
  pack : Option (Nat × Nat)
  deriving DecidableEq, Repr

/-- The check of pack entry `j` on a unit whose built-in entry is `x`; none where the entry does not apply. -/
def Dev.packCheck (d : Dev) (bank j : Nat) (x : SentEntry) : Option Check :=
  let b := d.packEntry bank j
  let p := parseSent b
  if p.cls == x.cls && p.op == x.op && (p.unit == x.unit || p.unit == 0xFFFF) then
    some ⟨{ p with inAddr := d.packBank bank + p.inAddr, scratch := x.scratch, size := x.size, unit := x.unit },
      relocate (b.drop 64) x.scratch, some (bank, j)⟩
  else none

/-- R408: does the entry fit the unit's scratch area? -/
def Dev.checkFits (d : Dev) (c : Check) (items : Nat) : Bool :=
  c.entry.inBytes ≤ c.entry.size && (c.entry.cls != 2 || d.inScratch c.entry c.desc (d.mxcItems c.desc items))

/-- The next applicable pack entry from position `j` that fits; entries that do not fit are passed over and counted. Answers the
check, the position after it and whether the pack has wrapped. -/
def Dev.nextPack (bank count items : Nat) (x : SentEntry) : Nat → Nat → Bool → Dev → Option (Check × Nat × Bool) × Dev
  | 0, _, _, d => (none, d)
  | fuel + 1, j, wrapped, d =>
    let next := if j + 1 < count then j + 1 else 0
    let wrapped' := wrapped || j + 1 == count
    match d.packCheck bank j x with
    | none => Dev.nextPack bank count items x fuel next wrapped' d
    | some c =>
      if d.checkFits c items then (some (c, next, wrapped'), d)
      else Dev.nextPack bank count items x fuel next wrapped' (d.bump Cnt.FLT_TPACK_SKIP_CNT)

/-- PASSES rises once every unit has run every entry that applies to it (R408). -/
def Dev.countPasses (d : Dev) : Dev :=
  let keys := (sentEntries (imgSent d.program)).map fun x => if x.cls = 2 then x.unit else 128 + x.unit
  if keys.all fun k => (d.sentUnit k).wrapped then
    let d := d.setFld Reg.FLT_TPACK_STATUS_PASSES (d.fld Reg.FLT_TPACK_STATUS_PASSES + 1)
    keys.foldl (fun d k => d.setSentUnit k { d.sentUnit k with wrapped := false }) d
  else d

/-- The built-in check of a unit. -/
def Dev.builtIn (d : Dev) (x : SentEntry) : Check := ⟨x, imgTask d.program x.cls x.unit x.task, none⟩

/-- R404, R408: what a SENTINEL slot of a unit runs: its pending retest, its pack turn, or its built-in entry. `key` is the unit's
record, `who` its retest key. -/
def Dev.chooseCheck (d : Dev) (key who items : Nat) (x : SentEntry) : Check × Dev :=
  let u := d.sentUnit key
  let d := d.setSentUnit key { u with slots := (u.slots + 1) % 2 ^ 15 }
  match (d.flt.retests.find? fun r => r.who == who).map (·.pack), d.flt.packActive with
  | some (some (bank, j)), _ => ((d.packCheck bank j x).getD (d.builtIn x), d)
  | some none, _ => (d.builtIn x, d)
  | none, none => (d.builtIn x, d)
  | none, some bank =>
    if (u.slots + 1) % 2 ^ d.flt.tpackLog2 ≠ 0 then (d.builtIn x, d)
    else
      let count := d.rd (d.packBank bank + 8) 4
      let u := d.sentUnit key
      match Dev.nextPack bank count items x count (u.packPos % max 1 count) false d with
      | (none, d) => (d.builtIn x, d.setSentUnit key { d.sentUnit key with wrapped := true })
      | (some (c, next, wrapped), d) =>
        (c, (d.setSentUnit key { d.sentUnit key with packPos := next, wrapped := u.wrapped || wrapped }).countPasses)

/-! ### Classification (R404, R405) -/

namespace SentCause
def sig : Nat := 0
def ref : Nat := 1
def data : Nat := 2
def timeout : Nat := 3
def desc : Nat := 4
end SentCause

/-- FLT_SENT_LAST. `epoch` is the first mismatch's. -/
def Dev.sentLast (d : Dev) (cls unit cause result epoch : Nat) (pack : Bool) : Dev :=
  let d := ((d.setFld Reg.FLT_SENT_LAST_CLASS cls).setFld Reg.FLT_SENT_LAST_UNIT unit).setFld Reg.FLT_SENT_LAST_CAUSE cause
  ((d.setFld Reg.FLT_SENT_LAST_RESULT result).setFld Reg.FLT_SENT_LAST_EPOCH epoch).setFld Reg.FLT_SENT_LAST_PACK pack.toNat

/-- The retest key of a unit: an MXC, or 128 + Tun. -/
def sentWho (cls unit : Nat) : Nat := if cls = 2 then unit else 128 + unit

/-- R405: the action on a permanent fault of a unit whose fault bit was 0. -/
def Dev.permAction (d : Dev) (cls unit : Nat) : Dev :=
  let hold := fun (d : Dev) => { d with red := { d.red with holdNext := true } }
  if cls = 2 then (if d.flt.mxcAction = 1 then hold d else d)
  else match d.flt.tunAction with
    | 0 => d
    | 1 => d.kilnRequest (unit / 64) true
    | _ => (hold d).kilnRequest (unit / 64) true

/-- R404: the outcome of a check on a unit: `cause` for a failure. A retest shows the epoch of its unit's first mismatch, and a match its cause. -/
def Dev.sentOutcome (d : Dev) (cls unit : Nat) (pack : Option (Nat × Nat)) (cause : Option Nat) : Dev :=
  let who := sentWho cls unit
  let isPack := pack.isSome
  let d := d.bump (if isPack then Cnt.FLT_TPACK_RUN_CNT else Cnt.FLT_SENTINEL_RUN_CNT)
  let clear := fun (d : Dev) => { d with flt := { d.flt with retests := d.flt.retests.filter (fun r => r.who != who) } }
  match cause, d.flt.retests.find? fun r => r.who == who with
  | none, none => d
  | none, some r =>
    let d := (clear d).bump (if isPack then Cnt.FLT_TPACK_TRANS_CNT else Cnt.FLT_SENTINEL_TRANS_CNT)
    (d.sticky Reg.FLT_STK0_SENTINEL_TRANS).sentLast cls unit r.cause 2 r.epoch isPack
  | some c, none =>
    let e := d.epoch % 2 ^ 32
    let d := (d.bump Cnt.FLT_SENTINEL_MIS_CNT).sentLast cls unit c 1 e isPack
    { d with flt := { d.flt with retests := ⟨who, pack, c, e⟩ :: d.flt.retests } }
  | some c, some r =>
    let d := ((clear d).bump Cnt.FLT_SENTINEL_MIS_CNT).sentLast cls unit c 3 r.epoch isPack
    if isPack then (d.bump Cnt.FLT_TPACK_FAIL_CNT).sticky Reg.FLT_STK0_TEST_FAIL
    else
      let f := if cls = 2 then Reg.FLT_MXC_FAULT_FAULT (unit / 64) else Reg.FLT_TUN_FAULT_FAULT (unit / 64)
      let was := bit (d.fld f) (unit % 64)
      let d := ((d.bump Cnt.FLT_SENTINEL_PERM_CNT).sticky Reg.FLT_STK0_SENTINEL_PERM).setFld f (setBit (d.fld f) (unit % 64))
      if was then d else d.permAction cls unit

/-! ### MXC_CHECK (R401) -/

/-- Run a whole MXC task in the running record's place. -/
def Dev.wholeTask (d : Dev) (c : Nat) (r : Running) (b : List Byte) : Dev :=
  let key := unitKey 2 c 0
  let n := d.mxcItems b r.slot.items
  let t := { r with desc := b, total := n, planned := n, done := 0, late := false, failed := false, idle := false, complete := false }
  let d := d.setRunning key (some t)
  match rdLe b 0 2 with
  | 0x10 => d.matmul c n
  | 0x12 => d.move c n
  | 0x13 => d.gatherRows c n
  | 0x20 => d.vprog c
  | 0x30 => d.assemble c n
  | 0x31 => d.bwdWot c n
  | 0x40 => d.attn c 0x40 n Dev.attnFwdBlock
  | 0x41 => d.attn c 0x41 n Dev.attnBwdBlock
  | 0x50 => d.normBwd c n
  | 0x58 => d.tiesum c n
  | 0x60 => d.compare c n
  | 0x61 => d.lrFit c
  | _ => d

/-- Are the pack area's words that a check reads uncorrectable? -/
def Dev.packPoisoned (d : Dev) (c : Check) : Bool :=
  match c.pack with
  | some (bank, j) => !(d.poisoned (d.packBank bank + 64 + 128 * j) 128).isEmpty || !(d.poisoned c.entry.inAddr c.entry.inBytes).isEmpty
  | none => false

/-- Table 16.5: an uncorrectable word in the pack area discards the run; one in the SENTINEL segment or elsewhere acts by class. -/
def Dev.packDiscard (d : Dev) : Dev := d.bump Cnt.FLT_TPACK_SKIP_CNT

/-- The SENTINEL slot of a unit in progress. -/
def Dev.sentSlot (d : Dev) (key : Nat) : Option Running :=
  match d.running? key with
  | some r => if r.slot.kind == 5 && !r.complete && !d.frm.frozen then some r else none
  | none => none

/-- MXC_CHECK on cluster `c`: copy, run, compare. -/
def Dev.mxcSentinel (d : Dev) (c : Nat) : Dev :=
  let key := unitKey 2 c 0
  match d.sentSlot key, d.sentEntry 2 c with
  | some r, some x =>
    let (ck, d) := d.chooseCheck c c r.slot.items x
    let finish := fun (d : Dev) => d.setRunning key (some { r with complete := true, done := r.total })
    if d.packPoisoned ck then finish d.packDiscard
    else
      let e := ck.entry
      let d := (d.poisoned e.inAddr e.inBytes).foldl (fun d w => d.uncorr true (8 * w)) d
      let d := d.write e.scratch (d.read e.inAddr e.inBytes)
      let n := d.mxcItems ck.desc r.slot.items
      if d.mxcCheck c ck.desc n false ≠ 0 || !d.inScratch e ck.desc n || e.size < e.outOff + e.outBytes then
        (finish d).sentOutcome 2 c ck.pack (some SentCause.desc)
      else
        let d := d.wholeTask c r ck.desc
        -- A vector program met a bad instruction (R208).
        let stopped := (d.vecPos c).stopped && rdLe ck.desc 0 2 == 0x20
        let d := finish d
        if stopped then d.sentOutcome 2 c ck.pack (some SentCause.desc)
        else if crc32c (d.read (e.scratch + e.outOff) e.outBytes) ≠ e.sig then d.sentOutcome 2 c ck.pack (some SentCause.sig)
        else d.sentOutcome 2 c ck.pack none
  | _, _ => d

/-- MXC_CHECK (R401). -/
def execMxcCheck (c : Fin 128) (e : Ecc) (s : State) : Host.Outcome State Fault Refusal := s.run fun d => (d.ecc e).mxcSentinel c

/-! ### TUN_CHECK (R402) -/

/-- The expected level of cell (r, c): the programmed image with the current pending bank applied, its last entry for the cell where it holds several. -/
def Dev.pendLevel (d : Dev) (t : Nat) (pend : List PendEntry) (r c : Nat) : Int :=
  match pend.reverse.find? fun p => p.row == r && p.col == c with
  | some p => p.cell
  | none => d.imageLevel (d.tunImage t) r c

/-- What a Tun check gathers: per reference column the error sum in 1/16 step and the phases counted; whether DATA failed. -/
structure TunCheck where
  err : List (Int × Nat)
  data : Bool
  deriving DecidableEq, Repr

/-- Add one phase of a vector to the reference columns' errors (R76): a code at 0 or 255 is left out. -/
def Dev.refErrors (d : Dev) (t lsb g base : Nat) (codes : List Int) (l : List (Int × Nat)) : List (Int × Nat) :=
  (List.range 8).map fun k =>
    let c := 512 + k
    let x := phaseSum ((List.range 64).map (64 * g + ·)) codes (refLevel c)
    let n := d.readColumn t c g lsb (base + c) (Config.junction base) x
    let old := l.getD k (0, 0)
    if saturated n then old else (old.1 + (n * 16 - x * (2 ^ (4 - lsb) : Nat)), old.2 + 1)

/-- Does sampled column `c` differ from its expected sum by more than R402 allows? A degraded column is left out. -/
def Dev.dataBad (d : Dev) (t lsb tol base c : Nat) (codes : List Int) (pend : List PendEntry) : Bool :=
  let step : Int := (2 ^ lsb : Nat)
  let rows := fun g => (List.range 64).map (64 * g + ·)
  let got : Int := ((List.range 16).map fun g =>
    d.readColumn t c g lsb (base + 520 * g + c) (Config.junction (base + 520 * g)) (phaseSum (rows g) codes fun r => d.cell t r c) * step).sum
  let want : Int := ((List.range 16).map fun g =>
    clampInt (-128 * step) (127 * step) (phaseSum (rows g) codes fun r => d.pendLevel t pend r c)).sum
  !d.kln.degraded.contains (t * 520 + c) && decide (2 * want.natAbs + 16 * tol * 2 ^ lsb < 256 * (got - want).natAbs)

/-- One test vector. -/
def Dev.tunVector (t lsb tol group stride scratch : Nat) (pend : List PendEntry) (st : TunCheck × Dev) (v : Nat) : TunCheck × Dev :=
  let d := st.2
  let raw := (List.range 1024).map fun j => d.inCode (scratch + v * stride) j
  let codes := raw.map dacCode
  let base := d.draws
  let err := (List.range 16).foldl (fun l g => d.refErrors t lsb g (base + 520 * g) codes l) st.1.err
  let bad := (List.range 16).any fun k => d.dataBad t lsb tol base (16 * group + k) codes pend
  let d := ({ d with draws := base + 520 * 16 }.bump Cnt.TUN_VEC_CNT).bumpBy Cnt.TUN_IN_CODE_CNT (raw.filter fun c => c == 8).length
  (⟨err, st.1.data || bad⟩, if bit (d.fld (Reg.TUN_RETIRED_RETIRED (t / 64))) (t % 64) then d.bump Cnt.TUN_RETIRED_RUN_CNT else d)

/-- TUN_CHECK on basin `b` in the slot under `sub`. -/
def Dev.tunSentinel (d : Dev) (b sub : Nat) : Dev :=
  let key := unitKey 1 b sub
  match d.sentSlot key, d.sentEntry 1 b with
  | some r, some x =>
    let i := if sub = 0xFF then (d.sentUnit (128 + b)).cursor else sub
    let t := 64 * b + i
    let finish := fun (d : Dev) => d.setRunning key (some { r with complete := true, done := r.total })
    let (ck, d) := d.chooseCheck (128 + b) (128 + t) r.slot.items x
    if d.packPoisoned ck then finish d.packDiscard
    else
      let e := ck.entry
      let d := (d.poisoned e.inAddr e.inBytes).foldl (fun d w => d.uncorr true (8 * w)) d
      let d := d.write e.scratch (d.read e.inAddr e.inBytes)
      let count := SMap.get (fun _ => 0) d.flt.checks t
      let head := imgSent d.program
      let stride := e.inBytes / max 1 e.vecs
      let pend := d.pendEntries t d.rack.bank (d.pendCount t)
      let res := (List.range e.vecs).foldl (Dev.tunVector t e.lsb (rdLe head 6 2) (count % 32) stride e.scratch pend)
        (⟨List.replicate 8 (0, 0), false⟩, d)
      let d := finish res.2
      if bit (d.fld (Reg.TUN_STALE_STALE b)) i then d
      else
        let d := { d with flt := { d.flt with checks := SMap.set (fun _ => 0) d.flt.checks t (count + 1) } }
        let ref := res.1.err.any fun q => decide (rdLe head 4 2 * q.2 < 16 * q.1.natAbs)
        let cause := if ref then some SentCause.ref else if res.1.data then some SentCause.data else none
        let d := d.sentOutcome 1 t ck.pack cause
        if cause.isNone && sub == 0xFF then d.setSentUnit (128 + b) { d.sentUnit (128 + b) with cursor := (i + 1) % 64 } else d
  | _, _ => d

/-- TUN_CHECK (R402): the slot of basin `b` for one Tun, or for all. -/
def execTunCheck (b : Fin 32) (sub : Option (Fin 64)) (e : Ecc) (s : State) : Host.Outcome State Fault Refusal :=
  s.run fun d => (d.ecc e).tunSentinel b (match sub with | some i => i.val | none => 0xFF)

/-- R403: a check still running at its slot end fails with cause TIMEOUT. -/
def Dev.sentTimeout (d : Dev) (cls idx sub : Nat) : Dev :=
  match d.sentEntry cls idx with
  | none => d
  | some x =>
    let key := if cls = 2 then idx else 128 + idx
    let i := if sub = 0xFF then (d.sentUnit key).cursor else sub
    let unit := if cls = 2 then idx else 64 * idx + i
    let ck := d.chooseCheck key (sentWho cls unit) 0 x
    if cls = 1 ∧ bit (ck.2.fld (Reg.TUN_STALE_STALE idx)) i then ck.2
    else ck.2.sentOutcome cls unit ck.1.pack (some SentCause.timeout)

/-! ### The deadman (R411) -/

/-- The watchdog starts to count: at the ENTRY of an image. -/
def Dev.armWatchdog (d : Dev) : Dev :=
  (((d.setFld Reg.FLT_WDOG_STATUS_ARMED 1).setFld Reg.FLT_WDOG_STATUS_EXPIRED 0).setFld Reg.FLT_WDOG_STATUS_REMAIN 50)

/-- WDOG_KICK (R411): master `m` writes `v` to FLT_WDOG. -/
def execWdogKick (m : Master) (v : Byte) (s : State) : Host.Outcome State Fault Refusal :=
  s.run fun d =>
    if !isMgmt (masterId m) then d.bump Cnt.FLT_WDOG_DENY_CNT
    else if v = 0xA5 ∧ d.flag Reg.FLT_WDOG_STATUS_ARMED then d.setFld Reg.FLT_WDOG_STATUS_REMAIN 50
    else d

/-- WDOG_EXPIRE (R411): 50 ms have passed without service. -/
def Dev.wdogExpire (d : Dev) : Dev :=
  if !d.flag Reg.FLT_WDOG_STATUS_ARMED then d
  else
    let d := (d.sticky Reg.FLT_STK0_FW_DEAD).setFld Reg.FLT_WDOG_STATUS_EXPIRED 1
    let d := ((d.setFld Reg.FLT_WDOG_STATUS_ARMED 0).setFld Reg.FLT_WDOG_STATUS_REMAIN 0).bump Cnt.FLT_WDOG_EXPIRE_CNT
    let d := (d.setFld Reg.MBX_STATUS_FW 5).mgmtDown
    (d.fire 0).freeze 4

end Sys2Proof.Machine
end

