-- ==== Sys2Proof/Machine/Grants.lean ====
section
/-!
DEFINITION. Digital fallback (R107 to R115, R223): placement lists and slot sets, the request vector, the grants of a step boundary and
of a resume, and the layer statistics table.
-/

namespace Sys2Proof.Machine

/-! ### Slot sets (R109) -/

/-- A placement list (Table 4.9): its candidates as (layer, task), or none where the descriptor is no valid list. -/
def parsePlace (b : List Byte) : Option (List (Nat × Nat)) :=
  let n := rdLe b 2 1
  let cand := fun j => rdLe b (8 + 8 * j) 8
  if rdLe b 0 2 = 0xF0 ∧ 1 ≤ n ∧ n ≤ 7 ∧ rdLe b 3 5 = 0 ∧ (List.range n).all (fun j => bits (cand j) 31 12 == 0) then
    some ((List.range n).map fun j => (bits (cand j) 11 0, bits (cand j) 63 32))
  else none

/-- A FALLBACK slot of a program: cluster, template and place in the table, with its candidates. -/
structure FbSlot where
  mxc : Nat
  template : Nat
  place : Nat
  cands : Option (List (Nat × Nat))
  deriving DecidableEq, Repr

/-- Every FALLBACK slot of a program. -/
def imgFallback (i : List Byte) : List FbSlot :=
  ((imgSegs i).filter fun s => s.kind == 2 && s.cls == 2).flatMap fun s =>
    let l := (entries 16 (imgBytes i s)).map parseSlot
    (l.zip (List.range l.length)).filterMap fun x =>
      if x.1.kind = 6 then some ⟨s.unit, s.template, x.2, parsePlace (imgTask i 2 s.unit x.1.task)⟩ else none

/-- The FALLBACK slot names the layer. -/
def FbSlot.names (x : FbSlot) (l : Nat) : Bool := match x.cands with
  | some c => c.any fun p => p.1 == l
  | none => false

/-- A layer's slot set, as places in the list of all FALLBACK slots. -/
def slotSet (fb : List FbSlot) (l : Nat) : List Nat := (List.range fb.length).filter fun k => match fb[k]? with
  | some x => x.names l
  | none => false

/-- R108, R109: at an activation, reserved WEIR_MODE encodings and slots without a valid placement list are counted. -/
def Dev.countDescErrs (d : Dev) : Dev :=
  let bad := ((imgFallback d.program).filter fun x => x.cands.isNone).length
  d.bumpBy Cnt.SPG_DESC_ERR_CNT (bad + ((imgLayers d.program).filter fun e => 1 < e.weir).length)

/-- The layers that the device holds, in ascending order. -/
def Dev.heldLayers (d : Dev) : List Nat := (imgLayers d.program).map (·.layer)

/-! ### Grants (R112, R223, R58) -/

/-- Walk the candidates in order: those whose slot sets are not empty and clear of the slots taken are granted. -/
def pickGrants (sets : Nat → List Nat) : List Nat → List Nat → List Nat
  | _, [] => []
  | taken, l :: ls =>
    let s := sets l
    if !s.isEmpty && !s.any taken.contains then l :: pickGrants sets (s ++ taken) ls else pickGrants sets taken ls

/-- Make a list of layers the granted ones. -/
def Dev.setGrants (d : Dev) (new : List Nat) (denied : Nat) : Dev :=
  let d := (List.range 64).foldl (fun d i => d.setFld (Reg.SPG_GRANT_GRANT i)
    ((List.range 64).map fun j => if new.contains (64 * i + j) then 2 ^ j else 0).sum) d
  (d.setFld Reg.SPG_FB_STATUS_GRANTED new.length).setFld Reg.SPG_FB_STATUS_DENIED (min 0xFFFF denied)

/-- Slot sets of the active variant. -/
def Dev.slotSets (d : Dev) : Nat → List Nat :=
  let fb := imgFallback d.program
  fun l => slotSet fb l

/-- R223: the grants of a digital mode. -/
def Dev.digitalGrants (d : Dev) : Dev :=
  let held := d.heldLayers
  let new := pickGrants d.slotSets [] held
  let left := held.filter fun l => !new.contains l
  let d := { d with num := { d.num with analog := left } }
  (d.bumpBy Cnt.NUM_DFWD_ANALOG_CNT left.length).setGrants new 0

/-- R58: grants carried to another variant, without a count. -/
def Dev.carryGrants (d : Dev) : Dev :=
  d.setGrants (pickGrants d.slotSets [] (d.heldLayers.filter d.granted)) (d.fld Reg.SPG_FB_STATUS_DENIED)

/-- Order of R112: the greater request first, then the lower layer. -/
def grantBefore (k : Nat → Nat) (a b : Nat) : Bool := decide (k b < k a) || (k a == k b && a ≤ b)

/-- R112: the grants for the next step from the combined request vector `k`. -/
def Dev.analogGrants (d : Dev) (k : Nat → Nat) : Dev :=
  let held := d.heldLayers
  let hold := held.foldl (fun m l =>
    let h := SMap.get (fun _ => 0) m l
    SMap.set (fun _ => 0) m l (if 0 < k l then d.spg.fbHold else if d.granted l && 0 < h then h - 1 else h)) d.spg.hold
  let cands := (held.filter fun l => 0 < k l || (d.granted l && 0 < SMap.get (fun _ => 0) hold l)).mergeSort (grantBefore k)
  let new := if d.spg.fbEn then pickGrants d.slotSets [] cands else []
  let denied := (cands.filter fun l => 0 < k l && !new.contains l).length
  let d := { d with spg := { d.spg with hold := hold }, num := { d.num with analog := [] } }
  let d := ((d.bumpBy Cnt.SPG_FB_GRANT_CNT new.length).bumpBy Cnt.SPG_FB_DENY_CNT denied).setGrants new denied
  let streak := if 0 < denied then min 0xFFFF (d.fld Reg.SPG_FB_STATUS_STREAK + 1) else 0
  let d := d.setFld Reg.SPG_FB_STATUS_STREAK streak
  if d.spg.exhaust ≤ streak then
    let d := (d.sticky Reg.FLT_STK0_FALLBACK_EXHAUSTED).bump Cnt.SPG_FB_EXHAUST_CNT
    (List.range 32).foldl (fun d b => d.kilnRequest b true) d
  else d

/-- The grants at a boundary: `k` is the combined request vector where it arrived complete; without it they stay as they were (R112). -/
def Dev.boundaryGrants (d : Dev) (k : Option (Nat → Nat)) : Dev :=
  if d.fld Reg.NUM_MODE_ACTIVE ≠ 0 then d.digitalGrants
  else match k with
    | some k => d.analogGrants k
    | none => d

/-! ### Requests and layer statistics (R107, R111) -/

/-- A saturating 32-bit field. -/
def sat32 (n : Nat) : Nat := min (2 ^ 32 - 1) n

/-- RATE of Table 4.7, from the fields of the entry. -/
def LayerStats.rate (s : LayerStats) : Nat := if s.inElems = 0 then 0 else min 0xFFFF (sat32 s.outClip * 2 ^ 20 / s.inElems)

/-- R111: the device's request vector, formed at the start of the token frame. -/
def Dev.formRequest (d : Dev) : Dev :=
  let req := (imgLayers d.program).foldl (fun m e =>
    let s := SMap.get (fun _ => zeroStats) d.spg.stats e.layer
    if e.weir = 1 ∧ 0 < s.outClip ∧ d.spg.escMin ≤ s.rate then SMap.insert m e.layer (min s.rate 0xFFFE + 1) else m) []
  { d with spg := { d.spg with request := req } }

/-- R107, R108: the layers with statistics: those with a LAYER entry, and those that basin tasks of the program name without one. -/
def Dev.statLayers (d : Dev) : List Nat :=
  let fwd := ((imgSegs d.program).filter fun s => s.kind == 3 && s.cls == 1).flatMap fun s =>
    ((entries 64 (imgBytes d.program s)).map parseFwd).filterMap fun f => if f.op = 1 ∧ f.layer < 4096 then some f.layer else none
  (d.heldLayers ++ fwd).dedup

/-- R107: write the layer statistics table for the ended step's layers. The flags show the grants of the next step. -/
def Dev.writeLayerStats (d : Dev) (layers : List Nat) : Dev :=
  if !bit d.spg.lstat 63 then d
  else
    let base := bits d.spg.lstat 47 6 * 64
    layers.foldl (fun d l =>
      let s := SMap.get (fun _ => zeroStats) d.spg.stats l
      let req := 0 < SMap.get (fun _ => 0) d.spg.request l
      let flags := (if req then 1 else 0) + (if d.granted l then 2 else 0) + if req && !d.granted l then 4 else 0
      d.write (base + 32 * l) (natLe 8 s.inElems ++ natLe 4 (sat32 s.outAcc) ++ natLe 4 (sat32 s.outClip) ++ natLe 4 (sat32 s.satAcc) ++
        natLe 4 (sat32 s.satDec) ++ natLe 2 s.rate ++ natLe 1 flags ++ List.replicate 5 0)) d

/-- The counts of the frames after the token go to the next step (R107). -/
def Dev.shiftStats (d : Dev) : Dev :=
  { d with spg := { d.spg with stats := d.spg.nextStats, nextStats := [], request := [] } }

/-- R116: the SPG settings in force are those of the registers at a step boundary. -/
def Dev.takeSpg (d : Dev) : Dev :=
  { d with spg := { d.spg with
      fbEn := d.flag Reg.SPG_FB_CFG_EN, fbHold := d.fld Reg.SPG_FB_CFG_HOLD, escMin := d.fld Reg.SPG_FB_CFG_ESC_MIN
      exhaust := d.fld Reg.SPG_FB_EXHAUST_STEPS_STEPS, lstat := d.raw 0x50018 } }

end Sys2Proof.Machine
end

