-- ==== Sys2Proof/Machine/Numerics.lean ====
section
/-!
DEFINITION. Training numerics at the step boundary (R225 to R241): the overflow policy, the loss scale, the four-bit adjustments, the
step parameter block, the update-to-weight exponents and the monitor ring.
-/

namespace Sys2Proof.Machine

def Dev.setNum (d : Dev) (f : Num → Num) : Dev := { d with num := f d.num }

/-- R225: the overflow policy in effect. -/
def Dev.takePolicy (d : Dev) : Dev :=
  d.setFld Reg.NUM_OVF_POLICY_EFFECTIVE (match d.fld Reg.NUM_OVF_POLICY_POLICY with
    | 0 => if product d.shape ≤ 256 then 1 else 2
    | p => p)

/-! ### Loss scale (R229) -/

/-! Outcomes of Table 9.3, coded as RED_STEP_STATE.OUTCOME. -/
namespace Outcome
def commit : Nat := 1
def skip : Nat := 2
def repeat_ : Nat := 3
def held : Nat := 4
end Outcome

/-- R229: the loss scale after a step that is not repeated; `sat` is the combined saturated count. -/
def Dev.lossScale (d : Dev) (skipped : Bool) (sat : Nat) : Dev :=
  let exp := d.sfld Reg.NUM_LOSS_SCALE_EXP
  let lo := d.sfld Reg.NUM_LOSS_SCALE_MIN
  let hi := d.sfld Reg.NUM_LOSS_SCALE_MAX
  let grow := d.fld Reg.NUM_LOSS_SCALE_GROW_STEPS
  let setExp := fun (d : Dev) (x : Int) => d.setFld Reg.NUM_LOSS_SCALE_EXP (unsgn 8 x)
  let setGood := fun (d : Dev) (x : Nat) => d.setFld Reg.NUM_LOSS_SCALE_GOOD x
  if skipped || decide (d.fld Reg.NUM_OVF_POLICY_SAT_LOWER < sat) then
    let div : Int := Nat.log2 (d.fld Reg.NUM_SCALE_DIV_DIV)
    setGood (if exp = lo then d.bump Cnt.NUM_SCALE_FLOOR_CNT
      else (setExp d (max (exp - div) lo)).bump Cnt.NUM_SCALE_LOWER_CNT) 0
  else if 0 < sat then setGood d 0
  else
    let good := min 0xFFFF (d.fld Reg.NUM_LOSS_SCALE_GOOD + 1)
    if 0 < grow ∧ grow ≤ good then
      let d := setGood d 0
      if exp < hi then (setExp d (exp + 1)).bump Cnt.NUM_SCALE_GROW_CNT else d
    else setGood d good

/-! ### Four-bit adjustments (R232) -/

def Dev.lpDir (d : Dev) (l : Nat) : Int := SMap.get (fun _ => 0) d.num.dir l

/-- Write a layer's adjustment and the direction of its change. -/
def Dev.setLpAdj (d : Dev) (l : Nat) (a dir : Int) : Dev :=
  let f := Reg.NUM_LP_ADJ_ADJ (l / 16)
  let sh := 16 ^ (l % 16)
  let old := d.fld f
  let d := d.setFld f (old - old / sh % 16 * sh + unsgn 4 a * sh)
  d.setNum fun n => { n with dir := SMap.set (fun _ => 0) n.dir l dir }

/-- R232 for one layer with trouble bits `trb` (bit 0 UFL, bit 1 SAT), and whether its adjustment changed. -/
def Dev.lpLayer (st : Bool × Dev) (x : Nat × Nat) : Bool × Dev :=
  let l := x.1
  let d := st.2
  let ufl := bit x.2 0
  let sat := bit x.2 1
  let move : Int := if ufl && !sat then -1 else if sat && !ufl then 1 else 0
  let d := if ufl && sat then d.bump Cnt.NUM_LP_CONFLICT_CNT else d
  if move = 0 then (st.1, d)
  else if move = -d.lpDir l then (st.1, d.bump Cnt.NUM_LP_CONFLICT_CNT)
  else if d.lpAdj l + move < -4 ∨ 3 < d.lpAdj l + move then (st.1, d.bump Cnt.NUM_LP_LIMIT_CNT)
  else (true, (d.setLpAdj l (d.lpAdj l + move) move).bump Cnt.NUM_LP_ADJ_CNT)

/-- R232: apply the combined trouble vector, and tell whether any adjustment changed. -/
def Dev.lpApply (d : Dev) (trb : List Nat) : Bool × Dev :=
  let d := if trb.any (· % 4 != 0) then d.sticky Reg.FLT_STK0_LP_TROUBLE else d
  ((List.range trb.length).zip trb).foldl Dev.lpLayer (false, d)

/-! ### The step parameter block (R236, R237) -/

/-- Keep 256 bits of a magnitude m × 2^e. -/
def cut256 (m : Nat) (e : Int) : Nat × Int :=
  let k := Nat.log2 m
  if k < 256 then (m, e) else (m / 2 ^ (k - 255), e + ((k - 255 : Nat) : Int))

/-- (m × 2^e)^n to 256 bits, by squaring; the first argument bounds the bits of n. -/
def powCut : Nat → Nat → Nat × Int → Nat × Int → Nat × Int
  | 0, _, _, acc => acc
  | fuel + 1, n, b, acc =>
    let acc := if n % 2 = 1 then cut256 (acc.1 * b.1) (acc.2 + b.2) else acc
    powCut fuel (n / 2) (cut256 (b.1 * b.1) (b.2 + b.2)) acc

/-- 1 / (1 − β^n) as the range that 64-bit arithmetic leaves: every value between the two is one that some order of its roundings
gives. -/
def biasRange (beta n : Nat) : FVal × FVal :=
  let same := fun (x : FVal) => (x, x)
  match f32 beta with
  | .nan => same .nan
  | .inf neg => same (.fin (!(neg && n % 2 == 1)) 0 0)
  | .fin neg m e =>
    let p := powCut 65 n (m, e) (1, 0)
    let odd := neg && n % 2 == 1
    let b := (Nat.log2 p.1 : Int) + p.2
    if p.1 = 0 ∨ b < -200 then same (.fin false 1 0)
    else if 1024 ≤ b then same (.fin (!odd) 0 0)
    else
      let den := FVal.add (.fin false 1 0) (.fin (!odd) p.1 p.2)
      match den with
      | .fin dn dm de =>
        if dm = 0 then same (.inf false)
        else
          let k := 256 + Nat.log2 dm
          let q := 2 ^ k / dm
          let x : Int := -(k : Int) - de
          -- Roundings of the power, carried through the difference: (n − 1) × p / |1 − p|, each 2⁻⁵², and 2⁻⁵¹ for the rest.
          let r := shl p.1 (p.2 - de) / dm + 1
          let err := q * ((n - 1) * r + 2) / 2 ^ 52 + 1
          let err := if n = 1 && 2 ^ k % dm == 0 then 0 else min err (q / 4)
          (.fin dn (q - err) x, .fin dn (q + err) x)
      | v => same v

/-- Round to FP32 a value known to lie in a range: where its ends round apart, the result is one of the two, the same whenever the inputs are (R242, R243). -/
def pick32 (inputs : List Nat) (r : FVal × FVal) : Nat :=
  if toF32 r.1 = toF32 r.2 then toF32 r.1 else if Config.round64 inputs then toF32 r.1 else toF32 r.2

/-- Where the learning rate of the epoch stands in its table (R237). -/
def Dev.rateAddr (d : Dev) : Nat :=
  d.fld Reg.NUM_LR_TABLE_ADDR * 64 + 4 * min (d.epoch - d.fld Reg.NUM_LR_EPOCH_EPOCH0) (d.fld Reg.NUM_LR_TABLE_LEN - 1)

/-- R237: the learning rate of an epoch. -/
def Dev.learnRate (d : Dev) : Nat := if d.fld Reg.NUM_LR_TABLE_LEN = 0 then 0 else d.rd d.rateAddr 4

/-- R236, R239: write the step parameter block and zero the partial table, where EN is 1. The learning-rate table is read in the step (R237). -/
def Dev.writeParams (d : Dev) : Dev :=
  if !d.flag Reg.NUM_PARAM_BASE_EN then d
  else
    let d := if d.fld Reg.NUM_LR_TABLE_LEN = 0 then d else d.readStep [(d.rateAddr, 4)]
    let base := d.fld Reg.NUM_PARAM_BASE_ADDR * 64
    let e := d.epoch
    let b1 := d.fld Reg.NUM_OPT_BETA_B1
    let b2 := d.fld Reg.NUM_OPT_BETA_B2
    let c1 := pick32 [0, b1, e + 1] (biasRange b1 (e + 1))
    let c2 := pick32 [0, b2, e + 1] (biasRange b2 (e + 1))
    let gse := toF32 ((f32 (d.fld Reg.NUM_OPT_GSCALE_GSCALE)).scale (-d.sfld Reg.NUM_LOSS_SCALE_EXP))
    let head := natLe 8 e ++ natLe 1 (e % 2) ++ natLe 1 (d.fld Reg.NUM_LOSS_SCALE_EXP) ++ natLe 1 (d.fld Reg.NUM_OVF_POLICY_EFFECTIVE) ++
      natLe 1 (d.fld Reg.NUM_MODE_ACTIVE)
    let words := [d.learnRate, b1, b2, f32Sub f32One b1, f32Sub f32One b2, c1, c2, d.fld Reg.NUM_OPT_EPS_WD_EPS,
      d.fld Reg.NUM_OPT_EPS_WD_WD, gse, 0]
    (d.write base (head ++ words.flatMap (natLe 4) ++ natLe 8 (d.fld Reg.FRM_TICK_NUM_NUM))).zeroFill (base + 0x1000) 65536

/-! ### Update-to-weight ratio and the monitor ring (R240, R241) -/

/-- The range of √(N × 2^EN / (D × 2^ED)) in 64-bit arithmetic; 0 when D is 0. -/
def ratioRange (n d : Nat) (en ed : Int) : FVal × FVal :=
  if n = 0 ∨ d = 0 then (.fin false 0 0, .fin false 0 0)
  else
    let x := en - ed
    let a := n * 2 ^ 512 / d
    let a := if x % 2 = 0 then a else 2 * a
    let x := if x % 2 = 0 then x else x - 1
    let s := Nat.sqrt a
    let exact := n * 2 ^ 512 % d == 0 && s * s == a
    let err := if exact then 0 else s / 2 ^ 50 + 1
    (.fin false (s - err) (x / 2 - 256), .fin false (s + err) (x / 2 - 256))

/-- FLAGS of a monitor entry (Table 9.5). -/
def Dev.monFlags (d : Dev) (outcome l trb : Nat) : Nat :=
  let kind := if outcome = Outcome.commit then 1 else if outcome = Outcome.skip then 2 else 4
  kind + (if d.num.uwrSat.contains l then 8 else 0) + 16 * (trb % 4) + if d.num.analog.contains l then 64 else 0

/-- R241: one entry of the ring. `epoch` is that of the step; N, D and TRB are combined. -/
def Dev.writeMon (d : Dev) (epoch outcome : Nat) (t : TokenEntry) (l : Nat) : Dev :=
  let j := d.fld Reg.NUM_MON_HEAD_COUNT
  let size := 2 ^ d.fld Reg.NUM_MON_BASE_SIZE_LOG2
  let en := d.uwrExp false l
  let ed := d.uwrExp true l
  let r := pick32 [1, t.n, t.d, unsgn 16 en, unsgn 16 ed] (ratioRange t.n t.d en ed)
  let sat := SMap.get (fun _ => 0) d.num.now.ovfSat l
  let e := natLe 8 epoch ++ natLe 2 l ++ natLe 1 (d.monFlags outcome l t.trb) ++ natLe 1 (unsgn 8 (d.lpAdj l)) ++ natLe 4 r ++
    natLe 4 (sat32 sat) ++ natLe 2 (unsgn 16 en) ++ natLe 2 (unsgn 16 ed) ++ natLe 8 (d.fld Reg.FRM_TICK_NUM_NUM)
  let d := (d.write (d.fld Reg.NUM_MON_BASE_ADDR * 64 + 32 * (j % size)) e).setFld Reg.NUM_MON_HEAD_COUNT (j + 1)
  if (j + 1) % size = 0 then d.bump Cnt.NUM_MON_WRAP_CNT else d

/-- R240: EN or ED of a layer after the boundary: sum × 2^e lies in [2^T, 2^(T + 1)). -/
def nextExp (sum : Nat) (e : Int) : Int := (Nat.log2 sum : Int) + e - 44

/-- R241: the ring entries of the held layers, with what the step used. -/
def Dev.writeRing (d : Dev) (epoch outcome : Nat) (t : Token) : Dev :=
  if d.flag Reg.NUM_MON_BASE_EN then d.heldLayers.foldl (fun d l => d.writeMon epoch outcome (t.entries.getD l emptyEntry) l) d else d

/-- R240: the exponents of the next step from the combined sums and the step's own EN and ED. A zero sum leaves an exponent as the boundary, with
its activation, leaves it. -/
def Dev.takeExps (d : Dev) (en ed : SMap Int) (t : Token) : Dev :=
  let next := fun (m old : SMap Int) l sum =>
    if sum = 0 then m else SMap.set (fun _ => -64) m l (nextExp sum (SMap.get (fun _ => -64) old l))
  (List.range t.layers).foldl (fun d l =>
    let x := t.entries.getD l emptyEntry
    d.setNum fun n => { n with en := next n.en en l x.n, ed := next n.ed ed l x.d }) d

def emptyGather : NumGather := ⟨false, 0, [], []⟩

/-- The counts of the frames from the token frame on go to the next step (R228). -/
def Dev.shiftNum (d : Dev) : Dev := d.setNum fun n => { n with now := n.next, next := emptyGather, uwrSat := [] }

end Sys2Proof.Machine
end

