-- ==== Sys2Proof/Machine/Boundary.lean ====
section
/-!
DEFINITION. The step boundary: entry to HELD (R36, R269, R282, R340, R412, R453), step completions (R362), variant activation and switch
(R54 to R58), the handover of the Acisk image (R392 to R396), and everything that a boundary applies (R268).
-/

namespace Sys2Proof.Machine

def Dev.setFrm (d : Dev) (f : Frm → Frm) : Dev := { d with frm := f d.frm }

/-! ### Commands that a change of state ends -/

/-- Complete with ABORTED the commands in progress that a test picks. -/
def Dev.abortCmds (d : Dev) (p : Cmd → Bool) : Dev := (d.hif.prog.filter p).foldl (fun d c => d.complete c .aborted 0 0 0) d

def Cmd.isStart (c : Cmd) : Bool := c.op == 0x23 || c.op == 0x24
def Cmd.isUpdate (c : Cmd) : Bool := c.op == 0x10 && c.par 2 == 1

/-- R360: the waiting RUN or RESUME completes with ABORTED. -/
def Dev.abortStart (d : Dev) : Dev := (d.setFrm fun f => { f with startTick := none }).abortCmds Cmd.isStart

/-- The staged image of an UPDATE that ends early is left unused (R392). -/
def Dev.dropStaged (d : Dev) : Dev :=
  let d := { d with mbx := { d.mbx with staged := false } }
  if d.fld Reg.MBX_STATUS_FW = 2 ∨ d.fld Reg.MBX_STATUS_FW = 3 then d.setFld Reg.MBX_STATUS_FW 1 else d

/-- An UPDATE in progress completes with ABORTED. -/
def Dev.abortUpdate (d : Dev) : Dev :=
  ((d.setFrm fun f => { f with updateAt := none, resumeTick := none }).dropStaged).abortCmds Cmd.isUpdate

/-- R361: a QUIESCE or an UPDATE that waits for its epoch completes with ABORTED. -/
def Dev.abortEpochs (d : Dev) : Dev :=
  let d := (d.setFrm fun f => { f with quiesceAt := none }).abortCmds fun c => c.op == 0x25
  if d.frm.updateAt.isSome then d.abortUpdate else d

/-! ### Step completions (R362) -/

/-- Write a step completion. Its SQ_HEAD is a free value: no submission ring is named. -/
def Dev.stepCompletion (d : Dev) (st : Status) (epoch reason mask replays repeats cause : Nat) : Dev :=
  let x := d.draw
  let d := x.2.setHif fun h => { h with stepSeq := (h.stepSeq + 1) % 65536 }
  let info := reason + 2 ^ 8 * mask + 2 ^ 16 * min 0xFFFF replays + 2 ^ 32 * (repeats % 16) + 2 ^ 36 * cause + 2 ^ 40 * d.active +
    2 ^ 48 * d.hif.stepSeq
  d.postHeld (d.hif.stepCq.getD goneCq)
    (cqEntry d.hif.stepCid 0xFFFF (x.1 % 65536) st.code 2 epoch info (d.fld Reg.FRM_TICK_NUM_NUM))

/-- RED_STEP_STATE as a boundary or a freeze leaves it. -/
def Dev.stepState (d : Dev) (outcome reason mask cause : Nat) : Dev :=
  (((d.setFld Reg.RED_STEP_STATE_OUTCOME outcome).setFld Reg.RED_STEP_STATE_REASON reason).setFld Reg.RED_STEP_STATE_MASK mask).setFld
    Reg.RED_STEP_STATE_HOLD_CAUSE cause

/-! ### Freeze and HELD -/

/-- No unit starts a further slot, and no token or result of the run is kept (R58, R412). -/
def Dev.stopSteps (d : Dev) : Dev :=
  { d with run := [], rack := { d.rack with rounds := [] }, kln := { d.kln with applied := [] }
           frm := { d.frm with frozen := true, freezeDue := none }
           red := { d.red with own := none, result := none, tokens := [], sent := true } }

/-- R407: a staged pack becomes active: every unit starts it at its first entry. Slot counts and cursors go on. -/
def Dev.activatePack (d : Dev) : Dev :=
  match d.flt.packStaged with
  | none => d
  | some b =>
    let d := (d.flt.units.map (·.1)).foldl (fun (d : Dev) k => d.setSentUnit k { d.sentUnit k with packPos := 0, wrapped := false }) d
    let d := { d with flt := { d.flt with packActive := some b, packStaged := none } }
    (d.setFld Reg.FLT_TPACK_STATUS_PACK_ID (d.rd (d.packBank b + 4) 4)).setFld Reg.FLT_TPACK_STATUS_STATE 2

/-- R269, R412: the frame program freezes. In RUNNING and LOADED the step completes with HELD, or with ABORTED and FAULT after a ledger error
(R340 class 3); in other states nothing else changes. -/
def Dev.holdStep (d : Dev) (cause reason mask : Nat) : Dev :=
  let fault := d.flt.ledgerFault
  let live := d.st == DS.running || d.st == DS.loaded
  let d := d.stopSteps
  let d := if cause = 4 then d.setFld Reg.FLT_WDOG_STATUS_FROZEN 1 else d
  if !live then (if cause = 4 then d.writeLedger else d)
  else
    let d := d.stepState Outcome.held reason mask cause
    let d := if cause = 1 ∨ cause = 6 then d.partition else d
    let d := if cause = 7 then d.setFld Reg.PND_STATUS_HALTED 1 else d
    let d := d.stepCompletion (if fault then .aborted else .held) d.epoch reason mask (d.fld Reg.RED_STEP_STATE_REPLAYS)
      (d.fld Reg.RED_STEP_STATE_REPEATS) cause
    let d := (d.trace 130 0 d.epoch (d.raw 0x80028)).setSt (if fault then DS.fault else DS.held)
    let d := (if fault then d else d.fire 1).writeLedger
    if fault then (d.setFrm fun f => { f with startTick := none, quiesceAt := none, updateAt := none }).abortCmds fun _ => true
    else d.activatePack.abortStart.abortEpochs

/-- A freeze inside a step: the own reasons and the replays of the run so far are reported. -/
def Dev.holdNow (d : Dev) (cause : Nat) : Dev :=
  let d := if d.st = DS.running then d.setFld Reg.RED_STEP_STATE_REPLAYS (min 0xFFFF d.red.replays) else d
  d.holdStep (if d.flt.ledgerFault then 8 else cause) (highestReason d.ownReasons) 0

/-! ### Settings that a boundary puts into force -/

/-- R419: FLT_CFG takes effect at the next step boundary. -/
def Dev.takeFlt (d : Dev) : Dev :=
  { d with flt := { d.flt with tunAction := d.fld Reg.FLT_CFG_TUN_ACTION, mxcAction := d.fld Reg.FLT_CFG_MXC_ACTION
                               tpackLog2 := d.fld Reg.FLT_CFG_TPACK_LOG2 } }

/-- R324: retrained ports become UP, and a new interval of R325 begins. -/
def Dev.portsUp (d : Dev) : Dev :=
  let d := ports.foldl (fun d p => if d.portState p = PS.wait then d.bringUp p else d) d
  { d with fab := { d.fab with partitioned := false } }

/-! ### Activation (R54 to R58) -/

/-- A variant slot becomes active. -/
def Dev.activate (d : Dev) (v : Nat) : Dev :=
  match d.variant v with
  | none => d
  | some x =>
    let old := d.active
    let d := (d.setFld Reg.FRM_STATUS_ACTIVE v).setFld Reg.FRM_STEP_POS_STEP_FRAMES (imgStepFrames x.image)
    let d := (((d.setFld Reg.FRM_PERIOD_CYCLES (imgPeriod x.image)).setFpDigest).takePolicy).countDescErrs
    let d := (d.setNum fun n => { n with en := [], ed := [] }).writeParams
    if old = v then d else d.trace 133 0 old v

/-- The period of the active frame program in 0.1 ns: 16 L-die cycles are a quantum of 10 ns. -/
def Dev.period (d : Dev) : Nat := d.fld Reg.FRM_PERIOD_CYCLES * 100 / 16

/-- R56, R57, R58: another variant becomes active, with its period. -/
def Dev.changeTo (d : Dev) (v : Nat) : Dev :=
  let old := d.period
  let d := (d.activate v).bump Cnt.FRM_VAR_SWITCH_CNT
  (d.setFld Reg.FRM_STATUS_ARMED 0xFF).setFrm fun f => { f with switchAt := some (f.frameStart, old), nextEmit := f.lastEmit + d.period }

/-- R56, R112: the boundary switches to slot `v`. -/
def Dev.switchTo (d : Dev) (v : Nat) : Dev := (d.changeTo v).setFld Reg.SPG_FB_STATUS_STREAK 0

/-! ### The handover (R392 to R396) -/

/-- The bank whose image runs, and its address (Table 15.1). -/
def Dev.bankAddr (d : Dev) (k : Nat) : Nat := d.fwRegion + k * 0x4000000
def Dev.caskAddr (d : Dev) : Nat := d.fwRegion + 0x08000000

/-- R393, R395: the old image writes its cask: a header and four sections of 64 bytes with free contents. -/
def Dev.writeCask (d : Dev) : Dev :=
  let secs := (List.range 4).map fun k => (List.range 64).map fun j => BitVec.ofNat 8 (Config.free (d.draws + 64 * k + j))
  let ents := (secs.zip (List.range 4)).flatMap fun x =>
    natLe 2 (x.2 + 1) ++ [0, 0] ++ natLe 4 (crc32c x.1) ++ natLe 4 (128 + 64 * x.2) ++ natLe 4 64
  let head := natLe 4 0x4B53435A ++ slice d.mbx.header 0x0A 2 ++ natLe 2 4 ++ natLe 8 384 ++ natLe 8 d.epoch ++
    natLe 8 (d.fld Reg.FRM_TICK_NUM_NUM) ++ slice d.mbx.header 6 4 ++ natLe 4 1 ++ List.replicate 20 0
  { d with draws := d.draws + 256 }.write d.caskAddr (head ++ natLe 4 (crc32c head) ++ ents ++ secs.flatten)

/-- The image bank that runs, as its bytes. -/
def Dev.runningImage (d : Dev) : List Byte := d.read (d.bankAddr (d.fld Reg.MBX_STATUS_BANK)) 0x4000000

/-- An image starts at its ENTRY: what it shows of itself, and its watchdog runs (R390, R393, R394, R411, R470). -/
def Dev.enterImage (d : Dev) (b : List Byte) : Dev :=
  let d := (d.setFld Reg.MBX_VER_FW_MAJOR (rdLe b 6 2)).setFld Reg.MBX_VER_FW_MINOR (rdLe b 8 2)
  let d := (d.setFld Reg.MBX_CASK_VER_SUPPORTED (rdLe b 0xA 2)).setFld Reg.SEC_SVN_RUN (rdLe (imageSig b) 8 4)
  let d := d.setSec fun x => { x with fwDigest := sha512 (imageObj b) }
  { d with mbx := { d.mbx with header := b.take 64, mgmtUp := true } }.armWatchdog

/-- R393: the old image ends its commands and writes the cask; the banks swap and the new image starts at its ENTRY. A HELLO stays in
progress for the new image (R397). -/
def Dev.handover (d : Dev) : Dev :=
  let d := (d.setFrm fun f => { f with startTick := none, quiesceAt := none }).abortCmds fun c => c.needsAcisk && c.op != 0x05
  let d := d.writeCask
  let bank := 1 - d.fld Reg.MBX_STATUS_BANK
  let d := (d.setFld Reg.MBX_STATUS_FW 4).setFld Reg.MBX_STATUS_BANK bank
  let d := { d with mbx := { d.mbx with staged := false } }
  d.enterImage d.runningImage

/-- R361, R396: UPDATE's resume tick from its parameter P4. -/
def Dev.resumeTickOf (d : Dev) (p4 : Nat) : Nat :=
  if p4 = 0 then (d.fld Reg.FRM_TICK_NUM_NUM + d.fld Reg.MBX_UPD_CFG_DELAY) % 2 ^ 48 else p4

/-- R361: the boundary that committed epoch E: the device quiesces, or hands over. -/
def Dev.atCommit (d : Dev) : Dev :=
  if d.frm.quiesceAt = some d.epoch then
    let d := { (d.setSt DS.quiesced).setFrm fun f => { f with quiesceAt := none } with run := [] }
    ((d.hif.prog.filter fun c => c.op == 0x25).foldl (fun d c => d.complete c .done 0 0 0) d)
  else match d.frm.updateAt with
    | some (e, p4) =>
      if e ≠ d.epoch then d
      else
        let d := { (d.setSt DS.quiesced).setFrm fun f => { f with updateAt := none, resumeTick := some (d.resumeTickOf p4) } with run := [] }
        if d.mbx.staged then d.handover else d
    | none => d

/-! ### What a boundary does -/

/-- R284: overruns in consecutive runs of one step. -/
def Dev.stageOverrun (d : Dev) : Dev :=
  let n := if d.frm.overran then d.pnd.overruns + 1 else 0
  let d := d.setPnd fun p => { p with overruns := n }
  if n < 2 then d
  else
    let d := (d.sticky Reg.FLT_STK0_STAGE_OVERRUN).bump Cnt.PND_STAGE_OVR_CNT
    (d.setFld Reg.PND_STAGE_LAST_EPOCH d.epoch).setFld Reg.PND_STAGE_LAST_RUNS (min 0xFF n)

/-- R336, R339, R455: what the sensors report at a boundary. -/
def Dev.measure (d : Dev) (m : StepMeas) : Dev :=
  let d := (d.setFld Reg.PWR_STATUS_STEP_AVG m.stepAvg).setFld Reg.PWR_STATUS_FRAME_MAX m.frameMax
  let d := if d.active < 8 then d.setFld (Reg.PWR_VAR_PWR_WATTS d.active) m.stepAvg else d
  let d := if d.fld Reg.PWR_CAP_CAP * 10 < m.stepAvg then (d.setFld Reg.PWR_STATUS_OVER 1).bump Cnt.PWR_OVER_CNT
    else d.setFld Reg.PWR_STATUS_OVER 0
  ((List.range 24).foldl (fun d h => d.setFld (Reg.MEM_HBM_TEMP_TEMP h) (unsgn 8 (m.temps.getD h 0))) d).bumpBy Cnt.MEM_HBM_ECS_CNT m.ecs

/-- R50: the least frame slack of the ended step, and its slot. -/
def Dev.writeStepMin (d : Dev) : Dev :=
  match d.frm.stepMin with
  | none => d
  | some (s, u) =>
    let d := (d.setFld Reg.FRM_SLACK_STEP_MIN (unsgn 32 s)).setFld Reg.FRM_SLACK_UNIT_KIND u.kind
    ((d.setFld Reg.FRM_SLACK_UNIT_CLASS u.cls).setFld Reg.FRM_SLACK_UNIT_SUB u.sub).setFld Reg.FRM_SLACK_UNIT_INDEX u.idx

/-- R134: a block's fit is due. -/
def Dev.fitDueNow (d : Dev) (t : Nat) : Bool :=
  SMap.find? d.rack.lastQueued t == some 0 ||
    (d.rack.lrRefresh != 0 && d.rack.lrRefresh ≤ d.epoch - SMap.get (fun _ => 0) d.rack.lastFit t)

/-- The Tuns of the blocks that the program's LR_FIT tasks fit, in layers with a rank (R133, R134). -/
def Dev.fitBlocks (d : Dev) : List Nat := (d.fitTasks.map (·.1)).dedup

/-- R134: mark the fits that are due. -/
def Dev.markFits (d : Dev) : Dev :=
  let new := d.fitBlocks.filter fun t => d.fitDueNow t && !d.rack.fitDue.contains t
  { d with rack := { d.rack with fitDue := d.rack.fitDue ++ new } }

/-- R131: the fold of a committed or skipped step; `epoch` is the step epoch after the boundary. A fold still in progress completes first. -/
def Dev.fold (d : Dev) (epoch : Nat) : Dev :=
  if d.rack.en then (d.rack.folding.foldl Dev.foldComplete d).foldStart epoch else d

/-- R253: nonzero PENDING scale bytes go to STORE, and PENDING is cleared. HBM reads 0 where nothing is listed. -/
def Dev.storeScales (d : Dev) : Dev :=
  let base := d.scaleBase 0
  let n := 24576 * d.fld Reg.RED_SCALE_BASE_BUCKETS
  let isPend := fun a => base ≤ a && a < base + n && (a - base) % 24576 / 8192 == 1
  let d := d.readStep ((List.range (d.fld Reg.RED_SCALE_BASE_BUCKETS)).map fun b => (d.pendingAt b 0, 8192))
  let cells := if base + n ≤ lsBase then (d.mem.filter fun c => isPend c.1).map (·.1)
    else ((List.range n).map (base + ·)).filter isPend
  cells.foldl (fun d a => if d.byte a = 0 then d else (d.setByte (a - 8192) (d.byte a)).setByte a 0) d

/-- R55: the slot that every device placed in the token, or none. -/
def Token.agreed (t : Token) : Option Nat := if t.armMin = t.armMax ∧ t.armMin ≠ 0xFF then some t.armMin else none

/-- R56: some device had armed a slot, and the devices did not agree. -/
def Dev.countSplit (d : Dev) (t : Token) : Dev :=
  if t.agreed.isNone ∧ t.armMin ≠ 0xFF then d.bump Cnt.FRM_VAR_SPLIT_CNT else d

/-- R56: switch where every device placed the same armed slot; a slot that has become empty switches nothing. -/
def Dev.voteSwitch (d : Dev) (t : Token) : Dev :=
  match t.agreed.bind fun v => (d.variant v).map fun x => (v, x.valid) with
  | some (v, true) => d.switchTo v
  | _ => d

/-- R268: the reason that the completion of a repeat reports; `lp` says that R233 repeats the step. -/
def reportReason (own mask : Nat) (lp : Bool) : Nat :=
  if highestReason own ≠ 0 then highestReason own
  else if highestReason mask ≠ 0 then highestReason mask
  else if lp then 4 else 0

/-- The reason of a packet or barge that was awaited after the token: LATE where all have come before the boundary, MISSING otherwise (R261, R283). -/
def lateReason (had : Bool) (still : Bool) (mask : Nat) : Nat := if had then setBit mask (if still then Reason.missing else Reason.late) else mask

/-- The next run of the step begins with the trouble that came after the token (R53, R265), every pound reset (R277) and no late mark
(R49). -/
def Dev.nextRun (d : Dev) : Dev :=
  let f := d.frm
  let reasons := lateReason d.pnd.hadAwaitedNext (!d.pnd.awaitedNext.isEmpty) (lateReason d.red.hadAbsentNext (!d.red.absentNext.isEmpty) f.nextReasons)
  let frm := { f with ok := f.nextOk, reasons := reasons, nextOk := true, nextReasons := 0, tokenFormed := false, overran := false
                      stepMin := none, runId := f.runId + 1 }
  let red := { d.red with inbox := [], past := false, absent := [], hadAbsent := false, absentNext := [], hadAbsentNext := false, agreed := [], preSent := [], ownFaults := []
                          noticed := [], known := [], nonfin := [], lateIn := [], lastSeen := d.red.seen, openWork := false, noticeSent := 0, noticeIn := [], noticeMap := [], need := [], taken := [], replayPkt := 0, replays := 0
                          fetched := [], tokens := [], own := none, sent := false, result := none, seen := [] }
  { d with frm := frm, red := red, late := [] }.resetPounds

/-- Apply a result without HOLD (R268, Table 9.3). -/
def Dev.applyResult (d : Dev) (t : Token) : Dev :=
  let epoch := d.epoch
  let repeats := d.fld Reg.RED_STEP_STATE_REPEATS
  let replays := d.fld Reg.RED_STEP_STATE_REPLAYS
  let own := d.ownReasons
  let bad := !t.ok || t.short
  let lp := if bad then (false, d) else d.lpApply (t.entries.map (·.trb))
  let d := lp.2
  let lpRepeat := lp.1 && !t.vote
  let again := bad || lpRepeat
  let outcome := if again then Outcome.repeat_ else if t.vote then Outcome.skip else Outcome.commit
  let atLimit := again && d.fld Reg.RED_STEP_CFG_REPEAT_MAX ≤ repeats
  let d := if again then d else d.lossScale t.vote t.satcnt
  let d := if outcome = Outcome.skip then (d.bump Cnt.NUM_OVF_SKIP_CNT).sticky Reg.FLT_STK0_OVF_SKIP else d
  -- The ring and the exponents belong to the ended step: its variant, its grants, its EN and ED.
  let d := d.writeRing epoch outcome t
  let layers := d.statLayers
  let num := d.num
  let d := d.countSplit t
  let d := (if atLimit then d else d.voteSwitch t).boundaryGrants (if t.short then none else some fun l => (t.entries.getD l emptyEntry).req)
  let d := (((d.takeExps num.en num.ed t).writeLayerStats layers).shiftStats).shiftNum
  let reason := if again then reportReason own t.reasons lpRepeat else 0
  if atLimit then
    ((d.markFits.sticky Reg.FLT_STK0_STEP_REPEAT_LIMIT).bump Cnt.RED_REPEAT_LIMIT_CNT).holdStep 3 reason (t.reasons / 2)
  else
    let d := d.storeScales
    let d := if again then ((d.setFld Reg.RED_STEP_STATE_REPEATS (repeats + 1)).bump Cnt.RED_REPEAT_CNT)
      else (((d.setFld Reg.RED_STEP_STATE_REPEATS 0).setNum fun n => { n with dir := [] }).setPnd fun p => { p with overruns := 0 }).fold (if outcome = Outcome.commit then epoch + 1 else epoch)
    let d := if outcome = Outcome.commit then (d.setFld Reg.RED_EPOCH_EPOCH (epoch + 1)).bump Cnt.RED_COMMIT_CNT else d
    let d := (d.markFits.stepState outcome reason (t.reasons / 2) 0).activatePack
    let st := if again then Status.stepRepeated else if t.vote then Status.stepSkipped else Status.stepCommitted
    let d := (d.stepCompletion st epoch reason (t.reasons / 2) replays repeats 0).trace 130 0 epoch (d.raw 0x80028)
    let d := if outcome = Outcome.commit then d.atCommit else d
    d.nextRun.writeLedger

/-- The step boundary in RUNNING (R268, R269). -/
def Dev.boundary (d : Dev) (m : StepMeas) : Dev :=
  let d := ((((d.takeSpg.takeFlt).stageOverrun).portsUp).setFld Reg.RED_STEP_STATE_REPLAYS (min 0xFFFF d.red.replays)).measure m
  let d := d.writeStepMin
  match d.red.result with
  | none => (d.bump Cnt.RED_NO_RESULT_CNT).holdStep 1 (highestReason d.ownReasons) 0
  | some t =>
    if t.hold then ((d.countSplit t).bump Cnt.RED_HOLD_RX_CNT).holdStep 2 (reportReason d.ownReasons t.reasons false) (t.reasons / 2)
    else d.applyResult t

end Sys2Proof.Machine
end

