-- ==== Sys2Proof/Machine/Slots.lean ====
section
/-!
DEFINITION. Slots (R43 to R50, R499): the start of a slot with its unit's descriptor check and input checks, the completion of a task, and
the slot end. SLOT_START, SLOT_END, TASK_COMPLETE.
-/

namespace Sys2Proof.Machine

/-! ### Overruns (R51) -/

/-- The current frame overruns: counted once a frame; the OK flag becomes 0. -/
def Dev.overrun (d : Dev) : Dev :=
  let d := if d.frm.frameOver then d else (d.bump Cnt.FRM_OVERRUN_CNT).sticky Reg.FLT_STK0_FRAME_OVERRUN
  (d.setFrm fun f => { f with frameOver := true, overran := true }).trouble Reason.frameOverrun

/-- R50: the slack of a slot, in quanta; the least one of the frame stays. -/
def Dev.slotSlack (d : Dev) (slack : Int) (u : SlackUnit) : Dev :=
  match d.frm.slack with
  | some (s, _) => if slack < s then d.setFrm fun f => { f with slack := some (slack, u) } else d
  | none => d.setFrm fun f => { f with slack := some (slack, u) }

/-! ### What a descriptor names (R48, R283) -/

/-- Records of `n` vectors, one stride apart. -/
def span (a n stride size : Nat) : Nat × Nat := if n = 0 then (a, 0) else (a, (n - 1) * stride + size)

/-- Input records of `n` vectors of a basin task. -/
def FwdDesc.inputs (f : FwdDesc) (sub n : Nat) : List (Nat × Nat) :=
  (subTuns sub).map fun i => span (f.inAt sub i 0) n f.inStride f.inBytes

/-- Output records of `n` vectors of a basin task. -/
def FwdDesc.outputs (f : FwdDesc) (sub n : Nat) : List (Nat × Nat) :=
  (subTuns sub).map fun i => span (f.outAt sub i 0) n f.outStride 2112

/-- Inputs of a reduction task of `n` items: its contribution, the source of a replay, the owner's shard. -/
def RedDesc.inputs (x : RedDesc) (n : Nat) : List (Nat × Nat) :=
  match x.op with
  | 0x90 => [(x.lanes, 4096 * n), (x.ownx, 32 * n), (x.faults, 32 * n)]
  | 0x91 => if x.first then [(x.result, 4096 * n)] else []
  | 0x92 => [(x.ownx, 4096 * n)]
  | 0x94 => [(x.source, 4096 * x.packets * n)]
  | 0x95 => if x.first then [(x.result, 4096 * n)] else []
  | _ => []

/-- Outputs of a reduction task of `n` items: the owner's result, the destination of received values, what a replay writes for the buckets it may take. -/
def RedDesc.outputs (x : RedDesc) (buckets n : Nat) : List (Nat × Nat) :=
  let r := 256 * (buckets - x.bucket)
  match x.op with
  | 0x90 => if x.last then [(x.result, 4096 * n)] else []
  | 0x91 => if x.first then [] else [(x.lanes, 4096 * n)]
  | 0x94 => [(x.result, 4096 * r), (x.lanes, 4096 * r), (x.faults, 32 * r)]
  | 0x95 => if x.first then [] else [(x.lanes, 4096 * n)]
  | _ => []

/-- The input buffers of an MXC task of `n` items, those of a companion included. -/
def Dev.mxcInputs (d : Dev) (c : Nat) (b : List Byte) (n : Nat) : List (Nat × Nat) :=
  if rdLe b 0 2 = 0x10 then
    let x := parseMat b
    let e := match d.companion c x with | none => [] | some e => (d.kerRanges e x.bands).1
    [x.aRange, x.bRange] ++ (if x.acc then [x.cRange] else []) ++ e
  else (d.kerRanges (parseKer b) n).1

/-- The output buffers of an MXC task of `n` items, those of a companion included. -/
def Dev.mxcOutputs (d : Dev) (c : Nat) (b : List Byte) (n : Nat) : List (Nat × Nat) :=
  if rdLe b 0 2 = 0x10 then
    let x := parseMat b
    let e := match d.companion c x with | none => [] | some e => (d.kerRanges e x.bands).2
    [x.cRange, x.hRange] ++ e
  else if kernelOp (rdLe b 0 2) then (d.kerRanges (parseKer b) n).2
  else []

/-- The input buffers that a unit's task names. -/
def Dev.taskInputs (d : Dev) (cls idx : Nat) (r : Running) : List (Nat × Nat) :=
  match cls with
  | 1 => (parseFwd r.desc).inputs r.slot.sub r.total
  | 2 => d.mxcInputs idx r.desc r.total
  | 4 => (parseRed r.desc).inputs r.total
  | 5 => (d.barges (parseSend r.desc)).map fun b => (b.src, b.len)
  | 6 => let x := parseKer r.desc; if x.op = 0xC0 then [(x.par 0, x.par 2)] else []
  | _ => []

/-- The output buffers that a unit's task names. A descriptor whose OP names no task names no buffer. -/
def Dev.taskOutputs (d : Dev) (cls idx : Nat) (r : Running) : List (Nat × Nat) :=
  let n := max r.total r.planned
  match cls with
  | 1 => if (parseFwd r.desc).op = 1 then (parseFwd r.desc).outputs r.slot.sub n else []
  | 2 => d.mxcOutputs idx r.desc n
  | 4 => (parseRed r.desc).outputs (d.fld Reg.RED_SCALE_BASE_BUCKETS) n
  | 6 => let x := parseKer r.desc; if x.op = 0xC1 then [(x.par 0, x.par 2)] else []
  | _ => []

/-! ### Slot start -/

/-- The running record of a slot before its task is known. -/
def newRun (s : Slot) (desc : List Byte) : Running :=
  ⟨s, desc, s.items, s.items, 0, false, false, false, false, 0, none, 0, [], false⟩

/-- R47: the items of a task: those its descriptor gives, or the count word of a DATA_DEP slot. -/
def Dev.countWord (d : Dev) (s : Slot) (countAddr plain : Nat) : Nat := if s.dataDep then d.rd countAddr 8 else plain

/-- A task that fails its check, with its unit's error counter: it is not started (R74, R192, R257, R278). -/
def Dev.failSlot (d : Dev) (key : Nat) (r : Running) (c : Nat) : Dev := (d.setRunning key (some { r with failed := true })).bump c

/-- The count word of a DATA_DEP slot (R47). -/
def Slot.countRange (s : Slot) (countAddr : Nat) : List (Nat × Nat) := if s.dataDep then [(countAddr, 8)] else []

/-- A task starts: it reads its count word where it has one (R47), and R283 is checked on its inputs. -/
def Dev.beginTask (d : Dev) (cls idx key : Nat) (count : List (Nat × Nat)) (r : Running) : Dev :=
  let d := d.setRunning key (some { r with begun := true })
  (d.consume key count).poundCheck key (d.taskInputs cls idx r)

/-- R223: in a digital mode the FWD slots of a granted layer do not run. -/
def Dev.fwdIdle (d : Dev) (layer : Nat) : Bool := d.fld Reg.NUM_MODE_ACTIVE != 0 && d.granted layer

/-- A basin COMPUTE slot (R66, R74). -/
def Dev.startBasin (d : Dev) (b key : Nat) (s : Slot) : Dev :=
  let r := newRun s (imgTask d.program 1 b s.task)
  let f := parseFwd r.desc
  if f.op = 1 ∧ d.fwdIdle f.layer then d.setRunning key (some { r with idle := true })
  else
    let n := d.countWord s f.countAddr s.items
    if f.ok d b s.sub (min n s.items) s.dataDep then d.beginTask 1 b key (s.countRange f.countAddr) { r with total := n }
    else d.failSlot key r Cnt.TUN_TASK_ERR_CNT

/-- R192: MXC_ERR_LAST. -/
def Dev.mxcError (d : Dev) (c task cause : Nat) : Dev :=
  (((d.setFld Reg.MXC_ERR_LAST_TASK task).setFld Reg.MXC_ERR_LAST_PC 0).setFld Reg.MXC_ERR_LAST_CAUSE cause).setFld Reg.MXC_ERR_LAST_MXC c

/-- R134: the items of an LR_FIT task: its block's due flag where the slot is DATA_DEP. A fit that runs holds the block's rounds from its start. -/
def Dev.fitCount (d : Dev) (t : Nat) (s : Slot) : Nat × Dev :=
  let n := if s.dataDep then (if d.rack.fitDue.contains t then 1 else 0) else s.items
  if n = 0 then (0, d)
  else (n, { d with rack := { d.rack with fitStarted := t :: d.rack.fitStarted.filter (· != t) } })

/-- An MXC task in a COMPUTE slot, or the candidate of a granted FALLBACK slot (R113, R192, R197). -/
def Dev.startMxc (d : Dev) (c key : Nat) (s : Slot) (task : Nat) (digital : Bool) : Dev :=
  let b := imgTask d.program 2 c task
  let r := newRun s b
  let op := rdLe b 0 2
  let countAddr := rdLe b 0x38 8
  let dep := s.dataDep && op != 0x61
  if rdLe b 2 1 = 1 ∧ d.granted (rdLe b 4 2) then (d.setRunning key (some { r with idle := true })).bump Cnt.MXC_ANALOG_IDLE_CNT
  else
    let cause := if dep && !inMxc c countAddr 8 then 4 else d.mxcCheck c b (if dep then min (d.rd countAddr 8) s.items else s.items) digital
    if cause ≠ 0 then (d.failSlot key r Cnt.MXC_TASK_ERR_CNT).mxcError c task cause
    else
      let n := if op = 0x61 then d.fitCount ((parseKer b).par 4) s else (d.countWord s countAddr (d.mxcItems b s.items), d)
      let d := n.2.beginTask 2 c key (if dep then [(countAddr, 8)] else []) { r with total := n.1 }
      if op = 0x20 then d.startProg c (parseKer b) n.1
      else match d.companion c (parseMat b) with
        | some e => if op = 0x10 ∧ e.op = 0x20 then d.startProg c e (e.par 2) else d
        | none => d

/-- A FALLBACK slot (R109, R113): the task of the granted layer that its placement list names; otherwise nothing. -/
def Dev.startFallback (d : Dev) (c key : Nat) (s : Slot) : Dev :=
  match ((parsePlace (imgTask d.program 2 c s.task)).getD []).find? fun x => d.granted x.1 with
  | some x => d.startMxc c key s x.2 true
  | none => d.setRunning key (some { newRun s [] with idle := true })

/-- A sparge slot takes its work from the FWD vectors that run (R89). -/
def Dev.startSparge (d : Dev) (key : Nat) (s : Slot) : Dev := d.setRunning key (some { newRun s [] with total := 0 })

/-- A RED slot (R256, R257). -/
def Dev.startRed (d : Dev) (key : Nat) (s : Slot) : Dev :=
  let r := newRun s (imgTask d.program 4 0 s.task)
  let x := parseRed r.desc
  let d := d.setRed fun r => { r with replayPkt := 0, noticeSent := 0, noticeIn := [], noticeMap := [] }
  if !x.ok d then d.failSlot key r Cnt.RED_TASK_ERR_CNT
  else
    let n := d.countWord s x.countAddr (if x.op = 0x94 then s.items else x.packets)
    d.beginTask 4 0 key (s.countRange x.countAddr) { r with total := n }

/-- A PORT slot (R278). -/
def Dev.startSend (d : Dev) (p key : Nat) (s : Slot) : Dev :=
  let r := newRun s (imgTask d.program 5 p s.task)
  let x := parseSend r.desc
  if !d.sendOk x s.dataDep then d.failSlot key r Cnt.PND_TASK_ERR_CNT
  else
    let n := d.countWord s x.countAddr ((d.barges x).map bargeItems).sum
    (d.setSend p freshSend).beginTask 5 p key (s.countRange x.countAddr) { r with total := n }

/-- A CMDPROC slot (R286). -/
def Dev.startHost (d : Dev) (key : Nat) (s : Slot) : Dev :=
  let r := newRun s (imgTask d.program 6 0 s.task)
  let x := parseKer r.desc
  if !d.hostOk x then d.failSlot key r Cnt.PND_TASK_ERR_CNT
  else
    d.beginTask 6 0 key (s.countRange x.countAddr) { r with total := d.countWord s x.countAddr (ceilDiv (x.par 2) 4096) }

/-- A RACK slot: a queue that COMPARE has written replaces the old one (R122). -/
def Dev.startRack (d : Dev) (b key : Nat) (s : Slot) : Dev :=
  (subTuns s.sub).foldl (fun d i => d.installQueue (64 * b + i)) (d.setRunning key (some (newRun s [])))

/-- A KILN slot (R147, R148): the basin's pending run may start. A slot is too short for any unit below 200 quanta, and it counts whether or not a run is
pending. -/
def Dev.startKiln (d : Dev) (b key : Nat) (s : Slot) : Dev :=
  let d := (d.setRunning key (some (newRun s []))).startRun b
  if s.len < 200 then d.bump Cnt.KLN_SHORT_SLOT_CNT
  else if (d.kilnRun b).any fun r => (subTuns s.sub).any fun i => !r.done.contains i then (d.onRunning key fun r => { r with begun := true }).kilnOverlaps b
  else d

/-- Does a slot in progress of the unit stand in the way? On a basin, one of another Tun does not. -/
def Dev.slotBusy (d : Dev) (cls idx : Nat) (s : Slot) : Bool :=
  if cls = 1 then
    (if s.sub = 0xFF then List.range 256 else [s.sub, 0xFF]).any fun k => (d.running? (unitKey 1 idx k)).isSome
  else (d.running? (unitKey cls idx 0)).isSome

/-- The slot begins, by kind and class (Table 2.7). -/
def Dev.openSlot (d : Dev) (cls idx : Nat) (s : Slot) : Dev :=
  let key := unitKey cls idx (if cls = 1 then s.sub else 0)
  match s.kind with
  | 3 => d.startRack idx key s
  | 4 => d.startKiln idx key s
  | 5 => d.setRunning key (some (newRun s []))
  | 6 => d.startFallback idx key s
  | _ => match cls with
    | 1 => d.startBasin idx key s
    | 2 => d.startMxc idx key s s.task false
    | 3 => d.startSparge key s
    | 4 => d.startRed key s
    | 5 => d.startSend idx key s
    | _ => d.startHost key s

/-- Where entry `k`, of `n` bytes, of the first segment that `p` picks lies in an image. -/
def imgPlace (i : List Byte) (p : Seg → Bool) (n k : Nat) : List (Nat × Nat) :=
  match (imgSegs i).find? p with
  | some s => if n * k + n ≤ s.len then [(s.off + n * k, n)] else []
  | none => []

/-- The parts of the program that a slot's start reads: its slot table entry, and the descriptor or the SENTINEL segment that it runs. -/
def Dev.slotReads (d : Dev) (cls idx k : Nat) (s : Slot) : List (Nat × Nat) :=
  let i := d.program
  imgPlace i (fun x => x.kind == 2 && x.cls == cls && x.unit == idx && some x.template == d.template) 16 k ++
    match s.kind with
    | 3 => []
    | 4 => []
    | 5 => ((imgFind i 8).map fun x => (x.off, x.len)).toList
    | _ => imgPlace i (fun x => x.kind == 3 && x.cls == cls && x.unit == idx) 64 s.task

/-- R340: uncorrectable words of the program as it stands in the device memory of the active slot. -/
def Dev.readProgram (d : Dev) (parts : List (Nat × Nat)) : Dev :=
  match d.variant d.active with
  | some v => match v.ranges.head? with
    | some r => d.readStep (parts.map fun p => (r.1 + p.1, p.2))
    | none => d
  | none => d

/-- R27: slots of a unit begun in the frame, as places in its table. -/
def Dev.begun (d : Dev) (cls idx : Nat) : List Nat := (d.frm.begun.filter fun x => x.1 == cls * 256 + idx).map (·.2)

/-- R27: may slot `k` begin? Not twice in a frame, nor after a slot of its unit that starts later. -/
def Dev.inOrder (d : Dev) (cls idx k : Nat) (s : Slot) : Bool :=
  let l := d.slots cls idx
  (d.begun cls idx).all fun j => j != k && match l[j]? with
    | some x => x.start ≤ s.start
    | none => true

/-- SLOT_START (R46): the `k`-th slot of the unit's table for the current frame's template begins. A damaged program acts by class 1, and
the frame runs to its end from the program as loaded. -/
def Dev.slotStart (d : Dev) (cls idx k : Nat) : Dev :=
  if d.st ≠ DS.running ∨ d.frm.frozen then d
  else match (d.slots cls idx)[k]? with
    | none => d
    | some s =>
      if d.slotBusy cls idx s || !d.inOrder cls idx k s then d
      else
        ((d.setFrm fun f => { f with begun := (cls * 256 + idx, k) :: f.begun }).readProgram (d.slotReads cls idx k s)).openSlot cls idx s

/-! ### Completion and slot end -/

/-- The slot takes part in the slack (Table 2.7, R89, R197). -/
def Running.eligible (r : Running) (cls : Nat) : Bool :=
  (r.slot.kind == 1 || r.slot.kind == 2 || r.slot.kind == 6) && !r.idle && !(cls == 3 && r.total == 0)

/-- Passes of the outermost loop that a vector program has run (R211). -/
def VecPos.passes (p : VecPos) (total : Nat) : Nat :=
  if p.ended then total else match p.loops.getLast? with
    | some x => total - x.2
    | none => 0

/-- Items of a task that are done. -/
def Dev.itemsDone (d : Dev) (cls idx : Nat) (r : Running) : Nat :=
  if cls = 2 ∧ rdLe r.desc 0 2 = 0x20 ∧ r.done < r.total then (d.vecPos idx).passes r.total else r.done

/-- A basin task that still has vectors to run. -/
def Dev.basinBusy (d : Dev) (b : Nat) : Bool :=
  (List.range 256).any fun k => match d.running? (unitKey 1 b k) with
    | some r => r.slot.kind == 1 && !r.idle && !r.failed && decide (r.done < r.total)
    | none => false

/-- Every item of a started task is done. The sparge unit's task is complete once no vector can come to it any more. -/
def Dev.taskDone (d : Dev) (cls idx : Nat) (r : Running) : Bool :=
  !r.failed && !r.beyondItems cls && decide (r.total ≤ d.itemsDone cls idx r) && (cls != 3 || !d.basinBusy idx)

def slackUnit (cls idx : Nat) (r : Running) : SlackUnit := ⟨r.slot.kind, cls, if cls = 1 then r.slot.sub else 0, idx⟩

/-- R48, R49: the output buffers of a task are marked late. -/
def Dev.lateOutputs (d : Dev) (cls idx : Nat) (r : Running) : Dev :=
  (d.taskOutputs cls idx r).foldl (fun d q => d.markLate q.1 q.2) d

/-- R50: a task completes `q` quanta after frame_start. -/
def Dev.taskEnds (d : Dev) (cls idx key q : Nat) (r : Running) : Dev :=
  let d := if cls = 2 ∧ rdLe r.desc 0 2 = 0x20 then d.endProg idx false else d
  let d := if r.late then d.lateOutputs cls idx r else d
  (d.setRunning key (some { r with complete := true, done := r.total })).slotSlack ((r.slot.stop : Int) - q) (slackUnit cls idx r)

/-- TASK_COMPLETE (R50): the task of a unit completes, `q` quanta after frame_start and inside its slot. -/
def Dev.taskComplete (d : Dev) (cls idx sub q : Nat) : Dev :=
  let key := unitKey cls idx sub
  match d.running? key with
  | none => d
  | some r =>
    if r.complete || !r.eligible cls || !d.taskDone cls idx r || q < r.slot.start || r.slot.stop < q then d
    else d.taskEnds cls idx key q r

/-- What a unit leaves where its task is stopped (R48, R184, R281). -/
def Dev.stopUnit (d : Dev) (cls idx : Nat) (r : Running) : Dev :=
  match cls with
  | 2 =>
    let op := rdLe r.desc 0 2
    if !r.begun then d
    else if op = 0x10 then
      let x := parseMat r.desc
      let d := match d.companion idx x with
        | some e => if e.op = 0x20 then d.endProg idx true else d
        | none => d
      d.matHist idx x true
    else if op = 0x20 then d.endProg idx true
    else if op = 0x30 then d.asmHist idx (parseKer r.desc) true
    else d
  | 3 =>
    let items := (d.work idx).flatten
    let d := (d.setWork idx []).bumpBy Cnt.SPG_LATE_CNT items.length
    items.foldl (fun d it => (d.markLate it.corrAddr 2112).markLate it.outAddr 2112) d
  | 4 => if r.begun && (parseRed r.desc).op == 0x93 then d.writeCounts else d
  | 5 => if r.failed then d else d.sendStop idx r
  | _ => d

/-- R50: the slack of a stopped task, rounded up in magnitude. One that did not start has all its items remaining. -/
def Dev.stopSlack (d : Dev) (cls idx : Nat) (r : Running) : Nat :=
  let rem := r.total - d.itemsDone cls idx r
  if !r.begun && cls != 3 then r.slot.len else max 1 (ceilDiv (rem * r.slot.len) (max 1 r.planned))

/-- R48: a task unfinished at its slot end is stopped. -/
def Dev.stopSlot (d : Dev) (cls idx : Nat) (r : Running) : Dev :=
  let slack := d.stopSlack cls idx r
  let open_ := d.tokenFrame && !d.frm.tokenFormed && r.begun && d.feedsToken cls idx r
  let d := if open_ then d.setRed fun q => { q with openWork := true } else d
  let d := (d.stopUnit cls idx r).lateOutputs cls idx r
  (d.slotSlack (-(slack : Int)) (slackUnit cls idx r)).overrun

/-- The slot of a unit ends (Table 2.7). -/
def Dev.endSlot (d : Dev) (cls idx sub : Nat) : Dev :=
  let key := unitKey cls idx sub
  match d.running? key with
  | none => d
  | some r =>
    let d := match r.slot.kind with
      | 4 =>
        let other := fun t => !(subTuns sub).contains (t - 64 * idx) || t / 64 != idx
        { d with kln := { d.kln with applied := d.kln.applied.filter other, blocked := d.kln.blocked.filter other } }
      | 5 => if r.complete then d else d.sentTimeout cls idx sub
      | _ =>
        if r.complete || !r.eligible cls then d
        else if d.taskDone cls idx r then d.taskEnds cls idx key r.slot.stop r
        else d.stopSlot cls idx r
    d.setRunning key none

/-- Every slot still in progress ends: no slot reaches into the guard (R42). -/
def Dev.endSlots (d : Dev) : Dev :=
  d.run.foldl (fun d x => d.endSlot (x.1 / 65536) (x.1 / 256 % 256) (x.1 % 256)) d

/-! ### Commands -/

/-- The Tun within a basin of a slot with a single SUB, or 0xFF for all; 0 for other classes. -/
def subCode (u : UClass) (sub : Option (Fin 64)) : Nat := if u = .basin then (match sub with | some i => i.val | none => 0xFF) else 0

/-- SLOT_START (R46): unit `i` of class `u` begins slot `k` of its table for the current template; `e` is what the memories report of
the words it reads. -/
def execSlotStart (u : UClass) (i : Fin 128) (k : Nat) (s : State) (e : Ecc := Ecc.clean) : Host.Outcome State Fault Refusal :=
  s.run fun d => (d.ecc e).slotStart (classCode u) i k

/-- SLOT_END (R48): the slot that unit `i` of class `u` runs for one Tun, or for all, ends. -/
def execSlotEnd (u : UClass) (i : Fin 128) (sub : Option (Fin 64)) (s : State) : Host.Outcome State Fault Refusal :=
  s.run fun d => d.endSlot (classCode u) i (subCode u sub)

/-- TASK_COMPLETE (R50): a task completes `q` quanta after frame_start. -/
def execTaskComplete (u : UClass) (i : Fin 128) (sub : Option (Fin 64)) (q : Nat) (s : State) : Host.Outcome State Fault Refusal :=
  s.run fun d => d.taskComplete (classCode u) i (subCode u sub) q

end Sys2Proof.Machine
end

