-- ==== Sys2Proof/Machine/Frame.lean ====
section
/-!
DEFINITION. The frame tick (R29 to R37): emission at the origin, forwarding, acceptance, the flywheel; and the frame_start (R46), at which
everything that waits for it happens: the close of the ended frame, the step boundary, freezes, the start and the resume of steps.
TICK_EMIT, TICK_IN_EDGE, TICK_WINDOW_END, TICK, FLYWHEEL_START, TICK_MISS_HOLD, FRAME_START, START_TICK_REACHED. Times are in 0.1 ns.
-/

namespace Sys2Proof.Machine

/-! ### Settings and predictions -/

/-- The tick settings in force: those of the last acquisition, and before it those of the register (R59). -/
def Dev.tickCfg (d : Dev) : TickCfg :=
  if d.frm.acquired then d.frm.cfg
  else ⟨d.flag Reg.FRM_TICK_CFG_EXT_SRC, d.fld Reg.FRM_TICK_CFG_MISS_MAX, d.fld Reg.FRM_TICK_CFG_WIN, d.fld Reg.FRM_TICK_CFG_LEAD⟩

/-- A quantum of 10 ns in units of 0.1 ns. -/
def quantum : Nat := 100

def TickCfg.leadTime (c : TickCfg) : Nat := quantum * c.lead
def TickCfg.window (c : TickCfg) : Nat := quantum * c.win

/-- The number and the start of the frame opened last. -/
def Dev.lastOpened (d : Dev) : Nat × Nat :=
  match d.frm.queued.getLast?, d.frm.pending with
  | some f, _ => (f.num, f.start)
  | none, some f => (f.num, f.start)
  | none, none => (d.fld Reg.FRM_TICK_NUM_NUM, d.frm.frameStart)

/-- R34, R57: the flywheel prediction. -/
def Dev.prediction (d : Dev) : Nat :=
  let fs := d.lastOpened.2
  match d.frm.switchAt with
  | some (t, old) => if fs + old < t + d.tickCfg.leadTime then fs + old else fs + d.period
  | none => fs + d.period

/-- A frame is opened: it is the next one, or follows those already opened. -/
def Dev.openFrame (d : Dev) (f : PendingFrame) : Dev :=
  d.setFrm fun x => match x.pending with
    | none => { x with pending := some f }
    | some _ => { x with queued := x.queued ++ [f] }

/-! ### The origin (R30, R33) -/

/-- R360: the first accepted tick already exceeds START_TICK: the waiting RUN or RESUME ends, and the state does not change. -/
def Dev.missedStart (d : Dev) (num : Nat) : Dev :=
  match d.frm.startTick with
  | some t => if t < num then d.abortStart.bump Cnt.HIF_START_MISS_CNT else d
  | none => d

/-- The origin emits its next tick. `stamp` is the emission time, `wait` what the actual emission comes after it. -/
def Dev.emitTick (d : Dev) (stamp wait : Nat) : Dev :=
  let cfg := d.tickCfg
  let n := d.frm.nextTick
  let d := if d.frm.acquired then d else d.missedStart n
  let d := (d.floodTick n false wait none).emit .tickOut
  let d := (d.setFld Reg.FRM_STATUS_TICK_STATE 1).setFld Reg.FRM_STATUS_TICK_SRC 1
  let next := stamp + d.period
  let d := d.setFrm fun f =>
    { f with cfg := cfg, acquired := true, emitting := true, nextTick := (n + 1) % 2 ^ 48, lastEmit := stamp, nextEmit := next }
  d.openFrame ⟨n, stamp + cfg.leadTime, 1, false⟩

/-- The origin times its emissions from its tick timer, or from TICK_IN. -/
def Dev.emits (d : Dev) (ext : Bool) : Bool := d.frm.origin && d.ticking && d.tickCfg.extSrc == ext

/-- The tick timer expires at `now`. An emission whose time has passed is made at once (R57). -/
def Dev.timerTick (d : Dev) (now : Nat) : Dev :=
  if !d.emits false then d
  else if !d.frm.emitting then d.emitTick now 0
  else if now < d.frm.nextEmit then d
  else d.emitTick d.frm.nextEmit (now - d.frm.nextEmit)

/-- A rising edge of TICK_IN at `now`. -/
def Dev.tickEdge (d : Dev) (now : Nat) : Dev :=
  let w := d.tickCfg.window
  if !d.emits true then d
  else if !d.frm.emitting || (decide (d.frm.nextEmit ≤ now + w) && decide (now ≤ d.frm.nextEmit + w)) then d.emitTick now 0
  else d.bump Cnt.FRM_TICK_MISS_CNT

/-- The TICK_IN window has ended at `now` without an accepted edge. -/
def Dev.windowEnd (d : Dev) (now : Nat) : Dev :=
  let w := d.tickCfg.window
  let pred := if d.frm.emitting then d.frm.nextEmit else now - w
  if !d.emits true || now < pred + w then d
  else (d.bump Cnt.FRM_TICK_MISS_CNT).emitTick pred (now - pred)

/-! ### Every other device (R31, R34, R35) -/

/-- A tick is accepted. -/
def Dev.acceptTick (d : Dev) (f : PendingFrame) : Dev :=
  let d := d.setFrm fun x => { x with backup := none }
  (if f.late then d.bump Cnt.FRM_TICK_LATE_CNT else d).openFrame f

/-- R34, R324: is port `p` the upstream port of a role, 1 primary or 2 backup? A WAIT port is none. -/
def Dev.upstream (d : Dev) (p role : Nat) : Bool := d.fld (Reg.FAB_PORT_STATUS_ROLE p) == role && d.portUp p

/-- R34 steps 2 and 3: a tick of an upstream port, once the tick has been acquired. One for a frame already open, or before the window of the next,
is discarded; one past that window may open a later frame and is kept. -/
def Dev.judgeWindow (d : Dev) (f : PendingFrame) : Dev :=
  let w := d.tickCfg.window
  if f.num ≤ d.lastOpened.1 || f.start + w < d.prediction then d
  else if d.prediction + w < f.start then d.setFrm fun x => { x with early := x.early ++ [f] }
  else if f.src = 1 then d.acceptTick f
  else if d.frm.backup.isNone then d.setFrm fun x => { x with backup := some f }
  else d

/-- One round over the ticks kept for later frames, in the order of their arrival. -/
def Dev.judgeRound (d : Dev) : Dev := d.frm.early.foldl Dev.judgeWindow (d.setFrm fun x => { x with early := [] })

/-- A frame may have been opened: the ticks kept for later frames are judged against the new prediction, one round for each of them. -/
def Dev.judgeLater (d : Dev) : Dev := (List.range d.frm.early.length).foldl (fun d _ => d.judgeRound) d

/-- R34: the acceptance of tick `num` that arrives on port `p` at `now` with accumulated latency `acc`. -/
def Dev.judgeTick (d : Dev) (p num acc now : Nat) : Dev :=
  let cfg := d.tickCfg
  let fs := now + cfg.leadTime - acc
  let late := decide (now + cfg.leadTime < now + acc)
  if !d.frm.acquired then
    if d.upstream p 1 then
      (((d.setFrm fun f => { f with acquired := true, cfg := cfg }).setFld Reg.FRM_STATUS_TICK_STATE 1).acceptTick ⟨num, fs, 1, late⟩).missedStart num
    else d
  else if d.upstream p 1 then (d.judgeWindow ⟨num, fs, 1, late⟩).judgeLater
  else if d.upstream p 2 then (d.judgeWindow ⟨num, fs, 2, late⟩).judgeLater
  else d

/-- A TICK on port `p`: forwarded at its first copy, in every state (R31), and judged where a frame program is active (R30). -/
def Dev.tickIn (d : Dev) (p : Nat) (m : Msg) (now delay : Nat) : Dev :=
  let num := rdLe m.body 0 6
  let acc := rdLe m.body 8 4
  if bit (rdLe m.body 6 1) 0 then d.testTick p num acc delay
  else if d.frm.origin then d
  else
    let d := if d.frm.forwarded.contains num then d
      else (d.setFrm fun f => { f with forwarded := num :: f.forwarded }).floodTick num false (acc + delay) (some p)
    if d.ticking then d.judgeTick p num acc now else d

/-- R34 steps 3 and 4: the window has passed without a tick on the primary port. -/
def Dev.flywheel (d : Dev) : Dev :=
  if d.frm.origin || !d.ticking || !d.frm.acquired || d.frm.pending.isSome then d
  else match d.frm.backup with
    | some f => ((d.bump Cnt.FRM_TICK_BACKUP_CNT).acceptTick f).judgeLater
    | none =>
      let f : PendingFrame := ⟨(d.lastOpened.1 + 1) % 2 ^ 48, d.prediction, 3, false⟩
      ((d.bump Cnt.FRM_TICK_MISS_CNT).openFrame f).judgeLater

/-- R36: MISS_MAX consecutive frames have started on the flywheel. -/
def Dev.missHold (d : Dev) : Dev :=
  if d.frm.origin || !d.ticking || d.flag Reg.FRM_STATUS_HOLD_TICK || d.frm.misses < d.tickCfg.missMax then d
  else
    let d := d.setFld Reg.FRM_STATUS_HOLD_TICK 1
    if d.st = DS.running ∨ d.st = DS.loaded then d.freeze 6 else d.setFld Reg.FRM_STATUS_TICK_STATE 0

/-! ### The close of a frame (R50) -/

/-- R50: the slack of the ended frame over the slots that ended in it: period − 10 where none takes part. -/
def Dev.frameSlack (d : Dev) : Int × SlackUnit :=
  d.frm.slack.getD (((d.fld Reg.FRM_PERIOD_CYCLES / 16 : Nat) : Int) - 10, ⟨0, 0, 0, 0⟩)

/-- The least frame slack of the step in flight, with its slot. -/
def Dev.noteStepMin (d : Dev) (x : Int × SlackUnit) : Dev :=
  match d.frm.stepMin with
  | some (s, _) => if x.1 < s then d.setFrm fun f => { f with stepMin := some x } else d
  | none => d.setFrm fun f => { f with stepMin := some x }

/-- The ended frame's slack is recorded at each frame_start (R50); that of a frame of a running step counts for the step too. -/
def Dev.closeFrame (d : Dev) : Dev :=
  if !d.frm.inFrame then d
  else
    let steps := d.st == DS.running && !d.frm.frozen && d.frm.stepOpen
    let d := if steps then d.endSlots else d
    let x := d.frameSlack
    let d := ((d.setFld Reg.FRM_SLACK_LAST (unsgn 32 x.1)).monSample 128 x.1).setFrm fun f => { f with slack := none }
    if steps then d.noteStepMin x else d

/-! ### Frames of a step -/

/-- R251: in STALE mode the agreed exponents come from the stored ones. -/
def Dev.writeStale (d : Dev) : Dev :=
  if d.preMode then d
  else (List.range (d.fld Reg.RED_SCALE_BASE_BUCKETS)).foldl (fun (d : Dev) b =>
    (d.readStep [(d.storeAt b 0, 8192)]).write (d.agreedAt b 0) ((List.range 8192).map fun k =>
      let s := d.rd (d.storeAt b k) 1
      BitVec.ofNat 8 (if s = 0 then 254 else min (s + d.fld Reg.RED_SCALE_CFG_MARGIN) 254))) d

/-- A step begins: frame 0 (R222, R223, R225, R236, R251). -/
def Dev.beginStep (d : Dev) : Dev :=
  let d := (d.setFrm fun f => { f with stepOpen := true, frozen := false }).setFld Reg.FRM_STEP_POS_FRAME 0
  let d := ((d.writeStale).setFld Reg.NUM_MODE_ACTIVE (d.fld Reg.NUM_MODE_MODE)).takePolicy
  let d := if d.frm.grantDue && d.fld Reg.NUM_MODE_ACTIVE != 0 then d.digitalGrants else d
  (d.setFrm fun f => { f with grantDue := false }).writeParams

/-- The pound occupancy monitors sample at every frame_start (R435). -/
def Dev.samplePounds (d : Dev) : Dev :=
  (List.range 16).foldl (fun d i =>
    if d.flag (Reg.GAU_POUND_SEL_EN i) then
      d.monSample (112 + i) ((d.rx (d.fld (Reg.GAU_POUND_SEL_POUND i))).filled.length : Nat)
    else d) d

/-- The frame runs (R46): releases, monitors, the request of the token frame; a late tick is an overrun (R35). -/
def Dev.runFrame (d : Dev) : Dev :=
  let d := (d.setRed fun r => { r with past := false }).setFrm fun f => { f with slack := none, frameOver := false, begun := [] }
  let d := (d.releaseDue).samplePounds
  let d := if d.lastFrame then d.formRequest else d
  if d.frm.frameLate then d.overrun else d

/-- The frame of RUN or RESUME opens: the device is RUNNING and frame 0 of the step starts (R58, R360). -/
def Dev.startSteps (d : Dev) : Dev :=
  let d := ((d.setSt DS.running).portsUp).takeSpg.takeFlt
  let d := { d with num := { d.num with now := emptyGather, next := emptyGather, uwrSat := [] }
                    spg := { d.spg with stats := [], nextStats := [], request := [], work := [] } }
  let d := (d.setFrm fun f => { f with startTick := none, nextOk := true, nextReasons := 0, freezeDue := none })
  let d := ((d.setRed fun r => { r with absentNext := [], hadAbsentNext := false }).setPnd fun p => { p with hadAwaitedNext := false }).nextRun
  (d.hif.prog.filter Cmd.isStart).foldl (fun d c => d.complete c .done 0 0 0) d

/-- The frame of START_TICK (R360): at it the steps start; past it the command ends. -/
def Dev.startDue (d : Dev) (num : Nat) : Dev :=
  match d.frm.startTick with
  | none => d
  | some t =>
    if num < t ∨ d.flag Reg.FLT_WDOG_STATUS_FROZEN then d
    else if num = t then
      let d := if d.frm.resumeTick.isSome then d.startSteps.abortUpdate else d.startSteps
      d.beginStep.runFrame
    else d.abortStart.bump Cnt.HIF_START_MISS_CNT

/-- The frame of RESUME_TICK (R396). -/
def Dev.resumeDue (d : Dev) (num : Nat) : Dev :=
  match d.frm.resumeTick with
  | none => d
  | some t =>
    if d.st ≠ DS.quiesced ∨ num < t ∨ d.fld Reg.MBX_STATUS_FW ≠ 1 ∨ d.flag Reg.FLT_WDOG_STATUS_FROZEN then d
    else
      let fin := fun (d : Dev) (late : Nat) => (d.hif.prog.filter Cmd.isUpdate).foldl (fun d c => d.complete c .done late 0 0) d
      let d := d.setFrm fun f => { f with resumeTick := none }
      if num = t then (fin d.abortStart.startSteps 0).beginStep.runFrame else fin d 1

/-- A freeze that is due where no step runs, or at a boundary that left RUNNING. -/
def Dev.freezeIdle (d : Dev) : Dev :=
  match d.frm.freezeDue with
  | none => d
  | some c => if d.st = DS.loaded ∨ c = 4 then d.holdNow c else d.setFrm fun f => { f with freezeDue := none }

/-- A frame_start in RUNNING: freezes at the end of the ended frame, the boundary, freezes of this frame_start, the next frame. -/
def Dev.frameRunning (d : Dev) (m : StepMeas) : Dev :=
  let hard := match d.frm.freezeDue with
    | some c => c == 6 || c == 7 || (c == 8 && !d.frm.tokenFormed)
    | none => false
  if hard || (d.flt.ledgerFault && !d.frm.tokenFormed) then d.stageOverrun.holdNow (d.frm.freezeDue.getD 8)
  else
    let last := d.lastFrame
    let d := if last then d.boundary m else d.setFld Reg.FRM_STEP_POS_FRAME (d.fld Reg.FRM_STEP_POS_FRAME + 1)
    if d.st ≠ DS.running then (if last then d.writeParams else d).freezeIdle
    else
      let soft := match d.frm.freezeDue with
        | some c => last || c == 4 || c == 5
        | none => false
      if soft || (last && d.flt.ledgerFault) then (if last then d.writeParams else d.stageOverrun).holdNow (d.frm.freezeDue.getD 8)
      else if last then d.beginStep.runFrame
      else d.runFrame

/-- FRAME_START (R46): the time of the opened frame arrives. -/
def Dev.frameStart (d : Dev) (m : StepMeas) : Dev :=
  match d.frm.pending with
  | none => d
  | some f =>
    if !d.ticking then d
    else
      let d := d.setFrm fun x => { x with pending := x.queued.head?, queued := x.queued.drop 1 }
      let d := d.closeFrame
      let d := (d.setFld Reg.FRM_TICK_NUM_NUM f.num).setFld Reg.FRM_STATUS_TICK_SRC f.src
      let lost := d.flag Reg.FRM_STATUS_HOLD_TICK && (d.st == DS.held || d.st == DS.quiesced)
      let d := d.setFld Reg.FRM_STATUS_TICK_STATE (if lost then 0 else if f.src = 3 then 2 else 1)
      let d := d.setFrm fun x => { x with frameStart := f.start, inFrame := true, frameLate := f.late, misses := if f.src = 3 then x.misses + 1 else 0 }
      let d := if d.st = DS.running then d.frameRunning m
        else
          let d := d.freezeIdle
          (d.startDue f.num).resumeDue f.num
      -- R412: the program of a device whose watchdog has expired is frozen from here on, whichever cause froze it.
      if d.flag Reg.FLT_WDOG_STATUS_EXPIRED then d.setFld Reg.FLT_WDOG_STATUS_FROZEN 1 else d

/-! ### Commands -/

/-- TICK_EMIT (R30). -/
def execTickEmit (now : Nat) (s : State) : Host.Outcome State Fault Refusal := s.run fun d => d.timerTick now
/-- TICK_IN_EDGE (R30). -/
def execTickInEdge (now : Nat) (s : State) : Host.Outcome State Fault Refusal := s.run fun d => d.tickEdge now
/-- TICK_WINDOW_END (R30). -/
def execTickWindowEnd (now : Nat) (s : State) : Host.Outcome State Fault Refusal := s.run fun d => d.windowEnd now

/-- TICK (R31, R34, R35): `delay` is the device's own forwarding delay. -/
def execTick (p : Fin 16) (m : Msg) (now delay : Nat) (s : State) : Host.Outcome State Fault Refusal :=
  s.run fun d => d.localMsg p MT.tick (m.len == 16) m fun d => d.tickIn p m now delay

/-- FLYWHEEL_START (R34). -/
def execFlywheelStart (s : State) : Host.Outcome State Fault Refusal := s.run fun d => d.flywheel
/-- TICK_MISS_HOLD (R36). -/
def execTickMissHold (s : State) : Host.Outcome State Fault Refusal := s.run fun d => d.missHold
/-- FRAME_START (R46): `m` is what the sensors report where the frame_start is a step boundary. -/
def execFrameStart (m : StepMeas) (s : State) : Host.Outcome State Fault Refusal := s.run fun d => d.missHold.frameStart m

end Sys2Proof.Machine
end

