-- ==== Sys2Proof/Machine/Reset.lean ====
section
/-!
DEFINITION. Resets, power and heat (R440, R441, R450 to R454): what a cold start keeps, entry to ROM and to FAULT, rail faults,
thermal limits, and the expiry of the watchdog. POWER_ON, PERST, START_COLD, POWER_LOSS, RAIL_FAULT, THERMAL_HOLD,
THERMAL_RELEASE, THERMAL_TRIP, WDOG_EXPIRE.
-/

namespace Sys2Proof.Machine

def Dev.setPwr (d : Dev) (f : Pwr → Pwr) : Dev := { d with pwr := f d.pwr }

/-! ### Causes (Table 18.11) -/

namespace Cause
def powerOn : Nat := 0
def perst : Nat := 1
def hotReset : Nat := 2
def flr : Nat := 3
def startCold : Nat := 4
def startWarm : Nat := 5
def reload : Nat := 6
def trip : Nat := 7
def rail : Nat := 8
def escalation : Nat := 9
end Cause

/-- Record a cause, and the one before it. -/
def Dev.noteCause (d : Dev) (c : Nat) : Dev :=
  (d.setFld Reg.PWR_RESET_CAUSE_PREV (d.fld Reg.PWR_RESET_CAUSE_CAUSE)).setFld Reg.PWR_RESET_CAUSE_CAUSE c

/-- PWR_START_STAT at a start's end: the duration is a free value. -/
def Dev.noteStart (d : Dev) (stage kind : Nat) : Dev :=
  let x := d.draw
  let d := if kind = 0 then d else x.2.setFld Reg.PWR_START_STAT_DUR_MS x.1
  (d.setFld Reg.PWR_START_STAT_LAST_STAGE stage).setFld Reg.PWR_START_STAT_KIND kind

/-- A start that fails: the stage and kind are recorded, and no duration. -/
def Dev.noteFailed (d : Dev) (stage kind : Nat) : Dev :=
  (d.setFld Reg.PWR_START_STAT_LAST_STAGE stage).setFld Reg.PWR_START_STAT_KIND kind

/-- The stage in progress. -/
def Dev.stage (d : Dev) (k : Nat) : Dev :=
  (d.setFld Reg.HIF_STATE_STAGE k).setPwr fun p => { p with start := p.start.map fun s => { s with stage := k } }

/-! ### What a reset does to the cells and the memories -/

/-- R450: the cells of every pulse round in progress are left at undetermined levels: free values. -/
def Dev.dropRounds (d : Dev) : Dev :=
  let d := d.rack.rounds.foldl (fun d x => x.2.entries.foldl (fun d e =>
    let y := d.draw
    y.2.setCell x.1 e.row e.col (((y.1 % 15 : Nat) : Int) - 7)) d) d
  { d with rack := { d.rack with rounds := [] } }

/-- R441: the local stores lose their contents; HBM keeps its own. -/
def Dev.loseLs (d : Dev) : Dev :=
  { d with lsEpoch := d.lsEpoch + 1, mem := d.mem.filter fun c => c.1 < lsBase, poison := d.poison.filter fun w => 8 * w < lsBase }

/-- The register fields whose register's offset a test picks. -/
def keepRegs (m : SMap Nat) (keep : Nat → Bool) : SMap Nat := m.filter fun x => keep (x.1 / 64)

/-! ### Cold reset -/

/-- R363: the host interface registers that a cold start begun by START COLD or an escalation keeps. -/
def pcieRegs : List Nat := [0x10010, 0x10018, 0x10020, 0x10030, 0x110060]

/-- The host interface across a start that keeps its rings (R362, R363, R441). -/
def Hif.kept (h : Hif) (seq : Nat) : Hif := { h with stepCq := none, stepCid := 0, stepSeq := seq, permCmd := none }

/-- The device at the beginning of a cold start (R363, R440 to R442, R459). `pcie` says that the host interface is kept, `power` that
the power came new: then HBM, the ledger, the counters and the AON registers are lost too. -/
def Dev.coldState (d : Dev) (pcie power : Bool) : Dev :=
  let d := d.dropRounds
  let d := if power then d else d.mgmtDown
  let d := d.loseLs
  let r := Dev.reset
  let regs := keepRegs d.regs fun o => (o == 0x100020 && !power) || (pcie && pcieRegs.contains o)
  let kln := { r.kln with store := d.kln.store, crc := d.kln.crc, degraded := d.kln.degraded, retired := d.kln.retired }
  let sec := { r.sec with fwMin := d.sec.fwMin, certMin := d.sec.certMin, calEpoch := d.sec.calEpoch, nextSession := d.sec.nextSession }
  let sec := if pcie then { sec with sessions := d.sec.sessions, phase := d.sec.phase, keys := d.sec.keys, going := d.sec.going } else sec
  let flt := if power then r.flt else { r.flt with ledger0 := d.flt.ledger0, ledger1 := d.flt.ledger1, seq := d.flt.seq }
  { r with
      regs := regs, cnt := if power then [] else d.cnt, mem := if power then [] else d.mem, lsEpoch := d.lsEpoch
      split := if power then 0 else d.split, poison := if power then [] else d.poison, draws := d.draws
      frm := { r.frm with origin := d.frm.origin }, cells := d.cells, kln := kln, sec := sec, flt := flt
      hif := if pcie then d.hif.kept 0 else r.hif, mbx := { r.mbx with vddio := d.mbx.vddio || power }
      pwr := { r.pwr with hot := if power then [] else d.pwr.hot }, tpMode := d.tpMode, tp := d.tp, out := d.out }

/-- A cold start begins in ROM (R440, R442). -/
def Dev.beginCold (d : Dev) (cause : Nat) (pcie power : Bool) : Dev :=
  let d := (((d.setSt DS.rom).coldState pcie power).setFld Reg.HIF_STATE_STATE DS.rom).noteCause cause
  let d := d.setFld Reg.PWR_STATUS_HOT (if d.pwr.hot.isEmpty then 0 else 1)
  ((d.startSettling 0).startSettling 1).bump Cnt.PWR_START_COLD_CNT

/-- The ROM's checks end (R442): AWAIT_IMAGE, or FAULT. `starter` is the START COLD that began the start; every other command in
progress completes with ABORTED (R363). -/
def Dev.romDone (d : Dev) (ok : Bool) (starter : Option Cmd) : Dev :=
  let d := if ok then d.setSt DS.awaitImage else (d.noteFailed 0 1).setSt DS.fault
  let d := match starter with
    | some c => d.complete c (if ok then .done else .aborted) 0 0 0
    | none => d
  d.abortCmds fun _ => true

/-! ### FAULT -/

/-- Entry to FAULT (R363, Table 14.7): every unit stops, and every command in progress completes with ABORTED. -/
def Dev.enterFault (d : Dev) : Dev :=
  let d := match d.pwr.start with
    | some x => d.noteFailed x.stage (if x.cold then 1 else 2)
    | none => d
  let d := d.stopSteps.setFrm fun f => { f with startTick := none, resumeTick := none, quiesceAt := none, updateAt := none }
  let d := ((d.setPwr fun p => { p with start := none }).setFld Reg.HIF_STATE_STAGE 0).setSt DS.fault
  d.dropStaged.abortCmds fun _ => true

/-! ### Commands: power and reset -/

/-- POWER_ON (R440): `romOk` says that the ROM's checks pass. -/
def execPowerOn (romOk : Bool) (s : State) : Host.Outcome State Fault Refusal :=
  s.always fun d => (d.beginCold Cause.powerOn false true).romDone romOk none

/-- PERST (R30, R440, R454): asserted and deasserted. The straps are sampled, `origin` for STRAP_ORIGIN and `mode` for TP_MODE. -/
def execPerst (origin mode romOk : Bool) (s : State) : Host.Outcome State Fault Refusal :=
  s.always fun d =>
    if d.st = DS.off then d
    else
      let d := d.beginCold Cause.perst false false
      ({ d.setFrm fun f => { f with origin := origin } with tpMode := mode }).romDone romOk none

/-- START_COLD (R363, R440). -/
def execStartCold (n : Fin 65536) (romOk : Bool) (s : State) : Host.Outcome State Fault Refusal :=
  s.run fun d => d.command n (fun c => c.op == 0x11 && c.par 0 == 1) fun c d =>
    (d.beginCold Cause.startCold true false).romDone romOk (some c)

/-- POWER_LOSS (R450): the device enters OFF; what only power held is lost. -/
def execPowerLoss (s : State) : Host.Outcome State Fault Refusal :=
  s.always fun d => (d.coldState false true).setFld Reg.HIF_STATE_STATE DS.off

/-- RAIL_FAULT (R451): every unit and transmitter stops at once, with no regard to frames; the device enters FAULT. A step in flight
completes with ABORTED. -/
def Dev.railFault (d : Dev) (rail : Nat) : Dev :=
  let d := d.dropRounds
  let d := if d.st = DS.running then
      d.stepCompletion .aborted d.epoch 0 0 (d.fld Reg.RED_STEP_STATE_REPLAYS) (d.fld Reg.RED_STEP_STATE_REPEATS) 0
    else d
  let d := ports.foldl (fun d p => d.loseLink p PS.down) { d with run := [] }
  ((d.setFld Reg.PWR_RESET_CAUSE_RAIL rail).bump Cnt.PWR_RAIL_FAULT_CNT).noteCause Cause.rail |>.enterFault

def execRailFault (rail : Fin 5) (s : State) : Host.Outcome State Fault Refusal := s.run fun d => d.railFault rail

/-! ### Heat (R452 to R454) -/

/-- The Gauge channel of a diode: A-die diodes 0–31 are channels 0–31, L-die diodes 32–55 channels 48–71 (Table 17.1). -/
def diodeChannel (i : Nat) : Nat := if i < 32 then i else i + 16

/-- THERMAL_HOLD (R453): a diode crosses its HOLD level. -/
def Dev.thermalHold (d : Dev) (i : Nat) : Dev :=
  let d := (d.setFld Reg.PWR_THERM_STATUS_HOLD_ACTIVE 1).setFld Reg.PWR_THERM_STATUS_DIODE (diodeChannel i)
  let d := (d.bump Cnt.PWR_THERM_HOLD_CNT).setFld Reg.PWR_STATUS_HOT 1
  let d := d.setPwr fun p => { p with hot := if p.hot.contains i then p.hot else i :: p.hot }
  if d.st = DS.running ∨ d.st = DS.loaded then d.freeze 5 else d

def execThermalHold (diode : Fin 56) (s : State) : Host.Outcome State Fault Refusal := s.run fun d => d.thermalHold diode

/-- THERMAL_RELEASE (R453): every diode is below its release level. -/
def execThermalRelease (s : State) : Host.Outcome State Fault Refusal :=
  s.run fun d => (d.setPwr fun p => { p with hot := [] }).setFld Reg.PWR_STATUS_HOT 0

/-- THERMAL_TRIP (R454): clocks and transmitters stop; THERMTRIP# falls. -/
def execThermalTrip (s : State) : Host.Outcome State Fault Refusal :=
  s.run fun d => ((d.dropRounds.noteCause Cause.trip).setPwr fun p => { p with tripped := true }).emit .thermTrip

/-! ### The watchdog (R396, R397, R411) -/

/-- WDOG_EXPIRE (R411): an UPDATE that is staged, or whose new image has not yet served, completes with ABORTED (R396, R397). -/
def execWdogExpire (s : State) : Host.Outcome State Fault Refusal :=
  s.run fun d => if d.flag Reg.FLT_WDOG_STATUS_ARMED then
      d.wdogExpire.abortUpdate
    else d

end Sys2Proof.Machine
end

