-- ==== Sys2Proof/Machine/Start.lean ====
section
/-!
DEFINITION. The cold start (R442 to R445): the image, the stages up to the checkpoint, full programming, and the end of the start.
IMAGE_LOAD_BOOT, PROGRAM.
-/

namespace Sys2Proof.Machine

/-! ### Images (R371, R443, R465) -/

/-- An image's bytes arrive from the host at `addr`; short of its length, the host request ended in an error (R356). -/
def Dev.fetchImage (d : Dev) (c : Cmd) (data : List Byte) (addr : Nat) : Option (List Byte) × Dev :=
  let n := c.par 1
  let d := (d.emit (.hostRead (c.par 0) n)).write addr (data.take n)
  if data.length < n then (none, (d.bump Cnt.HIF_DMA_ERR_CNT).complete c .aborted 0 0 0) else (some (data.take n), d)

/-- A fetched image is judged: a malformed one gives LOAD_ERR, a failed signature AUTH_FAIL; `act` goes on with a good one. -/
def Dev.judgeImage (d : Dev) (c : Cmd) (b : List Byte) (act : SigResult → Dev → Dev) : Dev :=
  if imageMalformed b then d.complete c .loadErr 0 0 0
  else
    let r := d.sigCheck 1 (imageObj b) (imageSig b)
    let d := d.noteSig 1 r
    if r.code ≠ 0 then d.complete c .authFail 0 0 0 else act r d

/-- An image starts afresh, by BOOT, RELOAD or a warm start (R390). A command that needs Acisk and waited for it completes with
ABORTED (R368), but for the one that began the start. -/
def Dev.startImage (d : Dev) (b : List Byte) (keep : Option Cmd) : Dev :=
  let d := ((d.enterImage b).setFld Reg.MBX_STATUS_FW 1).setFld Reg.HIF_STATE_HELLO 0
  let d := { d with mbx := { d.mbx with staged := false, rung := [], mgmt := [] } }
  d.abortCmds fun c => c.needsAcisk && some c != keep

/-! ### Stages 2 to 5 (Table 18.2) -/

/-- The boot staging area (R443). -/
def stagingAddr : Nat := 0x090000000000

/-- Bits of the stacks of a list. -/
def stackMask (l : List Nat) : Nat := ((List.range 24).map fun h => if l.contains h then 2 ^ h else 0).sum

/-- Stage HBM_TRAIN (R337). -/
def Dev.trainHbm (d : Dev) (bad : List Nat) : Dev :=
  let m := stackMask bad
  let d := (d.setFld Reg.MEM_TRAIN_STATUS_DONE (2 ^ 24 - 1 - m)).setFld Reg.MEM_TRAIN_STATUS_FAIL m
  d.bumpBy Cnt.MEM_TRAIN_FAIL_CNT ((List.range 24).filter bad.contains).length

/-- R369: the firmware region's base in GiB. -/
def fwBase (split : Nat) : Nat := if split < 36 then 24 * (36 - split) - 1 else 0x020000000000 / gib + 12 * 36 - 1

/-- Stage HBM_INIT (R332, R442): SPLIT takes effect, and every HBM location holds zero data under valid ECC. -/
def Dev.initHbm (d : Dev) : Dev :=
  let split := d.fld Reg.MEM_CFG_SPLIT
  { d with split := split, mem := d.mem.filter fun c => lsBase ≤ c.1, poison := d.poison.filter fun w => lsBase ≤ 8 * w }.setFld
    Reg.MBX_FW_REGION_BASE (fwBase split)

/-- Table 15.5: end A, end B of the default bindings. -/
def defaultBind (n : Nat) : Option (Nat × Nat) :=
  if n < 16 then some (0x01, 0x10) else if n < 24 then some (0x50, 0x11) else if n < 32 then some (0x30, 0x12)
  else if n < 40 then some (0x40, 0x13) else none

/-- R379: Acisk writes the default bindings. -/
def Dev.bindDefaults (d : Dev) : Dev :=
  ((List.range 56).map (8 + ·)).foldl (fun d n => match defaultBind n with
    | some (a, b) => ((d.setFld (Reg.MBX_BIND_EN n) 1).setFld (Reg.MBX_BIND_END_A n) a).setFld (Reg.MBX_BIND_END_B n) b
    | none => d.setFld (Reg.MBX_BIND_EN n) 0) d

/-- Bring-up begins on every enabled port that `p` picks; a disabled port has no bring-up to wait for. -/
def Dev.trainPorts (d : Dev) (p : Nat → Bool) : Dev :=
  ports.foldl (fun d k =>
    if !p k then d else if d.flag (Reg.FAB_PORT_CTL_EN k) then d.trainPort k else d.settlePort k) d

/-- Stages 2 to 5 of a cold start, up to the beginning of FABRIC. -/
def Dev.coldStages (d : Dev) (c : Cmd) (b : List Byte) (env : BootEnv) : Dev :=
  let bad := env.hbmBad.map (·.val)
  let d := (d.stage 2).trainHbm bad
  if !bad.isEmpty then d.enterFault
  else
    let d := ((d.stage 3).initHbm).setFld Reg.MBX_STATUS_BANK 0
    let d := (((d.write (d.bankAddr 0) b).startImage b (some c)).bindDefaults).stage 4
    if !env.d2dOk then d.enterFault else (d.stage 5).trainPorts fun _ => true

/-! ### Stages 6 to 8 -/

/-- R444: a cluster that fails SELFTEST counts as a permanent fault. -/
def Dev.selfTestFail (d : Dev) (c : Nat) : Dev :=
  let f := Reg.FLT_MXC_FAULT_FAULT (c / 64)
  let was := bit (d.fld f) (c % 64)
  let d := ((d.bump Cnt.FLT_SENTINEL_PERM_CNT).sticky Reg.FLT_STK0_SENTINEL_PERM).setFld f (setBit (d.fld f) (c % 64))
  if was then d else d.permAction 2 c

/-- TUN_RETIRED as the calibration store's flags say (R154). -/
def Dev.loadRetired (d : Dev) : Dev :=
  (List.range 32).foldl (fun d b => d.setFld (Reg.TUN_RETIRED_RETIRED b)
    ((List.range 64).map fun i => if d.kln.retired.contains (64 * b + i) then 2 ^ i else 0).sum) d

/-- What unit `u` of Tun `t` measures. -/
def measAt (l : List KilnMeas) (t u : Nat) : KilnMeas := l.getD (18 * t + u) ⟨0, 0, [], 0, []⟩

/-- Runs of all basins begin (R157). -/
def Dev.startRuns (d : Dev) (measured : Bool) : Dev :=
  (List.range 32).foldl (fun d b => (d.setKilnRun b (some ⟨measured, d.basinTemp b, [], []⟩)).showRun b) d

/-- Units of a Tun's calibration, in order. -/
def Dev.kilnUnits (d : Dev) (l : List KilnMeas) (units : List Nat) (t : Nat) : Dev :=
  match d.kilnRun (t / 64) with
  | none => d
  | some r => units.foldl (fun d u => d.unitWork (t / 64) (t % 64) u r (measAt l t u)) d

/-- The calibration of a Tun completes. -/
def Dev.kilnFinish (d : Dev) (t : Nat) (measured : Bool) : Dev :=
  match d.kilnRun (t / 64) with
  | none => d
  | some r => d.kilnTunDone (t / 64) (t % 64) r measured

/-- Units 1 to 16. -/
def dataUnits : List Nat := (List.range 16).map (· + 1)

def tuns : List Nat := List.range 2048

/-- Stages 6 to 8, and the wait for the checkpoint (R445). -/
def Dev.afterFabric (d : Dev) (x : Start) : Dev :=
  let d := (x.badMxc.foldl Dev.selfTestFail (d.stage 6)).loseLs
  let d := ((d.stage 7).setFld (Reg.GAU_STATUS_REF_SETTLING 0) 0).setFld (Reg.GAU_STATUS_REF_SETTLING 1) 0
  let d := ((d.stage 8).loadRetired).startRuns true
  (tuns.foldl (fun d t => d.kilnUnits x.kiln [0, 17] t) d).stage 0xF

/-! ### IMAGE_LOAD BOOT -/

/-- IMAGE_LOAD_BOOT (R356, R442, R443): `env` is what the stages of the cold start find. -/
def execImageLoadBoot (n : Fin 65536) (data : List Byte) (env : BootEnv) (s : State) : Host.Outcome State Fault Refusal :=
  s.run fun d => d.command n (fun c => c.op == 0x10 && c.par 2 == 0) fun c d =>
    match d.fetchImage c data stagingAddr with
    | (none, d) => d
    | (some b, d) => d.judgeImage c b fun r d =>
      let d := (d.askCommit r).setSt DS.booting
      let start : Start := ⟨true, 1, some c, env.badMxc.map (·.val), env.kiln, false, false⟩
      (d.setPwr fun p => { p with start := some start }).coldStages c b env

/-! ### PROGRAM (R136, R445) -/

/-- Full programming of one weight: the level the image gives, or the one a weight that does not verify holds (R128). -/
def Dev.programCell (d : Dev) (t stamp : Nat) (missed : List (Nat × Int)) (r c : Nat) : Dev :=
  let want := cellLevel (d.imageLevel (d.tunImage t) r c)
  let miss := missed.find? fun x => x.1 == cellKey t r c
  let got := match miss with
    | some x => clampInt (-7) 7 x.2
    | none => want
  let d := if got = d.cell t r c then d else d.bump Cnt.TUN_RACK_WRITE_CNT
  let d := ((d.setCell t r c got).setRowLevel t r c got).wr (d.stampAddr t r c) 2 stamp
  if miss.isSome then (d.setTileCode (d.tunImage t) 512 r c (unsgn 4 got)).bump Cnt.TUN_RACK_VFAIL_CNT else d

/-- Full programming of one Tun from its image at `img`. -/
def Dev.programTun (d : Dev) (img stamp : Nat) (missed : List (Nat × Int)) (t : Nat) : Dev :=
  let d := { d with rack := { d.rack with imgAddr := SMap.set (fun _ => 0) d.rack.imgAddr t img } }
  let d := (List.range 1024).foldl (fun d r => (List.range 512).foldl (fun d c => d.programCell t stamp missed r c) d) d
  (d.setSig t).bumpBy Cnt.TUN_RACK_ROUND_CNT 32768

/-- The cold start ends in READY (R379, R445, R466): `fwBad` and `certBad` are fuse bits that fail to verify. -/
def Dev.coldEnd (d : Dev) (fwBad certBad : Nat) : Dev :=
  let cmd := d.pwr.start.bind (·.cmd)
  let d := ((d.lockMbx.lockSec).noteStart 10 1).setPwr fun p => { p with start := none }
  let d := ((d.setFld Reg.HIF_STATE_STAGE 0).setSt DS.ready).burnFloors fwBad certBad
  let d := d.writeLedger
  match cmd with
  | some c => d.complete c .done 0 0 0
  | none => d

/-- PROGRAM: `missed` names the weights that do not verify with the levels they hold, `kiln` what units 1 to 16 measure. -/
def execProgram (n : Fin 65536) (missed : List (Nat × Int)) (kiln : List KilnMeas) (fwBad certBad : Nat) (e : Ecc) (s : State) :
    Host.Outcome State Fault Refusal :=
  s.run fun d => d.opCommand n 0x32 fun c d =>
    let p0 := c.par 0
    let d := ((d.ecc e).idleRead p0 (2048 * 264192)).stage 9
    let d := tuns.foldl (fun d t => d.programTun (p0 + 264192 * t) (c.par 1 % 65536) missed t) d
    let d := (d.complete c .done 0 0 0).stage 10
    (tuns.foldl (fun d t => (d.kilnUnits kiln dataUnits t).kilnFinish t true) d).coldEnd fwBad certBad

end Sys2Proof.Machine
end

