-- ==== Sys2Proof/Machine/Warm.lean ====
section
/-!
DEFINITION. The warm start (R441, R446 to R449), what moves a start in progress on, and HELLO (R390, R391). IMAGE_LOAD_RELOAD, START_WARM,
HOT_RESET, FLR, HELLO.
-/

namespace Sys2Proof.Machine

/-! ### The ledger store (R338, R340 class 3) -/

/-- A read of the ledger store: an uncorrectable word freezes the device and takes it to FAULT. -/
def Dev.ledgerRead (d : Dev) (e : Ecc) : Dev :=
  let d := d.bumpBy Cnt.MEM_LS_CORR_CNT e.corrected.length
  match e.failed.getLast? with
  | none => d
  | some a =>
    let d := (((d.setFld Reg.MEM_UNCORR_LAST_CLASS 3).setFld Reg.MEM_UNCORR_LAST_SOURCE 3).setFld Reg.MEM_UNCORR_LAST_STACK 0).setFld
      Reg.MEM_UNCORR_LAST_ADDR a
    let d := (d.sticky Reg.FLT_STK0_UNCORR_MEM).bumpBy Cnt.MEM_UNCORR_HALT_CNT e.failed.length
    if d.st = DS.running ∨ d.st = DS.loaded then { d with flt := { d.flt with ledgerFault := true } }.freeze 8 else d.enterFault

/-! ### What a warm start keeps (R441) -/

/-- Is a register kept, besides those that the ledger restores? `reload`: the ports and the memory controllers are not reset. `pcie`: the
function is not reset. -/
def warmKeeps (pcie reload : Bool) (o : Nat) : Bool :=
  (0xF0000 ≤ o && o < 0x100000) || o == 0xC0000 || (reload && 0xC0000 ≤ o && o < 0xC1000) || o == 0xA0010 || o == 0xA0018 ||
  (reload && 0xA0100 ≤ o && o < 0xA0300) || (0x20100 ≤ o && o < 0x20140) || (0xD0400 ≤ o && o < 0xD0600) ||
  [0xD0008, 0xD0038, 0xD0040, 0xD0048, 0x100020, 0x110060, 0x10030].contains o || (pcie && pcieRegs.contains o)

/-- The device in the ROM stage of a warm start. -/
def Dev.warmState (d : Dev) (pcie reload : Bool) : Dev :=
  let d := (d.dropRounds.mgmtDown).loseLs
  let r := Dev.reset
  let frm := { r.frm with origin := d.frm.origin, nextTick := d.frm.nextTick, forwarded := d.frm.forwarded, runId := d.frm.runId }
  let rk := d.rack
  let rack := { r.rack with pend := rk.pend, foldPend := rk.foldPend, bank := rk.bank, imgAddr := rk.imgAddr, wotAddr := rk.wotAddr,
                            lastFit := rk.lastFit }
  let k := d.kln
  let kln := { r.kln with store := k.store, crc := k.crc, degraded := k.degraded, retired := k.retired, rewritten := k.rewritten,
                          meas := k.meas, rho := k.rho, temp := k.temp }
  let fab := if reload then { d.fab with disc := emptyDisc, partitioned := false } else { r.fab with nextMsg := d.fab.nextMsg }
  let hif := if pcie then d.hif.kept d.hif.stepSeq else { r.hif with stepSeq := d.hif.stepSeq }
  let m := d.mbx
  let mbx := { r.mbx with q := m.q, logSeq := m.logSeq, traceSeq := m.traceSeq, alarmSeq := m.alarmSeq, vddio := m.vddio }
  let flt := { r.flt with ledger0 := d.flt.ledger0, ledger1 := d.flt.ledger1, seq := d.flt.seq }
  let d := { d with
    regs := keepRegs d.regs (warmKeeps pcie reload), latch := [], frm := frm, run := [], late := [], rmOpen := [], rmStats := []
    spg := r.spg, rack := rack, kln := kln, mxc := r.mxc, num := r.num, red := r.red, pnd := r.pnd, fab := fab, hif := hif, mbx := mbx
    flt := flt, pwr := { d.pwr with start := none }, sec := { d.sec with commit := none } }
  ((d.setFld Reg.MBX_STATUS_CASK 0).setFld Reg.HIF_STATE_STATE DS.booting).setFld Reg.PWR_STATUS_HOT (if d.pwr.hot.isEmpty then 0 else 1)

/-- Hot reset and FLR reset the function's configuration (R441, R472): no ring and no command is left. -/
def Dev.resetFunction (d : Dev) : Dev :=
  let d := d.setHif fun h => { Hif.reset with stepSeq := h.stepSeq }
  let d := { d with regs := keepRegs d.regs fun o => !([0x10010, 0x10018, 0x10020].contains o) }
  (d.setPwr fun p => { p with start := p.start.map fun x => { x with cmd := none } }).loseIde ideNone

/-- A warm start begins (R363, R440, R441): every command in progress but the one that began it completes with ABORTED where the rings
are kept. A start from REFUSED waits for HELLO before its end (R391). -/
def Dev.beginWarm (d : Dev) (cause : Nat) (cmd : Option Cmd) (pcie reload : Bool) : Dev :=
  let wait := d.st == DS.refused || (match d.pwr.start with | some x => x.helloWait | none => false)
  let d := if pcie then d.abortCmds fun c => some c != cmd else d.resetFunction
  let d := ((d.setSt DS.booting).warmState pcie reload).noteCause cause
  (d.bump Cnt.PWR_START_WARM_CNT).setPwr fun p => { p with start := some ⟨false, 1, cmd, [], [], reload, wait⟩ }

/-! ### Escalation (R448) -/

namespace Esc
def ledger : Nat := 1
def retention : Nat := 2
def image : Nat := 3
def hbm : Nat := 4
end Esc

/-- The warm start becomes a cold start that waits in AWAIT_IMAGE; its ROM checks, made once already, pass. -/
def Dev.escalate (d : Dev) (cause : Nat) : Dev :=
  let stage := match d.pwr.start with | some x => x.stage | none => 0
  let d := (d.beginCold Cause.escalation true false).setFld Reg.PWR_RESET_CAUSE_ESC_CAUSE cause
  ((d.bump Cnt.PWR_START_ESC_CNT).noteFailed stage 2).romDone true none

/-! ### Stages 12 to 14 -/

/-- R447: fold one journal bank of a Tun. -/
def Dev.foldJournal (d : Dev) (t bank n : Nat) : Dev :=
  d.writeFold t d.epoch ((List.range n).map fun e => parsePend (d.rd (d.journalAddr t bank e) 4))

/-- R447: both pending journals enter the image, the fold bank's first. -/
def Dev.foldJournals (d : Dev) : Dev :=
  let d := tuns.foldl (fun d t =>
    let d := (d.idleRead (d.journalAddr t (1 - d.rack.bank) 0) (4 * SMap.get (fun _ => 0) d.rack.foldPend t)).idleRead
      (d.journalAddr t d.rack.bank 0) (4 * d.pendCount t)
    (d.foldJournal t (1 - d.rack.bank) (SMap.get (fun _ => 0) d.rack.foldPend t)).foldJournal t d.rack.bank (d.pendCount t)) d
  { d with rack := { d.rack with pend := [], foldPend := [] } }

/-- R447: the Tuns whose retention check fails: those whose reference levels are wrong, and those whose data levels are. -/
def Dev.retentionFails (d : Dev) (bad : List Nat) : List Nat :=
  tuns.filter fun t => bad.contains t || tunSig t (d.cell t) != SMap.get (fun _ => 0) d.flt.sig t

/-- The INTERP calibration of one Tun (R146, R157). -/
def Dev.interpTun (d : Dev) (l : List KilnMeas) (t : Nat) : Dev :=
  let d := d.kilnUnits l [0] t
  let full := (d.validSets t).length != 4
  let esc := !full && measWide (measAt l t 0)
  let d := if esc then d.bump Cnt.KLN_ESC_CNT else d
  if full || esc then (d.kilnUnits l (dataUnits ++ [17]) t).kilnFinish t true else d.kilnFinish t false

/-- Stage KILN_INTERP. -/
def Dev.kilnInterp (d : Dev) (l : List KilnMeas) : Dev :=
  tuns.foldl (fun d t => d.interpTun l t) ((d.loadRetired).startRuns false)

/-! ### Stage 5 and the end -/

/-- Under RELOAD a port that stayed UP confirms without bring-up (R317); one that waits for a boundary becomes UP, and confirms too. -/
def Dev.confirmPort (d : Dev) (p : Nat) : Dev :=
  let d := if d.portState p = PS.wait then d.bringUp p else d
  match d.link p with
  | none => d
  | some l =>
    if d.flag Reg.FAB_COORD_VALID then
      let d := (d.setLink p (some { l with confirmed := false })).sendConfirm p
      { d with fab := { d.fab with settled := d.fab.settled.filter (· != p) } }
    else d.settlePort p

/-- Stage FABRIC of a warm start begins. -/
def Dev.warmFabric (d : Dev) (reload : Bool) : Dev :=
  let kept := if reload then ports.filter d.portTrained else []
  let d := (d.stage 5).trainPorts fun p => !kept.contains p
  kept.foldl Dev.confirmPort d

/-- R449: check MAGIC, SIZE, CRC and SIGNATURE of Table 2.8 again. -/
def Dev.slotStands (d : Dev) (i : List Byte) : Bool × Dev :=
  if rdLe i 0 4 ≠ 0x5052465A ∨ rdLe i 8 4 ≠ 256 ∨ (checkSize i).isSome ∨ (checkCrc i).isSome then (false, d)
  else
    let r := d.fpSig i
    (r.code == 0, d.noteSig 2 r)

/-- A variant slot becomes empty. -/
def Dev.emptySlot (d : Dev) (v : Nat) : Dev :=
  { d.setFld (Reg.FRM_VAR_INFO_VALID v) 0 with variants := SMap.set (fun _ => none) d.variants v none }

/-- R449: revalidate a slot. One whose program reads as uncorrectable fails check CRC, as in a load (R343). -/
def Dev.revalidate (d : Dev) (v : Nat) : Dev :=
  match d.variant v with
  | none => d
  | some x =>
    let bad := x.ranges.flatMap fun r => d.poisoned r.1 r.2
    if !x.valid then d.emptySlot v
    else if !bad.isEmpty then (bad.foldl (fun d w => d.uncorrIdle (8 * w)) d).emptySlot v
    else
      let r := d.slotStands x.image
      if r.1 then r.2 else r.2.emptySlot v

def slotNums : List Nat := List.range 8

/-- R317: some port confirmed, or the fabric is this device alone. -/
def Dev.confirmed (d : Dev) (p : Nat) : Bool := d.portUp p && (match d.link p with | some l => l.confirmed | none => false)

/-- R317: what the CONFIRMs of a warm start leave: the tree is derived again, or the coordinate is lost. -/
def Dev.confirmResult (d : Dev) : Dev :=
  let ups := ports.filter d.portUp
  let sz := d.shape
  if d.flag Reg.FAB_COORD_VALID && (ups.any d.confirmed || product sz == 1) then
    let d := if ups.all d.confirmed then d.setFld Reg.FAB_DISC_STATUS_STATE 4 else d
    let c := d.coord
    let d := ((d.setFld Reg.RED_TREE_DEVICES (product sz)).setFld Reg.RED_TREE_DEPTH (depthOf c sz)).setFld Reg.RED_TREE_DEPTH_MAX (depthMax sz)
    let kids := ((ups.filter fun p => expectedChild d.portUp c sz p).map fun p => 2 ^ p).sum
    (d.setFld Reg.RED_TREE_CHILDREN kids).deriveUp c sz true
  else slotNums.foldl Dev.emptySlot (d.setFld Reg.FAB_COORD_VALID 0)

/-- Is a slot valid? -/
def Dev.slotValid (d : Dev) (v : Nat) : Bool := match d.variant v with | some x => x.valid | none => false

/-- R449: HELD, with the step in flight to be repeated from frame 0. -/
def Dev.resumeHeld (d : Dev) : Dev :=
  let d := if d.slotValid d.armed then d else d.setFld Reg.FRM_STATUS_ARMED 0xFF
  let img := d.program
  let d := ((d.setFld Reg.FRM_STEP_POS_STEP_FRAMES (imgStepFrames img)).setFld Reg.FRM_PERIOD_CYCLES (imgPeriod img)).setFpDigest
  let d := ((d.setFld Reg.FRM_STATUS_TICK_STATE 0).setFld Reg.FRM_STATUS_TICK_SRC 0).setFrm fun f => { f with frozen := true }
  d.setSt DS.held

/-- R449: READY, with no active slot. -/
def Dev.resumeReady (d : Dev) : Dev :=
  let d := (d.setFld Reg.FRM_STATUS_ACTIVE 0xFF).setFld Reg.FRM_STATUS_ARMED 0xFF
  (((d.setFld Reg.FRM_STATUS_TICK_STATE 0).setFld Reg.FRM_STATUS_TICK_SRC 0).setFpDigest).setSt DS.ready

/-- The end of a warm start (R449). -/
def Dev.warmEnd (d : Dev) : Dev :=
  let cmd := d.pwr.start.bind (·.cmd)
  let d := slotNums.foldl Dev.revalidate d.confirmResult
  let d := ((d.noteStart 5 2).setPwr fun p => { p with start := none }).setFld Reg.HIF_STATE_STAGE 0
  let d := if d.slotValid d.active then (d.resumeHeld.fire 1).writeLedger else d.resumeReady
  match cmd with
  | some c => d.complete c .done 0 0 0
  | none => d

/-! ### What moves a start on -/

/-- Every port's bring-up has completed or failed. -/
def Dev.allSettled (d : Dev) : Bool := ports.all fun p => d.fab.settled.contains p

/-- A DISCOVER in progress completes with discovery (R356). -/
def Dev.endDiscover (d : Dev) : Dev :=
  if !d.fab.disc.done then d
  else
    let code := d.fld Reg.FAB_DISC_STATUS_CODE
    (d.hif.prog.filter fun c => c.op == 0x12).foldl (fun d c => d.complete c (if code = 0 then .done else .aborted) code 0 0) d

/-- Stage FABRIC goes on when the ports have settled, and when discovery is done. -/
def Dev.advance (d : Dev) : Dev :=
  match d.pwr.start with
  | none => d.endDiscover
  | some x =>
    if x.stage ≠ 5 then d
    else if x.cold then
      let disc := d.fab.disc
      let d := if d.allSettled && d.frm.origin && !disc.active && !disc.done then d.startSize else d
      if d.fab.disc.done then d.afterFabric x else d
    else if d.allSettled && !x.helloWait then d.warmEnd
    else d

/-! ### The stages of a warm start (Table 18.3) -/

/-- Stages 12, 14 and the beginning of 5. -/
def Dev.warmRest (d : Dev) (reload : Bool) (env : WarmEnv) : Dev :=
  let d := (d.stage 12).foldJournals
  let bad := d.retentionFails (env.tuns.map (·.val))
  let d := d.bumpBy Cnt.PWR_RETENTION_FAIL_CNT bad.length
  if bad.any fun t => !d.kln.retired.contains t then d.escalate Esc.retention
  else (((d.stage 14).kilnInterp env.kiln).warmFabric reload).advance

/-- Stage 13 and on. -/
def Dev.warmLedger (d : Dev) (reload : Bool) (env : WarmEnv) : Dev :=
  let d := (d.stage 13).ledgerRead env.ledger
  if d.st = DS.fault then d
  else
    let d := d.judgeCopies
    match d.bestCopy with
    | none => d.escalate Esc.ledger
    | some (_, c) => (((d.restoreCopy c).takeFlt).takeSpg).restartRackSettings.warmRest reload env

/-- The warm start from the start of its image on; `b` is the image, none where the running bank fails its check. -/
def Dev.warmStages (d : Dev) (b : Option (List Byte)) (reload : Bool) (env : WarmEnv) : Dev :=
  match b with
  | none => d.escalate Esc.image
  | some b =>
    let cmd := d.pwr.start.bind (·.cmd)
    if reload then (d.startImage b cmd).warmLedger true env
    else
      let d := d.stage 11
      if !env.hbmOk then d.escalate Esc.hbm
      else
        let d := ((d.setFld Reg.MEM_TRAIN_STATUS_DONE (2 ^ 24 - 1)).startImage b cmd).stage 4
        if env.d2dOk then d.warmLedger false env else d.enterFault

/-- The bytes of the running bank that its image and signature take. -/
def Dev.bankBytes (d : Dev) : Nat := min 0x4000000 (align64 (64 + d.rd (d.bankAddr (d.fld Reg.MBX_STATUS_BANK) + 0x10) 8) + 0x480)

/-- Stage VERIFY of a start with the running bank's image (R446). An image that reads as uncorrectable fails it. -/
def Dev.verifyBank (d : Dev) : Option (List Byte) :=
  let b := d.runningImage
  if !(d.poisoned (d.bankAddr (d.fld Reg.MBX_STATUS_BANK)) d.bankBytes).isEmpty || imageMalformed b || (d.sigCheck 1 (imageObj b) (imageSig b)).code != 0 then none else some b

/-- A warm start with the image of the running bank. -/
def Dev.warmStart (d : Dev) (cause : Nat) (cmd : Option Cmd) (pcie : Bool) (env : WarmEnv) : Dev :=
  let d := d.beginWarm cause cmd pcie false
  (d.idleRead (d.bankAddr (d.fld Reg.MBX_STATUS_BANK)) d.bankBytes).warmStages d.verifyBank false env

/-- START_WARM (R440, R446). -/
def execStartWarm (n : Fin 65536) (env : WarmEnv) (s : State) : Host.Outcome State Fault Refusal :=
  s.run fun d => d.command n (fun c => c.op == 0x11 && c.par 0 == 0) fun c d => d.warmStart Cause.startWarm (some c) true env

/-- IMAGE_LOAD_RELOAD (R356, R440, R446): the image is verified in the bank that is not running, and the start then runs it from there. -/
def execImageLoadReload (n : Fin 65536) (data : List Byte) (env : WarmEnv) (s : State) : Host.Outcome State Fault Refusal :=
  s.run fun d => d.command n (fun c => c.op == 0x10 && c.par 2 == 2) fun c d =>
    let bank := 1 - d.fld Reg.MBX_STATUS_BANK
    match d.fetchImage c data (d.bankAddr bank) with
    | (none, d) => d
    | (some b, d) => d.judgeImage c b fun _ d =>
      ((d.beginWarm Cause.reload (some c) true true).setFld Reg.MBX_STATUS_BANK bank).warmStages (some b) true env

/-- Hot reset and FLR (R440, R457): in ROM, AWAIT_IMAGE, FAULT and during a cold start they reset the function only. -/
def Dev.functionReset (d : Dev) (cause : Nat) (env : WarmEnv) : Dev :=
  let cold := match d.pwr.start with | some x => x.cold | none => false
  if d.st == DS.rom || d.st == DS.awaitImage || d.st == DS.fault || cold then d.resetFunction
  else d.warmStart cause none false env

/-- HOT_RESET. -/
def execHotReset (env : WarmEnv) (s : State) : Host.Outcome State Fault Refusal := s.run fun d => d.functionReset Cause.hotReset env

/-- FLR. -/
def execFlr (env : WarmEnv) (s : State) : Host.Outcome State Fault Refusal := s.run fun d => d.functionReset Cause.flr env

/-! ### HELLO (R390, R391) -/

/-- R390: an unequal version in BOOTING stops the start: its command completes with VERSION_REFUSED. -/
def Dev.refuseStart (d : Dev) : Dev :=
  let d := d.setFld Reg.MBX_STATUS_FW 6
  match d.pwr.start with
  | none => d.setSt DS.refused
  | some x =>
    let d := (d.noteFailed x.stage (if x.cold then 1 else 2)).setPwr fun p => { p with start := none }
    let d := (d.setFld Reg.HIF_STATE_STAGE 0).setSt DS.refused
    match x.cmd with
    | some c => d.complete c .versionRefused 0 0 0
    | none => d

/-- Acisk answers a HELLO. -/
def Dev.answerHello (d : Dev) (c : Cmd) : Dev :=
  let p0 := c.par 0
  let major := bits p0 31 16
  let d := (d.setFld Reg.MBX_VER_DRV_MAJOR major).setFld Reg.MBX_VER_DRV_MINOR (bits p0 15 0)
  let fw := d.fld Reg.MBX_VER_FW_MAJOR * 65536 + d.fld Reg.MBX_VER_FW_MINOR
  if major = d.fld Reg.MBX_VER_FW_MAJOR then
    let d := (d.setFld Reg.HIF_STATE_HELLO 1).complete c .done fw 0 0
    (d.setPwr fun p => { p with start := p.start.map fun x => { x with helloWait := false } }).advance
  else
    let d := (d.sticky Reg.FLT_STK0_VERSION_REFUSED).setFld Reg.HIF_STATE_HELLO 0
    (if d.st = DS.booting then d.refuseStart else d).complete c .versionRefused fw p0 0

/-- HELLO: without an image that serves, it stays in progress (R368, R397). -/
def execHello (n : Fin 65536) (s : State) : Host.Outcome State Fault Refusal :=
  s.run fun d => d.opCommand n 0x05 fun c d => d.answerHello c

end Sys2Proof.Machine
end

