-- ==== Sys2Proof/Machine/Links.lean ====
section
/-!
DEFINITION. What arrives on the ports, and the timers of the ports, with what each moves on: a start, a discovery, a permute.
FLIT_RX_DATA, FLIT_RX_CTRL, FLIT_RX_IDLE, ACK_TIMEOUT, FLIT_IDLE_TIMEOUT, LINK_LOST, RETRAIN_TIMER, PORT_TRAINED, ECHO, CONFIRM, RING,
ASSIGN, CENSUS, DONE, DISCOVERY_TIMEOUT, PORT_RETRAIN, PORT_DISABLE, BARGE, PERM_ACK, PERMUTE_TIMEOUT.
-/

namespace Sys2Proof.Machine

/-! ### Flits (R299, R303) -/

/-- FLIT_RX_DATA (R303). -/
def execFlitRxData (p : Fin 16) (x : FlitIn) (s : State) : Host.Outcome State Fault Refusal :=
  s.run fun d => (d.flitRx p x fun d => d.dataFlit p x).advance

/-- FLIT_RX_CTRL (R299, R311): the peer's port number and credits; `t` is when the first PROBE leaves. -/
def execFlitRxCtrl (p : Fin 16) (x : FlitIn) (peer : Fin 16) (credits : List Nat) (t : Nat) (s : State) :
    Host.Outcome State Fault Refusal :=
  s.run fun d => (d.flitRx p x fun d => d.ctrlFlit p peer credits t).advance

/-- FLIT_RX_IDLE (R299): its ACK and credit returns are processed. A reserved FTYPE is a protocol error (R322). -/
def execFlitRxIdle (p : Fin 16) (x : FlitIn) (s : State) : Host.Outcome State Fault Refusal :=
  s.run fun d => (d.flitRx p x fun d => if 2 < flitF x 3 0 then d.protoError p else d).advance

/-- ACK_TIMEOUT (R303). -/
def execAckTimeout (p : Fin 16) (s : State) : Host.Outcome State Fault Refusal := s.run fun d => (d.replay p).advance

/-! ### Loss and retraining (R322 to R324) -/

/-- FLIT_IDLE_TIMEOUT (R322). -/
def execFlitIdleTimeout (p : Fin 16) (s : State) : Host.Outcome State Fault Refusal := s.run fun d => (d.loseLink p PS.down).advance

/-- LINK_LOST (R323). -/
def execLinkLost (p : Fin 16) (s : State) : Host.Outcome State Fault Refusal := s.run fun d => (d.loseLink p PS.down).advance

/-- R311, R324: the retrain interval passes. A DOWN port begins bring-up; one whose bring-up did not complete returns to TRAINING; a port
that awaits a CONFIRM of a warm start waits no longer. -/
def Dev.retrainDue (d : Dev) (p : Nat) : Dev :=
  if d.portState p = PS.down then (if d.flag Reg.FAB_CFG_AUTO_RETRAIN then d.trainPort p else d)
  else if d.portState p = PS.training then (d.trainPort p).settlePort p
  else if d.portState p = PS.up then d.settlePort p
  else d

/-- RETRAIN_TIMER. -/
def execRetrainTimer (p : Fin 16) (s : State) : Host.Outcome State Fault Refusal := s.run fun d => (d.retrainDue p).advance

/-- PORT_RETRAIN (R322, R324). -/
def execPortRetrain (p : Fin 16) (s : State) : Host.Outcome State Fault Refusal := s.run fun d => (d.retrain p).advance

/-- PORT_DISABLE (R322). -/
def execPortDisable (p : Fin 16) (s : State) : Host.Outcome State Fault Refusal := s.run fun d => (d.disablePort p).advance

/-! ### Bring-up (R311, R317) -/

/-- PORT_TRAINED (R311). -/
def execPortTrained (p : Fin 16) (s : State) : Host.Outcome State Fault Refusal := s.run fun d => d.portTrain p

/-- ECHO (R311, R312), at `t`; `next` is when the next PROBE of a bring-up leaves. -/
def execEcho (p : Fin 16) (m : Msg) (t next : Nat) (s : State) : Host.Outcome State Fault Refusal :=
  s.run fun d => (d.bringUpMsg p MT.echo m fun d => d.echo p (rdLe m.body 0 4) (rdLe m.body 4 4) t next).advance

/-- R317: a CONFIRM on a port. An UP port that has confirmed already answers it; one that awaits it has its answer. -/
def Dev.confirmIn (d : Dev) (p : Nat) (m : Msg) : Dev :=
  let was := match d.link p with | some l => l.confirmed | none => false
  let d := d.confirm p (rdLe m.body 0 4) (rdLe m.body 4 4)
  if !d.confirmed p then d else if was then d.sendConfirm p else d.settlePort p

/-- CONFIRM. -/
def execConfirm (p : Fin 16) (m : Msg) (s : State) : Host.Outcome State Fault Refusal :=
  s.run fun d => (d.bringUpMsg p MT.confirm m fun d => d.confirmIn p m).advance

/-! ### Discovery (R314) -/

/-- RING. -/
def execRing (p : Fin 16) (m : Msg) (s : State) : Host.Outcome State Fault Refusal :=
  s.run fun d => (d.discMsg p MT.ring m fun d => d.ringIn p m).advance

/-- ASSIGN. -/
def execAssign (p : Fin 16) (m : Msg) (s : State) : Host.Outcome State Fault Refusal :=
  s.run fun d => (d.discMsg p MT.assign m fun d => d.assignIn p m).advance

/-- CENSUS. -/
def execCensus (p : Fin 16) (m : Msg) (s : State) : Host.Outcome State Fault Refusal :=
  s.run fun d => (d.discMsg p MT.census m fun d => d.censusIn p m).advance

/-- DONE. -/
def execDone (p : Fin 16) (m : Msg) (s : State) : Host.Outcome State Fault Refusal :=
  s.run fun d => (d.discMsg p MT.done m fun d => d.doneIn p m).advance

/-- DISC_TMO passes without DONE, in a discovery or in the FABRIC stage of a cold start that no discovery reached. -/
def Dev.discTimeout (d : Dev) : Dev :=
  let waits := match d.pwr.start with | some x => x.cold && x.stage == 5 | none => false
  if d.fab.disc.active || (waits && !d.fab.disc.done) then d.applyDone 5 0 0 0 else d

/-- DISCOVERY_TIMEOUT. -/
def execDiscoveryTimeout (s : State) : Host.Outcome State Fault Refusal := s.run fun d => d.discTimeout.advance

/-! ### Permute (R289) -/

/-- A permute that has ended completes its command. -/
def Dev.endPermute (d : Dev) : Dev :=
  match d.hif.permCmd with
  | none => d
  | some c =>
    if d.pnd.perm.isSome then d
    else
      let d := d.setHif fun h => { h with permCmd := none }
      if d.hif.prog.contains c then d.complete c (if d.permState = 2 then .done else .aborted) 0 0 0 else d

/-- BARGE (R279, R289, R307). -/
def execBarge (p : Fin 16) (m : Msg) (s : State) : Host.Outcome State Fault Refusal := s.run fun d => (d.bargeMsg p m).endPermute

/-- PERM_ACK (R289). -/
def execPermAck (p : Fin 16) (m : Msg) (s : State) : Host.Outcome State Fault Refusal :=
  s.run fun d => (d.routed p MT.permAck (m.len == 8) m fun d => d.permAck (rdLe m.body 0 4)).endPermute

/-- PERMUTE_TIMEOUT (R289). -/
def execPermuteTimeout (s : State) : Host.Outcome State Fault Refusal := s.run fun d => d.permTimeout.endPermute

end Sys2Proof.Machine
end

