-- ==== Sys2Proof/Machine/Program.lean ====
section
/-!
DEFINITION. The commands that load, arm, run, resume and stop frame programs (R45, R54, R58, R360), the live update (R361, R392 to R397),
and the other commands that need Acisk. FP_LOAD, FP_DISCARD, FP_ARM, RUN, RESUME, START_TICK_REACHED, QUIESCE, STOP, IMAGE_LOAD_UPDATE,
UPDATE_STAGED, CASK_READ, UPDATE_RESUME, DISCOVER, PERMUTE, TPACK_LOAD.
-/

namespace Sys2Proof.Machine

/-! ### FP_LOAD (R45) -/

/-- The HBM that a load may use: one range of Table 13.1 without the firmware region (R369). -/
def Dev.loadRoom (d : Dev) : Nat × Nat := if d.split < 36 then (0, fwBase d.split * gib) else (0x010000000000, 432 * gib)

/-- Copy bytes into device memory; the place is a free value. -/
def Dev.place (d : Dev) (b : List Byte) : List (Nat × Nat) × Dev :=
  let room := d.loadRoom
  if room.2 < b.length then ([], d)
  else
    let x := d.draw
    let a := room.1 + 64 * (x.1 % ((room.2 - b.length) / 64 + 1))
    ([(a, b.length)], x.2.write a b)

/-- Place every CONST segment of a program. -/
def Dev.placeConsts (d : Dev) (i : List Byte) : List (Nat × Nat) × Dev :=
  ((imgSegs i).filter fun s => s.kind == 9).foldl (fun x s =>
    let y := x.2.place (imgBytes i s)
    (x.1 ++ y.1, y.2)) ([], d)

/-- A load check that failed: its code, its segment index and the completion's status (Table 2.8). -/
structure LoadFail where
  code : Nat
  seg : Nat
  st : Status
  deriving DecidableEq, Repr

/-- A check of the whole image: it fails with a LOAD_ERR that names the header. -/
def loadTest (ok : Bool) (code : Nat) : Option LoadFail := if ok then none else some ⟨code, hdrSeg, .loadErr⟩

/-- A check that names the segment that fails it. -/
def loadSeg (bad : Option Nat) (code : Nat) : Option LoadFail := bad.map fun s => ⟨code, s, .loadErr⟩

/-- R343: the part of the image that an uncorrectable byte at offset `o` lies in: a segment, or the header. -/
def partOf (i : List Byte) (o : Nat) : Nat := ((imgSegs i).findIdx? fun s => rangesOverlap s.off s.len o 8).getD hdrSeg

/-- Checks MAGIC, VERSION, SIZE and CRC; `bad` holds the offsets of words that read as uncorrectable, which fail check CRC (R343). -/
def formCheck (i : List Byte) (bad : List Nat) : Option LoadFail :=
  (loadTest (rdLe i 0 4 == 0x5052465A && rdLe i 8 4 == 256) 1).or <|
  (loadTest (rdLe i 4 2 == 1) 2).or <|
  (loadSeg (checkSize i) 3).or <| (loadSeg (checkCrc i) 4).or <| loadSeg (bad.head?.map (partOf i)) 4

/-- Free device memory of check FOOTPRINT: HBM without the firmware region and the other valid slots' programs (R369). -/
def Dev.freeMem (d : Dev) (v : Nat) : Nat :=
  864 * gib - gib - ((slotNums.filter fun k => k != v).map fun k => match d.variant k with
    | some x => if x.valid then imgFootprint x.image else 0
    | none => 0).sum

/-- Check JOB: every other valid slot holds the same job. -/
def Dev.jobOk (d : Dev) (v : Nat) (i : List Byte) : Bool :=
  slotNums.all fun k => k == v || match d.variant k with
    | some x => !x.valid || imgJob x.image == imgJob i
    | none => true

/-- Check COORD. -/
def Dev.coordOk (d : Dev) (i : List Byte) : Bool :=
  d.flag Reg.FAB_COORD_VALID && imgShape i == unquad d.shape && imgCoord i == unquad d.coord

/-- R320: one ROUTE_OVERRIDE segment. -/
def Dev.routesOk (d : Dev) (l : List (List Byte)) : Bool :=
  let dest := fun (e : List Byte) => rdLe e 0 2 % 4096
  (l.zip l.tail).all (fun x => dest x.1 < dest x.2) &&
  l.all fun e =>
    let v := rdLe e 0 8
    bits v 63 28 == 0 && bits v 27 24 != 0 && bits v 23 20 == 0 && bits v 15 12 == 0 && dest e != d.ownAddr && dest e < product d.shape

/-- The index of the first segment of a kind, or the header's. -/
def segIndex (i : List Byte) (kind : Nat) : Nat := ((imgSegs i).findIdx? fun s => s.kind == kind).getD hdrSeg

/-- Check RESERVED_FIELD, with R108, R276, R320 and R400. -/
def Dev.reservedCheck (d : Dev) (i : List Byte) : Option Nat :=
  let test := fun (ok : Bool) (kind : Nat) => if ok then none else some (segIndex i kind)
  (checkReserved i fun e => rdLe e 0 2).or <|
  (test (poundsOk i) 5).or <|
  (firstBad (fun s => s.kind != 6 || d.routesOk (entries 8 (imgBytes i s))) 0 (imgSegs i)).or <| test (sentinelOk i) 8

/-- The checks of Table 2.8 after SIGNATURE. -/
def Dev.programCheck (d : Dev) (v : Nat) (i : List Byte) : Option LoadFail :=
  (loadTest (d.coordOk i) 6).or <|
  (loadTest (periodOk i) 7).or <|
  (loadSeg (checkSequence i) 8).or <|
  (loadSeg (checkOverlap i) 9).or <|
  (loadTest (rackPowerOk i) 10).or <|
  (loadTest (reserveOk i (d.fld Reg.KLN_SLOT_FRAMES_MAX)) 11).or <|
  (if imgFootprint i ≤ d.freeMem v then none else some ⟨12, hdrSeg, .exhausted⟩).or <|
  (loadTest (d.jobOk v i) 13).or <| (d.reservedCheck i).map fun s => ⟨14, s, .badArg⟩

/-- Every check, with what SEC records of the signature (R465). -/
def Dev.loadCheck (d : Dev) (v : Nat) (i : List Byte) (bad : List Nat) : Option LoadFail × Dev :=
  match formCheck i bad with
  | some f => (some f, d)
  | none =>
    let r := d.fpSig i
    let d := d.noteSig 2 r
    if r.code ≠ 0 then (some ⟨5, imgSegCount i - 1, .authFail⟩, d) else (d.programCheck v i, d)

/-- A failed load leaves the slot empty. -/
def Dev.loadFailed (d : Dev) (c : Cmd) (v : Nat) (f : LoadFail) : Dev :=
  let d := ((d.setFld Reg.FRM_LOAD_ERR_CODE f.code).setFld Reg.FRM_LOAD_ERR_SLOT v).setFld Reg.FRM_LOAD_ERR_SEGMENT f.seg
  let d := d.bump Cnt.FRM_LOAD_ERR_CNT
  d.complete c f.st (d.raw 0x20038) 0 0

/-- A load that passed makes its slot valid. -/
def Dev.loadDone (d : Dev) (c : Cmd) (v : Nat) (i : List Byte) (ranges : List (Nat × Nat)) : Dev :=
  let x := d.placeConsts i
  let d := { x.2 with variants := SMap.set (fun _ => none) x.2.variants v (some ⟨i, true, ranges ++ x.1⟩) }
  let d := (d.setFld (Reg.FRM_VAR_INFO_STEP_FRAMES v) (imgStepFrames i)).setFld (Reg.FRM_VAR_INFO_PERIOD v) (imgPeriod i)
  let d := (d.setFld (Reg.FRM_VAR_INFO_KIND v) (imgKind i)).setFld (Reg.FRM_VAR_INFO_VALID v) 1
  d.complete c .done (d.raw 0x20038) 0 0

/-- FP_LOAD: `data` is what arrives of the image's bytes, `e` what the memory reports as the checks read the copy. -/
def execFpLoad (n : Fin 65536) (data : List Byte) (s : State) (e : Ecc := Ecc.clean) : Host.Outcome State Fault Refusal :=
  s.run fun d => d.opCommand n 0x20 fun c d =>
    let v := c.par 2
    if v = d.active ∨ v = d.armed then d.complete c .stateReject 0 0 0
    else
      let d := (d.emit (.hostRead (c.par 0) (c.par 1))).emptySlot v
      let i := data.take (c.par 1)
      let x := d.place i
      if data.length < c.par 1 then (x.2.bump Cnt.HIF_DMA_ERR_CNT).complete c .aborted (x.2.raw 0x20038) 0 0
      else
        let d := x.2.ecc e
        let bad := x.1.flatMap fun r => (d.poisoned r.1 r.2).map fun w => 8 * w - r.1
        let d := x.1.foldl (fun d r => (d.poisoned r.1 r.2).foldl (fun d w => d.uncorrIdle (8 * w)) d) d
        match d.loadCheck v i bad with
        | (some f, d) => d.loadFailed c v f
        | (none, d) => d.loadDone c v i x.1

/-- FP_DISCARD. -/
def execFpDiscard (n : Fin 65536) (s : State) : Host.Outcome State Fault Refusal :=
  s.run fun d => d.opCommand n 0x21 fun c d =>
    let v := c.par 2
    if v = d.active ∨ v = d.armed then d.complete c .stateReject 0 0 0 else (d.emptySlot v).complete c .done 0 0 0

/-- FP_ARM (R54): arming the active slot disarms. -/
def execFpArm (n : Fin 65536) (s : State) : Host.Outcome State Fault Refusal :=
  s.run fun d => d.opCommand n 0x22 fun c d =>
    let v := c.par 2
    if v = 0xFF ∨ v = d.active then (d.setFld Reg.FRM_STATUS_ARMED 0xFF).complete c .done 0 0 0
    else if d.slotValid v then (d.setFld Reg.FRM_STATUS_ARMED v).complete c .done 0 0 0
    else d.complete c .stateReject 0 0 0

/-! ### RUN and RESUME (R58, R360) -/

/-- A waiting RUN or RESUME: its START_TICK and its step CQ. -/
def Dev.awaitStart (d : Dev) (c : Cmd) : Dev :=
  let d := (d.setFld Reg.RED_STEP_STATE_REPEATS 0).setFld Reg.FLT_WDOG_STATUS_FROZEN 0
  (d.setFrm fun f => { f with startTick := some (c.par 1) }).setHif fun h => { h with stepCq := some (c.par 3), stepCid := c.cid }

/-- The tick is to be acquired afresh (R34 step 1). -/
def Dev.loseTick (d : Dev) : Dev :=
  let d := ((d.setFld Reg.FRM_STATUS_TICK_STATE 0).setFld Reg.FRM_STATUS_TICK_SRC 0).setFld Reg.FRM_STATUS_HOLD_TICK 0
  d.setFrm fun f => { f with acquired := false, pending := none, queued := [], backup := none, early := [], inFrame := false, misses := 0 }

/-- RUN's activation: the device is LOADED. -/
def Dev.runSlot (d : Dev) (c : Cmd) : Dev :=
  let d := (((d.setFld Reg.RED_EPOCH_EPOCH (c.par 0)).activate (c.par 2)).resetPounds).loseTick
  let d := d.setFrm fun f =>
    { f with emitting := false, switchAt := none, frozen := false, freezeDue := none, stepOpen := false, grantDue := true }
  ((((d.setFld Reg.FRM_STEP_POS_FRAME 0).awaitStart c).setSt DS.loaded).writeParams).writeLedger

/-- RUN: it stays in progress until frame 0 starts. -/
def execRun (n : Fin 65536) (s : State) : Host.Outcome State Fault Refusal :=
  s.run fun d => d.opCommand n 0x23 fun c d => if d.slotValid (c.par 2) then d.runSlot c else d.complete c .stateReject 0 0 0

/-- A resume that R341 or R453 forbids, one without a valid slot, and one beside a RESUME that waits. -/
def Dev.resumeBad (d : Dev) : Bool :=
  d.flag Reg.PWR_STATUS_HOT || (!d.slotValid d.armed && !d.slotValid d.active) || d.frm.startTick.isSome ||
  (d.st == DS.held && d.fld Reg.RED_STEP_STATE_HOLD_CAUSE == 8 && !(d.slotValid d.armed && d.armed != d.active))

/-- R58: the armed slot becomes active, and the grants are carried to it; in a digital mode they are granted afresh (R223). -/
def Dev.resumeSlot (d : Dev) : Dev :=
  if d.slotValid d.armed then
    let d := (d.changeTo d.armed).setFrm fun f => { f with grantDue := true }
    ((if d.fld Reg.NUM_MODE_MODE = 0 then d.carryGrants else d).resetPounds).writeLedger
  else d

/-- R34, R58: after HELD, or with the tick lost, the tick is acquired afresh; the origin takes its tick settings. -/
def Dev.resumeTicks (d : Dev) : Dev :=
  if d.frm.origin then
    let cfg : TickCfg := ⟨d.flag Reg.FRM_TICK_CFG_EXT_SRC, d.fld Reg.FRM_TICK_CFG_MISS_MAX, d.fld Reg.FRM_TICK_CFG_WIN, d.fld Reg.FRM_TICK_CFG_LEAD⟩
    d.setFrm fun f => { f with cfg := cfg }
  else if d.st = DS.held ∨ d.flag Reg.FRM_STATUS_HOLD_TICK then d.loseTick
  else d

/-- RESUME's effect at its dispatch. -/
def Dev.resume (d : Dev) (c : Cmd) : Dev :=
  let d := (d.resumeSlot.portsUp).resumeTicks
  let d := (d.setFld Reg.PND_STATUS_HALTED 0).setFld Reg.PWR_THERM_STATUS_HOLD_ACTIVE 0
  ((d.setFrm fun f => { f with freezeDue := none }).awaitStart c).writeParams

/-- RESUME: it stays in progress until frame 0 starts. -/
def execResume (n : Fin 65536) (s : State) : Host.Outcome State Fault Refusal :=
  s.run fun d => d.opCommand n 0x24 fun c d => if d.resumeBad then d.complete c .stateReject 0 0 0 else d.resume c

/-- What the sensors report where no step ends. -/
def noMeas : StepMeas := ⟨0, 0, [], 0⟩

/-- The frame that a given tick opens begins, outside RUNNING. -/
def Dev.frameOf (d : Dev) (tick : Option Nat) : Dev :=
  match tick, d.frm.pending with
  | some t, some f => if f.num = t && d.st != DS.running then d.missHold.frameStart noMeas else d
  | _, _ => d

/-- START_TICK_REACHED (R360): the frame that START_TICK opens begins. -/
def execStartTickReached (s : State) : Host.Outcome State Fault Refusal := s.run fun d => d.frameOf d.frm.startTick

/-! ### QUIESCE and STOP (R361, Table 14.5) -/

/-- QUIESCE: it stays in progress until the boundary that commits E; a second one, or one beside an UPDATE, is rejected (R365). -/
def execQuiesce (n : Fin 65536) (s : State) : Host.Outcome State Fault Refusal :=
  s.run fun d => d.opCommand n 0x25 fun c d =>
    if d.frm.quiesceAt.isSome || d.frm.updateAt.isSome then d.complete c .stateReject 0 0 0
    else d.setFrm fun f => { f with quiesceAt := some (c.par 0) }

/-- STOP: no slot stays active, and no tick is emitted or accepted. -/
def Dev.stop (d : Dev) : Dev :=
  let d := d.abortStart
  let d := if d.frm.resumeTick.isSome then d.abortUpdate else d
  let d := (d.portsUp.stopSteps).resetPounds.setPnd fun p => { p with overruns := 0 }
  let d := (d.setFld Reg.FRM_STATUS_ACTIVE 0xFF).setFld Reg.FRM_STATUS_ARMED 0xFF
  let d := (d.loseTick.setFrm fun f => { f with emitting := false, stepOpen := false }).setHif fun h => { h with stepCq := none }
  d.setFpDigest.setSt DS.ready

/-- STOP. -/
def execStop (n : Fin 65536) (s : State) : Host.Outcome State Fault Refusal :=
  s.run fun d => d.opCommand n 0x26 fun c d => d.stop.complete c .done 0 0 0

/-! ### The live update (R361, R392 to R397) -/

/-- Is another UPDATE in progress? -/
def Dev.twoUpdates (d : Dev) : Bool := 1 < (d.hif.prog.filter Cmd.isUpdate).length

/-- A verified image is being staged. A dead image cannot hand over. -/
def Dev.stageUpdate (d : Dev) (c : Cmd) : Dev :=
  if !d.fwRuns then d.complete c .aborted 0 0 0
  else
    let d := d.setFld Reg.MBX_STATUS_FW 2
    if d.st = DS.running then d.setFrm fun f => { f with updateAt := some (c.par 3, c.par 4) } else d

/-- IMAGE_LOAD_UPDATE (R392): it stays in progress until its handover has completed. -/
def execImageLoadUpdate (n : Fin 65536) (data : List Byte) (s : State) : Host.Outcome State Fault Refusal :=
  s.run fun d => d.command n Cmd.isUpdate fun c d =>
    if d.twoUpdates || d.frm.quiesceAt.isSome then d.complete c .stateReject 0 0 0
    else match d.fetchImage c data (d.bankAddr (1 - d.fld Reg.MBX_STATUS_BANK)) with
      | (none, d) => d
      | (some b, d) => d.judgeImage c b fun r d =>
        if rdLe b 6 2 ≠ d.fld Reg.MBX_VER_FW_MAJOR then d.complete c .loadErr 0 0 0 else (d.askCommit r).stageUpdate c

/-- UPDATE_STAGED (R392): the staging ends. Outside the wait for the boundary of E, the handover takes place. -/
def execUpdateStaged (s : State) : Host.Outcome State Fault Refusal :=
  s.run fun d =>
    if d.fld Reg.MBX_STATUS_FW ≠ 2 then d
    else
      let d := { d.setFld Reg.MBX_STATUS_FW 3 with mbx := { d.mbx with staged := true } }
      if d.frm.updateAt.isSome then d else d.handover

/-- The header and section entry `k` of the cask in device memory. -/
def Dev.caskHead (d : Dev) : List Byte := d.read d.caskAddr 64
def Dev.caskEntry (d : Dev) (k : Nat) : List Byte := d.read (d.caskAddr + 64 + 16 * k) 16
/-- The cask's size, at most 64 MiB. -/
def Dev.caskSize (d : Dev) : Nat := min 0x4000000 (rdLe d.caskHead 8 8)

/-- R394: is the cask acceptable to the image that starts? -/
def Dev.caskOk (d : Dev) : Bool :=
  let h := d.caskHead
  let n := rdLe h 6 2
  let ver := rdLe h 4 2
  let new := rdLe d.mbx.header 0xA 2
  rdLe h 0 4 == 0x4B53435A && rdLe h 0x3C 4 == crc32c (h.take 0x3C) && 1 ≤ n && n ≤ 64 && bit (rdLe h 0x24 4) 0 &&
  rdLe h 0x20 2 == rdLe d.mbx.header 6 2 && (ver == new || ver + 1 == new) && (d.poisoned d.caskAddr d.caskSize).isEmpty &&
  (List.range n).all fun k =>
    let e := d.caskEntry k
    rdLe e 8 4 + rdLe e 12 4 ≤ d.caskSize && rdLe e 4 4 == crc32c (d.read (d.caskAddr + rdLe e 8 4) (rdLe e 12 4))

/-- R394: the ledger restore that replaces a rejected cask. -/
def Dev.ledgerRebuild (d : Dev) : Dev :=
  let d := d.judgeCopies
  match d.bestCopy with
  | none => d
  | some (_, c) => d.restoreCopy c

/-- The handover is complete (R361, R396): UPDATE completes, or waits for RESUME_TICK. -/
def Dev.endHandover (d : Dev) : Dev :=
  let fin := fun (d : Dev) (late : Nat) => (d.hif.prog.filter Cmd.isUpdate).foldl (fun d c => d.complete c .done late 0 0) d
  match d.frm.resumeTick with
  | none => fin d 0
  | some t => if t ≤ d.fld Reg.FRM_TICK_NUM_NUM then fin (d.setFrm fun f => { f with resumeTick := none }) 1 else d

/-- The new image reads the cask, runs, and answers what waited for it (R386, R394, R397, R466). -/
def Dev.caskRead (d : Dev) (fwBad certBad : Nat) (e : Ecc) : Dev :=
  if d.fld Reg.MBX_STATUS_FW ≠ 4 then d
  else
    let d := d.ecc e
    let h := d.caskHead
    let ok := d.caskOk
    let d := d.idleRead d.caskAddr d.caskSize
    let d := if ok then d.setFld Reg.MBX_STATUS_CASK 1
      else ((d.bump Cnt.MBX_CASK_REJ_CNT).ledgerRebuild).setFld Reg.MBX_STATUS_CASK 2
    let d := { d.setFld Reg.MBX_CASK_VER_FOUND (rdLe h 4 2) with mbx := { d.mbx with caskHdr := h } }
    let d := (d.setFld Reg.MBX_STATUS_FW 1).bump Cnt.MBX_HANDOVER_CNT
    let d := d.burnFloors fwBad certBad
    let d := (d.hif.prog.filter fun c => c.op == 0x05).foldl Dev.answerHello d
    (d.deliverMgmt 64).endHandover

/-- CASK_READ (R394): `fwBad` and `certBad` are fuse bits that fail to verify. -/
def execCaskRead (fwBad certBad : Nat) (e : Ecc) (s : State) : Host.Outcome State Fault Refusal :=
  s.run fun d => d.caskRead fwBad certBad e

/-- UPDATE_RESUME (R396): the frame that RESUME_TICK opens begins. -/
def execUpdateResume (s : State) : Host.Outcome State Fault Refusal := s.run fun d => d.frameOf d.frm.resumeTick

/-! ### DISCOVER (R314) -/

/-- DISCOVER: the origin begins discovery; another device takes part in it. The command completes with discovery. -/
def execDiscover (n : Fin 65536) (s : State) : Host.Outcome State Fault Refusal :=
  s.run fun d => d.opCommand n 0x12 fun c d =>
    if 1 < (d.hif.prog.filter fun x => x.op == 0x12).length then d.complete c .stateReject 0 0 0
    else (if d.frm.origin then d.startSize else d.joinDisc).advance

/-! ### PERMUTE (R288 to R290) -/

/-- The permutation table at `a` is acceptable (Table 11.6). -/
def Dev.permTableOk (d : Dev) (a : Nat) : Bool :=
  let n := d.rd a 4
  d.mapped a 32 && n ≤ 1048576 && d.mapped a (32 + 32 * n) && crc32c (d.read (a + 32) (32 * n)) == d.rd (a + 4) 4

/-- The source ranges of a table's moves. -/
def Dev.permSources (d : Dev) (a : Nat) : List (Nat × Nat) :=
  (List.range (d.rd a 4)).map fun j => (d.rd (a + 32 + 32 * j) 8, d.rd (a + 32 + 32 * j + 20) 4)

/-- PERMUTE: it stays in progress until every move has ended. -/
def execPermute (n : Fin 65536) (e : Ecc) (s : State) : Host.Outcome State Fault Refusal :=
  s.run fun d => d.opCommand n 0x27 fun c d =>
    let a := c.par 0
    if d.pnd.perm.isSome then d.complete c .stateReject 0 0 0
    else
      let d := d.ecc e
      if !d.permTableOk a then d.complete c .badArg 0 0 0
      else
        let d := d.idleRead a (32 + 32 * d.rd a 4)
        let d := (d.permSources a).foldl (fun d x => d.idleRead x.1 x.2) d
        ((d.setHif fun h => { h with permCmd := some c }).permStart a).endPermute

/-! ### TPACK_LOAD (R407) -/

/-- R406: the header of a test pattern pack. -/
def packOk (b : List Byte) : Bool :=
  let n := rdLe b 8 4
  rdLe b 0 4 == 0x4B50545A && rdLe b 0x3C 4 == crc32c (b.take 0x3C) && 1 ≤ n && n ≤ 65536 && 64 + 128 * n ≤ rdLe b 0x10 8 &&
  rdLe b 0x10 8 ≤ b.length

/-- A pack waits for its activation: at once outside RUNNING. -/
def Dev.stagePack (d : Dev) (bank : Nat) : Dev :=
  let d := { d with flt := { d.flt with packStaged := some bank } }
  let d := d.setFld Reg.FLT_TPACK_STATUS_STATE (if d.flt.packActive.isSome then 3 else 1)
  if d.st = DS.running then d else d.activatePack

/-- TPACK_LOAD: `data` is what arrives of the pack's bytes. -/
def execTpackLoad (n : Fin 65536) (data : List Byte) (s : State) : Host.Outcome State Fault Refusal :=
  s.run fun d => d.opCommand n 0x33 fun c d =>
    if d.flt.packStaged.isSome then d.complete c .stateReject 0 0 0
    else
      let bank := match d.flt.packActive with
        | some b => 1 - b
        | none => 0
      match d.fetchImage c data (d.packBank bank) with
      | (none, d) => d
      | (some b, d) =>
        let size := rdLe b 0x10 8
        let r := d.sigCheck 3 (b.take size) (b.drop (align64 size))
        let d := d.noteSig 3 r
        if r.code ≠ 0 then d.complete c .authFail 0 0 0
        else if !packOk b then d.complete c .loadErr 0 0 0
        else (d.stagePack bank).complete c .done 0 0 0

end Sys2Proof.Machine
end

