-- ==== Sys2Proof/Machine/Registers.lean ====
section
/-!
DEFINITION. Register access through BAR0 (R11 to R16, R349, R477 to R481, R498): writes with their gates and ranges, reads with the half-read
latch, and the towpath snapshot (R495). REGISTER_WRITE, LOWER_HALF_READ, MEM_CFG_WRITE, HBM_REFRESH, HBM_TEMP_REPORT, TP_REFRESH.
-/

namespace Sys2Proof.Machine

/-! ### One access -/

/-- What an aligned access of 8 or 4 bytes covers (R349): the 8-byte slot, the lowest bit and the width; none for any other alignment. -/
def accessAt (off : Nat) (whole : Bool) : Option (Nat × Nat × Nat) :=
  if whole then (if off % 8 = 0 then some (off, 0, 64) else none)
  else if off % 4 = 0 then some (off / 8 * 8, off % 8 * 8, 32)
  else none

/-- A slot's value with the covered bits replaced. -/
def splice (old lo w v : Nat) : Nat := old - old / 2 ^ lo % 2 ^ w * 2 ^ lo + v % 2 ^ w * 2 ^ lo

/-- Does an access cover some bit of a field? -/
def covers (lo w : Nat) (f : FieldDef) : Bool := f.lo < lo + w && lo ≤ f.hi

/-- A field's value in a register's value. -/
def FieldDef.of (f : FieldDef) (v : Nat) : Nat := v / 2 ^ f.lo % 2 ^ (f.hi - f.lo + 1)

/-- A nibble-wise write (R245): a nibble outside −4…+3 keeps its prior value. -/
def keepNibbles (old new : Nat) : Nat :=
  ((List.range 16).map fun j =>
    let n := new / 16 ^ j % 16
    (if n ≤ 3 ∨ 12 ≤ n then n else old / 16 ^ j % 16) * 16 ^ j).sum

/-- R498: write one field; a value out of its range is ignored. The result says whether the write was accepted. -/
def Dev.putField (x : Bool × Dev) (slot new : Nat) (f : FieldDef) : Bool × Dev :=
  let fld : Field := ⟨slot, f.lo, f.hi - f.lo + 1⟩
  let v := f.of new
  match f.rng with
  | .nibbles => (true, x.2.setFld fld (keepNibbles (x.2.fld fld) v))
  | r => if r.ok v then (true, x.2.setFld fld v) else x

/-- Write the RW and RWL fields that an access covers. -/
def Dev.putFields (d : Dev) (slot lo w new : Nat) (r : RegDef) : Bool × Dev :=
  (r.fields.filter fun f => covers lo w f && (f.acc == .rw || f.acc == .rwl)).foldl (fun x f => Dev.putField x slot new f) (false, d)

/-! ### Registers whose writes have rules of their own -/

/-- READY, LOADED and HELD, in which the NUM, RED and PND settings may be written (R222, R273, R292). -/
def Dev.configurable (d : Dev) : Bool := d.st == DS.ready || d.st == DS.loaded || d.st == DS.held

/-- A write that a state or a lock refuses is ignored and counted. -/
def Dev.gated (d : Dev) (ok : Bool) (c : Nat) (act : Dev → Bool × Dev) : Bool × Dev := if ok then act d else (false, d.bump c)

/-- NUM_LOSS_SCALE (R245): MIN, MAX and EXP are judged together. -/
def Dev.putLossScale (d : Dev) (lo w new : Nat) : Dev :=
  let d := if covers lo w ⟨"", 63, 32, .rw, 0, .any⟩ then
      (d.setFld Reg.NUM_LOSS_SCALE_GOOD (bits new 63 48)).setFld Reg.NUM_LOSS_SCALE_GROW_STEPS (bits new 47 32)
    else d
  if lo ≠ 0 then d
  else
    let mn := sgn 8 (bits new 23 16)
    let mx := sgn 8 (bits new 31 24)
    let keep := decide (mx < mn)
    let mn := if keep then d.sfld Reg.NUM_LOSS_SCALE_MIN else mn
    let mx := if keep then d.sfld Reg.NUM_LOSS_SCALE_MAX else mx
    let e := sgn 8 (bits new 7 0)
    let e := if mn ≤ e ∧ e ≤ mx then e else d.sfld Reg.NUM_LOSS_SCALE_EXP
    let d := (d.setFld Reg.NUM_LOSS_SCALE_MIN (unsgn 8 mn)).setFld Reg.NUM_LOSS_SCALE_MAX (unsgn 8 mx)
    d.setFld Reg.NUM_LOSS_SCALE_EXP (unsgn 8 (clampInt mn mx e))

/-- A NUM setting (R222, R223, R245). -/
def Dev.putNum (d : Dev) (slot lo w new : Nat) (r : RegDef) : Bool × Dev :=
  if slot = 0x70018 then (true, d.putLossScale lo w new)
  else
    let x := d.putFields slot lo w new r
    if slot = 0x70000 ∧ x.1 then (true, x.2.setFrm fun f => { f with grantDue := true }) else x

/-- FAB_PORT_CTL (R322, R324): EN 0 disables the port, EN 1 on a disabled port begins its bring-up, and RETRAIN retrains it. -/
def Dev.putPort (d : Dev) (p act : Nat) : Dev :=
  let was := d.flag (Reg.FAB_PORT_CTL_EN p)
  if !bit act 0 then (if was then (d.disablePort p).advance else d)
  else
    let d := if was then d else (d.setFld (Reg.FAB_PORT_CTL_EN p) 1).trainPort p
    if bit act 1 then (d.retrain p).advance else d

/-- MEM_CFG (R332): written only in AWAIT_IMAGE. -/
def Dev.putMemCfg (d : Dev) (v : Nat) : Bool × Dev :=
  d.gated (d.st == DS.awaitImage) Cnt.MEM_CFG_REJ_CNT fun d =>
    let n := v % 64
    if n ≤ 36 then (true, d.setFld Reg.MEM_CFG_SPLIT n) else (false, d)

/-- GAU_CONV (R429): a change of REF starts the settling time. -/
def Dev.putConv (d : Dev) (slot lo w new : Nat) (r : RegDef) : Bool × Dev :=
  let g := (slot - 0xF0008) / 8
  let old := d.fld (Reg.GAU_CONV_REF g)
  let x := d.putFields slot lo w new r
  if x.2.fld (Reg.GAU_CONV_REF g) = old then x else (true, x.2.startSettling g)

/-- GAU_URG (R428): the settings, and a request where GO is 1; whether it fits before the next pass is a free value. -/
def Dev.putUrgent (d : Dev) (slot lo w new act : Nat) (r : RegDef) : Bool × Dev :=
  let g := (slot - 0xF0500) / 8
  if bit act 63 then
    let x := d.draw
    (true, x.2.urgent g (bits new 62 60) (bits new 54 40) (bits new 6 0) (x.1 % 2 == 1))
  else
    let old := d.fld (Reg.GAU_URG_CHAN g)
    let x := d.putFields slot lo w new r
    let k := x.2.fld (Reg.GAU_URG_CHAN g)
    if k ≤ 95 ∧ chanConv k = g then x else (x.1, x.2.setFld (Reg.GAU_URG_CHAN g) old)

/-- GAU_MON_SEL (R435, R436): the selection takes the snapshot; CLR then clears the selected monitor, CLR_ALL every one. -/
def Dev.putMonSel (d : Dev) (new act : Nat) : Dev :=
  let d := d.monSelect (bits new 7 0)
  let d := if bit act 31 then d.clearMon (d.fld Reg.GAU_MON_SEL_MON) else d
  if bit act 30 then (List.range 130).foldl Dev.clearMon d else d

/-- KLN_REQ (R147). -/
def Dev.putKilnReq (d : Dev) (act : Nat) : Dev :=
  let k := act % 4
  if k = 1 ∨ k = 2 then d.kilnRequests (bits act 63 32) (k == 2) else d

/-- The registers of the blocks DEV to PND. -/
def Dev.putLow (d : Dev) (slot lo w new act : Nat) (r : RegDef) : Bool × Dev :=
  let plain := fun (d : Dev) => d.putFields slot lo w new r
  if slot = 0x10010 ∨ slot = 0x10018 then (if d.flag Reg.HIF_ADMIN_CFG_EN then (false, d) else plain d)
  else if slot = 0x10020 then (true, d.writeAdmin (new % 2 ^ 32))
  else if slot = 0x60010 then (true, d.putKilnReq act)
  else if 0x70000 ≤ slot ∧ slot < 0x80000 then d.gated d.configurable Cnt.NUM_CFG_REJ_CNT fun d => d.putNum slot lo w new r
  else if 0x80000 ≤ slot ∧ slot < 0x90000 then d.gated d.configurable Cnt.RED_CFG_REJ_CNT plain
  else if slot = 0x90008 ∨ slot = 0x90018 then d.gated d.configurable Cnt.PND_CFG_REJ_CNT plain
  else plain d

/-- The registers of the blocks FAB to SEC. -/
def Dev.putHigh (d : Dev) (slot lo w new act : Nat) (r : RegDef) : Bool × Dev :=
  let plain := fun (d : Dev) => d.putFields slot lo w new r
  if 0xA0100 ≤ slot ∧ slot < 0xA0180 then (true, d.putPort ((slot - 0xA0100) / 8) act)
  else if slot = 0xC0000 then d.putMemCfg act
  else if slot = 0xD0000 then (true, if bit act 0 then d.lockMbx else d)
  else if slot = 0xD0020 ∨ (0xD0440 ≤ slot ∧ slot < 0xD0600) then
    d.gated (!d.flag Reg.MBX_STATUS_LOCKED) Cnt.MBX_LOCK_DENY_CNT plain
  else if 0xD0400 ≤ slot ∧ slot < 0xD0440 then (false, d)
  else if 0xD1000 ≤ slot ∧ slot < 0xD1400 then (true, d.mbxTx 0x01 ((slot - 0xD1000) / 16) (act % 2 ^ 32))
  else if slot = 0xE0000 then (true, d.clearSticky act)
  else if slot = 0xE0018 then (false, d.bump Cnt.FLT_WDOG_DENY_CNT)
  else if slot = 0xF0000 then (true, d.gaugePower (bit new 31))
  else if slot = 0xF0008 ∨ slot = 0xF0010 then d.putConv slot lo w new r
  else if slot = 0xF0500 ∨ slot = 0xF0508 then d.putUrgent slot lo w new act r
  else if slot = 0xF0600 then (true, d.putMonSel new act)
  else if slot = 0xF0608 then (true, d.monConfig (sgn 32 (bits new 63 32)) (bits new 4 0))
  else if slot = 0x110048 then d.gated (!d.sec.locked) Cnt.SEC_LOCK_DENY_CNT plain
  else if slot = 0x110050 then (true, if bit act 0 then d.lockSec else d)
  else plain d

/-! ### Writes -/

/-- The fields of a register that a write can act on. -/
def RegDef.writable (r : RegDef) (lo w : Nat) : Bool := r.fields.any fun f => covers lo w f && f.acc != .ro

/-- A write of `w` bits at bit `lo` of a slot (R11, R12, R478). The ledger follows an accepted write to a configuration register (R416). -/
def Dev.writeReg (d : Dev) (slot lo w v : Nat) : Dev :=
  match regAt slot with
  | none => d
  | some r =>
    if 0xD1000 ≤ slot ∧ slot < 0xD1400 ∧ slot % 16 = 8 ∧ lo = 0 then d.mbxIdle 0x01 ((slot - 0xD1000) / 16) false
    else if !r.writable lo w then d
    else
      let new := splice (d.raw slot) lo w v
      let act := splice 0 lo w v
      let x := if slot < 0xA0000 then d.putLow slot lo w new act r else d.putHigh slot lo w new act r
      if x.1 then x.2.configWritten slot else x.2

/-- Where the MSI-X table and the pending-bit array lie (Table 20.1). -/
def inMsixTab (off : Nat) : Bool := 0xF00000 ≤ off && off < 0xF08000
def inMsixPba (off : Nat) : Bool := 0xF80000 ≤ off && off < 0xF80100

/-- A host write to BAR0: refused outside D0, ignored at another alignment (R346, R349). -/
def Dev.barWrite (d : Dev) (off : Nat) (whole : Bool) (v : Nat) : Dev :=
  match accessAt off whole with
  | none => d
  | some (slot, lo, w) =>
    if d.hif.power ≠ 0 then d
    else if inMsixTab slot then
      let i := (slot - 0xF00000) / 4 + lo / 32
      let d := d.msixWrite i (v % 2 ^ 32)
      if w = 64 then d.msixWrite (i + 1) (v / 2 ^ 32 % 2 ^ 32) else d
    else d.writeReg slot lo w v

/-- REGISTER_WRITE (R11): 8 bytes where `whole`, else 4. -/
def execRegisterWrite (off : BitVec 24) (whole : Bool) (v : BitVec 64) (s : State) : Host.Outcome State Fault Refusal :=
  s.run fun d => d.barWrite off.toNat whole v.toNat

/-- MEM_CFG_WRITE (R332). -/
def execMemCfgWrite (v : BitVec 32) (s : State) : Host.Outcome State Fault Refusal :=
  s.run fun d => if d.hif.power ≠ 0 then d else (d.putMemCfg v.toNat).2

/-! ### Reads -/

def Dev.rmStat (d : Dev) (t : Nat) : RmStats :=
  (SMap.get (fun _ => none) d.rmStats t).getD ⟨0, 0, 0, [], 0, 0, 0, 0⟩

/-- The registers of the TUN and KLN blocks that show a selected Tun (Tables 3.13 to 3.15 and 6.10). -/
def Dev.tunView (d : Dev) (slot : Nat) : Nat :=
  let s := d.rmStat (d.fld Reg.TUN_HIST_SEL_TUN)
  if slot = 0x40020 then s.seq % 65536 * 65536 + s.maxCode % 256 * 256 + s.minCode % 256
  else if slot = 0x40028 then s.satFrac % 65536 * 2 ^ 48 + s.rms % 65536 * 2 ^ 32 + s.mean % 65536 * 65536 + s.gain % 65536
  else if slot = 0x60020 then
    let t := d.fld Reg.KLN_TUN_SEL_TUN
    let deg := fun (lo hi : Nat) => ((d.kln.degraded.dedup).filter fun k => k / 520 == t && lo ≤ k % 520 && k % 520 < hi).length
    SMap.get (fun _ => 0) d.kln.rho t % 65536 * 2 ^ 48 + deg 512 520 * 2 ^ 32 + deg 0 512 * 65536 +
      SMap.get (fun _ => 0) d.kln.meas t % 65536
  else s.hist.getD ((slot - 0x40100) / 8) 0 % 2 ^ 48

def Dev.tunViewed (slot : Nat) : Bool := slot == 0x40020 || slot == 0x40028 || slot == 0x60020 || (0x40100 ≤ slot && slot < 0x40200)

/-- MBX_BIND as it reads: the secure channels' are fixed (R378). -/
def Dev.bindView (d : Dev) (n : Nat) : Nat := if n < 8 then 2 ^ 31 + 0x20 else d.raw (0xD0400 + 8 * n)

/-- The pending-bit array of MSI-X. -/
def Dev.pbaView (d : Dev) (slot : Nat) : Nat :=
  let i := (slot - 0xF80000) / 8
  ((List.range 64).map fun j => if d.hif.msixPend.contains (64 * i + j) then 2 ^ j else 0).sum

/-- The 8-byte slot of BAR0 at `slot`, as a read shows it (R11, R12, R478). -/
def Dev.slotView (d : Dev) (slot : Nat) : Nat :=
  if inMsixTab slot then
    let i := (slot - 0xF00000) / 4
    SMap.get msixReset d.hif.msixTab i % 2 ^ 32 + SMap.get msixReset d.hif.msixTab (i + 1) % 2 ^ 32 * 2 ^ 32
  else if inMsixPba slot then d.pbaView slot
  else if ((countersOf 0xFFFF).getD []).contains slot then d.count slot
  else if slot = 0x20008 then d.raw slot + (if d.frm.origin then 16 else 0)
  else if Dev.tunViewed slot then d.tunView slot
  else if slot = 0x90038 then d.poundStat
  else if slot = 0xD0030 then d.hostPend
  else if 0xD0400 ≤ slot ∧ slot < 0xD0600 then d.bindView ((slot - 0xD0400) / 8)
  else if 0xD2000 ≤ slot ∧ slot < 0xD2200 then d.chStat ((slot - 0xD2000) / 8)
  else if slot = 0xE0010 then d.alertMask
  else if 0xE4000 ≤ slot ∧ slot < 0xEA000 then rdLe d.flt.ledger0 (slot - 0xE4000) 8
  else if 0xEA000 ≤ slot ∧ slot < 0xF0000 then rdLe d.flt.ledger1 (slot - 0xEA000) 8
  else if 0x110000 ≤ slot ∧ slot < 0x110040 then leNat ((List.range 8).map fun i => Config.rootDigest (slot - 0x110000 + i))
  else if slot = 0x110040 then d.fld Reg.SEC_SVN_RUN * 65536 + d.sec.certMin % 256 * 256 + d.sec.fwMin % 256
  else d.raw slot

/-- Is the register at a slot wider than 32 bits (R16)? Every counter is. -/
def wideSlot (slot : Nat) : Bool :=
  match regAt slot with
  | some r => r.width == 64
  | none => ((countersOf 0xFFFF).getD []).contains slot || (0xE4000 ≤ slot && slot < 0xF0000)

/-- A read of `w` bits at bit `lo` of a slot (R16): a read of a lower half latches the upper half. -/
def Dev.readSlot (d : Dev) (slot lo w : Nat) : Dev :=
  let v := d.slotView slot
  let latched := SMap.get (fun _ => none) d.latch slot
  let setL := fun (d : Dev) (x : Option Nat) => { d with latch := SMap.set (fun _ => none) d.latch slot x }
  if w = 64 then d.emit (.data v)
  else if lo = 0 then (if wideSlot slot then setL d (some (v / 2 ^ 32)) else d).emit (.data (v % 2 ^ 32))
  else match latched with
    | some x => (setL d none).emit (.data x)
    | none => d.emit (.data (v / 2 ^ 32))

/-- A host read of BAR0: refused outside D0; 0 at another alignment. A read of MBX_RX removes a word (R480). -/
def Dev.barRead (d : Dev) (off : Nat) (whole : Bool) (e : Ecc) : Dev :=
  if d.hif.power ≠ 0 then d.emit .unsupportedRequest
  else match accessAt off whole with
    | none => d.emit (.data 0)
    | some (slot, lo, w) =>
      if 0xD1000 ≤ slot ∧ slot < 0xD1400 ∧ slot % 16 = 8 ∧ lo = 0 then d.mbxRx 0x01 ((slot - 0xD1000) / 16)
      else if 0xD1000 ≤ slot ∧ slot < 0xD1400 ∧ slot % 16 = 0 ∧ lo = 0 then d.mbxIdle 0x01 ((slot - 0xD1000) / 16) true
      else if 0xE4000 ≤ slot ∧ slot < 0xF0000 then (d.ledgerRead e).readSlot slot lo w
      else d.readSlot slot lo w

/-- A host read of BAR2 returns 0 (R349). -/
def Dev.bar2Read (d : Dev) : Dev := if d.hif.power ≠ 0 then d.emit .unsupportedRequest else d.emit (.data 0)

/-- LOWER_HALF_READ (R16): 8 bytes where `whole`, else 4; `e` is what the ledger store reports where it is read. -/
def execLowerHalfRead (off : BitVec 24) (whole : Bool) (e : Ecc) (s : State) (bar2 : Bool := false) : Host.Outcome State Fault Refusal :=
  s.run fun d => if bar2 then d.bar2Read else d.barRead off.toNat whole e

/-! ### Refresh (R336) -/

/-- HBM_REFRESH (R336): a per-bank refresh keeps the stack's contents; it stops for no slot and changes nothing else. -/
def execHbmRefresh (_h : Fin 24) (s : State) : Host.Outcome State Fault Refusal := s.run fun d => d

/-- HBM_TEMP_REPORT (R336): stack `h` reports more than 85 °C, or no longer. -/
def execHbmTempReport (h : Fin 24) (hot : Bool) (s : State) : Host.Outcome State Fault Refusal :=
  s.run fun d =>
    let m := d.fld Reg.MEM_REFRESH_DOUBLED
    d.setFld Reg.MEM_REFRESH_DOUBLED (if hot then setBit m h else clearBit m h)

/-! ### The towpath snapshot (R494, R495) -/

/-- The hottest of some diodes over their flag-free results, in 1/16 °C; 0 where none is. -/
def Dev.hottest (d : Dev) (l : List Nat) : Int :=
  match (l.filter fun k => d.fld (Reg.GAU_RESULT_SEQ k) != 0 && !d.flag (Reg.GAU_RESULT_STALE k) && !d.flag (Reg.GAU_RESULT_RS k)).map
      fun k => sgn 24 (d.fld (Reg.GAU_RESULT_VALUE k)) with
  | [] => 0
  | x :: xs => xs.foldl max x

/-- Offsets 0x00 to 0x20 of Table 21.6. -/
def Dev.tpWords (d : Dev) : List Nat :=
  let temp := unsgn 16 (d.hottest ((List.range 24).map (48 + ·))) * 65536 + unsgn 16 (d.hottest (List.range 32))
  [d.slotView 0x0 % 2 ^ 32, d.slotView 0x10000 % 2 ^ 32, d.stk0 % 2 ^ 32, d.stk0 / 2 ^ 32, d.alertMask % 2 ^ 32, temp,
    d.slotView 0x100008 / 2 ^ 32, d.slotView 0x100020 % 2 ^ 32, (d.tp.getD 8 0 + 1) % 2 ^ 32]

/-- TP_REFRESH (R495): the snapshot is taken anew while VDDIO is present. -/
def execTpRefresh (s : State) : Host.Outcome State Fault Refusal :=
  s.run fun d => if d.mbx.vddio then { d with tp := d.tpWords } else d

end Sys2Proof.Machine
end

