-- ==== Sys2Proof/Machine/Dispatch.lean ====
section
/-!
DEFINITION. One arm per command: each is one call of its meaning.
-/

namespace Sys2Proof.Machine

/-- What a command does to the device; the queue is not touched. -/
def exec (i : Instr) (s : State) : Host.Outcome State Fault Refusal :=
  match i with
  | .tickEmit now => Sys2Proof.Machine.execTickEmit now s
  | .tickInEdge now => Sys2Proof.Machine.execTickInEdge now s
  | .tickWindowEnd now => Sys2Proof.Machine.execTickWindowEnd now s
  | .tickMsg p m now delay => Sys2Proof.Machine.execTick p m now delay s
  | .flywheelStart => Sys2Proof.Machine.execFlywheelStart s
  | .tickMissHold => Sys2Proof.Machine.execTickMissHold s
  | .frameStart m => Sys2Proof.Machine.execFrameStart m s
  | .slotStart u idx k e => Sys2Proof.Machine.execSlotStart u idx k s e
  | .slotEnd u idx sub => Sys2Proof.Machine.execSlotEnd u idx sub s
  | .taskComplete u idx sub q => Sys2Proof.Machine.execTaskComplete u idx sub q s
  | .fwd b sub n e => Sys2Proof.Machine.execFwd b sub n e s
  | .cover b n e => Sys2Proof.Machine.execCover b n e s
  | .spargePeriod b => Sys2Proof.Machine.execSpargePeriod b s
  | .rmWindowClose t => Sys2Proof.Machine.execRmWindowClose t s
  | .pulseRound b idx now e => Sys2Proof.Machine.execPulseRound b idx now s e
  | .pulsePeriod b idx verified => Sys2Proof.Machine.execPulsePeriod b idx verified s
  | .pulseRoundEnd b idx levels => Sys2Proof.Machine.execPulseRoundEnd b idx levels s
  | .foldComplete b e => Sys2Proof.Machine.execFoldComplete b s e
  | .kilnUnit b idx now m e => Sys2Proof.Machine.execKilnUnit b idx now m e s
  | .kilnRestore b idx => Sys2Proof.Machine.execKilnRestore b idx s
  | .matmul c n e => Sys2Proof.Machine.execMatmul c n e s
  | .move c n e => Sys2Proof.Machine.execMove c n e s
  | .gather c n e => Sys2Proof.Machine.execGather c n e s
  | .vprog c e => Sys2Proof.Machine.execVprog c e s
  | .assemble c n e => Sys2Proof.Machine.execAssemble c n e s
  | .bwdWot c n e => Sys2Proof.Machine.execBwdWot c n e s
  | .attnFwd c n e => Sys2Proof.Machine.execAttnFwd c n e s
  | .attnBwd c n e => Sys2Proof.Machine.execAttnBwd c n e s
  | .normBwd c n e => Sys2Proof.Machine.execNormBwd c n e s
  | .tiesum c n e => Sys2Proof.Machine.execTiesum c n e s
  | .compare c n e => Sys2Proof.Machine.execCompare c n e s
  | .lrFit c e => Sys2Proof.Machine.execLrFit c e s
  | .rs e => Sys2Proof.Machine.execRs e s
  | .ag e => Sys2Proof.Machine.execAg e s
  | .preX e => Sys2Proof.Machine.execPreX e s
  | .notice e => Sys2Proof.Machine.execNotice e s
  | .replay e => Sys2Proof.Machine.execReplay e s
  | .fetch e => Sys2Proof.Machine.execFetch e s
  | .send p n e => Sys2Proof.Machine.execSend p n e s
  | .hostPut e => Sys2Proof.Machine.execHostPut e s
  | .hostGet data e => Sys2Proof.Machine.execHostGet data e s
  | .hostXferCompletion => Sys2Proof.Machine.execHostXferCompletion s
  | .mxcCheck c e => Sys2Proof.Machine.execMxcCheck c e s
  | .tunCheck b sub e => Sys2Proof.Machine.execTunCheck b sub e s
  | .vFma c w => Sys2Proof.Machine.execFma c w s
  | .vAdd c w => Sys2Proof.Machine.execAdd c w s
  | .vMul c w => Sys2Proof.Machine.execMul c w s
  | .vMax c w => Sys2Proof.Machine.execMax c w s
  | .vMin c w => Sys2Proof.Machine.execMin c w s
  | .vSel c w => Sys2Proof.Machine.execSel c w s
  | .vCmplt c w => Sys2Proof.Machine.execCmplt c w s
  | .vExp2 c w => Sys2Proof.Machine.execExp2 c w s
  | .vRcp c w => Sys2Proof.Machine.execRcp c w s
  | .vRsq c w => Sys2Proof.Machine.execRsq c w s
  | .vLog2 c w => Sys2Proof.Machine.execLog2 c w s
  | .vTwosum c w => Sys2Proof.Machine.execTwosum c w s
  | .vFast2sum c w => Sys2Proof.Machine.execFast2sum c w s
  | .vTwoprod c w => Sys2Proof.Machine.execTwoprod c w s
  | .vCvt c w e => Sys2Proof.Machine.execCvt c w s e
  | .vCvtTunin c w e => Sys2Proof.Machine.execCvtTunin c w s e
  | .vRedSum c w => Sys2Proof.Machine.execRedSum c w s
  | .vRedMax c w => Sys2Proof.Machine.execRedMax c w s
  | .vRedMin c w => Sys2Proof.Machine.execRedMin c w s
  | .vKth c w => Sys2Proof.Machine.execKth c w s
  | .vRng c w => Sys2Proof.Machine.execRng c w s
  | .vLd c w e => Sys2Proof.Machine.execLd c w e s
  | .vSt c w e => Sys2Proof.Machine.execSt c w e s
  | .vGld c w e => Sys2Proof.Machine.execGld c w e s
  | .vLoop c w => Sys2Proof.Machine.execLoop c w s
  | .vEnd c w => Sys2Proof.Machine.execEnd c w s
  | .tokenForm e => Sys2Proof.Machine.execTokenForm s e
  | .tokenMsg p m => Sys2Proof.Machine.execToken p m s
  | .tokenForwardDeadline => Sys2Proof.Machine.execTokenForwardDeadline s
  | .tokenDecideDeadline => Sys2Proof.Machine.execTokenDecideDeadline s
  | .resultMsg p m => Sys2Proof.Machine.execResult p m s
  | .reduceMsg p m t => Sys2Proof.Machine.execReduce p m t s
  | .agRx p m t => Sys2Proof.Machine.execAgRx p m t s
  | .fetchRx p m t => Sys2Proof.Machine.execFetchRx p m t s
  | .preXRx p m t => Sys2Proof.Machine.execPreXRx p m t s
  | .noticeRx p m t => Sys2Proof.Machine.execNoticeRx p m t s
  | .packetDeadline => Sys2Proof.Machine.execPacketDeadline s
  | .bargeMsg p m => Sys2Proof.Machine.execBarge p m s
  | .poundRelease => Sys2Proof.Machine.execPoundRelease s
  | .creditMsg p m => Sys2Proof.Machine.execCredit p m s
  | .permAck p m => Sys2Proof.Machine.execPermAck p m s
  | .permuteTimeout => Sys2Proof.Machine.execPermuteTimeout s
  | .flitRxData p x => Sys2Proof.Machine.execFlitRxData p x s
  | .flitRxCtrl p x peer credits t => Sys2Proof.Machine.execFlitRxCtrl p x peer credits t s
  | .flitRxIdle p x => Sys2Proof.Machine.execFlitRxIdle p x s
  | .ackTimeout p => Sys2Proof.Machine.execAckTimeout p s
  | .flitIdleTimeout p => Sys2Proof.Machine.execFlitIdleTimeout p s
  | .linkLost p => Sys2Proof.Machine.execLinkLost p s
  | .retrainTimer p => Sys2Proof.Machine.execRetrainTimer p s
  | .portTrained p => Sys2Proof.Machine.execPortTrained p s
  | .guardProbe t => Sys2Proof.Machine.execGuardProbe t s
  | .probeMsg p m turn => Sys2Proof.Machine.execProbe p m turn s
  | .echoMsg p m t next => Sys2Proof.Machine.execEcho p m t next s
  | .parentMsg p m => Sys2Proof.Machine.execParent p m s
  | .mgmtMsg p m => Sys2Proof.Machine.execMgmt p m s
  | .ringMsg p m => Sys2Proof.Machine.execRing p m s
  | .assignMsg p m => Sys2Proof.Machine.execAssign p m s
  | .censusMsg p m => Sys2Proof.Machine.execCensus p m s
  | .doneMsg p m => Sys2Proof.Machine.execDone p m s
  | .confirmMsg p m => Sys2Proof.Machine.execConfirm p m s
  | .discTestTick => Sys2Proof.Machine.execDiscTestTick s
  | .discoveryTimeout => Sys2Proof.Machine.execDiscoveryTimeout s
  | .hbmRefresh h => Sys2Proof.Machine.execHbmRefresh h s
  | .hbmTempReport h hot => Sys2Proof.Machine.execHbmTempReport h hot s
  | .bar4Read off n e => Sys2Proof.Machine.execBar4Read off n e s
  | .bar4Write off data => Sys2Proof.Machine.execBar4Write off data s
  | .sqTailDoorbell n v whole => Sys2Proof.Machine.execSqTailDoorbell n v s whole
  | .cqHeadDoorbell n v whole => Sys2Proof.Machine.execCqHeadDoorbell n v s whole
  | .descriptorFetch n data => Sys2Proof.Machine.execDescriptorFetch n data s
  | .msixCoalTimeout n => Sys2Proof.Machine.execMsixCoalTimeout n s
  | .nop n => Sys2Proof.Machine.execNop n s
  | .createSq n => Sys2Proof.Machine.execCreateSq n s
  | .createCq n => Sys2Proof.Machine.execCreateCq n s
  | .deleteSq n => Sys2Proof.Machine.execDeleteSq n s
  | .deleteCq n => Sys2Proof.Machine.execDeleteCq n s
  | .hello n => Sys2Proof.Machine.execHello n s
  | .query n => Sys2Proof.Machine.execQuery n s
  | .counterClear n => Sys2Proof.Machine.execCounterClear n s
  | .imageLoadBoot n data env => Sys2Proof.Machine.execImageLoadBoot n data env s
  | .imageLoadUpdate n data => Sys2Proof.Machine.execImageLoadUpdate n data s
  | .imageLoadReload n data env => Sys2Proof.Machine.execImageLoadReload n data env s
  | .updateStaged => Sys2Proof.Machine.execUpdateStaged s
  | .caskRead fwBad certBad e => Sys2Proof.Machine.execCaskRead fwBad certBad e s
  | .updateResume => Sys2Proof.Machine.execUpdateResume s
  | .startWarm n env => Sys2Proof.Machine.execStartWarm n env s
  | .startCold n romOk => Sys2Proof.Machine.execStartCold n romOk s
  | .discover n => Sys2Proof.Machine.execDiscover n s
  | .fpLoad n data e => Sys2Proof.Machine.execFpLoad n data s e
  | .fpDiscard n => Sys2Proof.Machine.execFpDiscard n s
  | .fpArm n => Sys2Proof.Machine.execFpArm n s
  | .run n => Sys2Proof.Machine.execRun n s
  | .resume n => Sys2Proof.Machine.execResume n s
  | .startTickReached => Sys2Proof.Machine.execStartTickReached s
  | .quiesce n => Sys2Proof.Machine.execQuiesce n s
  | .stop n => Sys2Proof.Machine.execStop n s
  | .permute n e => Sys2Proof.Machine.execPermute n e s
  | .dmaH2d n data => Sys2Proof.Machine.execDmaH2d n data s
  | .dmaD2h n sent e => Sys2Proof.Machine.execDmaD2h n sent e s
  | .program n missed kiln fwBad certBad e => Sys2Proof.Machine.execProgram n missed kiln fwBad certBad e s
  | .tpackLoad n data => Sys2Proof.Machine.execTpackLoad n data s
  | .mbxTx m n w => Sys2Proof.Machine.execMbxTx m n w s
  | .mbxRx m n => Sys2Proof.Machine.execMbxRx m n s
  | .mbxLock v => Sys2Proof.Machine.execMbxLock v s
  | .mbxMsgTimeout n toB => Sys2Proof.Machine.execMbxMsgTimeout n toB s
  | .domainDown m => Sys2Proof.Machine.execDomainDown m s
  | .ping n => Sys2Proof.Machine.execPing n s
  | .srDoorbell k => Sys2Proof.Machine.execSrDoorbell k s
  | .srEcho k => Sys2Proof.Machine.execSrEcho k s
  | .srVersion k => Sys2Proof.Machine.execSrVersion k s
  | .logLevel k => Sys2Proof.Machine.execLogLevel k s
  | .mgmtSend k full => Sys2Proof.Machine.execMgmtSend k full s
  | .caskInfo k => Sys2Proof.Machine.execCaskInfo k s
  | .stickyClear v => Sys2Proof.Machine.execStickyClear v s
  | .wdogKick m v => Sys2Proof.Machine.execWdogKick m v s
  | .wdogExpire => Sys2Proof.Machine.execWdogExpire s
  | .klnReqInterp basins => Sys2Proof.Machine.execKlnReqInterp basins s
  | .klnReqMeasured basins => Sys2Proof.Machine.execKlnReqMeasured basins s
  | .portRetrain p => Sys2Proof.Machine.execPortRetrain p s
  | .portDisable p => Sys2Proof.Machine.execPortDisable p s
  | .memCfgWrite v => Sys2Proof.Machine.execMemCfgWrite v s
  | .adminRingsEnable asq acq => Sys2Proof.Machine.execAdminRingsEnable asq acq s
  | .adminRingsDisable asq acq => Sys2Proof.Machine.execAdminRingsDisable asq acq s
  | .secLock v => Sys2Proof.Machine.execSecLock v s
  | .gauUrg g order n chan fits => Sys2Proof.Machine.execGauUrg g order n chan fits s
  | .urgentDone g v => Sys2Proof.Machine.execUrgentDone g v s
  | .gauPwr on => Sys2Proof.Machine.execGauPwr on s
  | .gauRefChange g r => Sys2Proof.Machine.execGauRefChange g r s
  | .refSettled g => Sys2Proof.Machine.execRefSettled g s
  | .scanPassDue l => Sys2Proof.Machine.execScanPassDue l s
  | .scanEntryDone g v => Sys2Proof.Machine.execScanEntryDone g v s
  | .gauMonSel mon => Sys2Proof.Machine.execGauMonSel mon s
  | .gauMonClr => Sys2Proof.Machine.execGauMonClr s
  | .gauMonClrAll => Sys2Proof.Machine.execGauMonClrAll s
  | .gauMonCfg base w => Sys2Proof.Machine.execGauMonCfg base w s
  | .registerWrite off whole v => Sys2Proof.Machine.execRegisterWrite off whole v s
  | .powerOn romOk => Sys2Proof.Machine.execPowerOn romOk s
  | .perst origin mode romOk => Sys2Proof.Machine.execPerst origin mode romOk s
  | .hotReset env => Sys2Proof.Machine.execHotReset env s
  | .flr env => Sys2Proof.Machine.execFlr env s
  | .railFault rail => Sys2Proof.Machine.execRailFault rail s
  | .thermalHold diode => Sys2Proof.Machine.execThermalHold diode s
  | .thermalRelease => Sys2Proof.Machine.execThermalRelease s
  | .thermalTrip => Sys2Proof.Machine.execThermalTrip s
  | .pciePowerState p => Sys2Proof.Machine.execPciePowerState p s
  | .ideIntegrityFail => Sys2Proof.Machine.execIdeIntegrityFail s
  | .getVersion => Sys2Proof.Machine.execGetVersion s
  | .getCapabilities ver => Sys2Proof.Machine.execGetCapabilities ver s
  | .negotiateAlgorithms ver asym hash dhe aead => Sys2Proof.Machine.execNegotiateAlgorithms ver asym hash dhe aead s
  | .getDigests ver => Sys2Proof.Machine.execGetDigests ver s
  | .getCertificate ver slot off len => Sys2Proof.Machine.execGetCertificate ver slot off len s
  | .challenge ver slot kind context => Sys2Proof.Machine.execChallenge ver slot kind context s
  | .getMeasurements ver attr op context => Sys2Proof.Machine.execGetMeasurements ver attr op context s
  | .keyExchange ver slot kind reqSession => Sys2Proof.Machine.execKeyExchange ver slot kind reqSession s
  | .finish session ok => Sys2Proof.Machine.execFinish session ok s
  | .heartbeat session => Sys2Proof.Machine.execHeartbeat session s
  | .keyUpdate session op tag => Sys2Proof.Machine.execKeyUpdate session op tag s
  | .endSession session => Sys2Proof.Machine.execEndSession session s
  | .ideKmQuery session => Sys2Proof.Machine.execIdeKmQuery session s
  | .keyProg session stream set dir sub => Sys2Proof.Machine.execKeyProg session stream set dir sub s
  | .kSetGo session set dir sub => Sys2Proof.Machine.execKSetGo session set dir sub s
  | .kSetStop session set dir sub => Sys2Proof.Machine.execKSetStop session set dir sub s
  | .tpRefresh => Sys2Proof.Machine.execTpRefresh s
  | .tpMbxTx j w => Sys2Proof.Machine.execTpMbxTx j w s
  | .tpMbxRx j => Sys2Proof.Machine.execTpMbxRx j s
  | .powerLoss => Sys2Proof.Machine.execPowerLoss s
  | .vddioRestored => Sys2Proof.Machine.execVddioRestored s
  | .pcieLinkTraining rate width => Sys2Proof.Machine.execPcieLinkTraining rate width s
  | .lowerHalfRead off whole e bar2 => Sys2Proof.Machine.execLowerHalfRead off whole e s bar2
  | .spdmUnsupportedRequest code => Sys2Proof.Machine.execSpdmUnsupportedRequest code s

end Sys2Proof.Machine
end

