-- ==== Sys2Proof/Safety.lean ====
section
/-!
DEFINITION. What the statements speak of: the parts of the device and what it means that a command changes no other part, the canonical
form of memory and of the sparse maps, the device's invariant, and the commands that act without power.
-/

namespace Sys2Proof.Machine

/-- The canonical form of device memory in an epoch of the local stores: addresses strictly rising, no entry that equals what an
unlisted address reads as. -/
def Memory.wf (epoch : Nat) (m : List Host.Cell) : Bool := SMap.wf (memDefault epoch) m

/-- Bit k of FLT_STK0 as a field (R409). -/
def stickyBit (k : Nat) : Field := ⟨0xE0000, k, 1⟩

/-- The form that every command keeps: memory, register fields and counters are canonical, no counter is above its maximum (R15), and
a sticky bit is 0 or 1 (R17). -/
def Dev.wf (d : Dev) : Prop :=
  Memory.wf d.lsEpoch d.mem = true ∧ SMap.wf fieldReset d.regs = true ∧ SMap.wf (fun _ => 0) d.cnt = true ∧
    (∀ c, d.count c ≤ cntMax) ∧ ∀ k < 23, d.fld (stickyBit k) ≤ 1

/-- The parts of the device, one for each field of Dev but `out`, which every command writes afresh. -/
inductive Part where
  | regs | cnt | latch | mem | lsEpoch | split | poison | draws | frm | variants | run | late | cells | rmOpen | rmStats | spg | rack
  | kln | mxc | num | red | pnd | fab | hif | mbx | flt | gau | pwr | sec | tpMode | tp
  deriving DecidableEq, Repr

/-- Two devices agree on a part. -/
def Part.same : Part → Dev → Dev → Prop
  | .regs, d, e => e.regs = d.regs
  | .cnt, d, e => e.cnt = d.cnt
  | .latch, d, e => e.latch = d.latch
  | .mem, d, e => e.mem = d.mem
  | .lsEpoch, d, e => e.lsEpoch = d.lsEpoch
  | .split, d, e => e.split = d.split
  | .poison, d, e => e.poison = d.poison
  | .draws, d, e => e.draws = d.draws
  | .frm, d, e => e.frm = d.frm
  | .variants, d, e => e.variants = d.variants
  | .run, d, e => e.run = d.run
  | .late, d, e => e.late = d.late
  | .cells, d, e => e.cells = d.cells
  | .rmOpen, d, e => e.rmOpen = d.rmOpen
  | .rmStats, d, e => e.rmStats = d.rmStats
  | .spg, d, e => e.spg = d.spg
  | .rack, d, e => e.rack = d.rack
  | .kln, d, e => e.kln = d.kln
  | .mxc, d, e => e.mxc = d.mxc
  | .num, d, e => e.num = d.num
  | .red, d, e => e.red = d.red
  | .pnd, d, e => e.pnd = d.pnd
  | .fab, d, e => e.fab = d.fab
  | .hif, d, e => e.hif = d.hif
  | .mbx, d, e => e.mbx = d.mbx
  | .flt, d, e => e.flt = d.flt
  | .gau, d, e => e.gau = d.gau
  | .pwr, d, e => e.pwr = d.pwr
  | .sec, d, e => e.sec = d.sec
  | .tpMode, d, e => e.tpMode = d.tpMode
  | .tp, d, e => e.tp = d.tp

/-- Every part but the listed ones is as it was: registers, counters, memory byte by byte and the state of every block. -/
def Dev.keepsBut (changed : List Part) (d e : Dev) : Prop := ∀ p, p ∉ changed → Part.same p d e

/-- Every register field but the listed ones reads as it did. -/
def Dev.fieldsBut (changed : List Field) (d e : Dev) : Prop :=
  ∀ key, key ∉ changed.map Field.key → SMap.get fieldReset e.regs key = SMap.get fieldReset d.regs key

/-- Every counter but the listed ones reads as it did. -/
def Dev.countsBut (changed : List Nat) (d e : Dev) : Prop := ∀ c, c ∉ changed → e.count c = d.count c

/-- The command answers a next state with the queue as it was and a device that `P` describes. -/
def answers (c : Instr) (s : State) (P : Dev → Prop) : Prop :=
  ∃ t, exec c s = .next t ∧ t.pending = s.pending ∧ P t.dev

/-- The command answers a next state, leaves the queue alone and changes no part of the device but the listed ones. -/
def touchesOnly (changed : List Part) (c : Instr) : Prop := ∀ s, answers c s fun e => s.dev.keepsBut changed e

/-- Command `c`, at the front of submission ring `n`, is at its turn (R352), passes every test of R357 and is dispatched. -/
def Dev.dispatches (d : Dev) (n : Nat) (c : Cmd) : Prop :=
  d.headOf n = some c ∧ d.atTurn = some c ∧ d.canDispatch c = true ∧ c.reservedBad = false ∧ d.st ≠ DS.refused ∧ (d.take c).allows c = true ∧
    (d.take c).inRange c = true ∧ (c.needsAcisk && !(d.take c).fwRuns) = false

/-- The commands that act on a device without power or with its clocks stopped (Table 14.7, R440, R454). -/
def actsUnpowered : Instr → Bool
  | .powerOn _ | .perst _ _ _ | .powerLoss | .vddioRestored => true
  | _ => false

/-! ### When a message or a flit reaches the device, and a task runs undisturbed -/

/-- A link-local or flooded message of type `mt` reaches the device whole on port `p`: the port carries it and it passes the checks of R305. -/
def Dev.hears (d : Dev) (p mt : Nat) (lenOk : Bool) (m : Msg) : Prop := d.carries p mt = true ∧ (d.checkMsg mt lenOk false m).1 = true

/-- A routed message of type `mt` for this device reaches it whole on port `p` (R305, R318). -/
def Dev.receives (d : Dev) (p mt : Nat) (lenOk : Bool) (m : Msg) : Prop :=
  d.carries p mt = true ∧ (d.checkMsg mt lenOk true m).1 = true ∧ m.dst.toNat = d.ownAddr

/-- A message of bring-up reaches the device whole on port `p`, whose link stands (R311). -/
def Dev.hearsLink (d : Dev) (p mt : Nat) (m : Msg) : Prop :=
  (d.portTrained p = true ∨ d.portState p = PS.training) ∧ (d.link p).isSome = true ∧ (d.checkMsg mt (m.len.toNat == 8) false m).1 = true

/-- A message of discovery reaches a device that takes part in one (R314). -/
def Dev.discovers (d : Dev) (p mt : Nat) (m : Msg) : Prop := d.hears p mt (m.len == 8) m ∧ (d.st = DS.booting ∨ d.st = DS.ready)

/-- The link after the header of an intact flit: credits returned, flits acknowledged (R302, R303). -/
def Link.afterHead (l : Link) (x : FlitIn) : Option Link :=
  ((l.giveBack (flitF x 51 48) (flitF x 63 52)).bind fun l => l.giveBack (flitF x 67 64) (flitF x 79 68)).bind fun l =>
    if flitF x 40 40 = 0 then some l else l.acked (flitF x 39 28)

/-- An intact flit without a NAK arrives on port `p`, whose link is `l` before its header and `q` after it. -/
def Dev.takesFlit (d : Dev) (p : Nat) (x : FlitIn) (l q : Link) : Prop :=
  d.link p = some l ∧ flitIntact x = true ∧ flitF x 41 41 = 0 ∧ l.afterHead x = some q

/-- No word of memory is poisoned. -/
def Dev.sound (d : Dev) : Prop := d.poison = []

/-- No trace point is enabled (R387). -/
def Dev.untraced (d : Dev) : Prop := ∀ k < 4, d.fld (Reg.MBX_TRACE_MASK_EN k) = 0

end Sys2Proof.Machine
end

