-- ==== Sys2Proof/Certificates/Slice0/Obligations.lean ====
section
/-!
DEFINITION. The statements for the provers: the machine as a whole, what each family of commands leaves alone, and what single commands
do. A statement that names a log entry rests on a choice of the model.
-/

open Sys2Proof Sys2Proof.Machine

/-! ### The machine as a whole -/

/-- A step runs the command at the front of the queue with the queue's rest. -/
def Obligations.StepRunsFront : Prop :=
  ∀ (c : Instr) (cs : List Instr) (s : State), step { s with pending := c :: cs } = exec c { s with pending := cs }

/-- On an empty queue a step answers the same state (the model's choice, log 1). -/
def Obligations.EmptyQueueIdles : Prop := ∀ d : Dev, step ⟨d, []⟩ = .next ⟨d, []⟩

/-- Every command, with any operands, in any state, answers a next state and leaves the waiting commands as they are (log 4). -/
def Obligations.EveryCommandCompletes : Prop := ∀ (c : Instr) (s : State), ∃ t, exec c s = .next t ∧ t.pending = s.pending

/-- A queue of n commands is empty after n steps, whatever the commands are; n + 1 steps answer the same as n (log 1, log 4). -/
def Obligations.QueueDrains : Prop :=
  ∀ s : State, ∃ t, Host.Core.run Sys2Proof.core s.pending.length s = .next t ∧ t.pending = [] ∧
    ∀ k, Host.Core.run Sys2Proof.core (s.pending.length + k) s = .next t

/-- Without power, or with its clocks stopped, a device does nothing on any command but POWER_ON, PERST, POWER_LOSS and
VDDIO_RESTORED (Table 14.7, R454; log 5). -/
def Obligations.UnpoweredIsInert : Prop :=
  ∀ (c : Instr) (s : State), s.dev.powered = false → actsUnpowered c = false →
    exec c s = .next ⟨s.dev.quiet, s.pending⟩

/-- After THERMAL_TRIP in a powered device THERMTRIP# has fallen, and any further commands but POWER_ON, PERST, POWER_LOSS and
VDDIO_RESTORED leave the device as the TRIP left it (R454; log 5). -/
def Obligations.TripLatches : Prop :=
  ∀ s : State, s.dev.powered = true →
    ∃ t, exec .thermalTrip s = .next t ∧ t.pending = s.pending ∧ t.dev.pwr.tripped = true ∧ t.dev.out = [.thermTrip] ∧
      ∀ cs : List Instr, (∀ c ∈ cs, actsUnpowered c = false) → cs ≠ [] →
        Host.Core.run Sys2Proof.core cs.length { t with pending := cs } = .next ⟨t.dev.quiet, []⟩

/-- At reset every register field reads its table's reset value, every counter reads 0, the device is in ROM, no variant slot is active or
armed, the period is 25,600 cycles and no command waits (R14, R15, R29, Tables 2.10 and 14.7). -/
def Obligations.ResetValues : Prop :=
  (∀ f : Field, State.reset.dev.fld f = fieldReset f.key) ∧ (∀ c, State.reset.dev.count c = 0) ∧
    State.reset.dev.st = DS.rom ∧ State.reset.dev.active = 0xFF ∧ State.reset.dev.armed = 0xFF ∧
    State.reset.dev.fld Reg.FRM_PERIOD_CYCLES = 25600 ∧ State.reset.pending = []

/-- Memory, registers and counters of the reset state are in their canonical form. -/
def Obligations.ResetIsCanonical : Prop := State.reset.dev.wf

/-- Every step keeps memory, registers and counters in their canonical form, and no counter passes 2⁴⁸ − 1 (R15) and
no sticky bit holds more than 1 (R17). -/
def Obligations.StepKeepsCanonicalForm : Prop := ∀ s t : State, s.dev.wf → step s = .next t → t.dev.wf

/-! ### Memory, registers and addresses -/

/-- After a write every byte of the written range reads as written and every other byte as before. -/
def Obligations.MemoryReadsBack : Prop :=
  ∀ (d : Dev) (a x : Nat) (bs : List Byte),
    (d.write a bs).byte x = if a ≤ x ∧ x < a + bs.length then bs.getD (x - a) 0 else d.byte x

/-- A counter counts up to 2⁴⁸ − 1 and stays there, and counting in one moves no other. No command but COUNTER_CLEAR and the loss or the return of
power ever lowers a counter: cold and warm starts, resets and register writes keep what was counted (R15). -/
def Obligations.CountersSaturateAndNeverFall : Prop :=
  (∀ (d : Dev) (c n : Nat), (d.bumpBy c n).count c = min (2 ^ 48 - 1) (d.count c + n) ∧
    ∀ e, e ≠ c → (d.bumpBy c n).count e = d.count e) ∧
  ∀ (c : Instr) (s : State), (∀ n, c ≠ .counterClear n) → (∀ ok, c ≠ .powerOn ok) → c ≠ .powerLoss →
    answers c s fun e => ∀ k, s.dev.count k ≤ 2 ^ 48 - 1 → s.dev.count k ≤ e.count k

/-- STICKY_CLEAR clears exactly the sticky bits of FLT_STK0 at which 1 is written and leaves every other bit and every other register field
as it was (R17, R409). The premise rules out states whose one-bit fields hold more than 1, which no step reaches from reset. -/
def Obligations.StickyBitsClearByOne : Prop :=
  ∀ (v : BitVec 64) (s : State), s.dev.powered = true → s.dev.wf →
    answers (.stickyClear v) s fun e =>
      (∀ k < 23, e.fld (stickyBit k) = if v.getLsbD k then 0 else s.dev.fld (stickyBit k)) ∧
      (∀ key, (key < 0xE0000 * 64 ∨ 0xE0000 * 64 + 23 ≤ key) → SMap.get fieldReset e.regs key = SMap.get fieldReset s.dev.regs key) ∧
      s.dev.keepsBut [.regs] e

/-- R331: where an HBM address lies. -/
def Obligations.StackOfAnAddress : Prop :=
  ∀ split a : Nat,
    (a < 0x010000000000 → stackOf a = a / 4096 % 24 ∧ stackOffset split a = split * gib + a / 4096 / 24 * 4096 + a % 4096) ∧
    (∀ r, a = 0x010000000000 + r → r < 0x010000000000 → stackOf a = r / 4096 % 12 ∧ stackOffset split a = r / 4096 / 12 * 4096 + r % 4096) ∧
    (∀ r, a = 0x020000000000 + r → stackOf a = 12 + r / 4096 % 12 ∧ stackOffset split a = r / 4096 / 12 * 4096 + r % 4096)

/-! ### What each family leaves alone -/

/-- Ticks, slots and the start of a frame with the boundary it may carry, forward products, corrections and the range monitor, pulse rounds and folds, calibration (R30 to R36, R46 to R77, R89 to R104, R125 to R131, R145 to R150): each answers a next state, leaves the queue alone and changes no
part of the device but the listed ones. -/
def Obligations.TicksArraysTouchOnly : Prop :=
  (let parts : List Part := [.kln];
    (∀ (b : Fin 32) (i : Fin 64), touchesOnly parts (.kilnRestore b i))) ∧
  (let parts : List Part := [.spg];
    (∀ (b : Fin 32), touchesOnly parts (.spargePeriod b))) ∧
  (let parts : List Part := [.cells, .rack];
    (∀ (b : Fin 32) (i : Fin 64) (verified : BitVec 16), touchesOnly parts (.pulsePeriod b i verified))) ∧
  (let parts : List Part := [.cnt, .frm];
    touchesOnly parts .flywheelStart) ∧
  (let parts : List Part := [.regs, .cnt];
    (∀ (basins : BitVec 32), touchesOnly parts (.klnReqInterp basins) ∧ touchesOnly parts (.klnReqMeasured basins))) ∧
  (let parts : List Part := [.regs, .frm];
    touchesOnly parts .tickMissHold) ∧
  (let parts : List Part := [.cnt, .mem, .poison, .cells, .rack];
    (∀ (b : Fin 32) (i : Fin 64) (levels : List Int), touchesOnly parts (.pulseRoundEnd b i levels))) ∧
  (let parts : List Part := [.regs, .cnt, .draws, .rmOpen, .rmStats];
    (∀ (t : Fin 2048), touchesOnly parts (.rmWindowClose t))) ∧
  (let parts : List Part := [.regs, .cnt, .mem, .poison, .draws, .frm, .fab, .hif, .mbx];
      (∀ (now : Nat), touchesOnly parts (.tickEmit now) ∧ touchesOnly parts (.tickInEdge now) ∧ touchesOnly parts (.tickWindowEnd now)) ∧
      (∀ (p : Fin 16) (m : Msg) (now delay : Nat), touchesOnly parts (.tickMsg p m now delay))) ∧
  (let parts : List Part := [.regs, .cnt, .mem, .poison, .draws, .frm, .variants, .rack, .mbx];
    (∀ (b : Fin 32) (i : Fin 64) (now : Nat) (e : Ecc), touchesOnly parts (.pulseRound b i now e))) ∧
  (let parts : List Part := [.regs, .cnt, .mem, .poison, .draws, .frm, .variants, .kln, .mbx, .sec];
    (∀ (b : Fin 32) (i : Fin 64) (now : Nat) (m : KilnMeas) (e : Ecc), touchesOnly parts (.kilnUnit b i now m e))) ∧
  (let parts : List Part := [.regs, .cnt, .mem, .poison, .draws, .frm, .variants, .rack, .mbx, .flt];
    (∀ (b : Fin 32) (e : Ecc), touchesOnly parts (.foldComplete b e))) ∧
  (let parts : List Part := [.regs, .cnt, .mem, .poison, .draws, .frm, .variants, .run, .late, .spg, .mbx];
    (∀ (b : Fin 32) (n : Nat) (e : Ecc), touchesOnly parts (.cover b n e))) ∧
  (let parts : List Part := [.regs, .cnt, .mem, .poison, .draws, .frm, .variants, .run, .late, .mxc, .num, .mbx];
    (∀ (u : UClass) (i : Fin 128) (sub : Option (Fin 64)) (q : Nat), touchesOnly parts (.taskComplete u i sub q))) ∧
  (let parts : List Part := [.regs, .cnt, .mem, .poison, .draws, .frm, .variants, .run, .late, .rmOpen, .spg, .mbx];
    (∀ (b : Fin 32) (sub : Option (Fin 64)) (n : Nat) (e : Ecc), touchesOnly parts (.fwd b sub n e))) ∧
  (let parts : List Part := [.regs, .cnt, .mem, .poison, .draws, .frm, .variants, .run, .rack, .kln, .mxc, .red, .pnd, .mbx, .gau];
    (∀ (u : UClass) (i : Fin 128) (k : Nat) (e : Ecc), touchesOnly parts (.slotStart u i k e))) ∧
  (let parts : List Part := [.regs, .cnt, .mem, .poison, .draws, .frm, .variants, .run, .late, .spg, .kln, .mxc, .num, .red, .pnd, .mbx, .flt];
    (∀ (u : UClass) (i : Fin 128) (sub : Option (Fin 64)), touchesOnly parts (.slotEnd u i sub))) ∧
  (let parts : List Part := [.regs, .cnt, .mem, .poison, .draws, .frm, .variants, .run, .late, .spg, .rack, .kln, .mxc, .num, .red, .pnd, .fab, .hif, .mbx, .flt, .gau, .sec];
      (∀ (m : StepMeas), touchesOnly parts (.frameStart m)) ∧
      touchesOnly parts .startTickReached ∧ touchesOnly parts .updateResume)

/-- The tasks of a matrix cluster, the vector instructions, the reduction engine, tokens, barges and host transfers, links, ports and discovery (R188 to R217, R247 to R324): each answers a next state, leaves the queue alone and changes no
part of the device but the listed ones. -/
def Obligations.EnginesAndFabricTouchOnly : Prop :=
  (let parts : List Part := [.fab];
    (∀ (p : Fin 16), touchesOnly parts (.portTrained p))) ∧
  (let parts : List Part := [.cnt, .fab];
      (∀ (t : Nat), touchesOnly parts (.guardProbe t)) ∧
      (∀ (p : Fin 16) (m : Msg) (turn : Nat), touchesOnly parts (.probeMsg p m turn)) ∧
      touchesOnly parts .discTestTick) ∧
  (let parts : List Part := [.regs, .cnt];
    (∀ (p : Fin 16) (m : Msg), touchesOnly parts (.parentMsg p m))) ∧
  (let parts : List Part := [.cnt, .pnd, .fab];
      touchesOnly parts .poundRelease ∧
      (∀ (p : Fin 16) (m : Msg), touchesOnly parts (.creditMsg p m))) ∧
  (let parts : List Part := [.cnt, .red, .fab];
    (∀ (p : Fin 16) (m : Msg), touchesOnly parts (.resultMsg p m))) ∧
  (let parts : List Part := [.cnt, .frm, .run, .late];
    touchesOnly parts .hostXferCompletion) ∧
  (let parts : List Part := [.cnt, .mem, .poison, .run, .late];
    (∀ (data : List Byte) (e : Ecc), touchesOnly parts (.hostGet data e))) ∧
  (let parts : List Part := [.regs, .cnt, .mem, .poison, .draws, .pnd, .hif, .mbx];
    touchesOnly parts .permuteTimeout) ∧
  (let parts : List Part := [.regs, .cnt, .mem, .poison, .draws, .red, .fab, .mbx];
      (∀ (p : Fin 16) (m : Msg), touchesOnly parts (.tokenMsg p m)) ∧
      touchesOnly parts .tokenForwardDeadline ∧ touchesOnly parts .tokenDecideDeadline) ∧
  (let parts : List Part := [.regs, .cnt, .mem, .poison, .draws, .frm, .variants, .run, .mbx];
    (∀ (e : Ecc), touchesOnly parts (.hostPut e))) ∧
  (let parts : List Part := [.regs, .cnt, .mem, .poison, .draws, .pnd, .fab, .hif, .mbx];
    (∀ (p : Fin 16) (m : Msg), touchesOnly parts (.permAck p m))) ∧
  (let parts : List Part := [.regs, .cnt, .mem, .poison, .draws, .frm, .variants, .run, .late, .mbx];
    (∀ (c : Fin 128) (n : Nat) (e : Ecc), touchesOnly parts (.move c n e) ∧ touchesOnly parts (.gather c n e) ∧ touchesOnly parts (.bwdWot c n e) ∧ touchesOnly parts (.attnFwd c n e) ∧ touchesOnly parts (.attnBwd c n e) ∧ touchesOnly parts (.normBwd c n e) ∧ touchesOnly parts (.tiesum c n e))) ∧
  (let parts : List Part := [.regs, .cnt, .mem, .poison, .draws, .frm, .late, .pnd, .fab, .hif, .mbx];
    (∀ (p : Fin 16) (m : Msg), touchesOnly parts (.bargeMsg p m))) ∧
  (let parts : List Part := [.regs, .cnt, .mem, .poison, .draws, .frm, .variants, .num, .red, .fab, .mbx];
    (∀ (e : Ecc), touchesOnly parts (.tokenForm e))) ∧
  (let parts : List Part := [.regs, .cnt, .mem, .poison, .draws, .frm, .variants, .run, .late, .mxc, .mbx];
    (∀ (c : Fin 128) (n : Nat) (e : Ecc), touchesOnly parts (.assemble c n e))) ∧
  (let parts : List Part := [.regs, .cnt, .mem, .poison, .draws, .frm, .variants, .run, .late, .rack, .mbx];
      (∀ (c : Fin 128) (n : Nat) (e : Ecc), touchesOnly parts (.compare c n e)) ∧
      (∀ (c : Fin 128) (e : Ecc), touchesOnly parts (.lrFit c e))) ∧
  (let parts : List Part := [.regs, .cnt, .mem, .poison, .draws, .frm, .variants, .run, .pnd, .fab, .mbx];
    (∀ (p : Fin 16) (n : Nat) (e : Ecc), touchesOnly parts (.send p n e))) ∧
  (let parts : List Part := [.regs, .cnt, .mem, .poison, .draws, .frm, .variants, .run, .late, .mxc, .num, .mbx];
      (∀ (c : Fin 128) (n : Nat) (e : Ecc), touchesOnly parts (.matmul c n e)) ∧
      (∀ (c : Fin 128) (e : Ecc), touchesOnly parts (.vprog c e)) ∧
      (∀ (c : Fin 128) (w : VWord), touchesOnly parts (.vFma c w) ∧ touchesOnly parts (.vAdd c w) ∧ touchesOnly parts (.vMul c w) ∧ touchesOnly parts (.vMax c w) ∧ touchesOnly parts (.vMin c w) ∧ touchesOnly parts (.vSel c w) ∧ touchesOnly parts (.vCmplt c w) ∧ touchesOnly parts (.vExp2 c w) ∧ touchesOnly parts (.vRcp c w) ∧ touchesOnly parts (.vRsq c w) ∧ touchesOnly parts (.vLog2 c w) ∧ touchesOnly parts (.vTwosum c w) ∧ touchesOnly parts (.vFast2sum c w) ∧ touchesOnly parts (.vTwoprod c w) ∧ touchesOnly parts (.vRedSum c w) ∧ touchesOnly parts (.vRedMax c w) ∧ touchesOnly parts (.vRedMin c w) ∧ touchesOnly parts (.vKth c w) ∧ touchesOnly parts (.vRng c w) ∧ touchesOnly parts (.vLoop c w) ∧ touchesOnly parts (.vEnd c w)) ∧
      (∀ (c : Fin 128) (w : VWord) (e : Ecc), touchesOnly parts (.vCvt c w e) ∧ touchesOnly parts (.vCvtTunin c w e) ∧ touchesOnly parts (.vLd c w e) ∧ touchesOnly parts (.vSt c w e) ∧ touchesOnly parts (.vGld c w e))) ∧
  (let parts : List Part := [.regs, .cnt, .mem, .poison, .draws, .frm, .variants, .run, .red, .fab, .mbx, .gau];
    (∀ (e : Ecc), touchesOnly parts (.notice e))) ∧
  (let parts : List Part := [.regs, .cnt, .mem, .poison, .draws, .frm, .variants, .run, .late, .red, .fab, .mbx, .gau];
    (∀ (e : Ecc), touchesOnly parts (.rs e) ∧ touchesOnly parts (.ag e) ∧ touchesOnly parts (.preX e) ∧ touchesOnly parts (.fetch e))) ∧
  (let parts : List Part := [.regs, .cnt, .mem, .poison, .draws, .frm, .variants, .run, .late, .num, .red, .fab, .mbx, .gau];
      (∀ (e : Ecc), touchesOnly parts (.replay e)) ∧
      (∀ (p : Fin 16) (m : Msg) (t : Nat), touchesOnly parts (.reduceMsg p m t) ∧ touchesOnly parts (.agRx p m t) ∧ touchesOnly parts (.fetchRx p m t) ∧ touchesOnly parts (.preXRx p m t) ∧ touchesOnly parts (.noticeRx p m t)) ∧
      touchesOnly parts .packetDeadline) ∧
  (let parts : List Part := [.regs, .cnt, .mem, .lsEpoch, .poison, .draws, .frm, .variants, .kln, .red, .fab, .hif, .mbx, .flt, .pwr, .sec];
      (∀ (p : Fin 16) (x : FlitIn), touchesOnly parts (.flitRxData p x) ∧ touchesOnly parts (.flitRxIdle p x)) ∧
      (∀ (p : Fin 16) (x : FlitIn) (peer : Fin 16) (credits : List Nat) (t : Nat), touchesOnly parts (.flitRxCtrl p x peer credits t)) ∧
      (∀ (p : Fin 16), touchesOnly parts (.ackTimeout p) ∧ touchesOnly parts (.flitIdleTimeout p) ∧ touchesOnly parts (.linkLost p) ∧ touchesOnly parts (.retrainTimer p) ∧ touchesOnly parts (.portRetrain p) ∧ touchesOnly parts (.portDisable p)) ∧
      (∀ (p : Fin 16) (m : Msg), touchesOnly parts (.confirmMsg p m) ∧ touchesOnly parts (.ringMsg p m) ∧ touchesOnly parts (.assignMsg p m) ∧ touchesOnly parts (.censusMsg p m) ∧ touchesOnly parts (.doneMsg p m)) ∧
      touchesOnly parts .discoveryTimeout ∧
      (∀ (n : Fin 65536), touchesOnly parts (.discover n))) ∧
  (let parts : List Part := [.regs, .cnt, .mem, .lsEpoch, .poison, .draws, .frm, .variants, .kln, .red, .fab, .hif, .mbx, .flt, .gau, .pwr, .sec];
    (∀ (p : Fin 16) (m : Msg) (t next : Nat), touchesOnly parts (.echoMsg p m t next)))

/-- The memory controllers, BAR4, doorbells, the fetch of a descriptor and the interrupt timer, the host commands that need no start, the mailboxes and what Acisk answers, register accesses (R11 to R16, R332 to R386, R495): each answers a next state, leaves the queue alone and changes no
part of the device but the listed ones. -/
def Obligations.HostAndMailboxesTouchOnly : Prop :=
  (let parts : List Part := [];
    (∀ (_h : Fin 24), touchesOnly parts (.hbmRefresh _h))) ∧
  (let parts : List Part := [.hif];
    (∀ (n : Fin 4096), touchesOnly parts (.msixCoalTimeout n))) ∧
  (let parts : List Part := [.regs];
      (∀ (h : Fin 24) (hot : Bool), touchesOnly parts (.hbmTempReport h hot)) ∧
      (∀ (v : BitVec 32), touchesOnly parts (.mbxLock v))) ∧
  (let parts : List Part := [.tp];
    touchesOnly parts .tpRefresh) ∧
  (let parts : List Part := [.cnt, .hif];
    (∀ (n : Fin 65536) (v : BitVec 64) (whole : Bool), touchesOnly parts (.sqTailDoorbell n v whole))) ∧
  (let parts : List Part := [.cnt, .mbx];
    (∀ (n : Fin 64) (toB : Bool), touchesOnly parts (.mbxMsgTimeout n toB))) ∧
  (let parts : List Part := [.regs, .cnt];
    (∀ (v : BitVec 32), touchesOnly parts (.memCfgWrite v))) ∧
  (let parts : List Part := [.cnt, .mem, .poison];
    (∀ (off : BitVec 40) (data : List Byte), touchesOnly parts (.bar4Write off data))) ∧
  (let parts : List Part := [.regs, .cnt, .hif, .mbx];
    (∀ (m : Master), touchesOnly parts (.domainDown m))) ∧
  (let parts : List Part := [.regs, .cnt, .mem, .poison, .draws, .mbx];
      (∀ (m : Master) (n : Fin 64) (w : BitVec 32), touchesOnly parts (.mbxTx m n w)) ∧
      (∀ (m : Master) (n : Fin 64), touchesOnly parts (.mbxRx m n)) ∧
      (∀ (n : Fin 64), touchesOnly parts (.ping n)) ∧
      (∀ (k : Fin 4), touchesOnly parts (.srDoorbell k) ∧ touchesOnly parts (.srEcho k) ∧ touchesOnly parts (.srVersion k) ∧ touchesOnly parts (.logLevel k) ∧ touchesOnly parts (.caskInfo k)) ∧
      (∀ (j : Fin 8) (w : BitVec 32), touchesOnly parts (.tpMbxTx j w)) ∧
      (∀ (j : Fin 8), touchesOnly parts (.tpMbxRx j))) ∧
  (let parts : List Part := [.regs, .cnt, .mem, .poison, .draws, .fab, .mbx];
      (∀ (k : Fin 4) (full : Bool), touchesOnly parts (.mgmtSend k full)) ∧
      (∀ (p : Fin 16) (m : Msg), touchesOnly parts (.mgmtMsg p m))) ∧
  (let parts : List Part := [.regs, .cnt, .mem, .poison, .draws, .hif, .mbx];
      (∀ (n : Fin 4096) (v : BitVec 64) (whole : Bool), touchesOnly parts (.cqHeadDoorbell n v whole)) ∧
      (∀ (n : Fin 65536) (data : Option (List Byte)), touchesOnly parts (.descriptorFetch n data)) ∧
      (∀ (asq acq : Fin 32), touchesOnly parts (.adminRingsEnable asq acq) ∧ touchesOnly parts (.adminRingsDisable asq acq)) ∧
      (∀ (n : Fin 65536), touchesOnly parts (.nop n) ∧ touchesOnly parts (.createSq n) ∧ touchesOnly parts (.createCq n) ∧ touchesOnly parts (.deleteSq n) ∧ touchesOnly parts (.deleteCq n) ∧ touchesOnly parts (.query n) ∧ touchesOnly parts (.counterClear n) ∧ touchesOnly parts (.fpArm n)) ∧
      (∀ (n : Fin 65536) (data : List Byte), touchesOnly parts (.dmaH2d n data))) ∧
  (let parts : List Part := [.regs, .cnt, .mem, .poison, .draws, .frm, .hif, .mbx];
    (∀ (n : Fin 65536), touchesOnly parts (.quiesce n))) ∧
  (let parts : List Part := [.regs, .cnt, .mem, .poison, .draws, .frm, .variants, .mbx];
    (∀ (off : BitVec 40) (n : Fin 4097) (e : Ecc), touchesOnly parts (.bar4Read off n e))) ∧
  (let parts : List Part := [.regs, .cnt, .mem, .poison, .draws, .hif, .mbx, .flt];
    (∀ (n : Fin 65536) (data : List Byte), touchesOnly parts (.tpackLoad n data))) ∧
  (let parts : List Part := [.regs, .cnt, .mem, .poison, .draws, .variants, .hif, .mbx];
      (∀ (n : Fin 65536) (data : List Byte) (e : Ecc), touchesOnly parts (.fpLoad n data e)) ∧
      (∀ (n : Fin 65536), touchesOnly parts (.fpDiscard n))) ∧
  (let parts : List Part := [.regs, .cnt, .mem, .poison, .draws, .frm, .hif, .mbx, .sec];
      (∀ (n : Fin 65536) (data : List Byte), touchesOnly parts (.imageLoadUpdate n data)) ∧
      touchesOnly parts .updateStaged) ∧
  (let parts : List Part := [.regs, .cnt, .mem, .poison, .draws, .frm, .variants, .hif, .mbx];
    (∀ (n : Fin 65536) (sent : Nat) (e : Ecc), touchesOnly parts (.dmaD2h n sent e))) ∧
  (let parts : List Part := [.regs, .cnt, .mem, .poison, .draws, .frm, .variants, .pnd, .fab, .hif, .mbx];
    (∀ (n : Fin 65536) (e : Ecc), touchesOnly parts (.permute n e))) ∧
  (let parts : List Part := [.regs, .cnt, .mem, .poison, .draws, .frm, .variants, .num, .pnd, .hif, .mbx, .flt];
    (∀ (n : Fin 65536), touchesOnly parts (.run n))) ∧
  (let parts : List Part := [.regs, .cnt, .mem, .poison, .draws, .frm, .variants, .num, .pnd, .fab, .hif, .mbx, .flt];
    (∀ (n : Fin 65536), touchesOnly parts (.resume n))) ∧
  (let parts : List Part := [.regs, .cnt, .mem, .poison, .draws, .frm, .run, .rack, .kln, .red, .pnd, .fab, .hif, .mbx];
    (∀ (n : Fin 65536), touchesOnly parts (.stop n))) ∧
  (let parts : List Part := [.regs, .cnt, .latch, .mem, .poison, .draws, .frm, .run, .rack, .kln, .red, .hif, .mbx, .flt, .pwr];
    (∀ (off : BitVec 24) (whole : Bool) (e : Ecc) (bar2 : Bool), touchesOnly parts (.lowerHalfRead off whole e bar2))) ∧
  (let parts : List Part := [.regs, .cnt, .mem, .poison, .draws, .frm, .variants, .cells, .rack, .kln, .hif, .mbx, .flt, .pwr, .sec];
    (∀ (n : Fin 65536) (missed : List (Nat × Int)) (kiln : List KilnMeas) (fwBad certBad : Nat) (e : Ecc), touchesOnly parts (.program n missed kiln fwBad certBad e))) ∧
  (let parts : List Part := [.regs, .cnt, .mem, .lsEpoch, .poison, .draws, .frm, .variants, .kln, .red, .fab, .hif, .mbx, .flt, .pwr, .sec];
    (∀ (n : Fin 65536), touchesOnly parts (.hello n))) ∧
  (let parts : List Part := [.regs, .cnt, .mem, .split, .poison, .draws, .frm, .run, .rack, .kln, .red, .fab, .hif, .mbx, .pwr, .sec];
    (∀ (n : Fin 65536) (data : List Byte) (env : BootEnv), touchesOnly parts (.imageLoadBoot n data env))) ∧
  (let parts : List Part := [.regs, .cnt, .mem, .lsEpoch, .poison, .draws, .frm, .variants, .kln, .red, .fab, .hif, .mbx, .flt, .gau, .pwr, .sec];
    (∀ (off : BitVec 24) (whole : Bool) (v : BitVec 64), touchesOnly parts (.registerWrite off whole v))) ∧
  (let parts : List Part := [.regs, .cnt, .mem, .lsEpoch, .poison, .draws, .frm, .variants, .spg, .kln, .num, .red, .fab, .hif, .mbx, .flt, .pwr, .sec];
    (∀ (fwBad certBad : Nat) (e : Ecc), touchesOnly parts (.caskRead fwBad certBad e)))

/-- Sentinel checks, sticky bits, the watchdog, the events of power, the gauge, SPDM, IDE and the security lock (R401 to R475): each answers a next state, leaves the queue alone and changes no
part of the device but the listed ones. -/
def Obligations.GuardsTouchOnly : Prop :=
  (let parts : List Part := [.cnt];
      (∀ (ver : Byte), touchesOnly parts (.getDigests ver)) ∧
      (∀ (ver slot : Byte) (off len : BitVec 16), touchesOnly parts (.getCertificate ver slot off len)) ∧
      (∀ (session : BitVec 32), touchesOnly parts (.heartbeat session)) ∧
      (∀ (session : Option (BitVec 32)), touchesOnly parts (.ideKmQuery session)) ∧
      (∀ (code : Byte), touchesOnly parts (.spdmUnsupportedRequest code))) ∧
  (let parts : List Part := [.gau];
    touchesOnly parts .gauMonClr ∧ touchesOnly parts .gauMonClrAll) ∧
  (let parts : List Part := [.mbx];
    touchesOnly parts .vddioRestored) ∧
  (let parts : List Part := [.regs];
      (∀ (v : BitVec 64), touchesOnly parts (.stickyClear v)) ∧
      (∀ (g : Fin 2), touchesOnly parts (.refSettled g)) ∧
      (∀ (mon : BitVec 8), touchesOnly parts (.gauMonSel mon))) ∧
  (let parts : List Part := [.sec];
    (∀ (v : BitVec 32), touchesOnly parts (.secLock v))) ∧
  (let parts : List Part := [.cnt, .draws];
      (∀ (ver slot kind : Byte) (context : BitVec 64), touchesOnly parts (.challenge ver slot kind context)) ∧
      (∀ (ver attr op : Byte) (context : BitVec 64), touchesOnly parts (.getMeasurements ver attr op context))) ∧
  (let parts : List Part := [.cnt, .sec];
      touchesOnly parts .getVersion ∧
      (∀ (ver : Byte), touchesOnly parts (.getCapabilities ver)) ∧
      (∀ (ver : Byte) (asym hash : BitVec 32) (dhe aead : BitVec 16), touchesOnly parts (.negotiateAlgorithms ver asym hash dhe aead)) ∧
      (∀ (session : BitVec 32) (op tag : Byte), touchesOnly parts (.keyUpdate session op tag))) ∧
  (let parts : List Part := [.regs, .cnt];
      (∀ (m : Master) (v : Byte), touchesOnly parts (.wdogKick m v)) ∧
      (∀ (rate width : Fin 3), touchesOnly parts (.pcieLinkTraining rate width))) ∧
  (let parts : List Part := [.regs, .gau];
      (∀ (g : Fin 2) (r : BitVec 2), touchesOnly parts (.gauRefChange g r)) ∧
      (∀ (base : BitVec 32) (w : BitVec 5), touchesOnly parts (.gauMonCfg base w))) ∧
  (let parts : List Part := [.regs, .pwr];
    touchesOnly parts .thermalRelease) ∧
  (let parts : List Part := [.regs, .cnt, .gau];
      (∀ (g : Fin 2) (order : BitVec 3) (n : BitVec 15) (chan : BitVec 7) (fits : Bool), touchesOnly parts (.gauUrg g order n chan fits)) ∧
      (∀ (g : Fin 2) (v : BitVec 24), touchesOnly parts (.urgentDone g v)) ∧
      (∀ (l : Fin 4), touchesOnly parts (.scanPassDue l))) ∧
  (let parts : List Part := [.regs, .cnt, .sec];
      touchesOnly parts .ideIntegrityFail ∧
      (∀ (session : BitVec 32) (ok : Bool), touchesOnly parts (.finish session ok)) ∧
      (∀ (session : BitVec 32), touchesOnly parts (.endSession session)) ∧
      (∀ (session : Option (BitVec 32)) (stream : Byte) (set dir : Fin 2) (sub : Fin 3), touchesOnly parts (.keyProg session stream set dir sub)) ∧
      (∀ (session : Option (BitVec 32)) (set dir : Fin 2) (sub : Fin 3), touchesOnly parts (.kSetGo session set dir sub) ∧ touchesOnly parts (.kSetStop session set dir sub))) ∧
  (let parts : List Part := [.regs, .cnt, .draws, .sec];
    (∀ (ver slot kind : Byte) (reqSession : BitVec 16), touchesOnly parts (.keyExchange ver slot kind reqSession))) ∧
  (let parts : List Part := [.regs, .cnt, .frm, .pwr];
    (∀ (diode : Fin 56), touchesOnly parts (.thermalHold diode))) ∧
  (let parts : List Part := [.regs, .cnt, .hif, .mbx];
    (∀ (p : Fin 3), touchesOnly parts (.pciePowerState p))) ∧
  (let parts : List Part := [.regs, .cnt, .mbx, .gau];
    (∀ (on : Bool), touchesOnly parts (.gauPwr on))) ∧
  (let parts : List Part := [.regs, .draws, .cells, .rack, .pwr];
    touchesOnly parts .thermalTrip) ∧
  (let parts : List Part := [.regs, .cnt, .mem, .poison, .draws, .frm, .hif, .mbx];
    touchesOnly parts .wdogExpire) ∧
  (let parts : List Part := [.regs, .cnt, .mem, .poison, .draws, .kln, .mbx, .gau];
    (∀ (g : Fin 2) (v : BitVec 24), touchesOnly parts (.scanEntryDone g v))) ∧
  (let parts : List Part := [.regs, .cnt, .mem, .poison, .draws, .frm, .variants, .run, .red, .mbx, .flt];
    (∀ (b : Fin 32) (sub : Option (Fin 64)) (e : Ecc), touchesOnly parts (.tunCheck b sub e))) ∧
  (let parts : List Part := [.regs, .cnt, .mem, .poison, .draws, .frm, .run, .cells, .rack, .kln, .red, .fab, .hif, .mbx, .pwr];
    (∀ (rail : Fin 5), touchesOnly parts (.railFault rail))) ∧
  (let parts : List Part := [.regs, .cnt, .mem, .poison, .draws, .frm, .variants, .run, .late, .rack, .mxc, .num, .red, .mbx, .flt];
    (∀ (c : Fin 128) (e : Ecc), touchesOnly parts (.mxcCheck c e)))

/-! ### What single commands do -/

/-- R313: the fabric address of a coordinate, below the product of the sizes, and the coordinate found again from it. -/
def Obligations.FabricAddress : Prop :=
  ∀ p s d x P S D X : Nat, p < P → s < S → d < D → x < X →
    addrOf [p, s, d, x] [P, S, D, X] = p + P * (s + S * (d + D * x)) ∧
      addrOf [p, s, d, x] [P, S, D, X] < P * S * D * X ∧
      (P * S * D * X ≤ 2 ^ 12 → addrOf [p, s, d, x] [P, S, D, X] < 2 ^ 12) ∧
      coordOf (addrOf [p, s, d, x] [P, S, D, X]) [P, S, D, X] = [p, s, d, x]

/-- Every one-result lane instruction with MODE 0 writes, in each of the 64 lanes of a vector destination, its function of the lanes of its
sources as they stood before, and to a scalar destination that of lane 0; every other register keeps its value, and nothing but the vector unit of the cluster changes. -/
def Obligations.VectorLaneResults : Prop :=
  ∀ (c : Fin 128) (w : VWord) (s : State), s.dev.powered = true → w.mode = 0 →
    ∀ p ∈ ([(.vFma c w, f32Fma), (.vAdd c w, fun a b _ => f32Add a b), (.vMul c w, fun a b _ => f32Mul a b),
        (.vMax c w, fun a b _ => f32Max a b), (.vMin c w, fun a b _ => f32Min a b),
        (.vSel c w, fun a b x => f32Canon (if (f32 x).isZero then b else a)),
        (.vCmplt c w, fun a b _ => if (f32 a).lt (f32 b) then f32One else 0), (.vExp2 c w, fun a _ _ => f32Exp2 a),
        (.vRcp c w, fun a _ _ => f32Rcp a), (.vRsq c w, fun a _ _ => f32Rsq a),
        (.vLog2 c w, fun a _ _ => f32Log2 a)] : List (Instr × (Nat → Nat → Nat → Nat))),
      answers p.1 s fun e =>
        (∀ j < 64, e.src c w.dst.toNat j =
          (let i := if w.dst.toNat < 0xF0 then j else 0
          p.2 (s.dev.src c w.sa.toNat i) (s.dev.src c w.sb.toNat i) (s.dev.src c w.sc.toNat i) % 2 ^ 32)) ∧
        (∀ (k : Fin 128) (r j : Nat), r < 0x100 → j < 64 → (k ≠ c ∨ r ≠ w.dst.toNat) → e.src k r j = s.dev.src k r j) ∧
        (e.vecPos c).pc = (s.dev.vecPos c).pc + 1 ∧ s.dev.keepsBut [.mxc] e

/-- TWOSUM and TWOPROD write the pair of R169 to DST and DST + 1; FAST2SUM writes TWOSUM's pair where |a| ≥ |b| or a is 0, and in any case its
sum. A scalar of the pair takes lane 0; the code after 0xFF is 0 (log 53). -/
def Obligations.VectorPairResults : Prop :=
  ∀ (c : Fin 128) (w : VWord) (s : State), s.dev.powered = true → w.mode = 0 →
    (let r := w.dst.toNat
    let a := fun j => s.dev.src c w.sa.toNat j
    let b := fun j => s.dev.src c w.sb.toNat j
    let hi := fun j : Nat => if r < 0xF0 then j else 0
    let lo := fun j : Nat => if (r + 1) % 256 < 0xF0 then j else 0
    answers (.vTwosum c w) s (fun e => (∀ j < 64, e.src c r j = (twoSum (a (hi j)) (b (hi j))).1 % 2 ^ 32 ∧
        e.src c (r + 1) j = (twoSum (a (lo j)) (b (lo j))).2 % 2 ^ 32) ∧ s.dev.keepsBut [.mxc] e) ∧
      answers (.vTwoprod c w) s (fun e => (∀ j < 64, e.src c r j = (twoProd (a (hi j)) (b (hi j))).1 % 2 ^ 32 ∧
        e.src c (r + 1) j = (twoProd (a (lo j)) (b (lo j))).2 % 2 ^ 32) ∧ s.dev.keepsBut [.mxc] e) ∧
      answers (.vFast2sum c w) s fun e => (∀ j < 64, e.src c r j = (twoSum (a (hi j)) (b (hi j))).1 % 2 ^ 32 ∧
        (((f32 (a (lo j))).isZero || !(f32 (a (lo j))).abs.lt (f32 (b (lo j))).abs) = true →
          e.src c (r + 1) j = (twoSum (a (lo j)) (b (lo j))).2 % 2 ^ 32)) ∧
        s.dev.keepsBut [.mxc] e)

/-- RED_SUM, RED_MAX and RED_MIN without the EP32 bit combine lane j with lane j + 32, then j + 16, and so on to 1, and leave the result in
every lane of DST, or in a scalar (R210); KTH with k from 1 to 64 writes one value to every lane and changes nothing but the vector unit. -/
def Obligations.VectorReductions : Prop :=
  ∀ (c : Fin 128) (w : VWord) (s : State), s.dev.powered = true →
    (w.mode.toNat < 4 → ∀ p ∈ ([(.vRedSum c w, f32Add), (.vRedMax c w, f32Max), (.vRedMin c w, f32Min)] : List (Instr × (Nat → Nat → Nat))),
      answers p.1 s fun e =>
        (∀ j < 64, e.src c w.dst.toNat j =
          (laneTree (fun x y => (p.2 x.1 y.1, 0)) 6 ((List.range 64).map fun i => (s.dev.src c w.sa.toNat i, 0))).1 % 2 ^ 32) ∧
        s.dev.keepsBut [.mxc] e) ∧
    (w.mode = 0 → 1 ≤ s.dev.src c w.sb.toNat 0 → s.dev.src c w.sb.toNat 0 ≤ 64 →
      answers (.vKth c w) s fun e => (∀ j < 64, e.src c w.dst.toNat j = e.src c w.dst.toNat 0) ∧ s.dev.keepsBut [.mxc] e)

/-- LOOP opens a loop of as many passes as its scalar counts, or passes its body over at a count of 0; END goes back while passes are left, goes on
after the last, and outside every loop ends the program (R211). -/
def Obligations.VectorLoops : Prop :=
  ∀ (c : Fin 128) (w : VWord) (s : State), s.dev.powered = true → w.mode = 0 → (s.dev.vecPos c).skip = 0 →
    (let p := s.dev.vecPos c
    let n := s.dev.src c w.sa.toNat 0
    answers (.vLoop c w) s (fun e => s.dev.keepsBut [.mxc] e ∧ e.vecPos c =
        if n = 0 then { p with pc := p.pc + 1, skip := 1 } else { p with pc := p.pc + 1, loops := (p.pc + 1, n) :: p.loops }) ∧
      answers (.vEnd c w) s fun e => s.dev.keepsBut [.mxc] e ∧
        (p.loops = [] → e.vecPos c = { p with ended := true }) ∧
        (∀ f k ls, p.loops = (f, k) :: ls → e.vecPos c =
          if 1 < k then { p with pc := f, loops := (f, k - 1) :: ls } else { p with pc := p.pc + 1, loops := ls }))

/-- A reserved MODE stops the program: the error is counted, the instruction's index, the cluster and cause 9 stand in MXC_ERR_LAST, and no
register of the vector unit changes (R208). -/
def Obligations.ReservedModeStopsProgram : Prop :=
  ∀ (c : Fin 128) (w : VWord) (s : State), s.dev.powered = true → w.mode ≠ 0 →
    ∀ i ∈ [Instr.vFma c w, .vAdd c w, .vMul c w, .vMax c w, .vMin c w, .vSel c w, .vCmplt c w, .vExp2 c w, .vRcp c w, .vRsq c w, .vLog2 c w,
        .vTwosum c w, .vFast2sum c w, .vTwoprod c w, .vKth c w, .vRng c w, .vLoop c w, .vEnd c w],
      answers i s fun e =>
        (e.vecPos c).stopped = true ∧ e.count Cnt.VEC_INSN_ERR_CNT = min cntMax (s.dev.count Cnt.VEC_INSN_ERR_CNT + 1) ∧
        e.fld Reg.MXC_ERR_LAST_PC = (s.dev.vecPos c).pc % 2 ^ Reg.MXC_ERR_LAST_PC.w ∧ e.fld Reg.MXC_ERR_LAST_MXC = c.val ∧
        e.fld Reg.MXC_ERR_LAST_CAUSE = 9 ∧ e.mxc.vreg = s.dev.mxc.vreg ∧ e.mxc.sreg = s.dev.mxc.sreg ∧
        s.dev.fieldsBut [Reg.MXC_ERR_LAST_TASK, Reg.MXC_ERR_LAST_PC, Reg.MXC_ERR_LAST_CAUSE, Reg.MXC_ERR_LAST_MXC] e ∧
        s.dev.countsBut [Cnt.VEC_INSN_ERR_CNT] e ∧ s.dev.keepsBut [.regs, .cnt, .run, .mxc] e

/-- SPARGE_PERIOD fills the correction pool of its basin and leaves the other pools and everything else alone (R100). -/
def Obligations.SpargePeriodFillsPool : Prop :=
  ∀ (b : Fin 32) (s : State), s.dev.powered = true → answers (.spargePeriod b) s fun e =>
    e.pool b = poolFull ∧ (∀ k, k ≠ b.val → e.pool k = s.dev.pool k) ∧ e.spg.work = s.dev.spg.work ∧ e.spg.stats = s.dev.spg.stats ∧
      s.dev.keepsBut [.spg] e

/-- A pulse period counts one period of the Tun's round and marks the weights that its verify read finds at their targets; outside a round, after
the sixth period and once every weight has verified it changes nothing (R125). -/
def Obligations.PulsePeriodVerifies : Prop :=
  ∀ (b : Fin 32) (i : Fin 64) (v : BitVec 16) (s : State), s.dev.powered = true →
    (s.dev.round (64 * b + i) = none →
      exec (.pulsePeriod b i v) s = .next ⟨s.dev.quiet, s.pending⟩) ∧
    ∀ r, s.dev.round (64 * b + i) = some r →
      if r.period = 6 ∨ r.entries.all (·.verified) = true then
        exec (.pulsePeriod b i v) s = .next ⟨s.dev.quiet, s.pending⟩
      else answers (.pulsePeriod b i v) s fun e =>
        e.round (64 * b + i) = some ⟨verifyMarks v.toNat 0 r.entries, r.period + 1⟩ ∧ s.dev.keepsBut [.cells, .rack] e

/-- At the end of a KILN slot the Tun's working copy is no longer applied; every other Tun and everything else stays (R149). -/
def Obligations.KilnRestoreReleasesTrims : Prop :=
  ∀ (b : Fin 32) (i : Fin 64) (s : State), s.dev.powered = true → answers (.kilnRestore b i) s fun e =>
    (∀ t, t ∈ e.kln.applied ↔ t ∈ s.dev.kln.applied ∧ t ≠ 64 * b.val + i.val) ∧
      ({ e.kln with applied := s.dev.kln.applied } : Kln) = s.dev.kln ∧ s.dev.keepsBut [.kln] e

/-- No unit starts a slot unless the device is RUNNING and its program is not frozen (R58, R412): the command does no more than hand over what the memory reports. -/
def Obligations.SlotsStartOnlyRunning : Prop :=
  ∀ (u : UClass) (i : Fin 128) (k : Nat) (x : Ecc) (s : State), (s.dev.st ≠ DS.running ∨ s.dev.frm.frozen = true) →
    exec (.slotStart u i k x) s = .next ⟨if s.dev.powered then s.dev.quiet.ecc x else s.dev.quiet, s.pending⟩

/-- On a device other than the origin whose frames have missed MISS_MAX ticks and that is not held for it yet, HOLD_TICK is set, and a
RUNNING or LOADED program without a freeze freezes with cause 6 (R36). -/
def Obligations.MissedTicksHold : Prop :=
  ∀ s : State, s.dev.powered = true → s.dev.frm.origin = false → s.dev.ticking = true → s.dev.flag Reg.FRM_STATUS_HOLD_TICK = false →
    s.dev.tickCfg.missMax ≤ s.dev.frm.misses → answers .tickMissHold s fun e =>
      e.flag Reg.FRM_STATUS_HOLD_TICK = true ∧
      (s.dev.st = DS.running ∨ s.dev.st = DS.loaded → s.dev.frm.freezeDue = none → e.frm.freezeDue = some 6) ∧
      s.dev.fieldsBut [Reg.FRM_STATUS_HOLD_TICK, Reg.FRM_STATUS_TICK_STATE] e ∧ s.dev.keepsBut [.regs, .frm] e

/-- A frame without a tick opens on the flywheel, at the predicted start and with the next number, and is counted; with no tick waiting for its turn nothing else changes (R36). -/
def Obligations.FlywheelOpensFrame : Prop :=
  ∀ s : State, s.dev.powered = true → s.dev.frm.origin = false → s.dev.ticking = true → s.dev.frm.acquired = true →
    s.dev.frm.pending = none → s.dev.frm.backup = none → answers .flywheelStart s fun e =>
      e.frm.pending = some ⟨(s.dev.lastOpened.1 + 1) % 2 ^ 48, s.dev.prediction, 3, false⟩ ∧
      e.count Cnt.FRM_TICK_MISS_CNT = min cntMax (s.dev.count Cnt.FRM_TICK_MISS_CNT + 1) ∧
      s.dev.countsBut [Cnt.FRM_TICK_MISS_CNT, Cnt.FRM_TICK_LATE_CNT] e ∧ s.dev.keepsBut [.cnt, .frm] e ∧
      (s.dev.frm.early = [] → s.dev.countsBut [Cnt.FRM_TICK_MISS_CNT] e ∧
        ({ e.frm with pending := none } : Sys2Proof.Machine.Frm) = s.dev.frm)

/-- At either end of a live channel MBX_TX appends its word to the queue toward the other end where the word continues a message or its message fits;
a header whose message does not fit is counted and passed over with the words it announces, and those words are passed over too; MBX_RX removes the oldest
word of the queue toward the reader and answers it, and answers 0 from an empty queue and removes nothing (R372, R374). -/
def Obligations.MailboxWordsPass : Prop :=
  ∀ (m : Master) (n : Fin 64) (isA : Bool) (s : State), s.dev.powered = true → s.dev.dead n = false →
    s.dev.endOf n (masterId m) = some isA →
    (let q := s.dev.queue n isA
    ∀ w : BitVec 32, answers (.mbxTx m n w) s fun e =>
      e.queue n (!isA) = s.dev.queue n (!isA) ∧ s.dev.keepsBut [.cnt, .mbx] e ∧
      (q.skip = 0 → q.open_ ≠ 0 ∨ q.words.length + (msgLen w.toNat + 1) ≤ 8 → (e.queue n isA).words = q.words ++ [w.toNat]) ∧
      (q.skip = 0 → q.open_ = 0 → 8 < q.words.length + (msgLen w.toNat + 1) →
        (e.queue n isA).words = q.words ∧ (e.queue n isA).skip = msgLen w.toNat ∧
          e.count Cnt.MBX_FULL_CNT = min cntMax (s.dev.count Cnt.MBX_FULL_CNT + 1)) ∧
      (q.skip ≠ 0 → (e.queue n isA).words = q.words ∧ (e.queue n isA).skip = q.skip - 1)) ∧
    (let r := s.dev.queue n (!isA)
    (∀ x xs, r.words = x :: xs → answers (.mbxRx m n) s fun e =>
      e.out = [.data x] ∧ (e.queue n (!isA)).words = xs ∧ e.queue n isA = s.dev.queue n isA ∧ s.dev.keepsBut [.mbx] e) ∧
    (r.words = [] → answers (.mbxRx m n) s fun e =>
      e.out = [.data 0] ∧ e.queue n (!isA) = r ∧ e.queue n isA = s.dev.queue n isA ∧ s.dev.keepsBut [.mbx] e))

/-- An access by a master that is no end of the channel is refused: it is counted, MBX_DENIED is set and no queue changes (R380, R382). -/
def Obligations.MailboxRefusesStrangers : Prop :=
  ∀ (m : Master) (n : Fin 64) (w : BitVec 32) (s : State), s.dev.powered = true → s.dev.endOf n (masterId m) = none →
    ∀ i ∈ [Instr.mbxTx m n w, .mbxRx m n], answers i s fun e =>
      e.mbx.q = s.dev.mbx.q ∧ e.count Cnt.MBX_DENY_CNT = min cntMax (s.dev.count Cnt.MBX_DENY_CNT + 1) ∧
      e.flag Reg.FLT_STK0_MBX_DENIED = true ∧ s.dev.keepsBut [.regs, .cnt, .mem, .poison, .draws, .mbx] e

/-- A kick by a master that is no management core is denied and counted; 0xA5 from one, with the watchdog armed, starts its time anew; any other
value changes nothing (R411). -/
def Obligations.WatchdogKicks : Prop :=
  ∀ (m : Master) (v : Byte) (s : State), s.dev.powered = true →
    (isMgmt (masterId m) = false → exec (.wdogKick m v) s = .next ⟨s.dev.quiet.bump Cnt.FLT_WDOG_DENY_CNT, s.pending⟩) ∧
    (isMgmt (masterId m) = true → v = 0xA5 → s.dev.flag Reg.FLT_WDOG_STATUS_ARMED = true → answers (.wdogKick m v) s fun e =>
      e.fld Reg.FLT_WDOG_STATUS_REMAIN = 50 ∧ s.dev.fieldsBut [Reg.FLT_WDOG_STATUS_REMAIN] e ∧ s.dev.keepsBut [.regs] e) ∧
    (isMgmt (masterId m) = true → v ≠ 0xA5 → exec (.wdogKick m v) s = .next ⟨s.dev.quiet, s.pending⟩)

/-- A write to MEM_CFG in D0 is accepted only in AWAIT_IMAGE and within its range; in any other state it is ignored and counted (R332). -/
def Obligations.MemCfgOnlyInAwaitImage : Prop :=
  ∀ (v : BitVec 32) (s : State), s.dev.powered = true → s.dev.hif.power = 0 →
    (s.dev.st = DS.awaitImage → v.toNat % 64 ≤ 36 → answers (.memCfgWrite v) s fun e =>
      e.fld Reg.MEM_CFG_SPLIT = v.toNat % 64 ∧ s.dev.fieldsBut [Reg.MEM_CFG_SPLIT] e ∧ s.dev.keepsBut [.regs] e) ∧
    (s.dev.st ≠ DS.awaitImage → answers (.memCfgWrite v) s fun e =>
      e.count Cnt.MEM_CFG_REJ_CNT = min cntMax (s.dev.count Cnt.MEM_CFG_REJ_CNT + 1) ∧ s.dev.countsBut [Cnt.MEM_CFG_REJ_CNT] e ∧
      s.dev.keepsBut [.cnt] e)

/-- In D0, with no IDE block, a BAR4 write to a mapped range stores its bytes and changes no other byte; a write or a read of an unmapped range
is counted, and the read gives all ones; a read of a mapped range without a poisoned word gives its bytes (R333, R348). -/
def Obligations.Bar4Accesses : Prop :=
  ∀ (off : BitVec 40) (s : State), s.dev.powered = true → s.dev.hif.power = 0 → s.dev.ideBlocked = false →
    (let a := s.dev.bar4Addr off.toNat
    (∀ data : List Byte, s.dev.mapped a data.length = true → answers (.bar4Write off data) s fun e =>
      (∀ x, e.byte x = if a ≤ x ∧ x < a + data.length then data.getD (x - a) 0 else s.dev.byte x) ∧ s.dev.keepsBut [.mem, .poison] e) ∧
    (∀ data : List Byte, s.dev.mapped a data.length = false →
      exec (.bar4Write off data) s = .next ⟨s.dev.quiet.bump Cnt.MEM_UNMAPPED_CNT, s.pending⟩) ∧
    (∀ (n : Fin 4097) (e : Ecc), s.dev.mapped a n = false → answers (.bar4Read off n e) s fun x =>
      x.out = [.bytes (List.replicate n 0xFF)] ∧ x.count Cnt.MEM_UNMAPPED_CNT = min cntMax (s.dev.count Cnt.MEM_UNMAPPED_CNT + 1) ∧
      s.dev.countsBut [Cnt.MEM_UNMAPPED_CNT] x ∧ s.dev.keepsBut [.cnt] x) ∧
    (∀ n : Fin 4097, s.dev.mapped a n = true → s.dev.poisoned a n = [] →
      exec (.bar4Read off n ⟨[], []⟩) s = .next ⟨s.dev.quiet.emit (.bytes (s.dev.read a n)), s.pending⟩))

/-- In D0 an 8-byte write to DEV_SCRATCH is read back; a write at an offset that no field map defines and that is not of the MSI-X table, and a misaligned
one, change nothing (R12, R349, R478). -/
def Obligations.RegisterWrites : Prop :=
  ∀ (v : BitVec 64) (s : State), s.dev.powered = true → s.dev.hif.power = 0 →
    (answers (.registerWrite 0x18 true v) s fun e => e.fld Reg.DEV_SCRATCH_VALUE = v.toNat ∧
      s.dev.fieldsBut [Reg.DEV_SCRATCH_VALUE] e ∧ s.dev.keepsBut [.regs] e) ∧
    (∀ (off : BitVec 24) (whole : Bool), off.toNat % 8 = 0 → regAt off.toNat = none → inMsixTab off.toNat = false →
      exec (.registerWrite off whole v) s = .next ⟨s.dev.quiet, s.pending⟩) ∧
    (∀ off : BitVec 24, off.toNat % 8 ≠ 0 → exec (.registerWrite off true v) s = .next ⟨s.dev.quiet, s.pending⟩)

/-- A 4-byte read of the lower half of an 8-byte register gives its low word and latches the high one; the next 4-byte read of the upper half gives the
latched word, whatever the register holds by then, and clears the latch (R16). -/
def Obligations.SplitReadsAgree : Prop :=
  ∀ (off : BitVec 24) (s : State) (e : Ecc), s.dev.powered = true → s.dev.hif.power = 0 → off.toNat % 8 = 0 → off.toNat + 4 < 2 ^ 24 →
    wideSlot off.toNat = true → ¬ (0xD1000 ≤ off.toNat ∧ off.toNat < 0xD1400) → ¬ (0xE4000 ≤ off.toNat ∧ off.toNat < 0xF0000) →
    (answers (.lowerHalfRead off false e) s fun d =>
      d.out = [.data (s.dev.slotView off.toNat % 2 ^ 32)] ∧
      SMap.get (fun _ => none) d.latch off.toNat = some (s.dev.slotView off.toNat / 2 ^ 32) ∧ s.dev.keepsBut [.latch] d) ∧
    (∀ x, SMap.get (fun _ => none) s.dev.latch off.toNat = some x → answers (.lowerHalfRead (off + 4) false e) s fun d =>
      d.out = [.data x] ∧ SMap.get (fun _ => none) d.latch off.toNat = none ∧ s.dev.keepsBut [.latch] d)

/-- A selected monitor is copied to the snapshot registers and stays as it is; GAU_MON_CLR clears the selected one and GAU_MON_CLR_ALL all 130, keeping
their bins' base and width; a change of reference starts its settling, whose end REF_SETTLED clears (R429, R435, R436). -/
def Obligations.GaugeMonitorsAndReferences : Prop :=
  ∀ s : State, s.dev.powered = true →
    (∀ k : BitVec 8, k.toNat ≤ 129 → answers (.gauMonSel k) s fun e =>
      e.fld Reg.GAU_MON_SEL_MON = k.toNat ∧ e.fld Reg.GAU_MON_COUNT_COUNT = (s.dev.mon k.toNat).count % 2 ^ Reg.GAU_MON_COUNT_COUNT.w ∧
      s.dev.keepsBut [.regs] e) ∧
    (answers .gauMonClr s fun e =>
      (let i := s.dev.fld Reg.GAU_MON_SEL_MON
      e.mon i = freshMon (s.dev.mon i).base (s.dev.mon i).w ∧ (∀ j, j ≠ i → e.mon j = s.dev.mon j) ∧ s.dev.keepsBut [.gau] e)) ∧
    (answers .gauMonClrAll s fun e => (∀ i < 130, e.mon i = freshMon (s.dev.mon i).base (s.dev.mon i).w) ∧ s.dev.keepsBut [.gau] e) ∧
    (∀ (g : Fin 2) (r : BitVec 2), r.toNat < 3 → r.toNat ≠ s.dev.fld (Reg.GAU_CONV_REF g) → answers (.gauRefChange g r) s fun e =>
      e.fld (Reg.GAU_CONV_REF g) = r.toNat ∧ e.flag (Reg.GAU_STATUS_REF_SETTLING g) = true ∧
      s.dev.fieldsBut [Reg.GAU_CONV_REF g, Reg.GAU_STATUS_REF_SETTLING g] e ∧ s.dev.keepsBut [.regs, .gau] e) ∧
    (∀ g : Fin 2, answers (.refSettled g) s fun e => e.flag (Reg.GAU_STATUS_REF_SETTLING g) = false ∧
      s.dev.fieldsBut [Reg.GAU_STATUS_REF_SETTLING g] e ∧ s.dev.keepsBut [.regs] e)

/-- A diode at its HOLD level sets HOLD_ACTIVE and HOT and counts, and a RUNNING or LOADED program without a freeze freezes with cause 5; when
every diode is below its release level HOT is cleared (R453). -/
def Obligations.ThermalHoldFreezes : Prop :=
  ∀ (i : Fin 56) (s : State), s.dev.powered = true →
    (answers (.thermalHold i) s fun e =>
      e.flag Reg.PWR_THERM_STATUS_HOLD_ACTIVE = true ∧ e.flag Reg.PWR_STATUS_HOT = true ∧
      e.count Cnt.PWR_THERM_HOLD_CNT = min cntMax (s.dev.count Cnt.PWR_THERM_HOLD_CNT + 1) ∧ i.val ∈ e.pwr.hot ∧
      ((s.dev.st = DS.running ∨ s.dev.st = DS.loaded) → s.dev.frm.freezeDue = none → e.frm.freezeDue = some 5) ∧
      s.dev.fieldsBut [Reg.PWR_THERM_STATUS_HOLD_ACTIVE, Reg.PWR_THERM_STATUS_DIODE, Reg.PWR_STATUS_HOT] e ∧
      s.dev.countsBut [Cnt.PWR_THERM_HOLD_CNT] e ∧
      s.dev.keepsBut [.regs, .cnt, .frm, .pwr] e) ∧
    answers .thermalRelease s fun e => e.flag Reg.PWR_STATUS_HOT = false ∧ e.pwr.hot = [] ∧ s.dev.fieldsBut [Reg.PWR_STATUS_HOT] e ∧
      s.dev.keepsBut [.regs, .pwr] e

/-- POWER_ON ends the ROM stage in AWAIT_IMAGE, or in FAULT where its checks fail, with no byte of memory listed and no start counted but its own; PERST does so
in every state but OFF and takes the straps; POWER_LOSS leaves the device in OFF (R30, R440, R442, R492; logs 3 and 98). -/
def Obligations.PowerStarts : Prop :=
  (∀ (ok : Bool) (s : State), answers (.powerOn ok) s fun e =>
    e.st = (if ok then DS.awaitImage else DS.fault) ∧ e.mem = [] ∧ e.count Cnt.PWR_START_COLD_CNT = 1 ∧ e.powered = true) ∧
  (∀ (origin mode ok : Bool) (s : State), s.dev.st ≠ DS.off → answers (.perst origin mode ok) s fun e =>
    e.st = (if ok then DS.awaitImage else DS.fault) ∧ e.frm.origin = origin ∧ e.tpMode = mode ∧ e.powered = true) ∧
  (∀ (origin mode ok : Bool) (s : State), s.dev.st = DS.off →
    exec (.perst origin mode ok) s = .next ⟨s.dev.quiet, s.pending⟩) ∧
  (∀ s : State, answers .powerLoss s fun e => e.st = DS.off ∧ e.powered = false ∧ e.mem = [] ∧ ∀ c, e.count c = 0)

/-- The fuse floors of R466 never fall: no command lowers FW_MIN or CERT_MIN. -/
def Obligations.FuseFloorsNeverFall : Prop :=
  ∀ (c : Instr) (s : State), answers c s fun e => s.dev.sec.fwMin ≤ e.sec.fwMin ∧ s.dev.sec.certMin ≤ e.sec.certMin

/-- The straps STRAP_ORIGIN and TP_MODE are sampled by PERST alone: every other command, the starts among them, leaves them as they were (R30, R492; log 98). -/
def Obligations.StrapsSampledOnlyAtPerst : Prop :=
  ∀ (c : Instr) (s : State), (∀ origin mode ok, c ≠ .perst origin mode ok) →
    answers c s fun e => e.frm.origin = s.dev.frm.origin ∧ e.tpMode = s.dev.tpMode

/-- A device past ROM answers GET_VERSION with 1.3 alone and counts the request; a request of another version, and one out of order, is answered with
ERROR and counted as one; no session opens beyond two (R468, R469; log 105). -/
def Obligations.SpdmNegotiation : Prop :=
  ∀ s : State, s.dev.powered = true → DS.rom < s.dev.st →
    (answers .getVersion s fun e =>
      e.sec.phase = 1 ∧ e.out = [.spdm [0x10, 0x04, 0, 0, 0, 1, 0x00, 0x13]] ∧
      e.count Cnt.SEC_SPDM_REQ_CNT = min cntMax (s.dev.count Cnt.SEC_SPDM_REQ_CNT + 1) ∧ s.dev.keepsBut [.cnt, .sec] e) ∧
    (∀ (ver : Byte) (asym hash : BitVec 32) (dhe aead off len : BitVec 16) (slot kind attr op : Byte) (x : BitVec 64) (rs : BitVec 16),
      ver.toNat ≠ 0x13 ∨ s.dev.sec.phase = 0 →
      ∀ i ∈ [Instr.getCapabilities ver, .negotiateAlgorithms ver asym hash dhe aead, .getDigests ver, .getCertificate ver slot off len,
          .challenge ver slot kind x, .getMeasurements ver attr op x, .keyExchange ver slot kind rs],
        answers i s fun e => e.sec = s.dev.sec ∧
          e.count Cnt.SEC_SPDM_ERR_CNT = min cntMax (s.dev.count Cnt.SEC_SPDM_ERR_CNT + 1) ∧ s.dev.keepsBut [.cnt] e) ∧
    (∀ (ver slot kind : Byte) (rs : BitVec 16), 2 ≤ s.dev.sec.sessions.length → answers (.keyExchange ver slot kind rs) s fun e =>
      e.sec.sessions = s.dev.sec.sessions)

/-- A NOP, QUERY, CREATE_SQ, CREATE_CQ or COUNTER_CLEAR that passes every test of R357 in D0 writes, in the same command, a completion entry with its CID and the
status DONE at the present place of its completion ring (R353, Tables 14.4 and 14.5). -/
def Obligations.HostCommandsComplete : Prop :=
  ∀ (n : Fin 65536) (c : Cmd) (q : Cq) (s : State), s.dev.powered = true → s.dev.hif.power = 0 → s.dev.dispatches n c →
    s.dev.cq c.cq = some q →
    ∀ p ∈ ([(.nop n, 0x00), (.createSq n, 0x01), (.createCq n, 0x02), (.query n, 0x06), (.counterClear n, 0x07)] : List (Instr × Nat)),
      c.op = p.2 → answers p.1 s fun e => ∃ bytes, Out.hostWrite (q.base + 32 * q.pos) bytes ∈ e.out ∧
        bytes.take 7 = (cqEntry c.cid c.sq c.sqHead Status.done.code 0 0 0 0).take 7

/-- A step's token is formed once: at its event in the token frame it is formed, unless the device is barred from the token, and a
second event hands over what the memory reports and does nothing else (R265). -/
def Obligations.TokenFormedOnce : Prop :=
  ∀ (x : Ecc) (s : State), s.dev.powered = true →
    (s.dev.frm.tokenFormed = true → exec (.tokenForm x) s = .next ⟨s.dev.quiet.ecc x, s.pending⟩) ∧
    (s.dev.frm.tokenFormed = false → s.dev.tokenFrame = true → s.dev.tokenBarred = false → answers (.tokenForm x) s fun e =>
      e.frm.tokenFormed = true ∧ e.red.own.isSome = true)

/-! ### What each command does -/

/-- The origin, whose frames are timed: its timer's emission at or after the due time opens the next frame LEAD after the due time, an edge of TICK_IN
within the window opens it LEAD after the edge, and the end of the window without one opens it LEAD after the due time and counts; each emission
leaves on TICK_OUT with the next number. Before its due time the timer emits nothing (R30, R32, R57). -/
def Obligations.OriginEmitsTicks : Prop :=
  ∀ (now : Nat) (s : State), s.dev.powered = true → s.dev.frm.origin = true → s.dev.ticking = true → s.dev.frm.acquired = true →
    s.dev.frm.emitting = true → s.dev.frm.pending = none → s.dev.frm.queued = [] →
    (let c := s.dev.tickCfg
    let due := s.dev.frm.nextEmit
    let sent := fun (stamp : Nat) (e : Dev) =>
      Out.tickOut ∈ e.out ∧ e.frm.pending = some ⟨s.dev.frm.nextTick, stamp + c.leadTime, 1, false⟩ ∧
        e.frm.nextTick = (s.dev.frm.nextTick + 1) % 2 ^ 48 ∧ e.frm.lastEmit = stamp ∧ e.frm.nextEmit = stamp + s.dev.period ∧
        e.fld Reg.FRM_STATUS_TICK_STATE = 1 ∧ e.fld Reg.FRM_STATUS_TICK_SRC = 1
    (c.extSrc = false → due ≤ now → answers (.tickEmit now) s (sent due)) ∧
    (c.extSrc = false → now < due → exec (.tickEmit now) s = .next ⟨s.dev.quiet, s.pending⟩) ∧
    (c.extSrc = true → due ≤ now + c.window → now ≤ due + c.window → answers (.tickInEdge now) s (sent now)) ∧
    (c.extSrc = true → due + c.window ≤ now → answers (.tickWindowEnd now) s fun e =>
      sent due e ∧ e.count Cnt.FRM_TICK_MISS_CNT = min cntMax (s.dev.count Cnt.FRM_TICK_MISS_CNT + 1)))

/-- A tick that reaches a receiver is passed on once; on the primary upstream port, for a later frame and within the window of the prediction, it
opens that frame (R31, R34; with no other frame open). A frame_start takes the opened frame as the current one; in RUNNING, within a step and with no
slot left, it goes on to the step's next frame; at the frame of START_TICK a LOADED device, and at that of RESUME_TICK a QUIESCED one,
becomes RUNNING at frame 0 of a step (R46, R57, R360, R396). -/
def Obligations.FramesOpenAndStart : Prop :=
  ∀ s : State, s.dev.powered = true →
    (∀ (p : Fin 16) (m : Msg) (now delay : Nat), s.dev.hears p MT.tick (m.len == 16) m → s.dev.frm.origin = false →
      bit (rdLe m.body 6 1) 0 = false → answers (.tickMsg p m now delay) s fun e =>
        (let num := rdLe m.body 0 6
        let lead := s.dev.tickCfg.leadTime
        let acc := rdLe m.body 8 4
        num ∈ e.frm.forwarded ∧
          (s.dev.ticking = true → s.dev.frm.acquired = true → s.dev.upstream p 1 = true → s.dev.frm.pending = none → s.dev.frm.queued = [] →
            s.dev.frm.early = [] → s.dev.lastOpened.1 < num → s.dev.prediction ≤ now + lead - acc + s.dev.tickCfg.window →
            now + lead - acc ≤ s.dev.prediction + s.dev.tickCfg.window →
            e.frm.pending = some ⟨num, now + lead - acc, 1, decide (now + lead < now + acc)⟩))) ∧
    (∀ f : PendingFrame, s.dev.frm.pending = some f → s.dev.ticking = true → s.dev.frm.misses < s.dev.tickCfg.missMax →
      s.dev.frm.freezeDue = none →
      (∀ m : StepMeas, s.dev.st ≠ DS.running → s.dev.frm.startTick = none → s.dev.frm.resumeTick = none → answers (.frameStart m) s fun e =>
        e.frm.pending = s.dev.frm.queued.head? ∧ e.frm.frameStart = f.start ∧ e.frm.inFrame = true ∧ e.st = s.dev.st ∧
          e.fld Reg.FRM_TICK_NUM_NUM = f.num % 2 ^ 48 ∧ e.fld Reg.FRM_STATUS_TICK_SRC = f.src % 4) ∧
      (∀ m : StepMeas, s.dev.st = DS.running → s.dev.lastFrame = false → s.dev.run = [] → s.dev.flt.ledgerFault = false →
        answers (.frameStart m) s fun e =>
          e.fld Reg.FRM_STEP_POS_FRAME = (s.dev.fld Reg.FRM_STEP_POS_FRAME + 1) % 2 ^ Reg.FRM_STEP_POS_FRAME.w ∧ e.frm.begun = [] ∧
            e.frm.frameStart = f.start ∧ e.st = DS.running) ∧
      (s.dev.frm.startTick = some f.num → s.dev.st = DS.loaded → s.dev.frm.resumeTick = none → s.dev.flag Reg.FLT_WDOG_STATUS_FROZEN = false →
        answers .startTickReached s fun e =>
          e.st = DS.running ∧ e.frm.stepOpen = true ∧ e.frm.startTick = none ∧ e.fld Reg.FRM_STEP_POS_FRAME = 0) ∧
      (s.dev.frm.resumeTick = some f.num → s.dev.frm.startTick = none → s.dev.st = DS.quiesced → s.dev.fld Reg.MBX_STATUS_FW = 1 →
        s.dev.flag Reg.FLT_WDOG_STATUS_FROZEN = false → answers .updateResume s fun e =>
          e.st = DS.running ∧ e.frm.stepOpen = true ∧ e.frm.resumeTick = none ∧ e.fld Reg.FRM_STEP_POS_FRAME = 0))

/-- In RUNNING with an unfrozen program, a slot of a unit that is free and in table order begins, on whatever words the memories report, and stands
as begun in the frame (R27, R46). A task whose items are done completes inside its slot (R50); the end of a slot frees the unit, leaves a completed task as it was, and stops an unfinished one, which
overruns its frame (R48, R51). -/
def Obligations.SlotsRunTasks : Prop :=
  ∀ s : State, s.dev.powered = true →
    (∀ (u : UClass) (i : Fin 128) (k : Nat) (x : Ecc) (sl : Slot), s.dev.st = DS.running → s.dev.frm.frozen = false →
      (s.dev.slots (classCode u) i)[k]? = some sl → s.dev.slotBusy (classCode u) i sl = false → s.dev.inOrder (classCode u) i k sl = true →
      answers (.slotStart u i k x) s fun e =>
        (∃ r, e.running? (unitKey (classCode u) i (if u = .basin then sl.sub else 0)) = some r ∧ r.slot = sl) ∧
          (classCode u * 256 + i.val, k) ∈ e.frm.begun) ∧
    (∀ (u : UClass) (i : Fin 128) (sub : Option (Fin 64)) (r : Running), s.dev.running? (unitKey (classCode u) i (subCode u sub)) = some r →
      (∀ q : Nat, r.complete = false → r.eligible (classCode u) = true → s.dev.taskDone (classCode u) i r = true → r.slot.start ≤ q →
        q ≤ r.slot.stop → answers (.taskComplete u i sub q) s fun e =>
          e.running? (unitKey (classCode u) i (subCode u sub)) = some { r with complete := true, done := r.total }) ∧
      answers (.slotEnd u i sub) s fun e =>
        e.running? (unitKey (classCode u) i (subCode u sub)) = none ∧
          (r.complete = true → r.slot.kind ≠ 4 → r.slot.kind ≠ 5 → s.dev.keepsBut [.run] e) ∧
          (r.complete = false → r.slot.kind = 1 ∨ r.slot.kind = 2 → r.eligible (classCode u) = true →
            s.dev.taskDone (classCode u) i r = false → e.frm.overran = true))

/-- The Tun sequencer reads the record of the first vector of a task, reads the record of the next one before the first phase, converts one phase
of the vector in flight, and after its last phase the vector is done (Table 3.3). The sparge unit corrects the oldest covered vector and
writes its counts (R87). A full monitor window closes and its statistics are published, but not under calibration (R77, R78). -/
def Obligations.TunsConvertAndCorrect : Prop :=
  ∀ s : State, s.dev.powered = true →
    (∀ (b : Fin 32) (sub : Option (Fin 64)) (x : Ecc) (r : Running),
      (let sc := match sub with | some i => i.val | none => 0xFF
      let key := unitKey 1 b sc
      s.dev.running? key = some r → r.slot.kind = 1 → r.failed = false → r.complete = false → r.idle = false → r.done < r.total →
      (r.fly = none → s.dev.vectorOk b sc r.done r = true → answers (.fwd b sub 1 x) s fun e =>
        ∃ q y, e.running? key = some q ∧ q.fly = some y ∧ y.vec = r.done ∧ y.phases = 0 ∧ q.done = r.done) ∧
      (∀ y, r.fly = some y → y.phases = 0 → y.next = none → y.vec + 1 < r.total → s.dev.vectorOk b sc (y.vec + 1) r = true →
        answers (.fwd b sub 1 x) s fun e => ∃ q z, e.running? key = some q ∧ q.fly = some { y with next := some z } ∧ q.done = r.done) ∧
      (∀ y, r.fly = some y → (0 < y.phases ∨ y.next.isSome = true ∨ r.total ≤ y.vec + 1) → answers (.fwd b sub 1 x) s fun e =>
        ∃ q, e.running? key = some q ∧
          (y.phases + 1 < (parseFwd r.desc).groups.length → q.done = r.done ∧ ∃ z, q.fly = some z ∧ z.vec = y.vec ∧ z.phases = y.phases + 1) ∧
          ((parseFwd r.desc).groups.length ≤ y.phases + 1 → q.done = y.vec + 1 ∧ q.fly.isSome = y.next.isSome)))) ∧
    (∀ (b : Fin 32) (x : Ecc) (v : List CoverItem) (rest : List (List CoverItem)), s.dev.work b = v :: rest → (s.dev.spargeSlot b).isSome = true →
      answers (.cover b 1 x) s fun e => e.work b = rest ∧
        ∀ it, v = [it] → e.rd (it.corrAddr + 0x800) 2 = it.outliers.length % 2 ^ 16 ∧ e.rd (it.corrAddr + 0x804) 2 = it.sats.length % 2 ^ 16) ∧
    (∀ (t : Fin 2048) (w : RmWindow) (rest : List RmWindow), (s.dev.monitor t).full = w :: rest →
      (s.dev.stale t = true → exec (.rmWindowClose t) s = .next ⟨s.dev.quiet, s.pending⟩) ∧
      (s.dev.stale t = false → answers (.rmWindowClose t) s fun e => (e.monitor t).full = rest ∧
        ∃ st, SMap.get (fun _ => none) e.rmStats t = some st ∧ st.minCode = w.minCode ∧ st.maxCode = w.maxCode ∧ st.hist = w.hist ∧
          ∀ old, SMap.get (fun _ => none) s.dev.rmStats t = some old → st.seq = (old.seq + 1) % 2 ^ 16))

/-- A pulse round starts on the eligible queue entries, where a RACK slot and the bank allow it, and moves the queue's place on; its end counts it and sets each cell of
the round to its final level (R125, R128). FOLD_COMPLETE empties the bank of its basin and ends its fold, and does nothing for a basin that does not fold (R131). A unit from
1 to 16 of a MEASURED calibration takes the measured codes and goes on to the next unit (Table 6.3). A request leaves the greater of the pending and the wanted
kind of run in every basin it names and no other (R147). A Tun check completes its SENTINEL slot (R402). -/
def Obligations.ArraysRackAndCalibrate : Prop :=
  ∀ s : State, s.dev.powered = true →
    (∀ (b : Fin 32) (i : Fin 64),
      (let t := 64 * b.val + i.val
      (∀ (now : Nat) (x : Ecc) (r : Running), s.dev.slotFor b i 3 = some r → s.dev.roundAllowed r t now = true → s.dev.pendCount t + 16 ≤ 1024 →
        (let p := s.dev.pickEntries t 65552 16 (s.dev.queueCursor t)
        p.1 ≠ [] → answers (.pulseRound b i now x) s fun e => e.round t = some ⟨p.1, 0⟩ ∧ e.queueCursor t = p.2.2)) ∧
      (∀ (levels : List Int) (r : PulseRound), s.dev.round t = some r → (r.period = 6 ∨ r.entries.all (·.verified) = true) →
        answers (.pulseRoundEnd b i levels) s fun e =>
          e.round t = none ∧ e.count Cnt.TUN_RACK_ROUND_CNT = min cntMax (s.dev.count Cnt.TUN_RACK_ROUND_CNT + 1) ∧
            ((r.entries.map fun x => (x.row, x.col)).Nodup → (∀ x ∈ r.entries, x.row < 512 ∧ x.col < 512) →
              ∀ p ∈ finalLevels r.entries levels, e.cell t p.1.row p.1.col = p.2)) ∧
      (∀ (now : Nat) (m : KilnMeas) (x : Ecc) (sl : Running) (r : KilnRun) (u : Nat),
        (let stopped := (s.dev.kln.blocked.filter fun t => t / 64 == b.val).map fun t => t % 64
        s.dev.slotFor b i 4 = some sl → s.dev.kilnRun b = some r → s.dev.tunUnit b i r = (u, true) → 1 ≤ u → u ≤ 16 → i.val ∉ r.done → i.val ∉ stopped →
          (sl.slot.sub ≠ 0xFF ∨ r.next stopped = some i.val) → s.dev.frm.frozen = false → now + 250 ≤ sl.slot.stop → (s.dev.ecc x).unitReads t = [] →
          answers (.kilnUnit b i now m x) s fun e =>
            (∀ c < 512, e.working t c = m.gains.getD c (s.dev.working t c)) ∧ e.working t (1040 + (u - 1)) = min 63 m.reference ∧
              ∃ q, e.kilnRun b = some q ∧ (i.val, u + 1, true) ∈ q.part ∧ q.done = r.done)))) ∧
    (∀ (b : Fin 32) (x : Ecc), if b.val ∈ s.dev.rack.folding then
        answers (.foldComplete b x) s fun e => b.val ∉ e.rack.folding ∧ ∀ i < 64, SMap.get (fun _ => 0) e.rack.foldPend (64 * b.val + i) = 0
      else exec (.foldComplete b x) s = .next ⟨s.dev.quiet.ecc x, s.pending⟩) ∧
    (∀ v : BitVec 32,
      (let asked := fun (want : Nat) (e : Dev) => ∀ b < 32, e.fld (Reg.KLN_STATUS_PENDING b) =
        if v.getLsbD b then max (s.dev.fld (Reg.KLN_STATUS_PENDING b)) want else s.dev.fld (Reg.KLN_STATUS_PENDING b)
      answers (.klnReqInterp v) s (asked 1) ∧ answers (.klnReqMeasured v) s (asked 2))) ∧
    ∀ (b : Fin 32) (sub : Option (Fin 64)) (x : Ecc) (r : Running) (y : SentEntry),
      (let key := unitKey 1 b (match sub with | some i => i.val | none => 0xFF)
      s.dev.sentSlot key = some r → s.dev.sentEntry 1 b = some y → answers (.tunCheck b sub x) s fun e =>
        e.running? key = some { r with complete := true, done := r.total })

/-- A task of a matrix cluster does up to n further items, whatever words the memories report, and stays as it was otherwise (R189, R195); LR_FIT does all of its
items and, for a layer with a rank, has its fit ready for the next fold (R135, R217). On sound memory MOVE copies the next 4 KiB, GATHER the next row, MATMUL without a companion
writes the cells of its next patch and ASSEMBLE the columns of its next vector; a program whose first word is END ends with its task done (R193, R198, R211). A matrix check completes its SENTINEL slot (R401). -/
def Obligations.MatrixTasksAdvance : Prop :=
  ∀ (c : Fin 128) (s : State), s.dev.powered = true →
    (let key := unitKey 2 c 0
    let goesOn := fun (r : Running) (k : Nat) (e : Dev) =>
      ∃ q, e.running? key = some q ∧ q.done = r.done + k ∧ q.total = r.total ∧ q.desc = r.desc ∧ q.slot = r.slot
    (∀ (n : Nat) (x : Ecc) (r : Running),
      (∀ p ∈ ([(0x12, .move c n x), (0x13, .gather c n x), (0x30, .assemble c n x), (0x31, .bwdWot c n x), (0x40, .attnFwd c n x),
          (0x41, .attnBwd c n x), (0x50, .normBwd c n x), (0x58, .tiesum c n x), (0x60, .compare c n x)] : List (Nat × Instr)),
        s.dev.mxcTask c p.1 = some r → answers p.2 s (goesOn r (min n (r.total - r.done)))) ∧
      (s.dev.mxcTask c 0x10 = some r → s.dev.companion c (parseMat r.desc) = none →
        answers (.matmul c n x) s (goesOn r (min n (r.total - r.done)))) ∧
      (s.dev.mxcTask c 0x61 = some r → answers (.lrFit c x) s fun e => goesOn r (r.total - r.done) e ∧
        ∀ y, s.dev.layerEntry (parseKer r.desc).layer = some y → y.lrRank ≠ 0 →
          (parseKer r.desc).par 4 ∉ e.rack.fitDue ∧ ∃ bs, ((parseKer r.desc).par 4, (parseKer r.desc).par 5, bs) ∈ e.rack.fitReady)) ∧
    (∀ r : Running, s.dev.sound →
      (let x := parseKer r.desc
      let m := parseMat r.desc
      (s.dev.mxcTask c 0x12 = some r → answers (.move c 1 Ecc.clean) s fun e => ∀ k < 4096, 4096 * r.done + k < x.par 2 →
        e.byte (x.par 1 + 4096 * r.done + k) = s.dev.byte (x.par 0 + 4096 * r.done + k)) ∧
      (s.dev.mxcTask c 0x13 = some r → answers (.gather c 1 Ecc.clean) s fun e => ∀ k < x.par 2,
        e.byte (x.par 3 + r.done * x.par 2 + k) = s.dev.byte (x.par 0 + s.dev.rd (x.par 1 + 4 * r.done) 4 * x.par 2 + k)) ∧
      (s.dev.mxcTask c 0x30 = some r → r.done + 1 < r.total → answers (.assemble c 1 Ecc.clean) s fun e => ∀ col < x.par 1 % 65536,
        e.rd (x.par 3 + r.done * lo32 (x.par 4) + 4 * col) 4 = s.dev.assembleCol x r.done col % 2 ^ 32) ∧
      (s.dev.mxcTask c 0x10 = some r → s.dev.companion c m = none → r.done + 1 < r.total → answers (.matmul c 1 Ecc.clean) s fun e =>
        ∀ q ∈ m.patchCells r.done, e.rd (m.cAddr + 4 * (q.1 * m.n + q.2)) 4 = s.dev.matElem m q.1 q.2 % 2 ^ 32) ∧
      (s.dev.mxcTask c 0x20 = some r → inMxc c (x.par 0) 8 = true → (parseWord (s.dev.rd (x.par 0) 8)).1 = 0x3F →
        (parseWord (s.dev.rd (x.par 0) 8)).2.mode = 0 → answers (.vprog c Ecc.clean) s fun e =>
          goesOn r (r.total - r.done) e ∧ (e.vecPos c).ended = true))) ∧
    ∀ (x : Ecc) (r : Running) (y : SentEntry), s.dev.sentSlot key = some r → s.dev.sentEntry 2 c = some y →
      answers (.mxcCheck c x) s fun e => e.running? key = some { r with complete := true, done := r.total })

/-- CVT of a register of FP32 values into BF16 or FP16 rounds each lane by RM, with the seed and the index of the element in the destination (R172, R173); CVT.TUNIN
writes s_in and the code of each element, 8 for an s_in that is not fit, which has no outliers (R179); RNG writes the four words of the
generator for the lane's index (R212); LD and GLD load each lane that reaches the window; ST stores DST's lanes there, the highest lane
last, and changes no other byte (Table 8.7). The program goes on to the next instruction. -/
def Obligations.VectorConvertsAndMemory : Prop :=
  ∀ (c : Fin 128) (w : VWord) (s : State), s.dev.powered = true →
    (let v := fun (r : BitVec 8) (j : Nat) => s.dev.src c r.toNat j
    let next := fun (e : Dev) => (e.vecPos c).pc = (s.dev.vecPos c).pc + 1
    (∀ (m : CvtMode) (x : Ecc), cvtMode w = some m → m.srcF = .fp32 → m.dstF = .bf16 ∨ m.dstF = .fp16 → w.dst.toNat < 0xF0 → v w.sc 0 = 0 →
      answers (.vCvt c w x) s fun e => next e ∧ ∀ j < 64, e.src c w.dst.toNat j =
        (roundInto m.dstF (rmOf m.rm (s.dev.seed c) (64 * s.dev.issues c w.dst.toNat + j)) m.spec
          (decode .fp32 (v w.sa j % 2 ^ 32))).code % 2 ^ 32) ∧
    (∀ (m : CvtMode) (x : Ecc), cvtMode { w with mode := (w.mode &&& 0x0FFFFF#24) ||| 0xB00000#24 } = some m → m.srcF = .fp32 →
      v w.dst 0 ≤ 1024 → inMxc c (mxcBase c + v w.sc 0) (16 + 512 + 8 * 1024 + 64) = true → answers (.vCvtTunin c w x) s fun e => next e ∧
        (let a := mxcBase c + v w.sc 0
        e.rd a 4 = v w.sb 0 % 2 ^ 32 ∧ (tunScaleOk (v w.sb 0) = false → e.rd (a + 4) 2 = 0) ∧
          ∀ i < v w.dst 0, e.inCode a i = if tunScaleOk (v w.sb 0) then
            (tunInElem (rmOf m.rm (s.dev.seed c) i) (decode .fp32 (s.dev.src c (w.sa.toNat + i / 64) (i % 64) % 2 ^ 32)) (v w.sb 0)).1 % 16 else 8)) ∧
    (w.mode = 0 → w.dst.toNat < 0xED → answers (.vRng c w) s fun e => next e ∧ ∀ j < 64,
      (let g := philox (s.dev.seed c) (v w.sa j + 2 ^ 32 * v w.sb j)
      let r := w.dst.toNat
      e.src c r j = g.1 % 2 ^ 32 ∧ e.src c (r + 1) j = g.2.1 % 2 ^ 32 ∧ e.src c (r + 2) j = g.2.2.1 % 2 ^ 32 ∧
        e.src c (r + 3) j = g.2.2.2 % 2 ^ 32)) ∧
    (w.dst.toNat < 0xF0 → ∀ x : Ecc,
      answers (.vLd c w x) s (fun e => next e ∧ ∀ j < 64, ∀ a, laneAddr c (v w.sa j) (v w.sb j) j (modeOff w) = some a →
        e.src c w.dst.toNat j = s.dev.rd a 4) ∧
      answers (.vGld c w x) s fun e => next e ∧ ∀ j < 64, ∀ a, laneAddr c (v w.sa j) (v w.sb j) (v w.sc j) (modeOff w) = some a →
        e.src c w.dst.toNat j = s.dev.rd a 4) ∧
    ∀ x : Ecc, answers (.vSt c w x) s fun e => next e ∧
      (let lane := fun j => laneAddr c (v w.sa j) (v w.sb j) j (modeOff w)
      (∀ j < 64, ∀ a, lane j = some a → (∀ k < 64, j < k → ∀ b, lane k = some b → a + 4 ≤ b ∨ b + 4 ≤ a) →
        e.rd a 4 = v w.dst j % 2 ^ 32) ∧
      (∀ y, (∀ j < 64, ∀ a, lane j = some a → y < a ∨ a + 4 ≤ y) → e.byte y = s.dev.byte y) ∧ e.mxc.vreg = s.dev.mxc.vreg))

/-- The reduction engine, whatever words the memories report: an RS, FETCH or AG item of the position that begins a ring is done at once, and so is one of the last of an AG; a PRE_X item
of the first is sent toward its owner; the next packet of the own notice is sent; a replay without a faulted bucket is done, and the first position of a faulted bucket's ring goes on to its
next packet. Packets of this run and epoch that are in time wait for their task (R247 to R264), under their kind and axis; at the
deadline the awaited ones are past (R261). -/
def Obligations.ReductionAdvances : Prop :=
  ∀ s : State, s.dev.powered = true →
    (∀ (x : Ecc) (r : Running),
      (let y := parseRed r.desc
      let oneDone := fun (e : Dev) => ∃ q, e.running? redKey = some q ∧ q.done = r.done + 1 ∧ q.total = r.total
      (s.dev.redTask 0x90 = some r → y.first = true → answers (.rs x) s oneDone) ∧
      (s.dev.redTask 0x95 = some r → y.first = true → answers (.fetch x) s oneDone) ∧
      (s.dev.redTask 0x91 = some r → (y.first || y.last) = true → answers (.ag x) s oneDone) ∧
      (s.dev.redTask 0x92 = some r → y.first = true → y.last = false →
        (axisKey y.axis (y.bucket + r.done / 2), r.done % 2) ∉ s.dev.red.preSent → answers (.preX x) s fun e =>
          (axisKey y.axis (y.bucket + r.done / 2), r.done % 2) ∈ e.red.preSent) ∧
      (s.dev.redTask 0x93 = some r → s.dev.red.noticeSent < 1 + 2 * (s.dev.ownNamed y.axis).length → answers (.notice x) s fun e =>
        e.red.noticeSent = s.dev.red.noticeSent + 1) ∧
      (s.dev.redTask 0x94 = some r → s.dev.red.replayPkt = 0 →
        (s.dev.faulted y.axis).find? (fun b => y.bucket ≤ b && !s.dev.red.taken.contains (axisKey y.axis b)) = none →
        answers (.replay x) s fun e => ∃ q, e.running? redKey = some q ∧ q.done = r.total) ∧
      (∀ b, s.dev.redTask 0x94 = some r → s.dev.red.replayPkt = 0 →
        (s.dev.faulted y.axis).find? (fun b => y.bucket ≤ b && !s.dev.red.taken.contains (axisKey y.axis b)) = some b →
        s.dev.ringPos y.axis = (b + 1) % s.dev.ringSize y.axis → answers (.replay x) s fun e =>
          axisKey y.axis b ∈ e.red.taken ∧ e.red.replayPkt = if 1 < y.packets then 1 else 0))) ∧
    (∀ (p : Fin 16) (m : Msg) (t : Nat), s.dev.receives p MT.reduce (m.len == 4232) m →
      rdLe m.body 0 1 = s.dev.fld Reg.RED_STEP_STATE_REPEATS → bit m.flags.toNat 0 = false → s.dev.running? redKey = none → s.dev.red.past = false →
      (let k := parsePkt (m.body.drop 8)
      let axis := s.dev.srcAxis m.src.toNat
      ∀ q ∈ ([(.reduceMsg p m t, if bit (rdLe m.body 23 1) 0 then 4 else 0), (.agRx p m t, 1), (.fetchRx p m t, 5), (.preXRx p m t, 2),
          (.noticeRx p m t, 3)] : List (Instr × Nat)),
        (q.2 = 1 ∨ q.2 = 5 ∨ k.epoch = s.dev.epoch) → s.dev.pktName (q.2 + 8 * axis) k ∉ s.dev.red.absent →
        s.dev.pktName (q.2 + 8 * axis) k ∉ s.dev.red.absentNext → answers q.1 s fun e =>
          e.red.inbox = s.dev.red.inbox ++ [(q.2 + 8 * axis, t, m.body.drop 8)] ∧ s.dev.keepsBut [.red] e)) ∧
    answers .packetDeadline s fun e => e.red.past = true

/-- In the token frame a child's token is kept by its port until the device has sent its own on, and counts as late after that or in another frame (R266); at its deadline a
device sends what it has, or nothing where it is barred (R266, R282); the origin decides at its deadline and holds the result, with HOLD where devices are missing (R267). The
first copy of a result that fits the step is held, one that does not counts, and a further copy changes nothing (R267, R268). PARENT makes
its port a child of the tree. -/
def Obligations.TokensAndResultsMeet : Prop :=
  ∀ s : State, s.dev.powered = true →
    (∀ (p : Fin 16) (m : Msg),
      (s.dev.hears p MT.token (tokenLenOk m) m →
        (s.dev.tokenFrame = true → s.dev.red.sent = false → answers (.tokenMsg p m) s fun e => (p.val, parseToken m.body) ∈ e.red.tokens) ∧
        (s.dev.tokenFrame = false ∨ s.dev.red.sent = true →
          exec (.tokenMsg p m) s = .next ⟨s.dev.quiet.bump Cnt.RED_TOKEN_LATE_CNT, s.pending⟩)) ∧
      (s.dev.hears p MT.result (tokenLenOk m) m →
        (let t := parseToken m.body
        let fits := s.dev.tokenFrame && t.epoch == s.dev.epoch && t.repeats == s.dev.fld Reg.RED_STEP_STATE_REPEATS
        if s.dev.seenResult t then exec (.resultMsg p m) s = .next ⟨s.dev.quiet, s.pending⟩
        else answers (.resultMsg p m) s fun e => (t.epoch, t.repeats) ∈ e.red.seen ∧
          (fits = true → e.red.result = some t) ∧
          (fits = false → e.red.result = s.dev.red.result ∧
            e.count Cnt.RED_TOKEN_LATE_CNT = min cntMax (s.dev.count Cnt.RED_TOKEN_LATE_CNT + 1)))) ∧
      (s.dev.hears p MT.parent (m.len == 8) m → answers (.parentMsg p m) s fun e =>
        e.fld Reg.RED_TREE_CHILDREN = setBit (s.dev.fld Reg.RED_TREE_CHILDREN) p % 2 ^ Reg.RED_TREE_CHILDREN.w ∧ s.dev.keepsBut [.regs] e)) ∧
    (s.dev.tokenFrame = true → s.dev.red.sent = false →
      (s.dev.frm.origin = false → answers .tokenForwardDeadline s fun e =>
        e.red.sent = true ∧ (s.dev.tokenBarred = true → e.out = [])) ∧
      (s.dev.frm.origin = true → answers .tokenDecideDeadline s fun e => e.red.sent = true ∧
        ∀ t, s.dev.combined = some t → t.epoch = s.dev.epoch → t.repeats = s.dev.fld Reg.RED_STEP_STATE_REPEATS →
          e.red.result = some { t with hold := t.hold || decide (t.count < s.dev.fld Reg.RED_TREE_DEVICES) }))

/-- A SEND item with its credit, or of a STORE barge, is done, and the first of a barge takes a credit; without one the barge waits (R281). A HOST_PUT item writes its bytes to the host and a
HOST_GET item the host's bytes to memory; a host transfer's error is counted and clears OK (R286). A barge segment that continues the one in hand is written at its place; one of another
epoch or run is discarded, counted with its first segment (R279). Buffers that are due are released (R280), a CREDIT of this run raises the credits up to the pound's buffers (R281), a PERM_ACK
acknowledges its move and a timeout ends the permute (R289). -/
def Obligations.PoundsAndHostTransfers : Prop :=
  ∀ s : State, s.dev.powered = true →
    (∀ (p : Fin 16) (x : Ecc) (r : Running) (b : BargeDesc) (k : Nat) (en : PoundEntry), s.dev.running? (portKey p) = some r → r.failed = false →
      r.idle = false → s.dev.frm.frozen = false → r.done < r.total → (s.dev.barges (parseSend r.desc))[(s.dev.sendPos p).barge]? = some b →
      s.dev.txEntry b.pound b.dest = some (k, en) →
      (b.kind = 5 ∨ (s.dev.sendPos p).credit = true ∨ (s.dev.txPound k en).credits ≠ 0 → answers (.send p 1 x) s fun e =>
        (∃ q, e.running? (portKey p) = some q ∧ q.done = r.done + 1) ∧
          (b.kind ≠ 5 → (s.dev.sendPos p).credit = false → (e.txPound k en).credits = (s.dev.txPound k en).credits - 1)) ∧
      (b.kind ≠ 5 → (s.dev.sendPos p).credit = false → (s.dev.txPound k en).credits = 0 → answers (.send p 1 x) s fun e =>
        (e.sendPos p).waited = true ∧ e.running? (portKey p) = some r)) ∧
    (∀ (x : Ecc) (r : Running) (data : List Byte),
      (let y := parseKer r.desc
      let o := 4096 * r.done
      let n := min 4096 (y.par 2 - o)
      let oneDone := fun (e : Dev) => ∃ q, e.running? hostKey = some q ∧ q.done = r.done + 1
      (s.dev.hostTask 0xC0 = some r → o < y.par 2 → answers (.hostPut x) s fun e => oneDone e ∧
        (s.dev.sound → x = Ecc.clean → Out.hostWrite (s.dev.hostWin (y.par 1 + o)) (s.dev.read (y.par 0 + o) n) ∈ e.out)) ∧
      (s.dev.hostTask 0xC1 = some r → o < y.par 2 → answers (.hostGet data x) s fun e => oneDone e ∧
        Out.hostRead (s.dev.hostWin (y.par 1 + o)) n ∈ e.out ∧
        ∀ k < n, k < data.length → e.byte (y.par 0 + o + k) = data.getD k 0) ∧
      (s.dev.running? hostKey = some r → y.op = 0xC0 ∨ y.op = 0xC1 → answers .hostXferCompletion s fun e =>
        e.count Cnt.PND_HOST_ERR_CNT = min cntMax (s.dev.count Cnt.PND_HOST_ERR_CNT + 1) ∧ (s.dev.frm.tokenFormed = false → e.frm.ok = false) ∧
          ∃ q, e.running? hostKey = some q ∧ q.late = true))) ∧
    (∀ (p : Fin 16) (m : Msg),
      (let n := m.len.toNat
      let at_ := fun a k => rdLe m.body a k
      s.dev.receives p MT.barge (72 ≤ n && n ≤ 65600 && n % 8 == 0) m → at_ 0 1 ≠ 6 → s.dev.hif.permCmd = none →
      if at_ 0x10 8 = s.dev.epoch ∧ at_ 1 1 = s.dev.fld Reg.RED_STEP_STATE_REPEATS then
        ∀ (en : PoundEntry) (c : BargeIn), at_ 0x1C 4 ≠ 0 → (m.src.toNat, at_ 2 2, at_ 0xC 4) ∉ s.dev.pnd.refused → s.dev.rxEntry (at_ 2 2) = some en →
          (s.dev.rx (at_ 2 2)).cur = some c → c.seq = at_ 0xC 4 → en.peer = s.dev.coordWord m.src.toNat → c.got = at_ 0x1C 4 →
          c.got + (m.body.drop 64).length ≤ c.len → answers (.bargeMsg p m) s fun e =>
            (let base := if at_ 0 1 = 5 then en.addr + at_ 0x20 8 else en.addr + c.seq % en.nbuf * en.bytes
            ∀ k < (m.body.drop 64).length, e.byte (base + c.got + k) = (m.body.drop 64).getD k 0) ∧
            if c.got + (m.body.drop 64).length < c.len then ∃ q, (e.rx en.pound).cur = some q ∧ q.got = c.got + (m.body.drop 64).length
            else (e.rx en.pound).cur = none
      else exec (.bargeMsg p m) s =
        .next ⟨if at_ 0x1C 4 = 0 then s.dev.quiet.bump Cnt.PND_STALE_CNT else s.dev.quiet, s.pending⟩)) ∧
    (if s.dev.st = DS.running ∧ s.dev.frm.frozen = false then
      answers .poundRelease s fun e => ∀ en ∈ imgRx s.dev.program, en.kind ≠ 3 → ∀ f ∈ (e.rx en.pound).filled,
        s.dev.fld Reg.FRM_STEP_POS_FRAME < f.2 + en.rel
    else exec .poundRelease s = .next ⟨s.dev.quiet, s.pending⟩) ∧
    (∀ (p : Fin 16) (m : Msg) (k : Nat) (en : PoundEntry), s.dev.receives p MT.credit (m.len == 16) m → rdLe m.body 8 8 = s.dev.epoch →
      rdLe m.body 2 1 = s.dev.fld Reg.RED_STEP_STATE_REPEATS → s.dev.txEntry (rdLe m.body 0 2) (s.dev.coordWord m.src.toNat) = some (k, en) →
      (s.dev.txPound k en).released < rdLe m.body 4 4 → answers (.creditMsg p m) s fun e =>
        (e.txPound k en).released = rdLe m.body 4 4 ∧
          (e.txPound k en).credits = min en.nbuf ((s.dev.txPound k en).credits + (rdLe m.body 4 4 - (s.dev.txPound k en).released))) ∧
    (∀ (p : Fin 16) (m : Msg), s.dev.receives p MT.permAck (m.len == 8) m → s.dev.pnd.perm.isSome = true → answers (.permAck p m) s fun e =>
      ∀ q, e.pnd.perm = some q → rdLe m.body 0 4 ∉ q.unacked) ∧
    (s.dev.pnd.perm.isSome = true → answers .permuteTimeout s fun e => e.pnd.perm = none ∧ e.fld Reg.PND_PERM_STATUS_STATE = 3 ∧
      e.count Cnt.PND_PERM_ABORT_CNT = min cntMax (s.dev.count Cnt.PND_PERM_ABORT_CNT + 1))

/-- Outside a start: an intact DATA flit in sequence is the last one received, a CTRL flit of the right neighbour gives its port and credits, an IDLE flit returns credits and acknowledges (R299 to
R303, R311). A replay counts; a lost link is gone and its port DOWN (R303, R322, R323); the retrain interval and PORT_RETRAIN begin bring-up, PORT_DISABLE leaves the port DISABLED (R322, R324); a trained PHY
begins the CTRL exchange; PROBEs leave on UP ports and are answered, an ECHO takes the sample, a CONFIRM that agrees is kept (R311, R317). MGMT waits for Acisk (R383). -/
def Obligations.FlitsAndPorts : Prop :=
  ∀ (p : Fin 16) (s : State), s.dev.powered = true → s.dev.pwr.start = none →
    (∀ (x : FlitIn) (l q : Link), s.dev.takesFlit p x l q →
      (flitF x 27 16 = (l.rxLast + 1) % 4096 → answers (.flitRxData p x) s fun e =>
        ∃ z, e.link p = some z ∧ z.rxLast = flitF x 27 16 ∧ z.ackv = true ∧ z.nak = false) ∧
      (∀ (peer : Fin 16) (cr : List Nat) (t : Nat), s.dev.portState p = PS.training → l.ctrl = false → portAxis peer = portAxis p →
        portMember peer = portMember p → portPlus peer ≠ portPlus p → answers (.flitRxCtrl p x peer cr t) s fun e =>
          e.fld (Reg.FAB_PORT_STATUS_NBR_PORT p) = peer.val % 2 ^ (Reg.FAB_PORT_STATUS_NBR_PORT p).w ∧
            ∃ z, e.link p = some z ∧ z.ctrl = true ∧ z.probe = some (l.probeId, t) ∧ ∀ ch < 16, SMap.get zeroAt z.limit ch = cr.getD ch 0) ∧
      (flitF x 3 0 ≤ 2 → q.waiting = [] → answers (.flitRxIdle p x) s fun e =>
        ∃ z, e.link p = some z ∧ z.unacked = q.unacked ∧ z.credits = q.credits)) ∧
    (∀ l, s.dev.link p = some l →
      (l.unacked ≠ [] → l.replays + 1 < l.replayMax → answers (.ackTimeout p) s fun e =>
        (∃ z, e.link p = some z ∧ z.replays = l.replays + 1) ∧
          e.count (Cnt.FAB_REPLAY_CNT p) = min cntMax (s.dev.count (Cnt.FAB_REPLAY_CNT p) + 1)) ∧
      (∀ i ∈ [Instr.flitIdleTimeout p, .linkLost p], answers i s fun e => e.link p = none ∧ e.portState p = PS.down ∧
        e.flag Reg.FLT_STK0_LINK_LOST = true ∧ e.count (Cnt.FAB_LINK_LOST_CNT p) = min cntMax (s.dev.count (Cnt.FAB_LINK_LOST_CNT p) + 1)) ∧
      (∀ t : Nat, s.dev.portUp p = true → answers (.guardProbe t) s fun e => ∃ z, e.link p = some z ∧ z.probe = some (l.probeId, t)) ∧
      (∀ (m : Msg) (t next sent : Nat), s.dev.hearsLink p MT.echo m → l.probe = some (rdLe m.body 0 4, sent) →
        (s.dev.portState p = PS.up → answers (.echoMsg p m t next) s fun e => e.link p = some { l with probe := none }) ∧
        (s.dev.portState p = PS.training → l.samples.length + 1 < probeCount → answers (.echoMsg p m t next) s fun e =>
          ∃ z, e.link p = some z ∧ z.samples = l.samples ++ [(t : Int) - (sent : Int) - (rdLe m.body 4 4 : Nat)] ∧
            z.probe = some (l.probeId, next)))) ∧
    (s.dev.portState p = PS.down → s.dev.flag Reg.FAB_CFG_AUTO_RETRAIN = true → s.dev.flag (Reg.FAB_PORT_CTL_EN p) = true →
      answers (.retrainTimer p) s fun e => e.portState p = PS.training ∧ e.link p = none) ∧
    (s.dev.portState p ≠ PS.unused → s.dev.flag (Reg.FAB_PORT_CTL_EN p) = true →
      answers (.portRetrain p) s fun e => e.portState p = PS.training ∧ e.link p = none) ∧
    (answers (.portDisable p) s fun e => e.fld (Reg.FAB_PORT_CTL_EN p) = 0 ∧ e.portState p = PS.disabled ∧ e.link p = none) ∧
    (s.dev.portState p = PS.training → s.dev.link p = none → answers (.portTrained p) s fun e => Out.ctrl p p ownCredits ∈ e.out ∧
      e.link p = some (freshLink (s.dev.fld Reg.FAB_LINK_CFG_DRIFT) (s.dev.fld Reg.FAB_LINK_CFG_REPLAY_MAX)) ∧ s.dev.keepsBut [.fab] e) ∧
    (∀ m : Msg,
      (∀ turn : Nat, s.dev.hearsLink p MT.probe m → answers (.probeMsg p m turn) s fun e =>
        (let body := m.body.take 4 ++ natLe 4 turn
        Out.msg p (msgBytes MT.echo 0 0 s.dev.ownAddr 1 (msgEcrc MT.echo 0 s.dev.ownAddr 8 body) body) ∈ e.out)) ∧
      (s.dev.hearsLink p MT.confirm m → s.dev.flag Reg.FAB_COORD_VALID = true → quad (rdLe m.body 0 4) = s.dev.shape →
        quad (rdLe m.body 4 4) = neighbour s.dev.coord s.dev.shape p → answers (.confirmMsg p m) s fun e =>
          ∃ z, e.link p = some z ∧ z.confirmed = true) ∧
      (let n := m.len.toNat
      let k := rdLe m.body 4 4
      s.dev.receives p MT.mgmt (8 ≤ n && n ≤ 4096 && n % 8 == 0) m → s.dev.fwServes = false → s.dev.mbx.mgmt.length < 64 →
        rdLe m.body 0 2 = 0x20 → 8 ≤ k → k ≤ 224 → m.body.length = 8 + (k + 7) / 8 * 8 → answers (.mgmtMsg p m) s fun e =>
          e.mbx.mgmt = s.dev.mbx.mgmt ++ [(m.src.toNat, (m.body.drop 8).take k)] ∧ s.dev.keepsBut [.mbx] e))

/-- Discovery in READY or BOOTING, outside a start (R314): a RING that returns to the origin ends the search of its axis, and one that reaches another device makes it take
part; ASSIGN gives a device its coordinate and the sizes, CENSUS is kept by its port, DONE with code 0 makes the coordinate VALID and with another one does not. The origin's test ticks count on, and a
timeout ends the discovery with code 5. -/
def Obligations.DiscoveryGoesOn : Prop :=
  ∀ s : State, s.dev.powered = true → s.dev.pwr.start = none →
    (let x := s.dev.fab.disc
    (∀ (p : Fin 16) (m : Msg),
      (s.dev.discovers p MT.ring m → portPlus p = false →
        (s.dev.frm.origin = true → x.active = true → portAxis p ∈ x.rings → (∃ b ∈ x.rings, b ≠ portAxis p) → m.hops.toNat ≤ 16 →
          answers (.ringMsg p m) s fun e => e.fab.disc = { x with
            rings := x.rings.filter (· != portAxis p), sizes := x.sizes.set (portAxis p) m.hops.toNat }) ∧
        (s.dev.frm.origin = false → answers (.ringMsg p m) s fun e => e.fab.disc.active = true)) ∧
      (s.dev.frm.origin = false → x.active = true →
        (s.dev.discovers p MT.assign m → x.hasCoord = false → answers (.assignMsg p m) s fun e => e.fab.disc.hasCoord = true ∧
          e.fab.disc.shape = quad (rdLe m.body 0 4) ∧ e.fab.disc.coord = quad (rdLe m.body 4 4) ∧ p.val ∈ e.fab.disc.assigned) ∧
        (s.dev.discovers p MT.census m → answers (.censusMsg p m) s fun e =>
          (p.val, rdLe m.body 0 2, bit (rdLe m.body 2 1) 0, rdLe m.body 4 4) ∈ e.fab.disc.census) ∧
        (s.dev.discovers p MT.done m → x.done = false → answers (.doneMsg p m) s fun e =>
          e.fab.disc.active = false ∧ e.fab.disc.done = true ∧
            if rdLe m.body 0 1 = 0 ∧ x.hasCoord = true then e.flag Reg.FAB_COORD_VALID = true ∧ e.fld Reg.FAB_DISC_STATUS_STATE = 2
            else e.flag Reg.FAB_COORD_VALID = false ∧ e.fld Reg.FAB_DISC_STATUS_STATE = 3))) ∧
    (s.dev.frm.origin = true → x.active = true → x.hasCoord = true → answers .discTestTick s fun e => e.fab.disc.testNum = x.testNum + 1) ∧
    (x.active = true → answers .discoveryTimeout s fun e => e.fab.disc.active = false ∧ e.fab.disc.done = true ∧
      e.fld Reg.FAB_DISC_STATUS_CODE = 5 ∧ e.fld Reg.FAB_DISC_STATUS_STATE = 3 ∧ e.flag Reg.FAB_COORD_VALID = false ∧
        e.count Cnt.FAB_DISC_FAIL_CNT = min cntMax (s.dev.count Cnt.FAB_DISC_FAIL_CNT + 1)))

/-- Host commands that pass every test of R357, outside a start (R356 to R364, R371, R396). DELETE_SQ drops what its ring still holds ready and DELETE_CQ its ring; HELLO notes the driver's version and agrees or refuses. An FP_LOAD reads
its image and leaves its slot valid with it, or empty, and touches no other slot; FP_DISCARD empties, FP_ARM arms, RUN makes a valid slot active in LOADED, RESUME waits for its tick, QUIESCE
notes its epoch, STOP leaves READY. PERMUTE starts; the DMA commands move their bytes, with no trace point enabled; PROGRAM ends its cold start in READY. IMAGE_LOAD and TPACK_LOAD read their object from the host, and a good image
boots, is staged or reloads by a warm start; START begins a warm start or a cold one; DISCOVER makes the device take part. A host request that ends short is counted. -/
def Obligations.HostCommandEffects : Prop :=
  ∀ (n : Fin 65536) (c : Cmd) (s : State), s.dev.powered = true → s.dev.pwr.start = none → s.dev.dispatches n c →
    (let v := c.par 2
    let plus := fun (k : Nat) (e : Dev) => e.count k = min cntMax (s.dev.count k + 1)
    let free := v ≠ s.dev.active ∧ v ≠ s.dev.armed
    (c.op = 0x03 → answers (.deleteSq n) s fun e => ∀ y ∈ e.hif.ready, y.sq ≠ c.par 1) ∧
    (c.op = 0x04 → s.dev.cqBound (c.par 1) = false → c.cq ≠ c.par 1 → answers (.deleteCq n) s fun e => e.cq (c.par 1) = none) ∧
    (c.op = 0x05 → answers (.hello n) s fun e => e.fld Reg.MBX_VER_DRV_MAJOR = bits (c.par 0) 31 16 ∧
      if bits (c.par 0) 31 16 = s.dev.fld Reg.MBX_VER_FW_MAJOR then e.fld Reg.HIF_STATE_HELLO = 1
      else e.fld Reg.HIF_STATE_HELLO = 0 ∧ e.flag Reg.FLT_STK0_VERSION_REFUSED = true) ∧
    (c.op = 0x20 → free → ∀ (data : List Byte) (x : Ecc), answers (.fpLoad n data x) s fun e => Out.hostRead (c.par 0) (c.par 1) ∈ e.out ∧
      (e.variant v = none ∨ ∃ rs, e.variant v = some ⟨data.take (c.par 1), true, rs⟩) ∧ (∀ u, u ≠ v → e.variant u = s.dev.variant u) ∧
      (data.length < c.par 1 → e.variant v = none ∧ plus Cnt.HIF_DMA_ERR_CNT e)) ∧
    (c.op = 0x21 → free → answers (.fpDiscard n) s fun e => e.variant v = none ∧ e.fld (Reg.FRM_VAR_INFO_VALID v) = 0) ∧
    (c.op = 0x22 → answers (.fpArm n) s fun e => e.armed =
      if v = 0xFF ∨ v = s.dev.active then 0xFF else if s.dev.slotValid v then v % 256 else s.dev.armed) ∧
    (c.op = 0x23 → s.dev.slotValid v = true → answers (.run n) s fun e => e.st = DS.loaded ∧ e.active = v % 256 ∧
      e.epoch = c.par 0 % 2 ^ Reg.RED_EPOCH_EPOCH.w ∧ e.frm.startTick = some (c.par 1) ∧ e.frm.frozen = false) ∧
    (c.op = 0x24 → s.dev.resumeBad = false → answers (.resume n) s fun e => e.frm.startTick = some (c.par 1) ∧ e.flag Reg.PWR_THERM_STATUS_HOLD_ACTIVE = false) ∧
    (c.op = 0x25 → s.dev.frm.quiesceAt = none → s.dev.frm.updateAt = none → answers (.quiesce n) s fun e =>
      e.frm.quiesceAt = some (c.par 0)) ∧
    (c.op = 0x26 → answers (.stop n) s fun e => e.st = DS.ready ∧ e.active = 0xFF ∧ e.armed = 0xFF) ∧
    (c.op = 0x27 → s.dev.pnd.perm = none → s.dev.permTableOk (c.par 0) = true → s.dev.untraced → ∀ x : Ecc, answers (.permute n x) s fun e =>
      e.permState = 1 ∨ e.permState = 2) ∧
    (c.op = 0x30 → s.dev.untraced → ∀ data : List Byte, answers (.dmaH2d n data) s fun e => Out.hostRead (c.par 0) v ∈ e.out ∧
      (∀ y, e.byte y = if c.par 1 ≤ y ∧ y < c.par 1 + min v data.length then data.getD (y - c.par 1) 0 else s.dev.byte y) ∧
      (data.length < v → plus Cnt.HIF_DMA_ERR_CNT e)) ∧
    (c.op = 0x31 → s.dev.untraced → ∀ (sent : Nat) (x : Ecc), answers (.dmaD2h n sent x) s fun e =>
      Out.hostWrite (c.par 0) (s.dev.read (c.par 1) (min sent v)) ∈ e.out ∧ (sent < v → plus Cnt.HIF_DMA_ERR_CNT e)) ∧
    (c.op = 0x32 → ∀ (missed : List (Nat × Int)) (kiln : List KilnMeas) (fw ce : Nat) (x : Ecc),
      answers (.program n missed kiln fw ce x) s fun e => e.st = DS.ready) ∧
    (c.op = 0x33 → s.dev.flt.packStaged = none → ∀ data : List Byte, answers (.tpackLoad n data) s fun e =>
      Out.hostRead (c.par 0) (c.par 1) ∈ e.out ∧ (data.length < c.par 1 → plus Cnt.HIF_DMA_ERR_CNT e)) ∧
    (c.op = 0x10 → ∀ data : List Byte,
      (let b := data.take (c.par 1)
      let good := !imageMalformed b && (s.dev.sigCheck 1 (imageObj b) (imageSig b)).code == 0
      let fetched := fun (e : Dev) => Out.hostRead (c.par 0) (c.par 1) ∈ e.out
      (∀ env : BootEnv, v = 0 → answers (.imageLoadBoot n data env) s fun e => fetched e ∧
        if data.length < c.par 1 then plus Cnt.HIF_DMA_ERR_CNT e ∧ e.st = s.dev.st
        else e.st = if good then (if env.hbmBad = [] ∧ env.d2dOk = true then DS.booting else DS.fault) else s.dev.st) ∧
      (v = 1 → (∀ y ∈ s.dev.hif.prog, y.isUpdate = false) → s.dev.frm.quiesceAt = none → answers (.imageLoadUpdate n data) s fun e => fetched e ∧
        if data.length < c.par 1 then plus Cnt.HIF_DMA_ERR_CNT e
        else e.fld Reg.MBX_STATUS_FW = if good && rdLe b 6 2 == s.dev.fld Reg.MBX_VER_FW_MAJOR && s.dev.fwRuns then 2 else s.dev.fld Reg.MBX_STATUS_FW) ∧
      (∀ env : WarmEnv, v = 2 → answers (.imageLoadReload n data env) s fun e => fetched e ∧
        if data.length < c.par 1 then plus Cnt.HIF_DMA_ERR_CNT e
        else if good then plus Cnt.PWR_START_WARM_CNT e else e.st = s.dev.st))) ∧
    (c.op = 0x11 →
      (∀ env : WarmEnv, c.par 0 = 0 → answers (.startWarm n env) s (plus Cnt.PWR_START_WARM_CNT)) ∧
      (∀ ok : Bool, c.par 0 = 1 → answers (.startCold n ok) s fun e => plus Cnt.PWR_START_COLD_CNT e ∧
        e.st = if ok then DS.awaitImage else DS.fault)) ∧
    (c.op = 0x12 → (∀ y ∈ s.dev.hif.prog, y.op ≠ 0x12) → answers (.discover n) s fun e =>
      (e.fab.disc.active || e.fab.disc.done) = true ∧ (s.dev.frm.origin = false → e.fab.disc.active = true)))

/-- In D0 an aligned tail doorbell within the ring's free entries moves the tail and a head doorbell within the written ones the head; any other is counted and changes nothing (R349, R350). A
fetch takes the next descriptor, or is counted where it fails. A coalescing timeout fires the vector. Enabling the admin rings makes both anew, disabling removes both. A refresh report sets its
stack's bit. MBX_LOCK locks; a message that times out leaves its queue; a domain that goes down empties the queues of its channels (R381, R383). Acisk answers a PING, takes a doorbell, and
writes the response to the one request of a pair at the tail of its ring (R384, R385). A staged image waits or takes over, and runs once it has read the cask (R393, R394). The watchdog expires
(R411). Towpath copies its registers and uses its channels as master 0x50 (R488, R489). -/
def Obligations.RingsMailboxesAndManagement : Prop :=
  ∀ s : State, s.dev.powered = true →
    (let plus := fun (k : Nat) (e : Dev) => e.count k = min cntMax (s.dev.count k + 1)
    let same : Host.Outcome State Fault Refusal := .next ⟨s.dev.quiet, s.pending⟩
    let counted := fun k : Nat => (.next ⟨s.dev.quiet.bump k, s.pending⟩ : Host.Outcome State Fault Refusal)
    (s.dev.hif.power = 0 →
      (∀ (n : Fin 65536) (v : BitVec 64),
        (s.dev.sq n = none → exec (.sqTailDoorbell n v true) s = counted Cnt.HIF_DB_ERR_CNT) ∧
        exec (.sqTailDoorbell n v false) s = counted Cnt.HIF_DB_ERR_CNT ∧
        ∀ q, s.dev.sq n = some q →
          if v.toNat < q.size ∧ (q.tail + q.size - q.fetch) % q.size + (v.toNat + q.size - q.tail) % q.size < q.size then
            answers (.sqTailDoorbell n v true) s fun e => e.sq n = some { q with tail := v.toNat }
          else exec (.sqTailDoorbell n v true) s = counted Cnt.HIF_DB_ERR_CNT) ∧
      (∀ (n : Fin 4096) (v : BitVec 64),
        (s.dev.cq n = none → exec (.cqHeadDoorbell n v true) s = counted Cnt.HIF_DB_ERR_CNT) ∧
        exec (.cqHeadDoorbell n v false) s = counted Cnt.HIF_DB_ERR_CNT ∧
        ∀ q, s.dev.cq n = some q →
          if v.toNat < q.size ∧ (v.toNat + q.size - q.head) % q.size ≤ (q.pos + q.size - q.head) % q.size then
            answers (.cqHeadDoorbell n v true) s fun e => ∃ r, e.cq n = some r ∧ r.head = v.toNat
          else exec (.cqHeadDoorbell n v true) s = counted Cnt.HIF_DB_ERR_CNT) ∧
      (∀ (n : Fin 65536) (q : Sq), s.dev.sq n = some q → DS.awaitImage ≤ s.dev.st → s.dev.ideBlocked = false → q.fetch ≠ q.tail →
        (∀ c ∈ s.dev.hif.prog, c.op = 3 → c.par 1 ≠ n.val) →
        (let h := (q.fetch + 1) % q.size
        answers (.descriptorFetch n none) s (fun e => plus Cnt.HIF_DMA_ERR_CNT e ∧ e.sq n = some { q with fetch := h }) ∧
          ∀ b : List Byte, s.dev.hif.ready = [] → s.dev.hif.prog = [] → (parseCmd n q.cq h b).reservedBad = false →
            answers (.descriptorFetch n (some b)) s fun e => e.hif.ready = [parseCmd n q.cq h b] ∧ e.sq n = some { q with fetch := h }))) ∧
    (∀ (n : Fin 4096) (q : Cq), s.dev.cq n = some q → q.unsig ≠ 0 → answers (.msixCoalTimeout n) s fun e =>
      e.cq n = some { q with unsig := 0 } ∧ (q.vector ≠ noVector → s.dev.msixMasked q.vector = false → e.out = [.msix q.vector])) ∧
    (∀ asq acq : Fin 32,
      (let sized := fun (v : Nat) (f : Field) => if 6 ≤ v ∧ v ≤ 16 then v else s.dev.fld f
      (s.dev.flag Reg.HIF_ADMIN_CFG_EN = false → answers (.adminRingsEnable asq acq) s fun e => e.fld Reg.HIF_ADMIN_CFG_EN = 1 ∧
        e.sq 0 = some ⟨4096 * s.dev.fld Reg.HIF_ASQ_BASE, sized asq Reg.HIF_ADMIN_CFG_ASQ_LOG2, 0, 0, 0⟩ ∧
          e.cq 0 = some (freshCq (4096 * s.dev.fld Reg.HIF_ACQ_BASE) (sized acq Reg.HIF_ADMIN_CFG_ACQ_LOG2) 2 0 0)) ∧
      (s.dev.flag Reg.HIF_ADMIN_CFG_EN = true → answers (.adminRingsDisable asq acq) s fun e =>
        e.fld Reg.HIF_ADMIN_CFG_EN = 0 ∧ e.sq 0 = none ∧ e.cq 0 = none))) ∧
    (∀ h : Fin 24, exec (.hbmRefresh h) s = same ∧ ∀ hot : Bool, answers (.hbmTempReport h hot) s fun e =>
      (let m := s.dev.fld Reg.MEM_REFRESH_DOUBLED
      e.fld Reg.MEM_REFRESH_DOUBLED = (if hot then setBit m h else clearBit m h) % 2 ^ 24)) ∧
    (∀ v : BitVec 32, if v.toNat % 2 = 1 then answers (.mbxLock v) s fun e => e.flag Reg.MBX_STATUS_LOCKED = true else exec (.mbxLock v) s = same) ∧
    (∀ (n : Fin 64) (toB : Bool), (s.dev.binding n).ostemu = true → (s.dev.binding n).en = true → (s.dev.queue n toB).complete = true →
      answers (.mbxMsgTimeout n toB) s fun e => plus Cnt.MBX_TMO_CNT e ∧
        (let q := s.dev.queue n toB
        e.queue n toB = { q with words := q.words.drop (if q.front = 0 then msgLen (q.words.headD 0) + 1 else q.front), front := 0, tmo := true })) ∧
    (∀ m : Master, answers (.domainDown m) s fun e =>
      (let dom := fun x => x == masterId m || (isMgmt x && isMgmt (masterId m))
      (isMgmt (masterId m) = true → e.mbx.mgmtUp = false) ∧ (m = .gauge → e.fld Reg.GAU_CTL_PWR = 0) ∧ (m = .towpath → e.mbx.vddio = false) ∧
        (m = .hostPf → e.hif.power = 2) ∧ if m = .sec ∨ m = .cmdproc then e = s.dev.quiet
        else ∀ n < 64, dom (s.dev.binding n).a || dom (s.dev.binding n).b → ∀ t, (e.queue n t).words = [])) ∧
    (∀ (n : Fin 64) (id : Nat) (toB : Bool) (ws : List Nat) (q : MQueue), s.dev.fwRuns = true → s.dev.mgmtEnd n = some (id, toB) →
      (s.dev.binding n).a ≠ (s.dev.binding n).b → s.dev.dead n = false → s.dev.canReply n 1 = true → (s.dev.queue n toB).take = some (ws, q) →
      msgType (ws.headD 0) = 3 → bit (ws.headD 0) 20 = false → (s.dev.queue n (!toB)).open_ = 0 → (s.dev.queue n (!toB)).skip = 0 →
      answers (.ping n) s fun e => e.queue n toB = q ∧
        (e.queue n (!toB)).words = (s.dev.queue n (!toB)).words ++ [0x04000000 + ws.headD 0 % 65536]) ∧
    (∀ (k : Fin 4) (id : Nat) (toB : Bool) (ws : List Nat) (q : MQueue), s.dev.fwServes = true → s.dev.mgmtEnd (8 + k) = some (id, toB) →
      (s.dev.queue (8 + k) toB).take = some (ws, q) → msgType (ws.headD 0) = 1 → bit (ws.headD 0) 20 = false →
      answers (.srDoorbell k) s fun e => k.val ∈ e.mbx.rung) ∧
    (∀ (k : Fin 4) (x : List Byte), s.dev.fwServes = true → s.dev.rspFull k = false → s.dev.request k = some x → requestOk x = true →
      (s.dev.reqHead k + 1) % 256 = s.dev.reqTail k → s.dev.mbx.mgmt = [] → s.dev.untraced →
      (let p := (x.drop 16).take (rdLe x 4 2)
      let gives := fun (st : Status) (r : List Byte) (e : Dev) => e.read (s.dev.sr k + 0x20000 + 256 * s.dev.rspTail k) (16 + r.length) =
        x.take 4 ++ natLe 2 r.length ++ natLe 1 st.code ++ List.replicate 9 0 ++ r
      (rdLe x 0 2 = 1 → answers (.srEcho k) s (gives .done p)) ∧
      (rdLe x 0 2 = 2 → answers (.srVersion k) s (gives .done ((s.dev.mbx.header.drop 4).take 20 ++
        natLe 4 (s.dev.fld Reg.MBX_CASK_VER_SUPPORTED * 65536 + s.dev.fld Reg.MBX_CASK_VER_FOUND)))) ∧
      (rdLe x 0 2 = 0x10 → answers (.logLevel k) s fun e => gives .done [] e ∧ e.mbx.logLevel = rdLe x 16 1) ∧
      (rdLe x 0 2 = 0x30 → answers (.caskInfo k) s (gives .done s.dev.mbx.caskHdr)) ∧
      (rdLe x 0 2 = 0x20 → answers (.mgmtSend k true) s (gives .exhausted []) ∧
        (rdLe p 0 2 % 4096 ≠ s.dev.ownAddr → answers (.mgmtSend k false) s fun e => gives .done [] e ∧ e.mbx.mgmtSeq = (s.dev.mbx.mgmtSeq + 1) % 65536)))) ∧
    (if s.dev.fld Reg.MBX_STATUS_FW = 2 then answers .updateStaged s fun e => if s.dev.frm.updateAt.isSome then e.fld Reg.MBX_STATUS_FW = 3 ∧ e.mbx.staged = true
      else e.fld Reg.MBX_STATUS_FW = 4 ∧ e.mbx.staged = false ∧ e.fld Reg.MBX_STATUS_BANK = 1 - s.dev.fld Reg.MBX_STATUS_BANK
    else exec .updateStaged s = same) ∧
    (s.dev.fld Reg.MBX_STATUS_FW = 4 → s.dev.hif.prog = [] → ∀ (fw ce : Nat) (x : Ecc), answers (.caskRead fw ce x) s fun e =>
      e.fld Reg.MBX_STATUS_FW = 1 ∧ plus Cnt.MBX_HANDOVER_CNT e) ∧
    (if s.dev.flag Reg.FLT_WDOG_STATUS_ARMED then answers .wdogExpire s fun e => e.flag Reg.FLT_WDOG_STATUS_EXPIRED = true ∧
      e.flag Reg.FLT_WDOG_STATUS_ARMED = false ∧ e.fld Reg.FLT_WDOG_STATUS_REMAIN = 0 ∧ plus Cnt.FLT_WDOG_EXPIRE_CNT e ∧
        e.fld Reg.MBX_STATUS_FW = 5 ∧ e.mbx.mgmtUp = false ∧ e.flag Reg.FLT_STK0_FW_DEAD = true
    else exec .wdogExpire s = same) ∧
    (if s.dev.mbx.vddio then answers .tpRefresh s fun e => e.tp = s.dev.tpWords else exec .tpRefresh s = same) ∧
    (∀ (j : Fin 8) (isA : Bool), s.dev.endOf (16 + j) 0x50 = some isA → s.dev.dead (16 + j) = false →
      (∀ w : BitVec 32, (s.dev.queue (16 + j) isA).skip = 0 →
        (s.dev.queue (16 + j) isA).open_ ≠ 0 ∨ (s.dev.queue (16 + j) isA).words.length + (msgLen w.toNat + 1) ≤ 8 →
        answers (.tpMbxTx j w) s fun e => (e.queue (16 + j) isA).words = (s.dev.queue (16 + j) isA).words ++ [w.toNat]) ∧
      ∀ y ys, (s.dev.queue (16 + j) (!isA)).words = y :: ys → answers (.tpMbxRx j) s fun e =>
        e.out = [.data y] ∧ (e.queue (16 + j) (!isA)).words = ys)) ∧
  ∀ s : State, answers .vddioRestored s fun e => e.mbx.vddio = true ∧ s.dev.keepsBut [.mbx] e

/-- The Gauge, the links and the power events. An urgent request is taken by an idle converter of its channel that stays idle and answers with its value; any other is dropped and counted (R428). Gauge
powers up and down in READY alone (R434). A list that falls due starts, waits or is counted late (R427); a scan result is written with its next SEQ, a stale one only marked, and the pass goes on
(R427, R430). GAU_MON_CFG sets up the selected monitor (R435). A rail fault stops every unit and link and leaves FAULT with its cause (R451). A power state is entered, and D0 lets held completions
go (R365). Link training shows its result and counts a lesser one. Hot reset and FLR reset the function alone where no image runs, and else begin a warm start (R440, R457). -/
def Obligations.GaugeAndPowerEvents : Prop :=
  ∀ s : State, s.dev.powered = true →
    (let plus := fun (k : Nat) (e : Dev) => e.count k = min cntMax (s.dev.count k + 1)
    let same : Host.Outcome State Fault Refusal := .next ⟨s.dev.quiet, s.pending⟩
    let counted := fun k : Nat => (.next ⟨s.dev.quiet.bump k, s.pending⟩ : Host.Outcome State Fault Refusal)
    (∀ g : Fin 2,
      (∀ (order : BitVec 3) (n : BitVec 15) (chan : BitVec 7) (fits : Bool),
        (let k := if chan.toNat ≤ 95 ∧ chanConv chan.toNat = g then chan.toNat else s.dev.fld (Reg.GAU_URG_CHAN g)
        let ready := s.dev.flag Reg.GAU_CTL_PWR = true ∧ s.dev.conv g = none ∧ s.dev.waits g = [] ∧ fits = true ∧ chanConv k = g ∧
          ∀ l < 4, s.dev.flag (Reg.GAU_SCAN_EN l) = true → s.dev.fld (Reg.GAU_SCAN_CONV l) = g.val → s.dev.fld (Reg.GAU_SCAN_PERIOD l) ≠ 0
        answers (.gauUrg g order n chan fits) s fun e => e.fld (Reg.GAU_URG_CHAN g) = k ∧
          (1 ≤ order.toNat → order.toNat ≤ 5 → e.fld (Reg.GAU_URG_ORDER g) = order.toNat) ∧
          (64 ≤ n.toNat → n.toNat ≤ 16384 → e.fld (Reg.GAU_URG_N g) = n.toNat) ∧
          (ready → e.conv g = some ⟨4, 0, k, [], none, false, s.dev.settling g⟩ ∧ e.flag (Reg.GAU_URG_RESULT_DONE g) = false ∧
            e.flag (Reg.GAU_STATUS_BUSY g) = true) ∧
          (¬ ready → plus Cnt.GAU_URG_DROP_CNT e ∧ e.gau = s.dev.gau))) ∧
      (∀ (c : Conv) (v : BitVec 24), s.dev.conv g = some c →
        (c.list = 4 → answers (.urgentDone g v) s fun e => e.flag (Reg.GAU_URG_RESULT_DONE g) = true ∧
          e.fld (Reg.GAU_URG_RESULT_VALUE g) = v.toNat ∧ e.flag (Reg.GAU_URG_RESULT_RS g) = c.rs ∧ plus Cnt.GAU_URG_DONE_CNT e) ∧
        (c.list ≠ 4 → c.chan ≤ 95 → answers (.scanEntryDone g v) s fun e =>
          (if c.stale then e.flag (Reg.GAU_RESULT_STALE c.chan) = true ∧ plus Cnt.GAU_STALE_CNT e ∧
              e.fld (Reg.GAU_RESULT_VALUE c.chan) = s.dev.fld (Reg.GAU_RESULT_VALUE c.chan)
            else e.flag (Reg.GAU_RESULT_STALE c.chan) = false ∧ e.fld (Reg.GAU_RESULT_VALUE c.chan) = v.toNat ∧
              e.flag (Reg.GAU_RESULT_RS c.chan) = c.rs ∧
              e.fld (Reg.GAU_RESULT_SEQ c.chan) = (s.dev.fld (Reg.GAU_RESULT_SEQ c.chan) + 1) % 2 ^ (Reg.GAU_RESULT_SEQ c.chan).w) ∧
          ∀ k ks, c.rest = k :: ks → k ≤ 95 → chanConv k = g → ∃ q, e.conv g = some q ∧ q.list = c.list ∧ q.entry = c.entry + 1 ∧
            q.chan = k ∧ q.rest = ks)) ∧
      (s.dev.conv g = none → ∀ v : BitVec 24, exec (.urgentDone g v) s = same ∧ exec (.scanEntryDone g v) s = same)) ∧
    (∀ on : Bool, (s.dev.st ≠ DS.ready → exec (.gauPwr on) s = counted Cnt.GAU_CFG_REJ_CNT) ∧
      (s.dev.st = DS.ready → answers (.gauPwr on) s fun e => e.flag Reg.GAU_CTL_PWR = on ∧
        (on = false → ∀ g < 2, e.conv g = none ∧ e.waits g = []) ∧
        (on = true → s.dev.flag Reg.GAU_CTL_PWR = false → ∀ g < 2, e.flag (Reg.GAU_STATUS_REF_SETTLING g) = true))) ∧
    (∀ l : Fin 4,
      (let g := s.dev.fld (Reg.GAU_SCAN_CONV l)
      let busy := ∃ h < 2, (∃ c, s.dev.conv h = some c ∧ c.list = l.val) ∨ l.val ∈ s.dev.waits h
      let live := s.dev.flag Reg.GAU_CTL_PWR = true ∧ s.dev.flag (Reg.GAU_SCAN_EN l) = true
      (¬ live → exec (.scanPassDue l) s = same) ∧ (live → busy → exec (.scanPassDue l) s = counted Cnt.GAU_SCAN_LATE_CNT) ∧
        (live → ¬ busy → ∀ c, s.dev.conv g = some c → answers (.scanPassDue l) s fun e =>
          e.waits g = s.dev.waits g ++ [l.val] ∧ e.conv g = some c) ∧
        (live → ¬ busy → s.dev.conv g = none → s.dev.waits g = [] → ∀ k ks, s.dev.listChans l = k :: ks → k ≤ 95 → chanConv k = g →
          answers (.scanPassDue l) s fun e => ∃ q, e.conv g = some q ∧ q.list = l.val ∧ q.entry = 0 ∧ q.chan = k ∧ q.rest = ks))) ∧
    (∀ (base : BitVec 32) (w : BitVec 5), answers (.gauMonCfg base w) s fun e =>
      e.mon (s.dev.fld Reg.GAU_MON_SEL_MON) = freshMon (sgn 32 base.toNat) w.toNat ∧ e.fld Reg.GAU_MON_CFG_BASE = base.toNat ∧
        e.fld Reg.GAU_MON_CFG_W = w.toNat) ∧
    (∀ rail : Fin 5, answers (.railFault rail) s fun e => e.st = DS.fault ∧ e.run = [] ∧ plus Cnt.PWR_RAIL_FAULT_CNT e ∧
      e.fld Reg.PWR_RESET_CAUSE_RAIL = rail.val ∧ e.fld Reg.PWR_RESET_CAUSE_CAUSE = Cause.rail ∧ ∀ p < 16, e.link p = none) ∧
    (∀ p : Fin 3, answers (.pciePowerState p) s fun e => e.hif.power = p.val ∧
      (p = 0 → e.hif.waiting = [] ∧ ∀ v ∈ e.hif.msixPend, e.msixMasked v = true)) ∧
    (∀ rate width : Fin 3, answers (.pcieLinkTraining rate width) s fun e => e.fld Reg.HIF_LINK_RATE = rate.val + 1 ∧
      e.fld Reg.HIF_LINK_WIDTH = 4 * 2 ^ width.val ∧ e.fld Reg.HIF_LINK_FLIT = 1 ∧
        e.count Cnt.HIF_DOWNTRAIN_CNT = if rate = 2 ∧ width = 2 then s.dev.count Cnt.HIF_DOWNTRAIN_CNT
          else min cntMax (s.dev.count Cnt.HIF_DOWNTRAIN_CNT + 1)) ∧
    ∀ env : WarmEnv, ∀ i ∈ [Instr.hotReset env, .flr env], answers i s fun e =>
      if s.dev.st = DS.rom ∨ s.dev.st = DS.awaitImage ∨ s.dev.st = DS.fault ∨ (∃ x, s.dev.pwr.start = some x ∧ x.cold = true) then
        e.hif = { Hif.reset with stepSeq := s.dev.hif.stepSeq } ∧ e.st = s.dev.st ∧ e.sec.keys = [] ∧ e.fld Reg.SEC_STATUS_IDE = ideNone
      else plus Cnt.PWR_START_WARM_CNT e)

/-- SPDM past ROM with the negotiation far enough (R468 to R473, Tables 19.5 to 19.12; log 105). Each request is counted and answered with its code: CAPABILITIES, ALGORITHMS for the one suite, DIGESTS and
CERTIFICATE from the device's chain, CHALLENGE_AUTH, MEASUREMENTS and KEY_EXCHANGE_RSP with 32 bytes of nonce and 512 of signature that are free values; a request out of its range is answered with ERROR. FINISH
completes its session or ends it, HEARTBEAT, KEY_UPDATE and END_SESSION need a complete one, and so does IDE_KM, which programs, starts and stops its key slots; the stream is Secure while a whole key set is active
and lost at an integrity failure. A write of 1 to LOCK locks. -/
def Obligations.SecurityAnswers : Prop :=
  ∀ s : State, s.dev.powered = true →
    (let x := s.dev.sec
    let plus := fun (k : Nat) (e : Dev) => e.count k = min cntMax (s.dev.count k + 1)
    let answer := fun (code p1 p2 : Nat) (body : List Byte) (e : Dev) =>
      e.out = [.spdm (natLe 1 0x13 ++ natLe 1 code ++ natLe 1 p1 ++ natLe 1 p2 ++ body)] ∧ plus Cnt.SEC_SPDM_REQ_CNT e
    let error := fun (code data : Nat) (e : Dev) => answer 0x7F code data [] e ∧ plus Cnt.SEC_SPDM_ERR_CNT e
    let hashed := fun kind : Byte => if kind = 0 then [] else sha512 s.dev.measAll
    let kindOk := fun (slot kind : Byte) => slot = 0 ∧ (kind = 0 ∨ kind = 1 ∨ kind = 0xFF)
    let secure := fun (e : Dev) => e.fld Reg.SEC_STATUS_IDE = ideSecure ↔ ∃ set < 2, allIn (keySlots set) e.sec.going = true
    (DS.rom < s.dev.st →
      (1 ≤ x.phase → answers (.getCapabilities 0x13) s fun e => e.sec.phase = max x.phase 2 ∧
        answer 0x61 0 0 ([0, 17, 0, 0] ++ natLe 4 0x62F6 ++ natLe 4 4096 ++ natLe 4 4096) e) ∧
      (2 ≤ x.phase → ∀ (asym hash : BitVec 32) (dhe aead : BitVec 16), answers (.negotiateAlgorithms 0x13 asym hash dhe aead) s fun e =>
        if asym.getLsbD 6 && hash.getLsbD 2 && dhe.getLsbD 4 && aead.getLsbD 1 then e.sec.phase = 3 ∧ answer 0x63 3 0 (natLe 2 48 ++ [1, 2] ++
          natLe 4 8 ++ natLe 4 0x40 ++ natLe 4 4 ++ List.replicate 16 0 ++ [2, 0x20, 0x10, 0, 3, 0x20, 2, 0, 5, 0x20, 1, 0]) e
        else e.sec.phase = x.phase ∧ error SpdmErr.invalidRequest 0 e) ∧
      (3 ≤ x.phase →
        answers (.getDigests 0x13) s (answer 0x01 1 1 (sha512 Config.certChain)) ∧
        (∀ (slot : Byte) (off len : BitVec 16),
          (let c := Config.certChain
          let part := (c.drop off.toNat).take (min len.toNat 4088)
          answers (.getCertificate 0x13 slot off len) s fun e => if slot.toNat % 16 = 0 ∧ off.toNat < c.length then
            answer 0x02 0 0 (natLe 2 part.length ++ natLe 2 (c.length - off.toNat - part.length) ++ part) e
          else error SpdmErr.invalidRequest 0 e)) ∧
        (∀ (slot kind : Byte) (context : BitVec 64), answers (.challenge 0x13 slot kind context) s fun e =>
          (kindOk slot kind → ∃ nonce sig : List Byte, nonce.length = 32 ∧ sig.length = 512 ∧
            answer 0x03 0 1 (sha512 Config.certChain ++ nonce ++ hashed kind ++ [0, 0] ++ natLe 8 context.toNat ++ sig) e) ∧
          (¬ kindOk slot kind → error SpdmErr.invalidRequest 0 e)) ∧
        (∀ (attr op : Byte) (context : BitVec 64), answers (.getMeasurements 0x13 attr op context) s fun e =>
          if op.toNat ≤ 4 ∨ op = 0xFF then ∃ nonce sig : List Byte, nonce.length = 32 ∧ sig.length = (if attr.getLsbD 0 then 512 else 0) ∧
            (let rec_ := if op = 0 then [] else if op = 0xFF then s.dev.measAll else s.dev.measBlock op.toNat
            answer 0x60 (if op = 0 then 4 else 0) 0 (natLe 1 (if op = 0 then 0 else if op = 0xFF then 4 else 1) ++ natLe 3 rec_.length ++ rec_ ++
              nonce ++ [0, 0] ++ natLe 8 context.toNat ++ sig) e)
          else error SpdmErr.invalidRequest 0 e) ∧
        (∀ (slot kind : Byte) (rs : BitVec 16), answers (.keyExchange 0x13 slot kind rs) s fun e =>
          (kindOk slot kind → x.sessions.length < 2 → e.sec.sessions = x.sessions ++ [⟨rs.toNat + 65536 * (x.nextSession % 65536), false, 0⟩] ∧
            e.fld Reg.SEC_STATUS_SESSIONS = x.sessions.length + 1 ∧ ∃ share sig : List Byte, share.length = 128 ∧ sig.length = 576 ∧
              answer 0x64 0 0 (natLe 2 (x.nextSession % 65536) ++ [0, 0] ++ share ++ hashed kind ++ [0, 0] ++ sig) e) ∧
          (kindOk slot kind → 2 ≤ x.sessions.length → error SpdmErr.sessionLimitExceeded 0 e) ∧
          (¬ kindOk slot kind → error SpdmErr.invalidRequest 0 e))) ∧
      (∀ (id : BitVec 32) (ok : Bool), answers (.finish id ok) s fun e =>
        match x.sessions.find? fun y => y.id == id.toNat && y.done == false with
        | none => error SpdmErr.sessionRequired 0 e
        | some _ => if ok then answer 0x65 0 0 [] e ∧ e.sec.sessions = x.sessions.map fun y => if y.id = id.toNat then { y with done := true } else y
          else error SpdmErr.decryptError 0 e ∧ e.sec.sessions = x.sessions.filter fun y => y.id != id.toNat) ∧
      (∀ (id : BitVec 32) (op tag : Byte),
        if (x.sessions.find? fun y => y.id == id.toNat && y.done == true).isSome then
          answers (.heartbeat id) s (answer 0x68 0 0 []) ∧
          (answers (.keyUpdate id op tag) s fun e => if 1 ≤ op.toNat ∧ op.toNat ≤ 3 then answer 0x69 op.toNat tag.toNat [] e ∧
            e.sec.sessions = x.sessions.map fun y => if y.id = id.toNat then { y with keys := y.keys + if op = 3 then 0 else 1 } else y
            else error SpdmErr.invalidRequest 0 e) ∧
          answers (.endSession id) s fun e => answer 0x6C 0 0 [] e ∧ e.sec.sessions = x.sessions.filter fun y => y.id != id.toNat
        else ∀ i ∈ [Instr.heartbeat id, .keyUpdate id op tag, .endSession id], answers i s (error SpdmErr.sessionRequired 0)) ∧
      (∀ (session : Option (BitVec 32)) (stream : Byte) (set dir : Fin 2) (sub : Fin 3),
        (let k := keySlot set dir sub
        let ack := fun st => answer 0x7E 0 0 ([3, 0, 0] ++ natLe 1 stream.toNat ++ natLe 1 st ++ natLe 1 k ++ [0])
        if x.sessions.any fun y => some y.id == session.map BitVec.toNat && y.done then
          answers (.ideKmQuery session) s (answer 0x7E 0 0 ([1, 0, 0, 0, 0, 0, 0] ++ natLe 4 1 ++ natLe 4 (s.dev.fld Reg.SEC_STATUS_IDE))) ∧
          (answers (.keyProg session stream set dir sub) s fun e => if stream = 0 then ack 0 e ∧ k ∈ e.sec.keys
            else ack 3 e ∧ plus Cnt.SEC_SPDM_ERR_CNT e) ∧
          (answers (.kSetGo session set dir sub) s fun e => answer 0x7E 0 0 ([6, 0, 0, 0, 0] ++ natLe 1 k ++ [0]) e ∧
            (k ∈ x.keys → k ∉ x.going → k ∈ e.sec.going ∧ secure e)) ∧
          answers (.kSetStop session set dir sub) s fun e => answer 0x7E 0 0 ([6, 0, 0, 0, 0] ++ natLe 1 k ++ [0]) e ∧
            k ∉ e.sec.keys ∧ k ∉ e.sec.going ∧ secure e
        else (answers (.keyProg session stream set dir sub) s fun e => ack 4 e ∧ plus Cnt.SEC_SPDM_ERR_CNT e) ∧
          ∀ i ∈ [Instr.ideKmQuery session, .kSetGo session set dir sub, .kSetStop session set dir sub],
            answers i s (error SpdmErr.sessionRequired 0))) ∧
      ∀ code : Byte, answers (.spdmUnsupportedRequest code) s (error SpdmErr.unsupportedRequest code.toNat)) ∧
    (∀ v : BitVec 32, if v.toNat % 2 = 1 then answers (.secLock v) s fun e => e.sec.locked = true
      else exec (.secLock v) s = .next ⟨s.dev.quiet, s.pending⟩) ∧
    if s.dev.fld Reg.SEC_STATUS_IDE = ideSecure then answers .ideIntegrityFail s fun e => plus Cnt.SEC_IDE_ERR_CNT e ∧
      e.fld Reg.SEC_STATUS_IDE = ideInsecure ∧ e.fld Reg.HIF_LINK_IDE = 0 ∧ e.sec.keys = [] ∧ e.sec.going = []
    else exec .ideIntegrityFail s = .next ⟨s.dev.quiet, s.pending⟩)
end

