-- ==== Sys2Proof/Laws/State.lean ====
section
/-!
SUPPORT. What each update of the device leaves alone: one lemma per field and update, true by definition.
-/

namespace Sys2Proof.Machine

@[simp] theorem Dev.quiet_regs (d : Dev) : (d.quiet).regs = d.regs := rfl
@[simp] theorem Dev.quiet_cnt (d : Dev) : (d.quiet).cnt = d.cnt := rfl
@[simp] theorem Dev.quiet_latch (d : Dev) : (d.quiet).latch = d.latch := rfl
@[simp] theorem Dev.quiet_mem (d : Dev) : (d.quiet).mem = d.mem := rfl
@[simp] theorem Dev.quiet_lsEpoch (d : Dev) : (d.quiet).lsEpoch = d.lsEpoch := rfl
@[simp] theorem Dev.quiet_split (d : Dev) : (d.quiet).split = d.split := rfl
@[simp] theorem Dev.quiet_poison (d : Dev) : (d.quiet).poison = d.poison := rfl
@[simp] theorem Dev.quiet_draws (d : Dev) : (d.quiet).draws = d.draws := rfl
@[simp] theorem Dev.quiet_frm (d : Dev) : (d.quiet).frm = d.frm := rfl
@[simp] theorem Dev.quiet_variants (d : Dev) : (d.quiet).variants = d.variants := rfl
@[simp] theorem Dev.quiet_run (d : Dev) : (d.quiet).run = d.run := rfl
@[simp] theorem Dev.quiet_late (d : Dev) : (d.quiet).late = d.late := rfl
@[simp] theorem Dev.quiet_cells (d : Dev) : (d.quiet).cells = d.cells := rfl
@[simp] theorem Dev.quiet_rmOpen (d : Dev) : (d.quiet).rmOpen = d.rmOpen := rfl
@[simp] theorem Dev.quiet_rmStats (d : Dev) : (d.quiet).rmStats = d.rmStats := rfl
@[simp] theorem Dev.quiet_spg (d : Dev) : (d.quiet).spg = d.spg := rfl
@[simp] theorem Dev.quiet_rack (d : Dev) : (d.quiet).rack = d.rack := rfl
@[simp] theorem Dev.quiet_kln (d : Dev) : (d.quiet).kln = d.kln := rfl
@[simp] theorem Dev.quiet_mxc (d : Dev) : (d.quiet).mxc = d.mxc := rfl
@[simp] theorem Dev.quiet_num (d : Dev) : (d.quiet).num = d.num := rfl
@[simp] theorem Dev.quiet_red (d : Dev) : (d.quiet).red = d.red := rfl
@[simp] theorem Dev.quiet_pnd (d : Dev) : (d.quiet).pnd = d.pnd := rfl
@[simp] theorem Dev.quiet_fab (d : Dev) : (d.quiet).fab = d.fab := rfl
@[simp] theorem Dev.quiet_hif (d : Dev) : (d.quiet).hif = d.hif := rfl
@[simp] theorem Dev.quiet_mbx (d : Dev) : (d.quiet).mbx = d.mbx := rfl
@[simp] theorem Dev.quiet_flt (d : Dev) : (d.quiet).flt = d.flt := rfl
@[simp] theorem Dev.quiet_gau (d : Dev) : (d.quiet).gau = d.gau := rfl
@[simp] theorem Dev.quiet_pwr (d : Dev) : (d.quiet).pwr = d.pwr := rfl
@[simp] theorem Dev.quiet_sec (d : Dev) : (d.quiet).sec = d.sec := rfl
@[simp] theorem Dev.quiet_tpMode (d : Dev) : (d.quiet).tpMode = d.tpMode := rfl
@[simp] theorem Dev.quiet_tp (d : Dev) : (d.quiet).tp = d.tp := rfl

@[simp] theorem Dev.emit_regs (d : Dev) (o : Out) : (d.emit o).regs = d.regs := rfl
@[simp] theorem Dev.emit_cnt (d : Dev) (o : Out) : (d.emit o).cnt = d.cnt := rfl
@[simp] theorem Dev.emit_latch (d : Dev) (o : Out) : (d.emit o).latch = d.latch := rfl
@[simp] theorem Dev.emit_mem (d : Dev) (o : Out) : (d.emit o).mem = d.mem := rfl
@[simp] theorem Dev.emit_lsEpoch (d : Dev) (o : Out) : (d.emit o).lsEpoch = d.lsEpoch := rfl
@[simp] theorem Dev.emit_split (d : Dev) (o : Out) : (d.emit o).split = d.split := rfl
@[simp] theorem Dev.emit_poison (d : Dev) (o : Out) : (d.emit o).poison = d.poison := rfl
@[simp] theorem Dev.emit_draws (d : Dev) (o : Out) : (d.emit o).draws = d.draws := rfl
@[simp] theorem Dev.emit_frm (d : Dev) (o : Out) : (d.emit o).frm = d.frm := rfl
@[simp] theorem Dev.emit_variants (d : Dev) (o : Out) : (d.emit o).variants = d.variants := rfl
@[simp] theorem Dev.emit_run (d : Dev) (o : Out) : (d.emit o).run = d.run := rfl
@[simp] theorem Dev.emit_late (d : Dev) (o : Out) : (d.emit o).late = d.late := rfl
@[simp] theorem Dev.emit_cells (d : Dev) (o : Out) : (d.emit o).cells = d.cells := rfl
@[simp] theorem Dev.emit_rmOpen (d : Dev) (o : Out) : (d.emit o).rmOpen = d.rmOpen := rfl
@[simp] theorem Dev.emit_rmStats (d : Dev) (o : Out) : (d.emit o).rmStats = d.rmStats := rfl
@[simp] theorem Dev.emit_spg (d : Dev) (o : Out) : (d.emit o).spg = d.spg := rfl
@[simp] theorem Dev.emit_rack (d : Dev) (o : Out) : (d.emit o).rack = d.rack := rfl
@[simp] theorem Dev.emit_kln (d : Dev) (o : Out) : (d.emit o).kln = d.kln := rfl
@[simp] theorem Dev.emit_mxc (d : Dev) (o : Out) : (d.emit o).mxc = d.mxc := rfl
@[simp] theorem Dev.emit_num (d : Dev) (o : Out) : (d.emit o).num = d.num := rfl
@[simp] theorem Dev.emit_red (d : Dev) (o : Out) : (d.emit o).red = d.red := rfl
@[simp] theorem Dev.emit_pnd (d : Dev) (o : Out) : (d.emit o).pnd = d.pnd := rfl
@[simp] theorem Dev.emit_fab (d : Dev) (o : Out) : (d.emit o).fab = d.fab := rfl
@[simp] theorem Dev.emit_hif (d : Dev) (o : Out) : (d.emit o).hif = d.hif := rfl
@[simp] theorem Dev.emit_mbx (d : Dev) (o : Out) : (d.emit o).mbx = d.mbx := rfl
@[simp] theorem Dev.emit_flt (d : Dev) (o : Out) : (d.emit o).flt = d.flt := rfl
@[simp] theorem Dev.emit_gau (d : Dev) (o : Out) : (d.emit o).gau = d.gau := rfl
@[simp] theorem Dev.emit_pwr (d : Dev) (o : Out) : (d.emit o).pwr = d.pwr := rfl
@[simp] theorem Dev.emit_sec (d : Dev) (o : Out) : (d.emit o).sec = d.sec := rfl
@[simp] theorem Dev.emit_tpMode (d : Dev) (o : Out) : (d.emit o).tpMode = d.tpMode := rfl
@[simp] theorem Dev.emit_tp (d : Dev) (o : Out) : (d.emit o).tp = d.tp := rfl

@[simp] theorem Dev.setFld_cnt (d : Dev) (f : Field) (v : Nat) : (d.setFld f v).cnt = d.cnt := rfl
@[simp] theorem Dev.setFld_latch (d : Dev) (f : Field) (v : Nat) : (d.setFld f v).latch = d.latch := rfl
@[simp] theorem Dev.setFld_mem (d : Dev) (f : Field) (v : Nat) : (d.setFld f v).mem = d.mem := rfl
@[simp] theorem Dev.setFld_lsEpoch (d : Dev) (f : Field) (v : Nat) : (d.setFld f v).lsEpoch = d.lsEpoch := rfl
@[simp] theorem Dev.setFld_split (d : Dev) (f : Field) (v : Nat) : (d.setFld f v).split = d.split := rfl
@[simp] theorem Dev.setFld_poison (d : Dev) (f : Field) (v : Nat) : (d.setFld f v).poison = d.poison := rfl
@[simp] theorem Dev.setFld_draws (d : Dev) (f : Field) (v : Nat) : (d.setFld f v).draws = d.draws := rfl
@[simp] theorem Dev.setFld_frm (d : Dev) (f : Field) (v : Nat) : (d.setFld f v).frm = d.frm := rfl
@[simp] theorem Dev.setFld_variants (d : Dev) (f : Field) (v : Nat) : (d.setFld f v).variants = d.variants := rfl
@[simp] theorem Dev.setFld_run (d : Dev) (f : Field) (v : Nat) : (d.setFld f v).run = d.run := rfl
@[simp] theorem Dev.setFld_late (d : Dev) (f : Field) (v : Nat) : (d.setFld f v).late = d.late := rfl
@[simp] theorem Dev.setFld_cells (d : Dev) (f : Field) (v : Nat) : (d.setFld f v).cells = d.cells := rfl
@[simp] theorem Dev.setFld_rmOpen (d : Dev) (f : Field) (v : Nat) : (d.setFld f v).rmOpen = d.rmOpen := rfl
@[simp] theorem Dev.setFld_rmStats (d : Dev) (f : Field) (v : Nat) : (d.setFld f v).rmStats = d.rmStats := rfl
@[simp] theorem Dev.setFld_spg (d : Dev) (f : Field) (v : Nat) : (d.setFld f v).spg = d.spg := rfl
@[simp] theorem Dev.setFld_rack (d : Dev) (f : Field) (v : Nat) : (d.setFld f v).rack = d.rack := rfl
@[simp] theorem Dev.setFld_kln (d : Dev) (f : Field) (v : Nat) : (d.setFld f v).kln = d.kln := rfl
@[simp] theorem Dev.setFld_mxc (d : Dev) (f : Field) (v : Nat) : (d.setFld f v).mxc = d.mxc := rfl
@[simp] theorem Dev.setFld_num (d : Dev) (f : Field) (v : Nat) : (d.setFld f v).num = d.num := rfl
@[simp] theorem Dev.setFld_red (d : Dev) (f : Field) (v : Nat) : (d.setFld f v).red = d.red := rfl
@[simp] theorem Dev.setFld_pnd (d : Dev) (f : Field) (v : Nat) : (d.setFld f v).pnd = d.pnd := rfl
@[simp] theorem Dev.setFld_fab (d : Dev) (f : Field) (v : Nat) : (d.setFld f v).fab = d.fab := rfl
@[simp] theorem Dev.setFld_hif (d : Dev) (f : Field) (v : Nat) : (d.setFld f v).hif = d.hif := rfl
@[simp] theorem Dev.setFld_mbx (d : Dev) (f : Field) (v : Nat) : (d.setFld f v).mbx = d.mbx := rfl
@[simp] theorem Dev.setFld_flt (d : Dev) (f : Field) (v : Nat) : (d.setFld f v).flt = d.flt := rfl
@[simp] theorem Dev.setFld_gau (d : Dev) (f : Field) (v : Nat) : (d.setFld f v).gau = d.gau := rfl
@[simp] theorem Dev.setFld_pwr (d : Dev) (f : Field) (v : Nat) : (d.setFld f v).pwr = d.pwr := rfl
@[simp] theorem Dev.setFld_sec (d : Dev) (f : Field) (v : Nat) : (d.setFld f v).sec = d.sec := rfl
@[simp] theorem Dev.setFld_tpMode (d : Dev) (f : Field) (v : Nat) : (d.setFld f v).tpMode = d.tpMode := rfl
@[simp] theorem Dev.setFld_tp (d : Dev) (f : Field) (v : Nat) : (d.setFld f v).tp = d.tp := rfl
@[simp] theorem Dev.setFld_out (d : Dev) (f : Field) (v : Nat) : (d.setFld f v).out = d.out := rfl

@[simp] theorem Dev.bumpBy_regs (d : Dev) (c n : Nat) : (d.bumpBy c n).regs = d.regs := rfl
@[simp] theorem Dev.bumpBy_latch (d : Dev) (c n : Nat) : (d.bumpBy c n).latch = d.latch := rfl
@[simp] theorem Dev.bumpBy_mem (d : Dev) (c n : Nat) : (d.bumpBy c n).mem = d.mem := rfl
@[simp] theorem Dev.bumpBy_lsEpoch (d : Dev) (c n : Nat) : (d.bumpBy c n).lsEpoch = d.lsEpoch := rfl
@[simp] theorem Dev.bumpBy_split (d : Dev) (c n : Nat) : (d.bumpBy c n).split = d.split := rfl
@[simp] theorem Dev.bumpBy_poison (d : Dev) (c n : Nat) : (d.bumpBy c n).poison = d.poison := rfl
@[simp] theorem Dev.bumpBy_draws (d : Dev) (c n : Nat) : (d.bumpBy c n).draws = d.draws := rfl
@[simp] theorem Dev.bumpBy_frm (d : Dev) (c n : Nat) : (d.bumpBy c n).frm = d.frm := rfl
@[simp] theorem Dev.bumpBy_variants (d : Dev) (c n : Nat) : (d.bumpBy c n).variants = d.variants := rfl
@[simp] theorem Dev.bumpBy_run (d : Dev) (c n : Nat) : (d.bumpBy c n).run = d.run := rfl
@[simp] theorem Dev.bumpBy_late (d : Dev) (c n : Nat) : (d.bumpBy c n).late = d.late := rfl
@[simp] theorem Dev.bumpBy_cells (d : Dev) (c n : Nat) : (d.bumpBy c n).cells = d.cells := rfl
@[simp] theorem Dev.bumpBy_rmOpen (d : Dev) (c n : Nat) : (d.bumpBy c n).rmOpen = d.rmOpen := rfl
@[simp] theorem Dev.bumpBy_rmStats (d : Dev) (c n : Nat) : (d.bumpBy c n).rmStats = d.rmStats := rfl
@[simp] theorem Dev.bumpBy_spg (d : Dev) (c n : Nat) : (d.bumpBy c n).spg = d.spg := rfl
@[simp] theorem Dev.bumpBy_rack (d : Dev) (c n : Nat) : (d.bumpBy c n).rack = d.rack := rfl
@[simp] theorem Dev.bumpBy_kln (d : Dev) (c n : Nat) : (d.bumpBy c n).kln = d.kln := rfl
@[simp] theorem Dev.bumpBy_mxc (d : Dev) (c n : Nat) : (d.bumpBy c n).mxc = d.mxc := rfl
@[simp] theorem Dev.bumpBy_num (d : Dev) (c n : Nat) : (d.bumpBy c n).num = d.num := rfl
@[simp] theorem Dev.bumpBy_red (d : Dev) (c n : Nat) : (d.bumpBy c n).red = d.red := rfl
@[simp] theorem Dev.bumpBy_pnd (d : Dev) (c n : Nat) : (d.bumpBy c n).pnd = d.pnd := rfl
@[simp] theorem Dev.bumpBy_fab (d : Dev) (c n : Nat) : (d.bumpBy c n).fab = d.fab := rfl
@[simp] theorem Dev.bumpBy_hif (d : Dev) (c n : Nat) : (d.bumpBy c n).hif = d.hif := rfl
@[simp] theorem Dev.bumpBy_mbx (d : Dev) (c n : Nat) : (d.bumpBy c n).mbx = d.mbx := rfl
@[simp] theorem Dev.bumpBy_flt (d : Dev) (c n : Nat) : (d.bumpBy c n).flt = d.flt := rfl
@[simp] theorem Dev.bumpBy_gau (d : Dev) (c n : Nat) : (d.bumpBy c n).gau = d.gau := rfl
@[simp] theorem Dev.bumpBy_pwr (d : Dev) (c n : Nat) : (d.bumpBy c n).pwr = d.pwr := rfl
@[simp] theorem Dev.bumpBy_sec (d : Dev) (c n : Nat) : (d.bumpBy c n).sec = d.sec := rfl
@[simp] theorem Dev.bumpBy_tpMode (d : Dev) (c n : Nat) : (d.bumpBy c n).tpMode = d.tpMode := rfl
@[simp] theorem Dev.bumpBy_tp (d : Dev) (c n : Nat) : (d.bumpBy c n).tp = d.tp := rfl
@[simp] theorem Dev.bumpBy_out (d : Dev) (c n : Nat) : (d.bumpBy c n).out = d.out := rfl

@[simp] theorem Dev.bump_regs (d : Dev) (c : Nat) : (d.bump c).regs = d.regs := rfl
@[simp] theorem Dev.bump_latch (d : Dev) (c : Nat) : (d.bump c).latch = d.latch := rfl
@[simp] theorem Dev.bump_mem (d : Dev) (c : Nat) : (d.bump c).mem = d.mem := rfl
@[simp] theorem Dev.bump_lsEpoch (d : Dev) (c : Nat) : (d.bump c).lsEpoch = d.lsEpoch := rfl
@[simp] theorem Dev.bump_split (d : Dev) (c : Nat) : (d.bump c).split = d.split := rfl
@[simp] theorem Dev.bump_poison (d : Dev) (c : Nat) : (d.bump c).poison = d.poison := rfl
@[simp] theorem Dev.bump_draws (d : Dev) (c : Nat) : (d.bump c).draws = d.draws := rfl
@[simp] theorem Dev.bump_frm (d : Dev) (c : Nat) : (d.bump c).frm = d.frm := rfl
@[simp] theorem Dev.bump_variants (d : Dev) (c : Nat) : (d.bump c).variants = d.variants := rfl
@[simp] theorem Dev.bump_run (d : Dev) (c : Nat) : (d.bump c).run = d.run := rfl
@[simp] theorem Dev.bump_late (d : Dev) (c : Nat) : (d.bump c).late = d.late := rfl
@[simp] theorem Dev.bump_cells (d : Dev) (c : Nat) : (d.bump c).cells = d.cells := rfl
@[simp] theorem Dev.bump_rmOpen (d : Dev) (c : Nat) : (d.bump c).rmOpen = d.rmOpen := rfl
@[simp] theorem Dev.bump_rmStats (d : Dev) (c : Nat) : (d.bump c).rmStats = d.rmStats := rfl
@[simp] theorem Dev.bump_spg (d : Dev) (c : Nat) : (d.bump c).spg = d.spg := rfl
@[simp] theorem Dev.bump_rack (d : Dev) (c : Nat) : (d.bump c).rack = d.rack := rfl
@[simp] theorem Dev.bump_kln (d : Dev) (c : Nat) : (d.bump c).kln = d.kln := rfl
@[simp] theorem Dev.bump_mxc (d : Dev) (c : Nat) : (d.bump c).mxc = d.mxc := rfl
@[simp] theorem Dev.bump_num (d : Dev) (c : Nat) : (d.bump c).num = d.num := rfl
@[simp] theorem Dev.bump_red (d : Dev) (c : Nat) : (d.bump c).red = d.red := rfl
@[simp] theorem Dev.bump_pnd (d : Dev) (c : Nat) : (d.bump c).pnd = d.pnd := rfl
@[simp] theorem Dev.bump_fab (d : Dev) (c : Nat) : (d.bump c).fab = d.fab := rfl
@[simp] theorem Dev.bump_hif (d : Dev) (c : Nat) : (d.bump c).hif = d.hif := rfl
@[simp] theorem Dev.bump_mbx (d : Dev) (c : Nat) : (d.bump c).mbx = d.mbx := rfl
@[simp] theorem Dev.bump_flt (d : Dev) (c : Nat) : (d.bump c).flt = d.flt := rfl
@[simp] theorem Dev.bump_gau (d : Dev) (c : Nat) : (d.bump c).gau = d.gau := rfl
@[simp] theorem Dev.bump_pwr (d : Dev) (c : Nat) : (d.bump c).pwr = d.pwr := rfl
@[simp] theorem Dev.bump_sec (d : Dev) (c : Nat) : (d.bump c).sec = d.sec := rfl
@[simp] theorem Dev.bump_tpMode (d : Dev) (c : Nat) : (d.bump c).tpMode = d.tpMode := rfl
@[simp] theorem Dev.bump_tp (d : Dev) (c : Nat) : (d.bump c).tp = d.tp := rfl
@[simp] theorem Dev.bump_out (d : Dev) (c : Nat) : (d.bump c).out = d.out := rfl

@[simp] theorem Dev.setByte_regs (d : Dev) (a : Nat) (b : Byte) : (d.setByte a b).regs = d.regs := rfl
@[simp] theorem Dev.setByte_cnt (d : Dev) (a : Nat) (b : Byte) : (d.setByte a b).cnt = d.cnt := rfl
@[simp] theorem Dev.setByte_latch (d : Dev) (a : Nat) (b : Byte) : (d.setByte a b).latch = d.latch := rfl
@[simp] theorem Dev.setByte_lsEpoch (d : Dev) (a : Nat) (b : Byte) : (d.setByte a b).lsEpoch = d.lsEpoch := rfl
@[simp] theorem Dev.setByte_split (d : Dev) (a : Nat) (b : Byte) : (d.setByte a b).split = d.split := rfl
@[simp] theorem Dev.setByte_poison (d : Dev) (a : Nat) (b : Byte) : (d.setByte a b).poison = d.poison := rfl
@[simp] theorem Dev.setByte_draws (d : Dev) (a : Nat) (b : Byte) : (d.setByte a b).draws = d.draws := rfl
@[simp] theorem Dev.setByte_frm (d : Dev) (a : Nat) (b : Byte) : (d.setByte a b).frm = d.frm := rfl
@[simp] theorem Dev.setByte_variants (d : Dev) (a : Nat) (b : Byte) : (d.setByte a b).variants = d.variants := rfl
@[simp] theorem Dev.setByte_run (d : Dev) (a : Nat) (b : Byte) : (d.setByte a b).run = d.run := rfl
@[simp] theorem Dev.setByte_late (d : Dev) (a : Nat) (b : Byte) : (d.setByte a b).late = d.late := rfl
@[simp] theorem Dev.setByte_cells (d : Dev) (a : Nat) (b : Byte) : (d.setByte a b).cells = d.cells := rfl
@[simp] theorem Dev.setByte_rmOpen (d : Dev) (a : Nat) (b : Byte) : (d.setByte a b).rmOpen = d.rmOpen := rfl
@[simp] theorem Dev.setByte_rmStats (d : Dev) (a : Nat) (b : Byte) : (d.setByte a b).rmStats = d.rmStats := rfl
@[simp] theorem Dev.setByte_spg (d : Dev) (a : Nat) (b : Byte) : (d.setByte a b).spg = d.spg := rfl
@[simp] theorem Dev.setByte_rack (d : Dev) (a : Nat) (b : Byte) : (d.setByte a b).rack = d.rack := rfl
@[simp] theorem Dev.setByte_kln (d : Dev) (a : Nat) (b : Byte) : (d.setByte a b).kln = d.kln := rfl
@[simp] theorem Dev.setByte_mxc (d : Dev) (a : Nat) (b : Byte) : (d.setByte a b).mxc = d.mxc := rfl
@[simp] theorem Dev.setByte_num (d : Dev) (a : Nat) (b : Byte) : (d.setByte a b).num = d.num := rfl
@[simp] theorem Dev.setByte_red (d : Dev) (a : Nat) (b : Byte) : (d.setByte a b).red = d.red := rfl
@[simp] theorem Dev.setByte_pnd (d : Dev) (a : Nat) (b : Byte) : (d.setByte a b).pnd = d.pnd := rfl
@[simp] theorem Dev.setByte_fab (d : Dev) (a : Nat) (b : Byte) : (d.setByte a b).fab = d.fab := rfl
@[simp] theorem Dev.setByte_hif (d : Dev) (a : Nat) (b : Byte) : (d.setByte a b).hif = d.hif := rfl
@[simp] theorem Dev.setByte_mbx (d : Dev) (a : Nat) (b : Byte) : (d.setByte a b).mbx = d.mbx := rfl
@[simp] theorem Dev.setByte_flt (d : Dev) (a : Nat) (b : Byte) : (d.setByte a b).flt = d.flt := rfl
@[simp] theorem Dev.setByte_gau (d : Dev) (a : Nat) (b : Byte) : (d.setByte a b).gau = d.gau := rfl
@[simp] theorem Dev.setByte_pwr (d : Dev) (a : Nat) (b : Byte) : (d.setByte a b).pwr = d.pwr := rfl
@[simp] theorem Dev.setByte_sec (d : Dev) (a : Nat) (b : Byte) : (d.setByte a b).sec = d.sec := rfl
@[simp] theorem Dev.setByte_tpMode (d : Dev) (a : Nat) (b : Byte) : (d.setByte a b).tpMode = d.tpMode := rfl
@[simp] theorem Dev.setByte_tp (d : Dev) (a : Nat) (b : Byte) : (d.setByte a b).tp = d.tp := rfl
@[simp] theorem Dev.setByte_out (d : Dev) (a : Nat) (b : Byte) : (d.setByte a b).out = d.out := rfl

@[simp] theorem Dev.write_regs (d : Dev) (a : Nat) (bs : List Byte) : (d.write a bs).regs = d.regs := rfl
@[simp] theorem Dev.write_cnt (d : Dev) (a : Nat) (bs : List Byte) : (d.write a bs).cnt = d.cnt := rfl
@[simp] theorem Dev.write_latch (d : Dev) (a : Nat) (bs : List Byte) : (d.write a bs).latch = d.latch := rfl
@[simp] theorem Dev.write_lsEpoch (d : Dev) (a : Nat) (bs : List Byte) : (d.write a bs).lsEpoch = d.lsEpoch := rfl
@[simp] theorem Dev.write_split (d : Dev) (a : Nat) (bs : List Byte) : (d.write a bs).split = d.split := rfl
@[simp] theorem Dev.write_draws (d : Dev) (a : Nat) (bs : List Byte) : (d.write a bs).draws = d.draws := rfl
@[simp] theorem Dev.write_frm (d : Dev) (a : Nat) (bs : List Byte) : (d.write a bs).frm = d.frm := rfl
@[simp] theorem Dev.write_variants (d : Dev) (a : Nat) (bs : List Byte) : (d.write a bs).variants = d.variants := rfl
@[simp] theorem Dev.write_run (d : Dev) (a : Nat) (bs : List Byte) : (d.write a bs).run = d.run := rfl
@[simp] theorem Dev.write_late (d : Dev) (a : Nat) (bs : List Byte) : (d.write a bs).late = d.late := rfl
@[simp] theorem Dev.write_cells (d : Dev) (a : Nat) (bs : List Byte) : (d.write a bs).cells = d.cells := rfl
@[simp] theorem Dev.write_rmOpen (d : Dev) (a : Nat) (bs : List Byte) : (d.write a bs).rmOpen = d.rmOpen := rfl
@[simp] theorem Dev.write_rmStats (d : Dev) (a : Nat) (bs : List Byte) : (d.write a bs).rmStats = d.rmStats := rfl
@[simp] theorem Dev.write_spg (d : Dev) (a : Nat) (bs : List Byte) : (d.write a bs).spg = d.spg := rfl
@[simp] theorem Dev.write_rack (d : Dev) (a : Nat) (bs : List Byte) : (d.write a bs).rack = d.rack := rfl
@[simp] theorem Dev.write_kln (d : Dev) (a : Nat) (bs : List Byte) : (d.write a bs).kln = d.kln := rfl
@[simp] theorem Dev.write_mxc (d : Dev) (a : Nat) (bs : List Byte) : (d.write a bs).mxc = d.mxc := rfl
@[simp] theorem Dev.write_num (d : Dev) (a : Nat) (bs : List Byte) : (d.write a bs).num = d.num := rfl
@[simp] theorem Dev.write_red (d : Dev) (a : Nat) (bs : List Byte) : (d.write a bs).red = d.red := rfl
@[simp] theorem Dev.write_pnd (d : Dev) (a : Nat) (bs : List Byte) : (d.write a bs).pnd = d.pnd := rfl
@[simp] theorem Dev.write_fab (d : Dev) (a : Nat) (bs : List Byte) : (d.write a bs).fab = d.fab := rfl
@[simp] theorem Dev.write_hif (d : Dev) (a : Nat) (bs : List Byte) : (d.write a bs).hif = d.hif := rfl
@[simp] theorem Dev.write_mbx (d : Dev) (a : Nat) (bs : List Byte) : (d.write a bs).mbx = d.mbx := rfl
@[simp] theorem Dev.write_flt (d : Dev) (a : Nat) (bs : List Byte) : (d.write a bs).flt = d.flt := rfl
@[simp] theorem Dev.write_gau (d : Dev) (a : Nat) (bs : List Byte) : (d.write a bs).gau = d.gau := rfl
@[simp] theorem Dev.write_pwr (d : Dev) (a : Nat) (bs : List Byte) : (d.write a bs).pwr = d.pwr := rfl
@[simp] theorem Dev.write_sec (d : Dev) (a : Nat) (bs : List Byte) : (d.write a bs).sec = d.sec := rfl
@[simp] theorem Dev.write_tpMode (d : Dev) (a : Nat) (bs : List Byte) : (d.write a bs).tpMode = d.tpMode := rfl
@[simp] theorem Dev.write_tp (d : Dev) (a : Nat) (bs : List Byte) : (d.write a bs).tp = d.tp := rfl
@[simp] theorem Dev.write_out (d : Dev) (a : Nat) (bs : List Byte) : (d.write a bs).out = d.out := rfl

@[simp] theorem Dev.wr_regs (d : Dev) (a n v : Nat) : (d.wr a n v).regs = d.regs := rfl
@[simp] theorem Dev.wr_cnt (d : Dev) (a n v : Nat) : (d.wr a n v).cnt = d.cnt := rfl
@[simp] theorem Dev.wr_latch (d : Dev) (a n v : Nat) : (d.wr a n v).latch = d.latch := rfl
@[simp] theorem Dev.wr_lsEpoch (d : Dev) (a n v : Nat) : (d.wr a n v).lsEpoch = d.lsEpoch := rfl
@[simp] theorem Dev.wr_split (d : Dev) (a n v : Nat) : (d.wr a n v).split = d.split := rfl
@[simp] theorem Dev.wr_draws (d : Dev) (a n v : Nat) : (d.wr a n v).draws = d.draws := rfl
@[simp] theorem Dev.wr_frm (d : Dev) (a n v : Nat) : (d.wr a n v).frm = d.frm := rfl
@[simp] theorem Dev.wr_variants (d : Dev) (a n v : Nat) : (d.wr a n v).variants = d.variants := rfl
@[simp] theorem Dev.wr_run (d : Dev) (a n v : Nat) : (d.wr a n v).run = d.run := rfl
@[simp] theorem Dev.wr_late (d : Dev) (a n v : Nat) : (d.wr a n v).late = d.late := rfl
@[simp] theorem Dev.wr_cells (d : Dev) (a n v : Nat) : (d.wr a n v).cells = d.cells := rfl
@[simp] theorem Dev.wr_rmOpen (d : Dev) (a n v : Nat) : (d.wr a n v).rmOpen = d.rmOpen := rfl
@[simp] theorem Dev.wr_rmStats (d : Dev) (a n v : Nat) : (d.wr a n v).rmStats = d.rmStats := rfl
@[simp] theorem Dev.wr_spg (d : Dev) (a n v : Nat) : (d.wr a n v).spg = d.spg := rfl
@[simp] theorem Dev.wr_rack (d : Dev) (a n v : Nat) : (d.wr a n v).rack = d.rack := rfl
@[simp] theorem Dev.wr_kln (d : Dev) (a n v : Nat) : (d.wr a n v).kln = d.kln := rfl
@[simp] theorem Dev.wr_mxc (d : Dev) (a n v : Nat) : (d.wr a n v).mxc = d.mxc := rfl
@[simp] theorem Dev.wr_num (d : Dev) (a n v : Nat) : (d.wr a n v).num = d.num := rfl
@[simp] theorem Dev.wr_red (d : Dev) (a n v : Nat) : (d.wr a n v).red = d.red := rfl
@[simp] theorem Dev.wr_pnd (d : Dev) (a n v : Nat) : (d.wr a n v).pnd = d.pnd := rfl
@[simp] theorem Dev.wr_fab (d : Dev) (a n v : Nat) : (d.wr a n v).fab = d.fab := rfl
@[simp] theorem Dev.wr_hif (d : Dev) (a n v : Nat) : (d.wr a n v).hif = d.hif := rfl
@[simp] theorem Dev.wr_mbx (d : Dev) (a n v : Nat) : (d.wr a n v).mbx = d.mbx := rfl
@[simp] theorem Dev.wr_flt (d : Dev) (a n v : Nat) : (d.wr a n v).flt = d.flt := rfl
@[simp] theorem Dev.wr_gau (d : Dev) (a n v : Nat) : (d.wr a n v).gau = d.gau := rfl
@[simp] theorem Dev.wr_pwr (d : Dev) (a n v : Nat) : (d.wr a n v).pwr = d.pwr := rfl
@[simp] theorem Dev.wr_sec (d : Dev) (a n v : Nat) : (d.wr a n v).sec = d.sec := rfl
@[simp] theorem Dev.wr_tpMode (d : Dev) (a n v : Nat) : (d.wr a n v).tpMode = d.tpMode := rfl
@[simp] theorem Dev.wr_tp (d : Dev) (a n v : Nat) : (d.wr a n v).tp = d.tp := rfl
@[simp] theorem Dev.wr_out (d : Dev) (a n v : Nat) : (d.wr a n v).out = d.out := rfl

@[simp] theorem Dev.setRunning_regs (d : Dev) (k : Nat) (r : Option Running) : (d.setRunning k r).regs = d.regs := rfl
@[simp] theorem Dev.setRunning_cnt (d : Dev) (k : Nat) (r : Option Running) : (d.setRunning k r).cnt = d.cnt := rfl
@[simp] theorem Dev.setRunning_latch (d : Dev) (k : Nat) (r : Option Running) : (d.setRunning k r).latch = d.latch := rfl
@[simp] theorem Dev.setRunning_mem (d : Dev) (k : Nat) (r : Option Running) : (d.setRunning k r).mem = d.mem := rfl
@[simp] theorem Dev.setRunning_lsEpoch (d : Dev) (k : Nat) (r : Option Running) : (d.setRunning k r).lsEpoch = d.lsEpoch := rfl
@[simp] theorem Dev.setRunning_split (d : Dev) (k : Nat) (r : Option Running) : (d.setRunning k r).split = d.split := rfl
@[simp] theorem Dev.setRunning_poison (d : Dev) (k : Nat) (r : Option Running) : (d.setRunning k r).poison = d.poison := rfl
@[simp] theorem Dev.setRunning_draws (d : Dev) (k : Nat) (r : Option Running) : (d.setRunning k r).draws = d.draws := rfl
@[simp] theorem Dev.setRunning_frm (d : Dev) (k : Nat) (r : Option Running) : (d.setRunning k r).frm = d.frm := rfl
@[simp] theorem Dev.setRunning_variants (d : Dev) (k : Nat) (r : Option Running) : (d.setRunning k r).variants = d.variants := rfl
@[simp] theorem Dev.setRunning_late (d : Dev) (k : Nat) (r : Option Running) : (d.setRunning k r).late = d.late := rfl
@[simp] theorem Dev.setRunning_cells (d : Dev) (k : Nat) (r : Option Running) : (d.setRunning k r).cells = d.cells := rfl
@[simp] theorem Dev.setRunning_rmOpen (d : Dev) (k : Nat) (r : Option Running) : (d.setRunning k r).rmOpen = d.rmOpen := rfl
@[simp] theorem Dev.setRunning_rmStats (d : Dev) (k : Nat) (r : Option Running) : (d.setRunning k r).rmStats = d.rmStats := rfl
@[simp] theorem Dev.setRunning_spg (d : Dev) (k : Nat) (r : Option Running) : (d.setRunning k r).spg = d.spg := rfl
@[simp] theorem Dev.setRunning_rack (d : Dev) (k : Nat) (r : Option Running) : (d.setRunning k r).rack = d.rack := rfl
@[simp] theorem Dev.setRunning_kln (d : Dev) (k : Nat) (r : Option Running) : (d.setRunning k r).kln = d.kln := rfl
@[simp] theorem Dev.setRunning_mxc (d : Dev) (k : Nat) (r : Option Running) : (d.setRunning k r).mxc = d.mxc := rfl
@[simp] theorem Dev.setRunning_num (d : Dev) (k : Nat) (r : Option Running) : (d.setRunning k r).num = d.num := rfl
@[simp] theorem Dev.setRunning_red (d : Dev) (k : Nat) (r : Option Running) : (d.setRunning k r).red = d.red := rfl
@[simp] theorem Dev.setRunning_pnd (d : Dev) (k : Nat) (r : Option Running) : (d.setRunning k r).pnd = d.pnd := rfl
@[simp] theorem Dev.setRunning_fab (d : Dev) (k : Nat) (r : Option Running) : (d.setRunning k r).fab = d.fab := rfl
@[simp] theorem Dev.setRunning_hif (d : Dev) (k : Nat) (r : Option Running) : (d.setRunning k r).hif = d.hif := rfl
@[simp] theorem Dev.setRunning_mbx (d : Dev) (k : Nat) (r : Option Running) : (d.setRunning k r).mbx = d.mbx := rfl
@[simp] theorem Dev.setRunning_flt (d : Dev) (k : Nat) (r : Option Running) : (d.setRunning k r).flt = d.flt := rfl
@[simp] theorem Dev.setRunning_gau (d : Dev) (k : Nat) (r : Option Running) : (d.setRunning k r).gau = d.gau := rfl
@[simp] theorem Dev.setRunning_pwr (d : Dev) (k : Nat) (r : Option Running) : (d.setRunning k r).pwr = d.pwr := rfl
@[simp] theorem Dev.setRunning_sec (d : Dev) (k : Nat) (r : Option Running) : (d.setRunning k r).sec = d.sec := rfl
@[simp] theorem Dev.setRunning_tpMode (d : Dev) (k : Nat) (r : Option Running) : (d.setRunning k r).tpMode = d.tpMode := rfl
@[simp] theorem Dev.setRunning_tp (d : Dev) (k : Nat) (r : Option Running) : (d.setRunning k r).tp = d.tp := rfl
@[simp] theorem Dev.setRunning_out (d : Dev) (k : Nat) (r : Option Running) : (d.setRunning k r).out = d.out := rfl

@[simp] theorem Dev.setLane_regs (d : Dev) (c r lane v : Nat) : (d.setLane c r lane v).regs = d.regs := rfl
@[simp] theorem Dev.setLane_cnt (d : Dev) (c r lane v : Nat) : (d.setLane c r lane v).cnt = d.cnt := rfl
@[simp] theorem Dev.setLane_latch (d : Dev) (c r lane v : Nat) : (d.setLane c r lane v).latch = d.latch := rfl
@[simp] theorem Dev.setLane_mem (d : Dev) (c r lane v : Nat) : (d.setLane c r lane v).mem = d.mem := rfl
@[simp] theorem Dev.setLane_lsEpoch (d : Dev) (c r lane v : Nat) : (d.setLane c r lane v).lsEpoch = d.lsEpoch := rfl
@[simp] theorem Dev.setLane_split (d : Dev) (c r lane v : Nat) : (d.setLane c r lane v).split = d.split := rfl
@[simp] theorem Dev.setLane_poison (d : Dev) (c r lane v : Nat) : (d.setLane c r lane v).poison = d.poison := rfl
@[simp] theorem Dev.setLane_draws (d : Dev) (c r lane v : Nat) : (d.setLane c r lane v).draws = d.draws := rfl
@[simp] theorem Dev.setLane_frm (d : Dev) (c r lane v : Nat) : (d.setLane c r lane v).frm = d.frm := rfl
@[simp] theorem Dev.setLane_variants (d : Dev) (c r lane v : Nat) : (d.setLane c r lane v).variants = d.variants := rfl
@[simp] theorem Dev.setLane_run (d : Dev) (c r lane v : Nat) : (d.setLane c r lane v).run = d.run := rfl
@[simp] theorem Dev.setLane_late (d : Dev) (c r lane v : Nat) : (d.setLane c r lane v).late = d.late := rfl
@[simp] theorem Dev.setLane_cells (d : Dev) (c r lane v : Nat) : (d.setLane c r lane v).cells = d.cells := rfl
@[simp] theorem Dev.setLane_rmOpen (d : Dev) (c r lane v : Nat) : (d.setLane c r lane v).rmOpen = d.rmOpen := rfl
@[simp] theorem Dev.setLane_rmStats (d : Dev) (c r lane v : Nat) : (d.setLane c r lane v).rmStats = d.rmStats := rfl
@[simp] theorem Dev.setLane_spg (d : Dev) (c r lane v : Nat) : (d.setLane c r lane v).spg = d.spg := rfl
@[simp] theorem Dev.setLane_rack (d : Dev) (c r lane v : Nat) : (d.setLane c r lane v).rack = d.rack := rfl
@[simp] theorem Dev.setLane_kln (d : Dev) (c r lane v : Nat) : (d.setLane c r lane v).kln = d.kln := rfl
@[simp] theorem Dev.setLane_num (d : Dev) (c r lane v : Nat) : (d.setLane c r lane v).num = d.num := rfl
@[simp] theorem Dev.setLane_red (d : Dev) (c r lane v : Nat) : (d.setLane c r lane v).red = d.red := rfl
@[simp] theorem Dev.setLane_pnd (d : Dev) (c r lane v : Nat) : (d.setLane c r lane v).pnd = d.pnd := rfl
@[simp] theorem Dev.setLane_fab (d : Dev) (c r lane v : Nat) : (d.setLane c r lane v).fab = d.fab := rfl
@[simp] theorem Dev.setLane_hif (d : Dev) (c r lane v : Nat) : (d.setLane c r lane v).hif = d.hif := rfl
@[simp] theorem Dev.setLane_mbx (d : Dev) (c r lane v : Nat) : (d.setLane c r lane v).mbx = d.mbx := rfl
@[simp] theorem Dev.setLane_flt (d : Dev) (c r lane v : Nat) : (d.setLane c r lane v).flt = d.flt := rfl
@[simp] theorem Dev.setLane_gau (d : Dev) (c r lane v : Nat) : (d.setLane c r lane v).gau = d.gau := rfl
@[simp] theorem Dev.setLane_pwr (d : Dev) (c r lane v : Nat) : (d.setLane c r lane v).pwr = d.pwr := rfl
@[simp] theorem Dev.setLane_sec (d : Dev) (c r lane v : Nat) : (d.setLane c r lane v).sec = d.sec := rfl
@[simp] theorem Dev.setLane_tpMode (d : Dev) (c r lane v : Nat) : (d.setLane c r lane v).tpMode = d.tpMode := rfl
@[simp] theorem Dev.setLane_tp (d : Dev) (c r lane v : Nat) : (d.setLane c r lane v).tp = d.tp := rfl
@[simp] theorem Dev.setLane_out (d : Dev) (c r lane v : Nat) : (d.setLane c r lane v).out = d.out := rfl

@[simp] theorem Dev.setScalar_regs (d : Dev) (c i v : Nat) : (d.setScalar c i v).regs = d.regs := rfl
@[simp] theorem Dev.setScalar_cnt (d : Dev) (c i v : Nat) : (d.setScalar c i v).cnt = d.cnt := rfl
@[simp] theorem Dev.setScalar_latch (d : Dev) (c i v : Nat) : (d.setScalar c i v).latch = d.latch := rfl
@[simp] theorem Dev.setScalar_mem (d : Dev) (c i v : Nat) : (d.setScalar c i v).mem = d.mem := rfl
@[simp] theorem Dev.setScalar_lsEpoch (d : Dev) (c i v : Nat) : (d.setScalar c i v).lsEpoch = d.lsEpoch := rfl
@[simp] theorem Dev.setScalar_split (d : Dev) (c i v : Nat) : (d.setScalar c i v).split = d.split := rfl
@[simp] theorem Dev.setScalar_poison (d : Dev) (c i v : Nat) : (d.setScalar c i v).poison = d.poison := rfl
@[simp] theorem Dev.setScalar_draws (d : Dev) (c i v : Nat) : (d.setScalar c i v).draws = d.draws := rfl
@[simp] theorem Dev.setScalar_frm (d : Dev) (c i v : Nat) : (d.setScalar c i v).frm = d.frm := rfl
@[simp] theorem Dev.setScalar_variants (d : Dev) (c i v : Nat) : (d.setScalar c i v).variants = d.variants := rfl
@[simp] theorem Dev.setScalar_run (d : Dev) (c i v : Nat) : (d.setScalar c i v).run = d.run := rfl
@[simp] theorem Dev.setScalar_late (d : Dev) (c i v : Nat) : (d.setScalar c i v).late = d.late := rfl
@[simp] theorem Dev.setScalar_cells (d : Dev) (c i v : Nat) : (d.setScalar c i v).cells = d.cells := rfl
@[simp] theorem Dev.setScalar_rmOpen (d : Dev) (c i v : Nat) : (d.setScalar c i v).rmOpen = d.rmOpen := rfl
@[simp] theorem Dev.setScalar_rmStats (d : Dev) (c i v : Nat) : (d.setScalar c i v).rmStats = d.rmStats := rfl
@[simp] theorem Dev.setScalar_spg (d : Dev) (c i v : Nat) : (d.setScalar c i v).spg = d.spg := rfl
@[simp] theorem Dev.setScalar_rack (d : Dev) (c i v : Nat) : (d.setScalar c i v).rack = d.rack := rfl
@[simp] theorem Dev.setScalar_kln (d : Dev) (c i v : Nat) : (d.setScalar c i v).kln = d.kln := rfl
@[simp] theorem Dev.setScalar_num (d : Dev) (c i v : Nat) : (d.setScalar c i v).num = d.num := rfl
@[simp] theorem Dev.setScalar_red (d : Dev) (c i v : Nat) : (d.setScalar c i v).red = d.red := rfl
@[simp] theorem Dev.setScalar_pnd (d : Dev) (c i v : Nat) : (d.setScalar c i v).pnd = d.pnd := rfl
@[simp] theorem Dev.setScalar_fab (d : Dev) (c i v : Nat) : (d.setScalar c i v).fab = d.fab := rfl
@[simp] theorem Dev.setScalar_hif (d : Dev) (c i v : Nat) : (d.setScalar c i v).hif = d.hif := rfl
@[simp] theorem Dev.setScalar_mbx (d : Dev) (c i v : Nat) : (d.setScalar c i v).mbx = d.mbx := rfl
@[simp] theorem Dev.setScalar_flt (d : Dev) (c i v : Nat) : (d.setScalar c i v).flt = d.flt := rfl
@[simp] theorem Dev.setScalar_gau (d : Dev) (c i v : Nat) : (d.setScalar c i v).gau = d.gau := rfl
@[simp] theorem Dev.setScalar_pwr (d : Dev) (c i v : Nat) : (d.setScalar c i v).pwr = d.pwr := rfl
@[simp] theorem Dev.setScalar_sec (d : Dev) (c i v : Nat) : (d.setScalar c i v).sec = d.sec := rfl
@[simp] theorem Dev.setScalar_tpMode (d : Dev) (c i v : Nat) : (d.setScalar c i v).tpMode = d.tpMode := rfl
@[simp] theorem Dev.setScalar_tp (d : Dev) (c i v : Nat) : (d.setScalar c i v).tp = d.tp := rfl
@[simp] theorem Dev.setScalar_out (d : Dev) (c i v : Nat) : (d.setScalar c i v).out = d.out := rfl

@[simp] theorem Dev.setHif_regs (d : Dev) (f : Hif → Hif) : (d.setHif f).regs = d.regs := rfl
@[simp] theorem Dev.setHif_cnt (d : Dev) (f : Hif → Hif) : (d.setHif f).cnt = d.cnt := rfl
@[simp] theorem Dev.setHif_latch (d : Dev) (f : Hif → Hif) : (d.setHif f).latch = d.latch := rfl
@[simp] theorem Dev.setHif_mem (d : Dev) (f : Hif → Hif) : (d.setHif f).mem = d.mem := rfl
@[simp] theorem Dev.setHif_lsEpoch (d : Dev) (f : Hif → Hif) : (d.setHif f).lsEpoch = d.lsEpoch := rfl
@[simp] theorem Dev.setHif_split (d : Dev) (f : Hif → Hif) : (d.setHif f).split = d.split := rfl
@[simp] theorem Dev.setHif_poison (d : Dev) (f : Hif → Hif) : (d.setHif f).poison = d.poison := rfl
@[simp] theorem Dev.setHif_draws (d : Dev) (f : Hif → Hif) : (d.setHif f).draws = d.draws := rfl
@[simp] theorem Dev.setHif_frm (d : Dev) (f : Hif → Hif) : (d.setHif f).frm = d.frm := rfl
@[simp] theorem Dev.setHif_variants (d : Dev) (f : Hif → Hif) : (d.setHif f).variants = d.variants := rfl
@[simp] theorem Dev.setHif_run (d : Dev) (f : Hif → Hif) : (d.setHif f).run = d.run := rfl
@[simp] theorem Dev.setHif_late (d : Dev) (f : Hif → Hif) : (d.setHif f).late = d.late := rfl
@[simp] theorem Dev.setHif_cells (d : Dev) (f : Hif → Hif) : (d.setHif f).cells = d.cells := rfl
@[simp] theorem Dev.setHif_rmOpen (d : Dev) (f : Hif → Hif) : (d.setHif f).rmOpen = d.rmOpen := rfl
@[simp] theorem Dev.setHif_rmStats (d : Dev) (f : Hif → Hif) : (d.setHif f).rmStats = d.rmStats := rfl
@[simp] theorem Dev.setHif_spg (d : Dev) (f : Hif → Hif) : (d.setHif f).spg = d.spg := rfl
@[simp] theorem Dev.setHif_rack (d : Dev) (f : Hif → Hif) : (d.setHif f).rack = d.rack := rfl
@[simp] theorem Dev.setHif_kln (d : Dev) (f : Hif → Hif) : (d.setHif f).kln = d.kln := rfl
@[simp] theorem Dev.setHif_mxc (d : Dev) (f : Hif → Hif) : (d.setHif f).mxc = d.mxc := rfl
@[simp] theorem Dev.setHif_num (d : Dev) (f : Hif → Hif) : (d.setHif f).num = d.num := rfl
@[simp] theorem Dev.setHif_red (d : Dev) (f : Hif → Hif) : (d.setHif f).red = d.red := rfl
@[simp] theorem Dev.setHif_pnd (d : Dev) (f : Hif → Hif) : (d.setHif f).pnd = d.pnd := rfl
@[simp] theorem Dev.setHif_fab (d : Dev) (f : Hif → Hif) : (d.setHif f).fab = d.fab := rfl
@[simp] theorem Dev.setHif_mbx (d : Dev) (f : Hif → Hif) : (d.setHif f).mbx = d.mbx := rfl
@[simp] theorem Dev.setHif_flt (d : Dev) (f : Hif → Hif) : (d.setHif f).flt = d.flt := rfl
@[simp] theorem Dev.setHif_gau (d : Dev) (f : Hif → Hif) : (d.setHif f).gau = d.gau := rfl
@[simp] theorem Dev.setHif_pwr (d : Dev) (f : Hif → Hif) : (d.setHif f).pwr = d.pwr := rfl
@[simp] theorem Dev.setHif_sec (d : Dev) (f : Hif → Hif) : (d.setHif f).sec = d.sec := rfl
@[simp] theorem Dev.setHif_tpMode (d : Dev) (f : Hif → Hif) : (d.setHif f).tpMode = d.tpMode := rfl
@[simp] theorem Dev.setHif_tp (d : Dev) (f : Hif → Hif) : (d.setHif f).tp = d.tp := rfl
@[simp] theorem Dev.setHif_out (d : Dev) (f : Hif → Hif) : (d.setHif f).out = d.out := rfl

@[simp] theorem Dev.setRed_regs (d : Dev) (f : Red → Red) : (d.setRed f).regs = d.regs := rfl
@[simp] theorem Dev.setRed_cnt (d : Dev) (f : Red → Red) : (d.setRed f).cnt = d.cnt := rfl
@[simp] theorem Dev.setRed_latch (d : Dev) (f : Red → Red) : (d.setRed f).latch = d.latch := rfl
@[simp] theorem Dev.setRed_mem (d : Dev) (f : Red → Red) : (d.setRed f).mem = d.mem := rfl
@[simp] theorem Dev.setRed_lsEpoch (d : Dev) (f : Red → Red) : (d.setRed f).lsEpoch = d.lsEpoch := rfl
@[simp] theorem Dev.setRed_split (d : Dev) (f : Red → Red) : (d.setRed f).split = d.split := rfl
@[simp] theorem Dev.setRed_poison (d : Dev) (f : Red → Red) : (d.setRed f).poison = d.poison := rfl
@[simp] theorem Dev.setRed_draws (d : Dev) (f : Red → Red) : (d.setRed f).draws = d.draws := rfl
@[simp] theorem Dev.setRed_frm (d : Dev) (f : Red → Red) : (d.setRed f).frm = d.frm := rfl
@[simp] theorem Dev.setRed_variants (d : Dev) (f : Red → Red) : (d.setRed f).variants = d.variants := rfl
@[simp] theorem Dev.setRed_run (d : Dev) (f : Red → Red) : (d.setRed f).run = d.run := rfl
@[simp] theorem Dev.setRed_late (d : Dev) (f : Red → Red) : (d.setRed f).late = d.late := rfl
@[simp] theorem Dev.setRed_cells (d : Dev) (f : Red → Red) : (d.setRed f).cells = d.cells := rfl
@[simp] theorem Dev.setRed_rmOpen (d : Dev) (f : Red → Red) : (d.setRed f).rmOpen = d.rmOpen := rfl
@[simp] theorem Dev.setRed_rmStats (d : Dev) (f : Red → Red) : (d.setRed f).rmStats = d.rmStats := rfl
@[simp] theorem Dev.setRed_spg (d : Dev) (f : Red → Red) : (d.setRed f).spg = d.spg := rfl
@[simp] theorem Dev.setRed_rack (d : Dev) (f : Red → Red) : (d.setRed f).rack = d.rack := rfl
@[simp] theorem Dev.setRed_kln (d : Dev) (f : Red → Red) : (d.setRed f).kln = d.kln := rfl
@[simp] theorem Dev.setRed_mxc (d : Dev) (f : Red → Red) : (d.setRed f).mxc = d.mxc := rfl
@[simp] theorem Dev.setRed_num (d : Dev) (f : Red → Red) : (d.setRed f).num = d.num := rfl
@[simp] theorem Dev.setRed_pnd (d : Dev) (f : Red → Red) : (d.setRed f).pnd = d.pnd := rfl
@[simp] theorem Dev.setRed_fab (d : Dev) (f : Red → Red) : (d.setRed f).fab = d.fab := rfl
@[simp] theorem Dev.setRed_hif (d : Dev) (f : Red → Red) : (d.setRed f).hif = d.hif := rfl
@[simp] theorem Dev.setRed_mbx (d : Dev) (f : Red → Red) : (d.setRed f).mbx = d.mbx := rfl
@[simp] theorem Dev.setRed_flt (d : Dev) (f : Red → Red) : (d.setRed f).flt = d.flt := rfl
@[simp] theorem Dev.setRed_gau (d : Dev) (f : Red → Red) : (d.setRed f).gau = d.gau := rfl
@[simp] theorem Dev.setRed_pwr (d : Dev) (f : Red → Red) : (d.setRed f).pwr = d.pwr := rfl
@[simp] theorem Dev.setRed_sec (d : Dev) (f : Red → Red) : (d.setRed f).sec = d.sec := rfl
@[simp] theorem Dev.setRed_tpMode (d : Dev) (f : Red → Red) : (d.setRed f).tpMode = d.tpMode := rfl
@[simp] theorem Dev.setRed_tp (d : Dev) (f : Red → Red) : (d.setRed f).tp = d.tp := rfl
@[simp] theorem Dev.setRed_out (d : Dev) (f : Red → Red) : (d.setRed f).out = d.out := rfl

@[simp] theorem Dev.setPnd_regs (d : Dev) (f : Pnd → Pnd) : (d.setPnd f).regs = d.regs := rfl
@[simp] theorem Dev.setPnd_cnt (d : Dev) (f : Pnd → Pnd) : (d.setPnd f).cnt = d.cnt := rfl
@[simp] theorem Dev.setPnd_latch (d : Dev) (f : Pnd → Pnd) : (d.setPnd f).latch = d.latch := rfl
@[simp] theorem Dev.setPnd_mem (d : Dev) (f : Pnd → Pnd) : (d.setPnd f).mem = d.mem := rfl
@[simp] theorem Dev.setPnd_lsEpoch (d : Dev) (f : Pnd → Pnd) : (d.setPnd f).lsEpoch = d.lsEpoch := rfl
@[simp] theorem Dev.setPnd_split (d : Dev) (f : Pnd → Pnd) : (d.setPnd f).split = d.split := rfl
@[simp] theorem Dev.setPnd_poison (d : Dev) (f : Pnd → Pnd) : (d.setPnd f).poison = d.poison := rfl
@[simp] theorem Dev.setPnd_draws (d : Dev) (f : Pnd → Pnd) : (d.setPnd f).draws = d.draws := rfl
@[simp] theorem Dev.setPnd_frm (d : Dev) (f : Pnd → Pnd) : (d.setPnd f).frm = d.frm := rfl
@[simp] theorem Dev.setPnd_variants (d : Dev) (f : Pnd → Pnd) : (d.setPnd f).variants = d.variants := rfl
@[simp] theorem Dev.setPnd_run (d : Dev) (f : Pnd → Pnd) : (d.setPnd f).run = d.run := rfl
@[simp] theorem Dev.setPnd_late (d : Dev) (f : Pnd → Pnd) : (d.setPnd f).late = d.late := rfl
@[simp] theorem Dev.setPnd_cells (d : Dev) (f : Pnd → Pnd) : (d.setPnd f).cells = d.cells := rfl
@[simp] theorem Dev.setPnd_rmOpen (d : Dev) (f : Pnd → Pnd) : (d.setPnd f).rmOpen = d.rmOpen := rfl
@[simp] theorem Dev.setPnd_rmStats (d : Dev) (f : Pnd → Pnd) : (d.setPnd f).rmStats = d.rmStats := rfl
@[simp] theorem Dev.setPnd_spg (d : Dev) (f : Pnd → Pnd) : (d.setPnd f).spg = d.spg := rfl
@[simp] theorem Dev.setPnd_rack (d : Dev) (f : Pnd → Pnd) : (d.setPnd f).rack = d.rack := rfl
@[simp] theorem Dev.setPnd_kln (d : Dev) (f : Pnd → Pnd) : (d.setPnd f).kln = d.kln := rfl
@[simp] theorem Dev.setPnd_mxc (d : Dev) (f : Pnd → Pnd) : (d.setPnd f).mxc = d.mxc := rfl
@[simp] theorem Dev.setPnd_num (d : Dev) (f : Pnd → Pnd) : (d.setPnd f).num = d.num := rfl
@[simp] theorem Dev.setPnd_red (d : Dev) (f : Pnd → Pnd) : (d.setPnd f).red = d.red := rfl
@[simp] theorem Dev.setPnd_fab (d : Dev) (f : Pnd → Pnd) : (d.setPnd f).fab = d.fab := rfl
@[simp] theorem Dev.setPnd_hif (d : Dev) (f : Pnd → Pnd) : (d.setPnd f).hif = d.hif := rfl
@[simp] theorem Dev.setPnd_mbx (d : Dev) (f : Pnd → Pnd) : (d.setPnd f).mbx = d.mbx := rfl
@[simp] theorem Dev.setPnd_flt (d : Dev) (f : Pnd → Pnd) : (d.setPnd f).flt = d.flt := rfl
@[simp] theorem Dev.setPnd_gau (d : Dev) (f : Pnd → Pnd) : (d.setPnd f).gau = d.gau := rfl
@[simp] theorem Dev.setPnd_pwr (d : Dev) (f : Pnd → Pnd) : (d.setPnd f).pwr = d.pwr := rfl
@[simp] theorem Dev.setPnd_sec (d : Dev) (f : Pnd → Pnd) : (d.setPnd f).sec = d.sec := rfl
@[simp] theorem Dev.setPnd_tpMode (d : Dev) (f : Pnd → Pnd) : (d.setPnd f).tpMode = d.tpMode := rfl
@[simp] theorem Dev.setPnd_tp (d : Dev) (f : Pnd → Pnd) : (d.setPnd f).tp = d.tp := rfl
@[simp] theorem Dev.setPnd_out (d : Dev) (f : Pnd → Pnd) : (d.setPnd f).out = d.out := rfl

@[simp] theorem Dev.setFrm_regs (d : Dev) (f : Frm → Frm) : (d.setFrm f).regs = d.regs := rfl
@[simp] theorem Dev.setFrm_cnt (d : Dev) (f : Frm → Frm) : (d.setFrm f).cnt = d.cnt := rfl
@[simp] theorem Dev.setFrm_latch (d : Dev) (f : Frm → Frm) : (d.setFrm f).latch = d.latch := rfl
@[simp] theorem Dev.setFrm_mem (d : Dev) (f : Frm → Frm) : (d.setFrm f).mem = d.mem := rfl
@[simp] theorem Dev.setFrm_lsEpoch (d : Dev) (f : Frm → Frm) : (d.setFrm f).lsEpoch = d.lsEpoch := rfl
@[simp] theorem Dev.setFrm_split (d : Dev) (f : Frm → Frm) : (d.setFrm f).split = d.split := rfl
@[simp] theorem Dev.setFrm_poison (d : Dev) (f : Frm → Frm) : (d.setFrm f).poison = d.poison := rfl
@[simp] theorem Dev.setFrm_draws (d : Dev) (f : Frm → Frm) : (d.setFrm f).draws = d.draws := rfl
@[simp] theorem Dev.setFrm_variants (d : Dev) (f : Frm → Frm) : (d.setFrm f).variants = d.variants := rfl
@[simp] theorem Dev.setFrm_run (d : Dev) (f : Frm → Frm) : (d.setFrm f).run = d.run := rfl
@[simp] theorem Dev.setFrm_late (d : Dev) (f : Frm → Frm) : (d.setFrm f).late = d.late := rfl
@[simp] theorem Dev.setFrm_cells (d : Dev) (f : Frm → Frm) : (d.setFrm f).cells = d.cells := rfl
@[simp] theorem Dev.setFrm_rmOpen (d : Dev) (f : Frm → Frm) : (d.setFrm f).rmOpen = d.rmOpen := rfl
@[simp] theorem Dev.setFrm_rmStats (d : Dev) (f : Frm → Frm) : (d.setFrm f).rmStats = d.rmStats := rfl
@[simp] theorem Dev.setFrm_spg (d : Dev) (f : Frm → Frm) : (d.setFrm f).spg = d.spg := rfl
@[simp] theorem Dev.setFrm_rack (d : Dev) (f : Frm → Frm) : (d.setFrm f).rack = d.rack := rfl
@[simp] theorem Dev.setFrm_kln (d : Dev) (f : Frm → Frm) : (d.setFrm f).kln = d.kln := rfl
@[simp] theorem Dev.setFrm_mxc (d : Dev) (f : Frm → Frm) : (d.setFrm f).mxc = d.mxc := rfl
@[simp] theorem Dev.setFrm_num (d : Dev) (f : Frm → Frm) : (d.setFrm f).num = d.num := rfl
@[simp] theorem Dev.setFrm_red (d : Dev) (f : Frm → Frm) : (d.setFrm f).red = d.red := rfl
@[simp] theorem Dev.setFrm_pnd (d : Dev) (f : Frm → Frm) : (d.setFrm f).pnd = d.pnd := rfl
@[simp] theorem Dev.setFrm_fab (d : Dev) (f : Frm → Frm) : (d.setFrm f).fab = d.fab := rfl
@[simp] theorem Dev.setFrm_hif (d : Dev) (f : Frm → Frm) : (d.setFrm f).hif = d.hif := rfl
@[simp] theorem Dev.setFrm_mbx (d : Dev) (f : Frm → Frm) : (d.setFrm f).mbx = d.mbx := rfl
@[simp] theorem Dev.setFrm_flt (d : Dev) (f : Frm → Frm) : (d.setFrm f).flt = d.flt := rfl
@[simp] theorem Dev.setFrm_gau (d : Dev) (f : Frm → Frm) : (d.setFrm f).gau = d.gau := rfl
@[simp] theorem Dev.setFrm_pwr (d : Dev) (f : Frm → Frm) : (d.setFrm f).pwr = d.pwr := rfl
@[simp] theorem Dev.setFrm_sec (d : Dev) (f : Frm → Frm) : (d.setFrm f).sec = d.sec := rfl
@[simp] theorem Dev.setFrm_tpMode (d : Dev) (f : Frm → Frm) : (d.setFrm f).tpMode = d.tpMode := rfl
@[simp] theorem Dev.setFrm_tp (d : Dev) (f : Frm → Frm) : (d.setFrm f).tp = d.tp := rfl
@[simp] theorem Dev.setFrm_out (d : Dev) (f : Frm → Frm) : (d.setFrm f).out = d.out := rfl

@[simp] theorem Dev.setSec_regs (d : Dev) (f : Sec → Sec) : (d.setSec f).regs = d.regs := rfl
@[simp] theorem Dev.setSec_cnt (d : Dev) (f : Sec → Sec) : (d.setSec f).cnt = d.cnt := rfl
@[simp] theorem Dev.setSec_latch (d : Dev) (f : Sec → Sec) : (d.setSec f).latch = d.latch := rfl
@[simp] theorem Dev.setSec_mem (d : Dev) (f : Sec → Sec) : (d.setSec f).mem = d.mem := rfl
@[simp] theorem Dev.setSec_lsEpoch (d : Dev) (f : Sec → Sec) : (d.setSec f).lsEpoch = d.lsEpoch := rfl
@[simp] theorem Dev.setSec_split (d : Dev) (f : Sec → Sec) : (d.setSec f).split = d.split := rfl
@[simp] theorem Dev.setSec_poison (d : Dev) (f : Sec → Sec) : (d.setSec f).poison = d.poison := rfl
@[simp] theorem Dev.setSec_draws (d : Dev) (f : Sec → Sec) : (d.setSec f).draws = d.draws := rfl
@[simp] theorem Dev.setSec_frm (d : Dev) (f : Sec → Sec) : (d.setSec f).frm = d.frm := rfl
@[simp] theorem Dev.setSec_variants (d : Dev) (f : Sec → Sec) : (d.setSec f).variants = d.variants := rfl
@[simp] theorem Dev.setSec_run (d : Dev) (f : Sec → Sec) : (d.setSec f).run = d.run := rfl
@[simp] theorem Dev.setSec_late (d : Dev) (f : Sec → Sec) : (d.setSec f).late = d.late := rfl
@[simp] theorem Dev.setSec_cells (d : Dev) (f : Sec → Sec) : (d.setSec f).cells = d.cells := rfl
@[simp] theorem Dev.setSec_rmOpen (d : Dev) (f : Sec → Sec) : (d.setSec f).rmOpen = d.rmOpen := rfl
@[simp] theorem Dev.setSec_rmStats (d : Dev) (f : Sec → Sec) : (d.setSec f).rmStats = d.rmStats := rfl
@[simp] theorem Dev.setSec_spg (d : Dev) (f : Sec → Sec) : (d.setSec f).spg = d.spg := rfl
@[simp] theorem Dev.setSec_rack (d : Dev) (f : Sec → Sec) : (d.setSec f).rack = d.rack := rfl
@[simp] theorem Dev.setSec_kln (d : Dev) (f : Sec → Sec) : (d.setSec f).kln = d.kln := rfl
@[simp] theorem Dev.setSec_mxc (d : Dev) (f : Sec → Sec) : (d.setSec f).mxc = d.mxc := rfl
@[simp] theorem Dev.setSec_num (d : Dev) (f : Sec → Sec) : (d.setSec f).num = d.num := rfl
@[simp] theorem Dev.setSec_red (d : Dev) (f : Sec → Sec) : (d.setSec f).red = d.red := rfl
@[simp] theorem Dev.setSec_pnd (d : Dev) (f : Sec → Sec) : (d.setSec f).pnd = d.pnd := rfl
@[simp] theorem Dev.setSec_fab (d : Dev) (f : Sec → Sec) : (d.setSec f).fab = d.fab := rfl
@[simp] theorem Dev.setSec_hif (d : Dev) (f : Sec → Sec) : (d.setSec f).hif = d.hif := rfl
@[simp] theorem Dev.setSec_mbx (d : Dev) (f : Sec → Sec) : (d.setSec f).mbx = d.mbx := rfl
@[simp] theorem Dev.setSec_flt (d : Dev) (f : Sec → Sec) : (d.setSec f).flt = d.flt := rfl
@[simp] theorem Dev.setSec_gau (d : Dev) (f : Sec → Sec) : (d.setSec f).gau = d.gau := rfl
@[simp] theorem Dev.setSec_pwr (d : Dev) (f : Sec → Sec) : (d.setSec f).pwr = d.pwr := rfl
@[simp] theorem Dev.setSec_tpMode (d : Dev) (f : Sec → Sec) : (d.setSec f).tpMode = d.tpMode := rfl
@[simp] theorem Dev.setSec_tp (d : Dev) (f : Sec → Sec) : (d.setSec f).tp = d.tp := rfl
@[simp] theorem Dev.setSec_out (d : Dev) (f : Sec → Sec) : (d.setSec f).out = d.out := rfl

@[simp] theorem Dev.setPwr_regs (d : Dev) (f : Pwr → Pwr) : (d.setPwr f).regs = d.regs := rfl
@[simp] theorem Dev.setPwr_cnt (d : Dev) (f : Pwr → Pwr) : (d.setPwr f).cnt = d.cnt := rfl
@[simp] theorem Dev.setPwr_latch (d : Dev) (f : Pwr → Pwr) : (d.setPwr f).latch = d.latch := rfl
@[simp] theorem Dev.setPwr_mem (d : Dev) (f : Pwr → Pwr) : (d.setPwr f).mem = d.mem := rfl
@[simp] theorem Dev.setPwr_lsEpoch (d : Dev) (f : Pwr → Pwr) : (d.setPwr f).lsEpoch = d.lsEpoch := rfl
@[simp] theorem Dev.setPwr_split (d : Dev) (f : Pwr → Pwr) : (d.setPwr f).split = d.split := rfl
@[simp] theorem Dev.setPwr_poison (d : Dev) (f : Pwr → Pwr) : (d.setPwr f).poison = d.poison := rfl
@[simp] theorem Dev.setPwr_draws (d : Dev) (f : Pwr → Pwr) : (d.setPwr f).draws = d.draws := rfl
@[simp] theorem Dev.setPwr_frm (d : Dev) (f : Pwr → Pwr) : (d.setPwr f).frm = d.frm := rfl
@[simp] theorem Dev.setPwr_variants (d : Dev) (f : Pwr → Pwr) : (d.setPwr f).variants = d.variants := rfl
@[simp] theorem Dev.setPwr_run (d : Dev) (f : Pwr → Pwr) : (d.setPwr f).run = d.run := rfl
@[simp] theorem Dev.setPwr_late (d : Dev) (f : Pwr → Pwr) : (d.setPwr f).late = d.late := rfl
@[simp] theorem Dev.setPwr_cells (d : Dev) (f : Pwr → Pwr) : (d.setPwr f).cells = d.cells := rfl
@[simp] theorem Dev.setPwr_rmOpen (d : Dev) (f : Pwr → Pwr) : (d.setPwr f).rmOpen = d.rmOpen := rfl
@[simp] theorem Dev.setPwr_rmStats (d : Dev) (f : Pwr → Pwr) : (d.setPwr f).rmStats = d.rmStats := rfl
@[simp] theorem Dev.setPwr_spg (d : Dev) (f : Pwr → Pwr) : (d.setPwr f).spg = d.spg := rfl
@[simp] theorem Dev.setPwr_rack (d : Dev) (f : Pwr → Pwr) : (d.setPwr f).rack = d.rack := rfl
@[simp] theorem Dev.setPwr_kln (d : Dev) (f : Pwr → Pwr) : (d.setPwr f).kln = d.kln := rfl
@[simp] theorem Dev.setPwr_mxc (d : Dev) (f : Pwr → Pwr) : (d.setPwr f).mxc = d.mxc := rfl
@[simp] theorem Dev.setPwr_num (d : Dev) (f : Pwr → Pwr) : (d.setPwr f).num = d.num := rfl
@[simp] theorem Dev.setPwr_red (d : Dev) (f : Pwr → Pwr) : (d.setPwr f).red = d.red := rfl
@[simp] theorem Dev.setPwr_pnd (d : Dev) (f : Pwr → Pwr) : (d.setPwr f).pnd = d.pnd := rfl
@[simp] theorem Dev.setPwr_fab (d : Dev) (f : Pwr → Pwr) : (d.setPwr f).fab = d.fab := rfl
@[simp] theorem Dev.setPwr_hif (d : Dev) (f : Pwr → Pwr) : (d.setPwr f).hif = d.hif := rfl
@[simp] theorem Dev.setPwr_mbx (d : Dev) (f : Pwr → Pwr) : (d.setPwr f).mbx = d.mbx := rfl
@[simp] theorem Dev.setPwr_flt (d : Dev) (f : Pwr → Pwr) : (d.setPwr f).flt = d.flt := rfl
@[simp] theorem Dev.setPwr_gau (d : Dev) (f : Pwr → Pwr) : (d.setPwr f).gau = d.gau := rfl
@[simp] theorem Dev.setPwr_sec (d : Dev) (f : Pwr → Pwr) : (d.setPwr f).sec = d.sec := rfl
@[simp] theorem Dev.setPwr_tpMode (d : Dev) (f : Pwr → Pwr) : (d.setPwr f).tpMode = d.tpMode := rfl
@[simp] theorem Dev.setPwr_tp (d : Dev) (f : Pwr → Pwr) : (d.setPwr f).tp = d.tp := rfl
@[simp] theorem Dev.setPwr_out (d : Dev) (f : Pwr → Pwr) : (d.setPwr f).out = d.out := rfl

@[simp] theorem Dev.setNum_regs (d : Dev) (f : Num → Num) : (d.setNum f).regs = d.regs := rfl
@[simp] theorem Dev.setNum_cnt (d : Dev) (f : Num → Num) : (d.setNum f).cnt = d.cnt := rfl
@[simp] theorem Dev.setNum_latch (d : Dev) (f : Num → Num) : (d.setNum f).latch = d.latch := rfl
@[simp] theorem Dev.setNum_mem (d : Dev) (f : Num → Num) : (d.setNum f).mem = d.mem := rfl
@[simp] theorem Dev.setNum_lsEpoch (d : Dev) (f : Num → Num) : (d.setNum f).lsEpoch = d.lsEpoch := rfl
@[simp] theorem Dev.setNum_split (d : Dev) (f : Num → Num) : (d.setNum f).split = d.split := rfl
@[simp] theorem Dev.setNum_poison (d : Dev) (f : Num → Num) : (d.setNum f).poison = d.poison := rfl
@[simp] theorem Dev.setNum_draws (d : Dev) (f : Num → Num) : (d.setNum f).draws = d.draws := rfl
@[simp] theorem Dev.setNum_frm (d : Dev) (f : Num → Num) : (d.setNum f).frm = d.frm := rfl
@[simp] theorem Dev.setNum_variants (d : Dev) (f : Num → Num) : (d.setNum f).variants = d.variants := rfl
@[simp] theorem Dev.setNum_run (d : Dev) (f : Num → Num) : (d.setNum f).run = d.run := rfl
@[simp] theorem Dev.setNum_late (d : Dev) (f : Num → Num) : (d.setNum f).late = d.late := rfl
@[simp] theorem Dev.setNum_cells (d : Dev) (f : Num → Num) : (d.setNum f).cells = d.cells := rfl
@[simp] theorem Dev.setNum_rmOpen (d : Dev) (f : Num → Num) : (d.setNum f).rmOpen = d.rmOpen := rfl
@[simp] theorem Dev.setNum_rmStats (d : Dev) (f : Num → Num) : (d.setNum f).rmStats = d.rmStats := rfl
@[simp] theorem Dev.setNum_spg (d : Dev) (f : Num → Num) : (d.setNum f).spg = d.spg := rfl
@[simp] theorem Dev.setNum_rack (d : Dev) (f : Num → Num) : (d.setNum f).rack = d.rack := rfl
@[simp] theorem Dev.setNum_kln (d : Dev) (f : Num → Num) : (d.setNum f).kln = d.kln := rfl
@[simp] theorem Dev.setNum_mxc (d : Dev) (f : Num → Num) : (d.setNum f).mxc = d.mxc := rfl
@[simp] theorem Dev.setNum_red (d : Dev) (f : Num → Num) : (d.setNum f).red = d.red := rfl
@[simp] theorem Dev.setNum_pnd (d : Dev) (f : Num → Num) : (d.setNum f).pnd = d.pnd := rfl
@[simp] theorem Dev.setNum_fab (d : Dev) (f : Num → Num) : (d.setNum f).fab = d.fab := rfl
@[simp] theorem Dev.setNum_hif (d : Dev) (f : Num → Num) : (d.setNum f).hif = d.hif := rfl
@[simp] theorem Dev.setNum_mbx (d : Dev) (f : Num → Num) : (d.setNum f).mbx = d.mbx := rfl
@[simp] theorem Dev.setNum_flt (d : Dev) (f : Num → Num) : (d.setNum f).flt = d.flt := rfl
@[simp] theorem Dev.setNum_gau (d : Dev) (f : Num → Num) : (d.setNum f).gau = d.gau := rfl
@[simp] theorem Dev.setNum_pwr (d : Dev) (f : Num → Num) : (d.setNum f).pwr = d.pwr := rfl
@[simp] theorem Dev.setNum_sec (d : Dev) (f : Num → Num) : (d.setNum f).sec = d.sec := rfl
@[simp] theorem Dev.setNum_tpMode (d : Dev) (f : Num → Num) : (d.setNum f).tpMode = d.tpMode := rfl
@[simp] theorem Dev.setNum_tp (d : Dev) (f : Num → Num) : (d.setNum f).tp = d.tp := rfl
@[simp] theorem Dev.setNum_out (d : Dev) (f : Num → Num) : (d.setNum f).out = d.out := rfl

/-! ### Frames by parts -/

theorem Dev.keepsBut_refl (l : List Part) (d : Dev) : d.keepsBut l d := by intro p _; cases p <;> rfl

theorem Dev.keepsBut_trans (l : List Part) (d e f : Dev) (h : d.keepsBut l e) (k : e.keepsBut l f) : d.keepsBut l f := by
  intro p hp
  have a := h p hp
  have b := k p hp
  cases p <;> exact Eq.trans b a

theorem Dev.keepsBut_mono (l m : List Part) (d e : Dev) (h : d.keepsBut l e) (hs : ∀ p, p ∈ l → p ∈ m) : d.keepsBut m e :=
  fun p hp => h p fun q => hp (hs p q)

/-- A fold over steps that each keep the frame keeps it. -/
theorem Dev.keepsBut_foldl {α : Type} (l : List Part) (f : Dev → α → Dev) (h : ∀ (d : Dev) (x : α), d.keepsBut l (f d x)) (xs : List α) (d : Dev) :
    d.keepsBut l (xs.foldl f d) := by
  induction xs generalizing d with
  | nil => exact Dev.keepsBut_refl l d
  | cons x xs ih => exact Dev.keepsBut_trans l d (f d x) _ (h d x) (ih (f d x))

theorem Dev.quiet_keeps (d : Dev) : d.keepsBut [] (d.quiet) := by intro p _; cases p <;> rfl
theorem Dev.emit_keeps (d : Dev) (o : Out) : d.keepsBut [] (d.emit o) := by intro p _; cases p <;> rfl
theorem Dev.setFld_keeps (d : Dev) (f : Field) (v : Nat) : d.keepsBut [.regs] (d.setFld f v) := by intro p hp; cases p <;> first | rfl | simp at hp
theorem Dev.bumpBy_keeps (d : Dev) (c n : Nat) : d.keepsBut [.cnt] (d.bumpBy c n) := by intro p hp; cases p <;> first | rfl | simp at hp
theorem Dev.bump_keeps (d : Dev) (c : Nat) : d.keepsBut [.cnt] (d.bump c) := by intro p hp; cases p <;> first | rfl | simp at hp
theorem Dev.setByte_keeps (d : Dev) (a : Nat) (b : Byte) : d.keepsBut [.mem] (d.setByte a b) := by intro p hp; cases p <;> first | rfl | simp at hp
theorem Dev.write_keeps (d : Dev) (a : Nat) (bs : List Byte) : d.keepsBut [.mem, .poison] (d.write a bs) := by intro p hp; cases p <;> first | rfl | simp at hp
theorem Dev.wr_keeps (d : Dev) (a n v : Nat) : d.keepsBut [.mem, .poison] (d.wr a n v) := by intro p hp; cases p <;> first | rfl | simp at hp
theorem Dev.setRunning_keeps (d : Dev) (k : Nat) (r : Option Running) : d.keepsBut [.run] (d.setRunning k r) := by intro p hp; cases p <;> first | rfl | simp at hp
theorem Dev.setLane_keeps (d : Dev) (c r lane v : Nat) : d.keepsBut [.mxc] (d.setLane c r lane v) := by intro p hp; cases p <;> first | rfl | simp at hp
theorem Dev.setScalar_keeps (d : Dev) (c i v : Nat) : d.keepsBut [.mxc] (d.setScalar c i v) := by intro p hp; cases p <;> first | rfl | simp at hp
theorem Dev.setHif_keeps (d : Dev) (f : Hif → Hif) : d.keepsBut [.hif] (d.setHif f) := by intro p hp; cases p <;> first | rfl | simp at hp
theorem Dev.setRed_keeps (d : Dev) (f : Red → Red) : d.keepsBut [.red] (d.setRed f) := by intro p hp; cases p <;> first | rfl | simp at hp
theorem Dev.setPnd_keeps (d : Dev) (f : Pnd → Pnd) : d.keepsBut [.pnd] (d.setPnd f) := by intro p hp; cases p <;> first | rfl | simp at hp
theorem Dev.setFrm_keeps (d : Dev) (f : Frm → Frm) : d.keepsBut [.frm] (d.setFrm f) := by intro p hp; cases p <;> first | rfl | simp at hp
theorem Dev.setSec_keeps (d : Dev) (f : Sec → Sec) : d.keepsBut [.sec] (d.setSec f) := by intro p hp; cases p <;> first | rfl | simp at hp
theorem Dev.setPwr_keeps (d : Dev) (f : Pwr → Pwr) : d.keepsBut [.pwr] (d.setPwr f) := by intro p hp; cases p <;> first | rfl | simp at hp
theorem Dev.setNum_keeps (d : Dev) (f : Num → Num) : d.keepsBut [.num] (d.setNum f) := by intro p hp; cases p <;> first | rfl | simp at hp

/-- Either branch of a choice keeps the frame. -/
theorem Dev.keepsBut_ite (l : List Part) (d e f : Dev) (c : Prop) [Decidable c] (h : d.keepsBut l e) (k : d.keepsBut l f) :
    d.keepsBut l (if c then e else f) := by
  split
  · exact h
  · exact k

end Sys2Proof.Machine
end

