-- ==== Sys2Proof/Laws/Commands.lean ====
section
/-!
SUPPORT. What a command does around its device transformer: it answers a next state, leaves the queue alone, and without power does nothing.
-/

namespace Sys2Proof.Machine

/-- The command completes whatever its transformer. -/
theorem State.always_eq (s : State) (f : Dev → Dev) : s.always f = .next ⟨f s.dev.quiet, s.pending⟩ := rfl

@[simp] theorem Dev.quiet_powered (d : Dev) : d.quiet.powered = d.powered := rfl

/-- With power the transformer acts. -/
theorem State.run_powered (s : State) (f : Dev → Dev) (h : s.dev.powered = true) :
    s.run f = .next ⟨f s.dev.quiet, s.pending⟩ := by
  simp [State.run, State.always, h]

/-- Without power nothing happens. -/
theorem State.run_unpowered (s : State) (f : Dev → Dev) (h : s.dev.powered = false) :
    s.run f = .next ⟨s.dev.quiet, s.pending⟩ := by
  simp [State.run, State.always, h]

theorem State.run_next (s : State) (f : Dev → Dev) : ∃ t, s.run f = .next t ∧ t.pending = s.pending := ⟨_, rfl, rfl⟩

theorem State.always_next (s : State) (f : Dev → Dev) : ∃ t, s.always f = .next t ∧ t.pending = s.pending := ⟨_, rfl, rfl⟩

/-- A transformer that keeps a frame gives a command that does. -/
theorem State.run_touches (l : List Part) (c : Instr) (f : Dev → Dev) (hc : ∀ s, exec c s = s.run f)
    (h : ∀ d : Dev, d.keepsBut l (f d)) : touchesOnly l c := by
  intro s
  refine ⟨_, hc s, rfl, ?_⟩
  have h0 := Dev.keepsBut_mono [] l _ _ (Dev.quiet_keeps s.dev) (by simp)
  show s.dev.keepsBut l (if s.dev.quiet.powered then f s.dev.quiet else s.dev.quiet)
  exact Dev.keepsBut_ite l _ _ _ _ (Dev.keepsBut_trans l _ _ _ h0 (h _)) h0

end Sys2Proof.Machine
end

