-- ==== Sys2Proof/Laws/Dispatch.lean ====
section
/-!
SUPPORT. The arm of each command, by its name: exec of a constructor is its meaning.
-/

namespace Sys2Proof.Machine

theorem exec_tickEmit (now : Nat) (s : State) : exec (.tickEmit now) s = execTickEmit now s := rfl
theorem exec_tickInEdge (now : Nat) (s : State) : exec (.tickInEdge now) s = execTickInEdge now s := rfl
theorem exec_tickWindowEnd (now : Nat) (s : State) : exec (.tickWindowEnd now) s = execTickWindowEnd now s := rfl
theorem exec_tickMsg (p : Fin 16) (m : Msg) (now delay : Nat) (s : State) : exec (.tickMsg p m now delay) s = execTick p m now delay s := rfl
theorem exec_flywheelStart (s : State) : exec .flywheelStart s = execFlywheelStart s := rfl
theorem exec_tickMissHold (s : State) : exec .tickMissHold s = execTickMissHold s := rfl
theorem exec_frameStart (m : StepMeas) (s : State) : exec (.frameStart m) s = execFrameStart m s := rfl
theorem exec_slotStart (u : UClass) (i : Fin 128) (k : Nat) (e : Ecc) (s : State) : exec (.slotStart u i k e) s = execSlotStart u i k s e := rfl
theorem exec_slotEnd (u : UClass) (i : Fin 128) (sub : Option (Fin 64)) (s : State) : exec (.slotEnd u i sub) s = execSlotEnd u i sub s := rfl
theorem exec_taskComplete (u : UClass) (i : Fin 128) (sub : Option (Fin 64)) (q : Nat) (s : State) : exec (.taskComplete u i sub q) s = execTaskComplete u i sub q s := rfl
theorem exec_fwd (b : Fin 32) (sub : Option (Fin 64)) (n : Nat) (e : Ecc) (s : State) : exec (.fwd b sub n e) s = execFwd b sub n e s := rfl
theorem exec_cover (b : Fin 32) (n : Nat) (e : Ecc) (s : State) : exec (.cover b n e) s = execCover b n e s := rfl
theorem exec_spargePeriod (b : Fin 32) (s : State) : exec (.spargePeriod b) s = execSpargePeriod b s := rfl
theorem exec_rmWindowClose (t : Fin 2048) (s : State) : exec (.rmWindowClose t) s = execRmWindowClose t s := rfl
theorem exec_pulseRound (b : Fin 32) (i : Fin 64) (now : Nat) (e : Ecc) (s : State) : exec (.pulseRound b i now e) s = execPulseRound b i now s e := rfl
theorem exec_pulsePeriod (b : Fin 32) (i : Fin 64) (verified : BitVec 16) (s : State) : exec (.pulsePeriod b i verified) s = execPulsePeriod b i verified s := rfl
theorem exec_pulseRoundEnd (b : Fin 32) (i : Fin 64) (levels : List Int) (s : State) : exec (.pulseRoundEnd b i levels) s = execPulseRoundEnd b i levels s := rfl
theorem exec_foldComplete (b : Fin 32) (e : Ecc) (s : State) : exec (.foldComplete b e) s = execFoldComplete b s e := rfl
theorem exec_kilnUnit (b : Fin 32) (i : Fin 64) (now : Nat) (m : KilnMeas) (e : Ecc) (s : State) : exec (.kilnUnit b i now m e) s = execKilnUnit b i now m e s := rfl
theorem exec_kilnRestore (b : Fin 32) (i : Fin 64) (s : State) : exec (.kilnRestore b i) s = execKilnRestore b i s := rfl
theorem exec_matmul (c : Fin 128) (n : Nat) (e : Ecc) (s : State) : exec (.matmul c n e) s = execMatmul c n e s := rfl
theorem exec_move (c : Fin 128) (n : Nat) (e : Ecc) (s : State) : exec (.move c n e) s = execMove c n e s := rfl
theorem exec_gather (c : Fin 128) (n : Nat) (e : Ecc) (s : State) : exec (.gather c n e) s = execGather c n e s := rfl
theorem exec_vprog (c : Fin 128) (e : Ecc) (s : State) : exec (.vprog c e) s = execVprog c e s := rfl
theorem exec_assemble (c : Fin 128) (n : Nat) (e : Ecc) (s : State) : exec (.assemble c n e) s = execAssemble c n e s := rfl
theorem exec_bwdWot (c : Fin 128) (n : Nat) (e : Ecc) (s : State) : exec (.bwdWot c n e) s = execBwdWot c n e s := rfl
theorem exec_attnFwd (c : Fin 128) (n : Nat) (e : Ecc) (s : State) : exec (.attnFwd c n e) s = execAttnFwd c n e s := rfl
theorem exec_attnBwd (c : Fin 128) (n : Nat) (e : Ecc) (s : State) : exec (.attnBwd c n e) s = execAttnBwd c n e s := rfl
theorem exec_normBwd (c : Fin 128) (n : Nat) (e : Ecc) (s : State) : exec (.normBwd c n e) s = execNormBwd c n e s := rfl
theorem exec_tiesum (c : Fin 128) (n : Nat) (e : Ecc) (s : State) : exec (.tiesum c n e) s = execTiesum c n e s := rfl
theorem exec_compare (c : Fin 128) (n : Nat) (e : Ecc) (s : State) : exec (.compare c n e) s = execCompare c n e s := rfl
theorem exec_lrFit (c : Fin 128) (e : Ecc) (s : State) : exec (.lrFit c e) s = execLrFit c e s := rfl
theorem exec_rs (e : Ecc) (s : State) : exec (.rs e) s = execRs e s := rfl
theorem exec_ag (e : Ecc) (s : State) : exec (.ag e) s = execAg e s := rfl
theorem exec_preX (e : Ecc) (s : State) : exec (.preX e) s = execPreX e s := rfl
theorem exec_notice (e : Ecc) (s : State) : exec (.notice e) s = execNotice e s := rfl
theorem exec_replay (e : Ecc) (s : State) : exec (.replay e) s = execReplay e s := rfl
theorem exec_fetch (e : Ecc) (s : State) : exec (.fetch e) s = execFetch e s := rfl
theorem exec_send (p : Fin 16) (n : Nat) (e : Ecc) (s : State) : exec (.send p n e) s = execSend p n e s := rfl
theorem exec_hostPut (e : Ecc) (s : State) : exec (.hostPut e) s = execHostPut e s := rfl
theorem exec_hostGet (data : List Byte) (e : Ecc) (s : State) : exec (.hostGet data e) s = execHostGet data e s := rfl
theorem exec_hostXferCompletion (s : State) : exec .hostXferCompletion s = execHostXferCompletion s := rfl
theorem exec_mxcCheck (c : Fin 128) (e : Ecc) (s : State) : exec (.mxcCheck c e) s = execMxcCheck c e s := rfl
theorem exec_tunCheck (b : Fin 32) (sub : Option (Fin 64)) (e : Ecc) (s : State) : exec (.tunCheck b sub e) s = execTunCheck b sub e s := rfl
theorem exec_vFma (c : Fin 128) (w : VWord) (s : State) : exec (.vFma c w) s = execFma c w s := rfl
theorem exec_vAdd (c : Fin 128) (w : VWord) (s : State) : exec (.vAdd c w) s = execAdd c w s := rfl
theorem exec_vMul (c : Fin 128) (w : VWord) (s : State) : exec (.vMul c w) s = execMul c w s := rfl
theorem exec_vMax (c : Fin 128) (w : VWord) (s : State) : exec (.vMax c w) s = execMax c w s := rfl
theorem exec_vMin (c : Fin 128) (w : VWord) (s : State) : exec (.vMin c w) s = execMin c w s := rfl
theorem exec_vSel (c : Fin 128) (w : VWord) (s : State) : exec (.vSel c w) s = execSel c w s := rfl
theorem exec_vCmplt (c : Fin 128) (w : VWord) (s : State) : exec (.vCmplt c w) s = execCmplt c w s := rfl
theorem exec_vExp2 (c : Fin 128) (w : VWord) (s : State) : exec (.vExp2 c w) s = execExp2 c w s := rfl
theorem exec_vRcp (c : Fin 128) (w : VWord) (s : State) : exec (.vRcp c w) s = execRcp c w s := rfl
theorem exec_vRsq (c : Fin 128) (w : VWord) (s : State) : exec (.vRsq c w) s = execRsq c w s := rfl
theorem exec_vLog2 (c : Fin 128) (w : VWord) (s : State) : exec (.vLog2 c w) s = execLog2 c w s := rfl
theorem exec_vTwosum (c : Fin 128) (w : VWord) (s : State) : exec (.vTwosum c w) s = execTwosum c w s := rfl
theorem exec_vFast2sum (c : Fin 128) (w : VWord) (s : State) : exec (.vFast2sum c w) s = execFast2sum c w s := rfl
theorem exec_vTwoprod (c : Fin 128) (w : VWord) (s : State) : exec (.vTwoprod c w) s = execTwoprod c w s := rfl
theorem exec_vCvt (c : Fin 128) (w : VWord) (e : Ecc) (s : State) : exec (.vCvt c w e) s = execCvt c w s e := rfl
theorem exec_vCvtTunin (c : Fin 128) (w : VWord) (e : Ecc) (s : State) : exec (.vCvtTunin c w e) s = execCvtTunin c w s e := rfl
theorem exec_vRedSum (c : Fin 128) (w : VWord) (s : State) : exec (.vRedSum c w) s = execRedSum c w s := rfl
theorem exec_vRedMax (c : Fin 128) (w : VWord) (s : State) : exec (.vRedMax c w) s = execRedMax c w s := rfl
theorem exec_vRedMin (c : Fin 128) (w : VWord) (s : State) : exec (.vRedMin c w) s = execRedMin c w s := rfl
theorem exec_vKth (c : Fin 128) (w : VWord) (s : State) : exec (.vKth c w) s = execKth c w s := rfl
theorem exec_vRng (c : Fin 128) (w : VWord) (s : State) : exec (.vRng c w) s = execRng c w s := rfl
theorem exec_vLd (c : Fin 128) (w : VWord) (e : Ecc) (s : State) : exec (.vLd c w e) s = execLd c w e s := rfl
theorem exec_vSt (c : Fin 128) (w : VWord) (e : Ecc) (s : State) : exec (.vSt c w e) s = execSt c w e s := rfl
theorem exec_vGld (c : Fin 128) (w : VWord) (e : Ecc) (s : State) : exec (.vGld c w e) s = execGld c w e s := rfl
theorem exec_vLoop (c : Fin 128) (w : VWord) (s : State) : exec (.vLoop c w) s = execLoop c w s := rfl
theorem exec_vEnd (c : Fin 128) (w : VWord) (s : State) : exec (.vEnd c w) s = execEnd c w s := rfl
theorem exec_tokenForm (e : Ecc) (s : State) : exec (.tokenForm e) s = execTokenForm s e := rfl
theorem exec_tokenMsg (p : Fin 16) (m : Msg) (s : State) : exec (.tokenMsg p m) s = execToken p m s := rfl
theorem exec_tokenForwardDeadline (s : State) : exec .tokenForwardDeadline s = execTokenForwardDeadline s := rfl
theorem exec_tokenDecideDeadline (s : State) : exec .tokenDecideDeadline s = execTokenDecideDeadline s := rfl
theorem exec_resultMsg (p : Fin 16) (m : Msg) (s : State) : exec (.resultMsg p m) s = execResult p m s := rfl
theorem exec_reduceMsg (p : Fin 16) (m : Msg) (t : Nat) (s : State) : exec (.reduceMsg p m t) s = execReduce p m t s := rfl
theorem exec_agRx (p : Fin 16) (m : Msg) (t : Nat) (s : State) : exec (.agRx p m t) s = execAgRx p m t s := rfl
theorem exec_fetchRx (p : Fin 16) (m : Msg) (t : Nat) (s : State) : exec (.fetchRx p m t) s = execFetchRx p m t s := rfl
theorem exec_preXRx (p : Fin 16) (m : Msg) (t : Nat) (s : State) : exec (.preXRx p m t) s = execPreXRx p m t s := rfl
theorem exec_noticeRx (p : Fin 16) (m : Msg) (t : Nat) (s : State) : exec (.noticeRx p m t) s = execNoticeRx p m t s := rfl
theorem exec_packetDeadline (s : State) : exec .packetDeadline s = execPacketDeadline s := rfl
theorem exec_bargeMsg (p : Fin 16) (m : Msg) (s : State) : exec (.bargeMsg p m) s = execBarge p m s := rfl
theorem exec_poundRelease (s : State) : exec .poundRelease s = execPoundRelease s := rfl
theorem exec_creditMsg (p : Fin 16) (m : Msg) (s : State) : exec (.creditMsg p m) s = execCredit p m s := rfl
theorem exec_permAck (p : Fin 16) (m : Msg) (s : State) : exec (.permAck p m) s = execPermAck p m s := rfl
theorem exec_permuteTimeout (s : State) : exec .permuteTimeout s = execPermuteTimeout s := rfl
theorem exec_flitRxData (p : Fin 16) (x : FlitIn) (s : State) : exec (.flitRxData p x) s = execFlitRxData p x s := rfl
theorem exec_flitRxCtrl (p : Fin 16) (x : FlitIn) (peer : Fin 16) (credits : List Nat) (t : Nat) (s : State) : exec (.flitRxCtrl p x peer credits t) s = execFlitRxCtrl p x peer credits t s := rfl
theorem exec_flitRxIdle (p : Fin 16) (x : FlitIn) (s : State) : exec (.flitRxIdle p x) s = execFlitRxIdle p x s := rfl
theorem exec_ackTimeout (p : Fin 16) (s : State) : exec (.ackTimeout p) s = execAckTimeout p s := rfl
theorem exec_flitIdleTimeout (p : Fin 16) (s : State) : exec (.flitIdleTimeout p) s = execFlitIdleTimeout p s := rfl
theorem exec_linkLost (p : Fin 16) (s : State) : exec (.linkLost p) s = execLinkLost p s := rfl
theorem exec_retrainTimer (p : Fin 16) (s : State) : exec (.retrainTimer p) s = execRetrainTimer p s := rfl
theorem exec_portTrained (p : Fin 16) (s : State) : exec (.portTrained p) s = execPortTrained p s := rfl
theorem exec_guardProbe (t : Nat) (s : State) : exec (.guardProbe t) s = execGuardProbe t s := rfl
theorem exec_probeMsg (p : Fin 16) (m : Msg) (turn : Nat) (s : State) : exec (.probeMsg p m turn) s = execProbe p m turn s := rfl
theorem exec_echoMsg (p : Fin 16) (m : Msg) (t next : Nat) (s : State) : exec (.echoMsg p m t next) s = execEcho p m t next s := rfl
theorem exec_parentMsg (p : Fin 16) (m : Msg) (s : State) : exec (.parentMsg p m) s = execParent p m s := rfl
theorem exec_mgmtMsg (p : Fin 16) (m : Msg) (s : State) : exec (.mgmtMsg p m) s = execMgmt p m s := rfl
theorem exec_ringMsg (p : Fin 16) (m : Msg) (s : State) : exec (.ringMsg p m) s = execRing p m s := rfl
theorem exec_assignMsg (p : Fin 16) (m : Msg) (s : State) : exec (.assignMsg p m) s = execAssign p m s := rfl
theorem exec_censusMsg (p : Fin 16) (m : Msg) (s : State) : exec (.censusMsg p m) s = execCensus p m s := rfl
theorem exec_doneMsg (p : Fin 16) (m : Msg) (s : State) : exec (.doneMsg p m) s = execDone p m s := rfl
theorem exec_confirmMsg (p : Fin 16) (m : Msg) (s : State) : exec (.confirmMsg p m) s = execConfirm p m s := rfl
theorem exec_discTestTick (s : State) : exec .discTestTick s = execDiscTestTick s := rfl
theorem exec_discoveryTimeout (s : State) : exec .discoveryTimeout s = execDiscoveryTimeout s := rfl
theorem exec_hbmRefresh (h : Fin 24) (s : State) : exec (.hbmRefresh h) s = execHbmRefresh h s := rfl
theorem exec_hbmTempReport (h : Fin 24) (hot : Bool) (s : State) : exec (.hbmTempReport h hot) s = execHbmTempReport h hot s := rfl
theorem exec_bar4Read (off : BitVec 40) (n : Fin 4097) (e : Ecc) (s : State) : exec (.bar4Read off n e) s = execBar4Read off n e s := rfl
theorem exec_bar4Write (off : BitVec 40) (data : List Byte) (s : State) : exec (.bar4Write off data) s = execBar4Write off data s := rfl
theorem exec_sqTailDoorbell (n : Fin 65536) (v : BitVec 64) (whole : Bool) (s : State) : exec (.sqTailDoorbell n v whole) s = execSqTailDoorbell n v s whole := rfl
theorem exec_cqHeadDoorbell (n : Fin 4096) (v : BitVec 64) (whole : Bool) (s : State) : exec (.cqHeadDoorbell n v whole) s = execCqHeadDoorbell n v s whole := rfl
theorem exec_descriptorFetch (n : Fin 65536) (data : Option (List Byte)) (s : State) : exec (.descriptorFetch n data) s = execDescriptorFetch n data s := rfl
theorem exec_msixCoalTimeout (n : Fin 4096) (s : State) : exec (.msixCoalTimeout n) s = execMsixCoalTimeout n s := rfl
theorem exec_nop (n : Fin 65536) (s : State) : exec (.nop n) s = execNop n s := rfl
theorem exec_createSq (n : Fin 65536) (s : State) : exec (.createSq n) s = execCreateSq n s := rfl
theorem exec_createCq (n : Fin 65536) (s : State) : exec (.createCq n) s = execCreateCq n s := rfl
theorem exec_deleteSq (n : Fin 65536) (s : State) : exec (.deleteSq n) s = execDeleteSq n s := rfl
theorem exec_deleteCq (n : Fin 65536) (s : State) : exec (.deleteCq n) s = execDeleteCq n s := rfl
theorem exec_hello (n : Fin 65536) (s : State) : exec (.hello n) s = execHello n s := rfl
theorem exec_query (n : Fin 65536) (s : State) : exec (.query n) s = execQuery n s := rfl
theorem exec_counterClear (n : Fin 65536) (s : State) : exec (.counterClear n) s = execCounterClear n s := rfl
theorem exec_imageLoadBoot (n : Fin 65536) (data : List Byte) (env : BootEnv) (s : State) : exec (.imageLoadBoot n data env) s = execImageLoadBoot n data env s := rfl
theorem exec_imageLoadUpdate (n : Fin 65536) (data : List Byte) (s : State) : exec (.imageLoadUpdate n data) s = execImageLoadUpdate n data s := rfl
theorem exec_imageLoadReload (n : Fin 65536) (data : List Byte) (env : WarmEnv) (s : State) : exec (.imageLoadReload n data env) s = execImageLoadReload n data env s := rfl
theorem exec_updateStaged (s : State) : exec .updateStaged s = execUpdateStaged s := rfl
theorem exec_caskRead (fwBad certBad : Nat) (e : Ecc) (s : State) : exec (.caskRead fwBad certBad e) s = execCaskRead fwBad certBad e s := rfl
theorem exec_updateResume (s : State) : exec .updateResume s = execUpdateResume s := rfl
theorem exec_startWarm (n : Fin 65536) (env : WarmEnv) (s : State) : exec (.startWarm n env) s = execStartWarm n env s := rfl
theorem exec_startCold (n : Fin 65536) (romOk : Bool) (s : State) : exec (.startCold n romOk) s = execStartCold n romOk s := rfl
theorem exec_discover (n : Fin 65536) (s : State) : exec (.discover n) s = execDiscover n s := rfl
theorem exec_fpLoad (n : Fin 65536) (data : List Byte) (e : Ecc) (s : State) : exec (.fpLoad n data e) s = execFpLoad n data s e := rfl
theorem exec_fpDiscard (n : Fin 65536) (s : State) : exec (.fpDiscard n) s = execFpDiscard n s := rfl
theorem exec_fpArm (n : Fin 65536) (s : State) : exec (.fpArm n) s = execFpArm n s := rfl
theorem exec_run (n : Fin 65536) (s : State) : exec (.run n) s = execRun n s := rfl
theorem exec_resume (n : Fin 65536) (s : State) : exec (.resume n) s = execResume n s := rfl
theorem exec_startTickReached (s : State) : exec .startTickReached s = execStartTickReached s := rfl
theorem exec_quiesce (n : Fin 65536) (s : State) : exec (.quiesce n) s = execQuiesce n s := rfl
theorem exec_stop (n : Fin 65536) (s : State) : exec (.stop n) s = execStop n s := rfl
theorem exec_permute (n : Fin 65536) (e : Ecc) (s : State) : exec (.permute n e) s = execPermute n e s := rfl
theorem exec_dmaH2d (n : Fin 65536) (data : List Byte) (s : State) : exec (.dmaH2d n data) s = execDmaH2d n data s := rfl
theorem exec_dmaD2h (n : Fin 65536) (sent : Nat) (e : Ecc) (s : State) : exec (.dmaD2h n sent e) s = execDmaD2h n sent e s := rfl
theorem exec_program (n : Fin 65536) (missed : List (Nat × Int)) (kiln : List KilnMeas) (fwBad certBad : Nat) (e : Ecc) (s : State) : exec (.program n missed kiln fwBad certBad e) s = execProgram n missed kiln fwBad certBad e s := rfl
theorem exec_tpackLoad (n : Fin 65536) (data : List Byte) (s : State) : exec (.tpackLoad n data) s = execTpackLoad n data s := rfl
theorem exec_mbxTx (m : Master) (n : Fin 64) (w : BitVec 32) (s : State) : exec (.mbxTx m n w) s = execMbxTx m n w s := rfl
theorem exec_mbxRx (m : Master) (n : Fin 64) (s : State) : exec (.mbxRx m n) s = execMbxRx m n s := rfl
theorem exec_mbxLock (v : BitVec 32) (s : State) : exec (.mbxLock v) s = execMbxLock v s := rfl
theorem exec_mbxMsgTimeout (n : Fin 64) (toB : Bool) (s : State) : exec (.mbxMsgTimeout n toB) s = execMbxMsgTimeout n toB s := rfl
theorem exec_domainDown (m : Master) (s : State) : exec (.domainDown m) s = execDomainDown m s := rfl
theorem exec_ping (n : Fin 64) (s : State) : exec (.ping n) s = execPing n s := rfl
theorem exec_srDoorbell (k : Fin 4) (s : State) : exec (.srDoorbell k) s = execSrDoorbell k s := rfl
theorem exec_srEcho (k : Fin 4) (s : State) : exec (.srEcho k) s = execSrEcho k s := rfl
theorem exec_srVersion (k : Fin 4) (s : State) : exec (.srVersion k) s = execSrVersion k s := rfl
theorem exec_logLevel (k : Fin 4) (s : State) : exec (.logLevel k) s = execLogLevel k s := rfl
theorem exec_mgmtSend (k : Fin 4) (full : Bool) (s : State) : exec (.mgmtSend k full) s = execMgmtSend k full s := rfl
theorem exec_caskInfo (k : Fin 4) (s : State) : exec (.caskInfo k) s = execCaskInfo k s := rfl
theorem exec_stickyClear (v : BitVec 64) (s : State) : exec (.stickyClear v) s = execStickyClear v s := rfl
theorem exec_wdogKick (m : Master) (v : Byte) (s : State) : exec (.wdogKick m v) s = execWdogKick m v s := rfl
theorem exec_wdogExpire (s : State) : exec .wdogExpire s = execWdogExpire s := rfl
theorem exec_klnReqInterp (basins : BitVec 32) (s : State) : exec (.klnReqInterp basins) s = execKlnReqInterp basins s := rfl
theorem exec_klnReqMeasured (basins : BitVec 32) (s : State) : exec (.klnReqMeasured basins) s = execKlnReqMeasured basins s := rfl
theorem exec_portRetrain (p : Fin 16) (s : State) : exec (.portRetrain p) s = execPortRetrain p s := rfl
theorem exec_portDisable (p : Fin 16) (s : State) : exec (.portDisable p) s = execPortDisable p s := rfl
theorem exec_memCfgWrite (v : BitVec 32) (s : State) : exec (.memCfgWrite v) s = execMemCfgWrite v s := rfl
theorem exec_adminRingsEnable (asq acq : Fin 32) (s : State) : exec (.adminRingsEnable asq acq) s = execAdminRingsEnable asq acq s := rfl
theorem exec_adminRingsDisable (asq acq : Fin 32) (s : State) : exec (.adminRingsDisable asq acq) s = execAdminRingsDisable asq acq s := rfl
theorem exec_secLock (v : BitVec 32) (s : State) : exec (.secLock v) s = execSecLock v s := rfl
theorem exec_gauUrg (g : Fin 2) (order : BitVec 3) (n : BitVec 15) (chan : BitVec 7) (fits : Bool) (s : State) : exec (.gauUrg g order n chan fits) s = execGauUrg g order n chan fits s := rfl
theorem exec_urgentDone (g : Fin 2) (v : BitVec 24) (s : State) : exec (.urgentDone g v) s = execUrgentDone g v s := rfl
theorem exec_gauPwr (on : Bool) (s : State) : exec (.gauPwr on) s = execGauPwr on s := rfl
theorem exec_gauRefChange (g : Fin 2) (r : BitVec 2) (s : State) : exec (.gauRefChange g r) s = execGauRefChange g r s := rfl
theorem exec_refSettled (g : Fin 2) (s : State) : exec (.refSettled g) s = execRefSettled g s := rfl
theorem exec_scanPassDue (l : Fin 4) (s : State) : exec (.scanPassDue l) s = execScanPassDue l s := rfl
theorem exec_scanEntryDone (g : Fin 2) (v : BitVec 24) (s : State) : exec (.scanEntryDone g v) s = execScanEntryDone g v s := rfl
theorem exec_gauMonSel (mon : BitVec 8) (s : State) : exec (.gauMonSel mon) s = execGauMonSel mon s := rfl
theorem exec_gauMonClr (s : State) : exec .gauMonClr s = execGauMonClr s := rfl
theorem exec_gauMonClrAll (s : State) : exec .gauMonClrAll s = execGauMonClrAll s := rfl
theorem exec_gauMonCfg (base : BitVec 32) (w : BitVec 5) (s : State) : exec (.gauMonCfg base w) s = execGauMonCfg base w s := rfl
theorem exec_registerWrite (off : BitVec 24) (whole : Bool) (v : BitVec 64) (s : State) : exec (.registerWrite off whole v) s = execRegisterWrite off whole v s := rfl
theorem exec_powerOn (romOk : Bool) (s : State) : exec (.powerOn romOk) s = execPowerOn romOk s := rfl
theorem exec_perst (origin mode romOk : Bool) (s : State) : exec (.perst origin mode romOk) s = execPerst origin mode romOk s := rfl
theorem exec_hotReset (env : WarmEnv) (s : State) : exec (.hotReset env) s = execHotReset env s := rfl
theorem exec_flr (env : WarmEnv) (s : State) : exec (.flr env) s = execFlr env s := rfl
theorem exec_railFault (rail : Fin 5) (s : State) : exec (.railFault rail) s = execRailFault rail s := rfl
theorem exec_thermalHold (diode : Fin 56) (s : State) : exec (.thermalHold diode) s = execThermalHold diode s := rfl
theorem exec_thermalRelease (s : State) : exec .thermalRelease s = execThermalRelease s := rfl
theorem exec_thermalTrip (s : State) : exec .thermalTrip s = execThermalTrip s := rfl
theorem exec_pciePowerState (p : Fin 3) (s : State) : exec (.pciePowerState p) s = execPciePowerState p s := rfl
theorem exec_ideIntegrityFail (s : State) : exec .ideIntegrityFail s = execIdeIntegrityFail s := rfl
theorem exec_getVersion (s : State) : exec .getVersion s = execGetVersion s := rfl
theorem exec_getCapabilities (ver : Byte) (s : State) : exec (.getCapabilities ver) s = execGetCapabilities ver s := rfl
theorem exec_negotiateAlgorithms (ver : Byte) (asym hash : BitVec 32) (dhe aead : BitVec 16) (s : State) : exec (.negotiateAlgorithms ver asym hash dhe aead) s = execNegotiateAlgorithms ver asym hash dhe aead s := rfl
theorem exec_getDigests (ver : Byte) (s : State) : exec (.getDigests ver) s = execGetDigests ver s := rfl
theorem exec_getCertificate (ver slot : Byte) (off len : BitVec 16) (s : State) : exec (.getCertificate ver slot off len) s = execGetCertificate ver slot off len s := rfl
theorem exec_challenge (ver slot kind : Byte) (context : BitVec 64) (s : State) : exec (.challenge ver slot kind context) s = execChallenge ver slot kind context s := rfl
theorem exec_getMeasurements (ver attr op : Byte) (context : BitVec 64) (s : State) : exec (.getMeasurements ver attr op context) s = execGetMeasurements ver attr op context s := rfl
theorem exec_keyExchange (ver slot kind : Byte) (reqSession : BitVec 16) (s : State) : exec (.keyExchange ver slot kind reqSession) s = execKeyExchange ver slot kind reqSession s := rfl
theorem exec_finish (session : BitVec 32) (ok : Bool) (s : State) : exec (.finish session ok) s = execFinish session ok s := rfl
theorem exec_heartbeat (session : BitVec 32) (s : State) : exec (.heartbeat session) s = execHeartbeat session s := rfl
theorem exec_keyUpdate (session : BitVec 32) (op tag : Byte) (s : State) : exec (.keyUpdate session op tag) s = execKeyUpdate session op tag s := rfl
theorem exec_endSession (session : BitVec 32) (s : State) : exec (.endSession session) s = execEndSession session s := rfl
theorem exec_ideKmQuery (session : Option (BitVec 32)) (s : State) : exec (.ideKmQuery session) s = execIdeKmQuery session s := rfl
theorem exec_keyProg (session : Option (BitVec 32)) (stream : Byte) (set dir : Fin 2) (sub : Fin 3) (s : State) : exec (.keyProg session stream set dir sub) s = execKeyProg session stream set dir sub s := rfl
theorem exec_kSetGo (session : Option (BitVec 32)) (set dir : Fin 2) (sub : Fin 3) (s : State) : exec (.kSetGo session set dir sub) s = execKSetGo session set dir sub s := rfl
theorem exec_kSetStop (session : Option (BitVec 32)) (set dir : Fin 2) (sub : Fin 3) (s : State) : exec (.kSetStop session set dir sub) s = execKSetStop session set dir sub s := rfl
theorem exec_tpRefresh (s : State) : exec .tpRefresh s = execTpRefresh s := rfl
theorem exec_tpMbxTx (j : Fin 8) (w : BitVec 32) (s : State) : exec (.tpMbxTx j w) s = execTpMbxTx j w s := rfl
theorem exec_tpMbxRx (j : Fin 8) (s : State) : exec (.tpMbxRx j) s = execTpMbxRx j s := rfl
theorem exec_powerLoss (s : State) : exec .powerLoss s = execPowerLoss s := rfl
theorem exec_vddioRestored (s : State) : exec .vddioRestored s = execVddioRestored s := rfl
theorem exec_pcieLinkTraining (rate width : Fin 3) (s : State) : exec (.pcieLinkTraining rate width) s = execPcieLinkTraining rate width s := rfl
theorem exec_lowerHalfRead (off : BitVec 24) (whole : Bool) (e : Ecc) (bar2 : Bool) (s : State) : exec (.lowerHalfRead off whole e bar2) s = execLowerHalfRead off whole e s bar2 := rfl
theorem exec_spdmUnsupportedRequest (code : Byte) (s : State) : exec (.spdmUnsupportedRequest code) s = execSpdmUnsupportedRequest code s := rfl

end Sys2Proof.Machine
end

