-- ==== Sys2Proof/Laws/SMap.lean ====
section
/-!
SUPPORT. Laws of the sparse maps: what a write reads as afterwards, and that every operation keeps the canonical form.
-/

namespace Sys2Proof.Machine

variable {β : Type}

theorem SMap.find?_insert_same (m : SMap β) (k : Nat) (v : β) : SMap.find? (SMap.insert m k v) k = some v := by
  induction m with
  | nil => simp [SMap.insert, SMap.find?]
  | cons p m ih =>
    obtain ⟨a, b⟩ := p
    unfold SMap.insert
    split
    · simp [SMap.find?]
    · split
      · simp [SMap.find?]
      · rename_i h; simp [SMap.find?, h, ih]

theorem SMap.find?_insert_other (m : SMap β) (k j : Nat) (v : β) (h : j ≠ k) :
    SMap.find? (SMap.insert m k v) j = SMap.find? m j := by
  induction m with
  | nil => simp [SMap.insert, SMap.find?, h]
  | cons p m ih =>
    obtain ⟨a, b⟩ := p
    unfold SMap.insert
    split
    · simp [SMap.find?, h]
    · split
      · rename_i e; subst e; simp [SMap.find?, h]
      · simp [SMap.find?, ih]

theorem SMap.find?_erase_same (m : SMap β) (k : Nat) : SMap.find? (SMap.erase m k) k = none := by
  induction m with
  | nil => rfl
  | cons p m ih =>
    obtain ⟨a, b⟩ := p
    unfold SMap.erase
    split
    · exact ih
    · rename_i h; simp [SMap.find?, h, ih]

theorem SMap.find?_erase_other (m : SMap β) (k j : Nat) (h : j ≠ k) : SMap.find? (SMap.erase m k) j = SMap.find? m j := by
  induction m with
  | nil => rfl
  | cons p m ih =>
    obtain ⟨a, b⟩ := p
    unfold SMap.erase
    split
    · rename_i e; subst e; simp [SMap.find?, h, ih]
    · simp [SMap.find?, ih]

/-- A written key reads as what was written. -/
@[simp] theorem SMap.get_set_same [DecidableEq β] (d : Nat → β) (m : SMap β) (k : Nat) (v : β) :
    SMap.get d (SMap.set d m k v) k = v := by
  unfold SMap.get SMap.set
  split
  · rename_i h; simp [SMap.find?_erase_same, h]
  · simp [SMap.find?_insert_same]

/-- A write leaves every other key alone. -/
theorem SMap.get_set_other [DecidableEq β] (d : Nat → β) (m : SMap β) (k j : Nat) (v : β) (h : j ≠ k) :
    SMap.get d (SMap.set d m k v) j = SMap.get d m j := by
  unfold SMap.get SMap.set
  split
  · simp [SMap.find?_erase_other m k j h]
  · simp [SMap.find?_insert_other m k j v h]

/-! ### The canonical form -/

theorem SMap.above_insert (m : SMap β) (a k : Nat) (v : β) (h : SMap.above a m = true) (hk : a < k) :
    SMap.above a (SMap.insert m k v) = true := by
  induction m with
  | nil => simp [SMap.insert, SMap.above, hk]
  | cons p m ih =>
    obtain ⟨b, c⟩ := p
    simp only [SMap.above, Bool.and_eq_true, decide_eq_true_eq] at h
    unfold SMap.insert
    split
    · simp [SMap.above, hk, h.1, h.2]
    · split
      · simp [SMap.above, hk, h.2]
      · simp [SMap.above, h.1, ih h.2]

theorem SMap.above_erase (m : SMap β) (a k : Nat) (h : SMap.above a m = true) : SMap.above a (SMap.erase m k) = true := by
  induction m with
  | nil => rfl
  | cons p m ih =>
    obtain ⟨b, c⟩ := p
    simp only [SMap.above, Bool.and_eq_true, decide_eq_true_eq] at h
    unfold SMap.erase
    split
    · exact ih h.2
    · simp [SMap.above, h.1, ih h.2]

theorem SMap.above_filter (m : SMap β) (a : Nat) (f : Nat × β → Bool) (h : SMap.above a m = true) :
    SMap.above a (m.filter f) = true := by
  induction m with
  | nil => rfl
  | cons p m ih =>
    simp only [SMap.above, Bool.and_eq_true, decide_eq_true_eq] at h
    simp only [List.filter_cons]
    split
    · simp [SMap.above, h.1, ih h.2]
    · exact ih h.2

theorem SMap.above_trans (m : SMap β) (a b : Nat) (h : SMap.above b m = true) (hab : a < b) : SMap.above a m = true := by
  induction m with
  | nil => rfl
  | cons p m ih =>
    simp only [SMap.above, Bool.and_eq_true, decide_eq_true_eq] at h ⊢
    exact ⟨by omega, ih h.2⟩

theorem SMap.wf_nil [DecidableEq β] (d : Nat → β) : SMap.wf d [] = true := rfl

theorem SMap.wf_insert [DecidableEq β] (d : Nat → β) (m : SMap β) (k : Nat) (v : β) (h : SMap.wf d m = true) (hv : v ≠ d k) :
    SMap.wf d (SMap.insert m k v) = true := by
  induction m with
  | nil => simp [SMap.insert, SMap.wf, SMap.above, hv]
  | cons p m ih =>
    obtain ⟨a, b⟩ := p
    simp only [SMap.wf, Bool.and_eq_true, decide_eq_true_eq] at h
    unfold SMap.insert
    split
    · rename_i hka
      simp [SMap.wf, SMap.above, hv, hka, h.1.1, h.1.2, h.2, SMap.above_trans m k a h.1.2 hka]
    · split
      · rename_i e; subst e; simp [SMap.wf, hv, h.1.2, h.2]
      · rename_i h1 h2
        simp [SMap.wf, h.1.1, ih h.2, SMap.above_insert m a k v h.1.2 (by omega)]

theorem SMap.wf_erase [DecidableEq β] (d : Nat → β) (m : SMap β) (k : Nat) (h : SMap.wf d m = true) :
    SMap.wf d (SMap.erase m k) = true := by
  induction m with
  | nil => rfl
  | cons p m ih =>
    obtain ⟨a, b⟩ := p
    simp only [SMap.wf, Bool.and_eq_true, decide_eq_true_eq] at h
    unfold SMap.erase
    split
    · exact ih h.2
    · simp [SMap.wf, h.1.1, ih h.2, SMap.above_erase m a k h.1.2]

/-- A write keeps the canonical form. -/
theorem SMap.wf_set [DecidableEq β] (d : Nat → β) (m : SMap β) (k : Nat) (v : β) (h : SMap.wf d m = true) :
    SMap.wf d (SMap.set d m k v) = true := by
  unfold SMap.set
  split
  · exact SMap.wf_erase d m k h
  · rename_i hv; exact SMap.wf_insert d m k v h hv

/-- Leaving entries out keeps the canonical form. -/
theorem SMap.wf_filter [DecidableEq β] (d : Nat → β) (m : SMap β) (f : Nat × β → Bool) (h : SMap.wf d m = true) :
    SMap.wf d (m.filter f) = true := by
  induction m with
  | nil => rfl
  | cons p m ih =>
    simp only [SMap.wf, Bool.and_eq_true, decide_eq_true_eq] at h
    simp only [List.filter_cons]
    split
    · simp [SMap.wf, h.1.1, ih h.2, SMap.above_filter m p.1 f h.1.2]
    · exact ih h.2

/-- Canonical for one default is canonical for another that agrees on the listed keys. -/
theorem SMap.wf_congr [DecidableEq β] (d e : Nat → β) (m : SMap β) (h : SMap.wf d m = true) (he : ∀ p ∈ m, d p.1 = e p.1) :
    SMap.wf e m = true := by
  induction m with
  | nil => rfl
  | cons p m ih =>
    simp only [SMap.wf, Bool.and_eq_true, decide_eq_true_eq] at h ⊢
    refine ⟨⟨?_, h.1.2⟩, ih h.2 fun q hq => he q (List.mem_cons_of_mem _ hq)⟩
    rw [← he p (List.mem_cons_self ..)]
    exact h.1.1

end Sys2Proof.Machine
end

