-- ==== Sys2Proof/Laws/Fields.lean ====
section
/-!
SUPPORT. What a register field, a counter, a slot of a unit and the record of what was sent read as after one update, and how a command's
answer is reached; the statements about single commands are proved through these.
-/

namespace Sys2Proof.Machine

/-- With power a command answers what its transformer gives. -/
theorem answers_run (c : Instr) (s : State) (f : Dev → Dev) (P : Dev → Prop) (hc : exec c s = s.run f) (hp : s.dev.powered = true)
    (h : P (f s.dev.quiet)) : answers c s P :=
  ⟨_, hc.trans (State.run_powered s f hp), rfl, h⟩

/-- A written field reads as what was written, within its width. -/
theorem Dev.fld_setFld_same (d : Dev) (f : Field) (v : Nat) : (d.setFld f v).fld f = v % 2 ^ f.w :=
  SMap.get_set_same _ _ _ _

/-- A write to a field leaves every other field alone. -/
theorem Dev.fld_setFld_other (d : Dev) (f g : Field) (v : Nat) (h : g.key ≠ f.key) : (d.setFld f v).fld g = d.fld g :=
  SMap.get_set_other _ _ _ _ _ h

/-- Devices with the same registers read the same. -/
theorem Dev.fld_congr (d e : Dev) (f : Field) (h : e.regs = d.regs) : e.fld f = d.fld f := by unfold Dev.fld; rw [h]

theorem Dev.count_bumpBy_same (d : Dev) (c n : Nat) : (d.bumpBy c n).count c = min cntMax (d.count c + n) :=
  SMap.get_set_same _ _ _ _

theorem Dev.count_bump_same (d : Dev) (c : Nat) : (d.bump c).count c = min cntMax (d.count c + 1) :=
  SMap.get_set_same _ _ _ _

theorem Dev.count_bump_other (d : Dev) (c k : Nat) (h : k ≠ c) : (d.bump c).count k = d.count k :=
  SMap.get_set_other _ _ _ _ _ h

theorem Dev.count_congr (d e : Dev) (c : Nat) (h : e.cnt = d.cnt) : e.count c = d.count c := by unfold Dev.count; rw [h]

theorem Dev.running_set_same (d : Dev) (k : Nat) (r : Option Running) : (d.setRunning k r).running? k = r :=
  SMap.get_set_same _ _ _ _

theorem Dev.running_set_other (d : Dev) (k j : Nat) (r : Option Running) (h : j ≠ k) : (d.setRunning k r).running? j = d.running? j :=
  SMap.get_set_other _ _ _ _ _ h

@[simp] theorem Dev.quiet_fld (d : Dev) (f : Field) : d.quiet.fld f = d.fld f := rfl
@[simp] theorem Dev.quiet_flag (d : Dev) (f : Field) : d.quiet.flag f = d.flag f := rfl
@[simp] theorem Dev.quiet_count (d : Dev) (c : Nat) : d.quiet.count c = d.count c := rfl
@[simp] theorem Dev.quiet_st (d : Dev) : d.quiet.st = d.st := rfl
@[simp] theorem Dev.quiet_out (d : Dev) : d.quiet.out = [] := rfl
@[simp] theorem Dev.emit_fld (d : Dev) (o : Out) (f : Field) : (d.emit o).fld f = d.fld f := rfl
@[simp] theorem Dev.emit_count (d : Dev) (o : Out) (c : Nat) : (d.emit o).count c = d.count c := rfl
@[simp] theorem Dev.emit_out (d : Dev) (o : Out) : (d.emit o).out = d.out ++ [o] := rfl
@[simp] theorem Dev.bump_fld (d : Dev) (c : Nat) (f : Field) : (d.bump c).fld f = d.fld f := rfl
@[simp] theorem Dev.setFld_count (d : Dev) (f : Field) (v c : Nat) : (d.setFld f v).count c = d.count c := rfl
@[simp] theorem Dev.setFrm_fld (d : Dev) (g : Sys2Proof.Machine.Frm → Sys2Proof.Machine.Frm) (f : Field) : (d.setFrm g).fld f = d.fld f := rfl
@[simp] theorem Dev.setFrm_frm (d : Dev) (g : Sys2Proof.Machine.Frm → Sys2Proof.Machine.Frm) : (d.setFrm g).frm = g d.frm := rfl

/-- Clean memories report nothing. -/
@[simp] theorem Dev.ecc_clean (d : Dev) : d.ecc Ecc.clean = d := rfl

end Sys2Proof.Machine
end

