-- ==== Sys2Proof/Laws/Memory.lean ====
section
/-!
SUPPORT. Every memory operation keeps the canonical form: writes, zero fills, the loss of the local stores and HBM_INIT; and reset's
memory has it.
-/

namespace Sys2Proof.Machine

theorem Memory.wf_reset : Memory.wf Dev.reset.lsEpoch Dev.reset.mem = true := rfl

theorem Memory.wf_setByte (d : Dev) (a : Nat) (b : Byte) (h : Memory.wf d.lsEpoch d.mem = true) :
    Memory.wf (d.setByte a b).lsEpoch (d.setByte a b).mem = true :=
  SMap.wf_set _ _ _ _ h

theorem Memory.wf_memWrite (e : Nat) (bs : List Byte) : ∀ (m : List Host.Cell) (a : Nat), Memory.wf e m = true →
    Memory.wf e (memWrite e m a bs) = true := by
  induction bs with
  | nil => intro m a h; exact h
  | cons b bs ih => intro m a h; exact ih _ _ (SMap.wf_set _ _ _ _ h)

theorem Memory.wf_write (d : Dev) (a : Nat) (bs : List Byte) (h : Memory.wf d.lsEpoch d.mem = true) :
    Memory.wf (d.write a bs).lsEpoch (d.write a bs).mem = true :=
  Memory.wf_memWrite _ bs _ _ h

theorem Memory.wf_wr (d : Dev) (a n v : Nat) (h : Memory.wf d.lsEpoch d.mem = true) :
    Memory.wf (d.wr a n v).lsEpoch (d.wr a n v).mem = true :=
  Memory.wf_write d a _ h

theorem Memory.wf_zeroFill (d : Dev) (a n : Nat) (h : Memory.wf d.lsEpoch d.mem = true) :
    Memory.wf (d.zeroFill a n).lsEpoch (d.zeroFill a n).mem = true := by
  unfold Dev.zeroFill
  split
  · exact SMap.wf_filter _ _ _ h
  · exact Memory.wf_write d a _ h

/-- The loss of the local stores begins a new epoch, in which only HBM is listed. -/
theorem Memory.wf_loseLs (d : Dev) (h : Memory.wf d.lsEpoch d.mem = true) :
    Memory.wf d.loseLs.lsEpoch d.loseLs.mem = true := by
  refine SMap.wf_congr (memDefault d.lsEpoch) _ _ (SMap.wf_filter _ _ _ h) ?_
  intro p hp
  have := (List.mem_filter.mp hp).2
  simp only [decide_eq_true_eq] at this
  simp [memDefault, this]

theorem Memory.wf_initHbm (d : Dev) (h : Memory.wf d.lsEpoch d.mem = true) :
    Memory.wf d.initHbm.lsEpoch d.initHbm.mem = true :=
  SMap.wf_filter _ _ _ h

end Sys2Proof.Machine
end

