-- ==== Sys2Proof/WellFormed.lean ====
section
/-!
DEFINITION. Well-formed commands: what the operands of a command satisfy wherever the outside world is the hardware's own. A meaning takes
any operands; these checks say which of them the spec's interfaces can bring.
-/

namespace Sys2Proof

/-- How many units a class has (R6, R19). -/
def UClass.units : UClass → Nat
  | .basin => 32
  | .mxc => 128
  | .spg => 32
  | .red => 1
  | .port => 16
  | .cmdproc => 1

/-- A unit of its class; only a basin's slot may be of one Tun (Table 2.6). -/
def unitWf (u : UClass) (i : Fin 128) (sub : Option (Fin 64)) : Bool := i.val < u.units && (u == .basin || sub.isNone)

/-- LEN is the number of body bytes (Table 12.5), at most that of the longest message, a barge segment (R307). -/
def Msg.wf (m : Msg) : Bool := m.len.toNat == m.body.length && m.body.length ≤ 65600

/-- A flit has 242 payload bytes (R299). -/
def FlitIn.wf (x : FlitIn) : Bool := x.payload.length == 242

/-- One temperature for each stack (R336). -/
def StepMeas.wf (m : StepMeas) : Bool := m.temps.length == 24

/-- At most 520 codes a unit, each offset code in one byte (Tables 6.1 and 6.3). -/
def KilnMeas.wf (m : KilnMeas) : Bool := m.gains.length ≤ 520 && m.offsets.length ≤ 520 && m.offsets.all fun x => x < 256

/-- What a start measures: at most 18 units for each of 2,048 Tuns (R145, R157). -/
def kilnWf (l : List KilnMeas) : Bool := l.length ≤ 36864 && l.all KilnMeas.wf

/-- A weight level (R61). -/
def levelWf (x : Int) : Bool := -7 ≤ x && x ≤ 7

/-- Are a command's operands such as the spec's interfaces bring? -/
def Instr.wf : Instr → Bool
  | .tickMsg _ m _ _ | .tokenMsg _ m | .resultMsg _ m | .bargeMsg _ m | .creditMsg _ m | .permAck _ m | .probeMsg _ m _ | .echoMsg _ m _ _
  | .parentMsg _ m | .mgmtMsg _ m | .ringMsg _ m | .assignMsg _ m | .censusMsg _ m | .doneMsg _ m | .confirmMsg _ m => m.wf
  | .reduceMsg _ m _ | .agRx _ m _ | .fetchRx _ m _ | .preXRx _ m _ | .noticeRx _ m _ => m.wf
  | .flitRxData _ x | .flitRxIdle _ x => x.wf
  | .flitRxCtrl _ x _ credits _ => x.wf && credits.length == 16
  | .frameStart m => m.wf
  | .slotStart u i _ _ => unitWf u i none
  | .slotEnd u i sub | .taskComplete u i sub _ => unitWf u i sub
  | .pulseRoundEnd _ _ levels => levels.length ≤ 16 && levels.all levelWf
  | .kilnUnit _ _ _ m _ => m.wf
  | .bar4Read _ n _ => 1 ≤ n.val
  | .bar4Write _ data => 1 ≤ data.length && data.length ≤ 512
  | .descriptorFetch _ data => match data with
    | some b => b.length == 64
    | none => true
  | .imageLoadBoot _ data env => data.length ≤ 0x4000000 && kilnWf env.kiln
  | .imageLoadUpdate _ data => data.length ≤ 0x4000000
  | .imageLoadReload _ data env => data.length ≤ 0x4000000 && kilnWf env.kiln
  | .startWarm _ env | .hotReset env | .flr env => kilnWf env.kiln
  | .program _ missed kiln _ _ _ => kilnWf kiln && missed.all fun x => x.1 < 2048 * 2 ^ 19 && levelWf x.2
  | .tpackLoad _ data => data.length ≤ 0x1000000
  | .dmaH2d _ data => data.length ≤ 2 ^ 32
  | _ => true

end Sys2Proof
end

