-- ==== Sys2Proof/Tests/Slice0.lean ====
section
/-!
SUPPORT. Tests: an ill-formed command for each check of WellFormed.lean, worked examples of the spec, single commands on small states, and
for every obligation with hypotheses a state and operands that meet them. Each expected value is the spec's own, cited at its test, or follows
from a value that the test writes down.
-/

namespace Sys2Proof.Tests

open Sys2Proof Sys2Proof.Machine

set_option maxRecDepth 100000
set_option Elab.async false

/-! ### Ill-formed commands are refused -/

def shortMsg : Msg := ⟨0, 0, 0, 0, 1, 0, []⟩
def goodMsg : Msg := ⟨0, 0, 0, 0, 1, 0, [0]⟩
def noEcc : Ecc := ⟨[], []⟩
def meas (temps : List Int) : StepMeas := ⟨0, 0, temps, 0⟩
def units (codes : List Nat) : KilnMeas := ⟨0, 0, codes, 0, []⟩

theorem test_wf_message_length : (Instr.ringMsg 0 shortMsg).wf = false ∧ (Instr.ringMsg 0 goodMsg).wf = true := by decide
theorem test_wf_packet_length : (Instr.reduceMsg 0 shortMsg 0).wf = false ∧ (Instr.reduceMsg 0 goodMsg 0).wf = true := by decide
theorem test_wf_flit_payload : (Instr.flitRxData 0 ⟨0, [], 0, 0, 0⟩).wf = false ∧
    (Instr.flitRxData 0 ⟨0, List.replicate 242 0, 0, 0, 0⟩).wf = true := by decide +kernel
theorem test_wf_flit_credits : (Instr.flitRxCtrl 0 ⟨0, List.replicate 242 0, 0, 0, 0⟩ 0 [] 0).wf = false ∧
    (Instr.flitRxCtrl 0 ⟨0, List.replicate 242 0, 0, 0, 0⟩ 0 (List.replicate 16 0) 0).wf = true := by decide +kernel
theorem test_wf_temperatures : (Instr.frameStart (meas [])).wf = false ∧ (Instr.frameStart (meas (List.replicate 24 40))).wf = true := by decide
theorem test_wf_unit_number : (Instr.slotStart .basin 32 0).wf = false ∧ (Instr.slotStart .basin 31 0).wf = true := by decide
theorem test_wf_subslot : (Instr.slotEnd .mxc 0 (some 0)).wf = false ∧ (Instr.slotEnd .basin 0 (some 0)).wf = true := by decide
theorem test_wf_task_unit : (Instr.taskComplete .red 1 none 0).wf = false ∧ (Instr.taskComplete .red 0 none 0).wf = true := by decide
theorem test_wf_levels : (Instr.pulseRoundEnd 0 0 [8]).wf = false ∧ (Instr.pulseRoundEnd 0 0 (List.replicate 17 0)).wf = false ∧
    (Instr.pulseRoundEnd 0 0 [-7, 7]).wf = true := by decide
theorem test_wf_kiln_codes : (Instr.kilnUnit 0 0 0 (units (List.replicate 521 0)) noEcc).wf = false ∧
    (Instr.kilnUnit 0 0 0 ⟨0, 0, [], 0, [256]⟩ noEcc).wf = false ∧ (Instr.kilnUnit 0 0 0 (units [300]) noEcc).wf = true := by decide +kernel
theorem test_wf_bar4_read : (Instr.bar4Read 0 0 noEcc).wf = false ∧ (Instr.bar4Read 0 1 noEcc).wf = true := by decide
theorem test_wf_bar4_write : (Instr.bar4Write 0 []).wf = false ∧ (Instr.bar4Write 0 [1]).wf = true := by decide
theorem test_wf_descriptor : (Instr.descriptorFetch 0 (some [])).wf = false ∧ (Instr.descriptorFetch 0 none).wf = true := by decide
theorem test_wf_start_measurements : (Instr.flr ⟨true, true, noEcc, [], [⟨0, 0, [], 0, [256]⟩]⟩).wf = false ∧
    (Instr.flr ⟨true, true, noEcc, [], []⟩).wf = true := by decide
theorem test_wf_program_levels : (Instr.program 0 [(0, 9)] [] 0 0 noEcc).wf = false ∧ (Instr.program 0 [(0, -7)] [] 0 0 noEcc).wf = true := by
  decide

/-! ### Worked examples of the spec -/

/-- R313: K-52's device (3,5,2,0). -/
theorem test_fabric_address : addrOf [3, 5, 2, 0] [16, 16, 8, 1] = 595 ∧ coordOf 595 [16, 16, 8, 1] = [3, 5, 2, 0] := by decide

/-- Chapter 13, placing programmed images: the interleaved address and the A-local image of Tun 700. -/
theorem test_stack_of_address : stackOf 0x001234567ABC = 7 ∧ stackOffset 0 0x001234567ABC = 0xC22E4ABC ∧
    stackOf 0x01000B05E000 = 6 ∧ stackOffset 1 0x01000B05E000 = 0xEB2000 := by decide

/-- The three clauses of R331 at the ends of their ranges. -/
theorem test_stack_boundaries : stackOf 0x010000000000 = 0 ∧ stackOf 0x020000000000 = 12 ∧ stackOffset 36 0 = 36 * 2 ^ 30 ∧
    stackOffset 36 0x020000000000 = 0 := by decide

/-- Chapter 20, locating array registers. -/
theorem test_array_registers : Cnt.FAB_REPLAY_CNT 9 = 0xA1258 ∧ Cnt.MEM_HBM_CORR_CNT 7 = 0xC0438 := by decide

/-- Chapter 20: DEV_ID and DEV_BLOCKS of the K-52 device. -/
theorem test_identity_registers : State.reset.dev.raw 0x00 = 0x0E24B000 ∧ State.reset.dev.raw 0x10 = 0x0003F7F7 := by decide

/-- Chapter 7: 5.3, 2.2, 0.2, −0.7 and 3.1 as TS4F at SBIAS 0 and −1. -/
def tsRow : List FVal := [f32 0x40A9999A, f32 0x400CCCCD, f32 0x3E4CCCCD, f32 0xBF333333, f32 0x40466666]

theorem test_ts4f_row : autoScale .ts4f 0 tsRow = 127 ∧
    ((cvtScaled .ts4f false 127 (tsRow.map fun x => (x, .rne))).elems.map (·.code)) = [7, 4, 0, 9, 5] ∧
    ((cvtScaled .ts4f false 127 (tsRow.map fun x => (x, .rne))).elems.map (·.ufl)) = [false, false, true, false, false] := by decide

theorem test_ts4f_row_biased : autoScale .ts4f (-1) tsRow = 126 ∧
    ((cvtScaled .ts4f false 126 (tsRow.map fun x => (x, .rne))).elems.map (·.code)) = [7, 6, 1, 11, 7] ∧
    ((cvtScaled .ts4f false 126 (tsRow.map fun x => (x, .rne))).elems.map (·.sat)) = [true, false, false, false, false] := by decide

/-- R179: x = 0.59375 at s_in 0.0625 is code +7 with RESID 2.5 (0x40200000). -/
theorem test_tun_input_element : tunInElem .rne (f32 0x3F180000) 0x3D800000 = (7, some 0x40200000) := by decide

/-- Chapter 10, a fault four hops round a D ring: 100.3 at exponent 133 clips, with need 134; 8,955 at 134 is 139.921875. -/
theorem test_w32_clip : cvtW32 false 133 [f32 0x41480000, f32 0xC0500000, f32 0x42200000, f32 0x42C8999A] =
    ⟨[1600, -416, 5120, 8191], 134, 0, [(false, false), (false, false), (false, false), (false, true)]⟩ := by decide

theorem test_w32_value : toF32 (w32Val 134 8955) = 0x430BEC00 := by decide

/-! ### Small states -/

/-- The reset state after a change to its device. -/
def onDev (f : Dev → Dev) : State := ⟨f State.reset.dev, []⟩
/-- The reset state in another device state. -/
def inSt (n : Nat) : State := onDev fun d => d.setFld Reg.HIF_STATE_STATE n
/-- The device after a command. -/
def after (c : Instr) (s : State) : Option Dev :=
  match exec c s with
  | .next t => some t.dev
  | _ => none
/-- A vector instruction word with DST 2, SA 0, SB 1, SC 3. -/
def vw (mode : BitVec 24) : VWord := ⟨2, 0, 1, 3, mode⟩
/-- Cluster 5 with a value in every lane of registers 0 and 1 and a count in scalar register 0. -/
def vecSt (a b n : Nat) : State := onDev fun d => ((d.dst 5 0 fun _ => a).dst 5 1 fun _ => b).dst 5 0xF0 fun _ => n

/-! ### Single commands -/

/-- 1.5 + 2.25 = 3.75 in FP32, and 2.25 < 1.5 is not. -/
theorem test_vector_add : (after (.vAdd 5 (vw 0)) (vecSt 0x3FC00000 0x40100000 0)).map (fun d => d.src 5 2 63) = some 0x40700000 := by decide +kernel
theorem test_vector_cmplt : (after (.vCmplt 5 (vw 0)) (vecSt 0x40100000 0x3FC00000 0)).map (fun d => d.src 5 2 0) = some 0 := by decide +kernel
/-- R210: the sum of 64 ones is 64. -/
theorem test_vector_sum : (after (.vRedSum 5 (vw 0)) (vecSt 0x3F800000 0 0)).map (fun d => d.src 5 2 17) = some 0x42800000 := by decide +kernel
/-- R380: the host is no end of channel 8 at reset; the refusal is counted. -/
theorem test_mailbox_refused : (after (.mbxRx .hostPf 8) State.reset).map (fun d => (d.count Cnt.MBX_DENY_CNT, d.flag Reg.FLT_STK0_MBX_DENIED)) =
    some (1, true) := by decide
/-- R332: MEM_CFG outside AWAIT_IMAGE is counted and ignored; within, SPLIT 1 stands. -/
theorem test_mem_cfg : (after (.memCfgWrite 1) State.reset).map (fun d => (d.count Cnt.MEM_CFG_REJ_CNT, d.fld Reg.MEM_CFG_SPLIT)) = some (1, 0) ∧
    (after (.memCfgWrite 1) (inSt DS.awaitImage)).map (fun d => (d.count Cnt.MEM_CFG_REJ_CNT, d.fld Reg.MEM_CFG_SPLIT)) = some (0, 1) := by decide
/-- R349, R12: DEV_SCRATCH keeps what is written. -/
theorem test_scratch : (after (.registerWrite 0x18 true 0x0123456789ABCDEF) State.reset).map (fun d => d.fld Reg.DEV_SCRATCH_VALUE) =
    some 0x0123456789ABCDEF := by decide
/-- R333: an unmapped BAR4 read gives all ones and is counted. -/
theorem test_bar4_unmapped : (after (.bar4Read 0xFFFFFFFFFF 2 noEcc) (onDev fun d => { d with hif := { d.hif with bar4Log2 := 40 } })).map
    (fun d => (d.out, d.count Cnt.MEM_UNMAPPED_CNT)) = some ([.bytes [0xFF, 0xFF]], 1) := by decide
/-- R453: HOLD of diode 3 at reset. -/
theorem test_thermal_hold : (after (.thermalHold 3) State.reset).map (fun d => (d.flag Reg.PWR_THERM_STATUS_HOLD_ACTIVE, d.count Cnt.PWR_THERM_HOLD_CNT)) =
    some (true, 1) := by decide
/-- R17: STICKY_CLEAR clears the bit written 1 and leaves its neighbour. -/
theorem test_sticky_clear : (after (.stickyClear 1) (onDev fun d => (d.setFld (stickyBit 0) 1).setFld (stickyBit 1) 1)).map
    (fun d => (d.fld (stickyBit 0), d.fld (stickyBit 1))) = some (0, 1) := by decide

/-! ### States and operands that meet the hypotheses of the obligations -/

/-- UnpoweredIsInert, and the last clauses of PowerStarts: the device in OFF. -/
theorem witness_unpowered : (inSt DS.off).dev.powered = false ∧ actsUnpowered .gauMonClr = false ∧ (inSt DS.off).dev.st = DS.off := by decide
/-- TripLatches, SpargePeriodFillsPool, KilnRestoreReleasesTrims, ThermalHoldFreezes and every other statement over a powered device. -/
theorem witness_powered : State.reset.dev.powered = true ∧ (∀ c ∈ [Instr.gauMonClr, .nop 0], actsUnpowered c = false) ∧
    [Instr.gauMonClr, .nop 0] ≠ [] ∧ State.reset.dev.st ≠ DS.off := by decide
/-- StepKeepsCanonicalForm and StickyBitsClearByOne: a device in canonical form with sticky bits set. -/
def stickySt : State := onDev fun d => ((d.setFld (stickyBit 0) 1).setFld (stickyBit 22) 1).bump 0xE1000
theorem sticky_count (c : Nat) : stickySt.dev.count c ≤ cntMax := by
  by_cases h : c = 0xE1000
  · subst h; decide
  · exact Nat.le_trans (Nat.le_of_eq (SMap.get_set_other (fun _ => 0) [] 0xE1000 c 1 h)) (Nat.zero_le _)
theorem witness_canonical : stickySt.dev.wf ∧ stickySt.dev.powered = true ∧ (∃ t, step stickySt = .next t) :=
  ⟨⟨by decide, by decide, by decide, sticky_count, by decide⟩, by decide, ⟨_, rfl⟩⟩
/-- CountersSaturateAndNeverFall: another counter, and a command that is none of the exceptions, on a full counter. -/
theorem witness_counters : (0xE1008 : Nat) ≠ 0xE1000 ∧ (∀ n, Instr.gauMonClr ≠ .counterClear n) ∧ (∀ ok, Instr.gauMonClr ≠ .powerOn ok) ∧
    Instr.gauMonClr ≠ .powerLoss ∧ (onDev fun d => d.bumpBy 0xE1000 (2 ^ 48)).dev.count 0xE1000 ≤ 2 ^ 48 - 1 := by
  refine ⟨by decide, ?_, ?_, by decide, by decide⟩ <;> intro _ h <;> cases h
/-- StackOfAnAddress: an address for each of its clauses, at the ends of the ranges. -/
theorem witness_stack : 0x00FFFFFFFFFF < 0x010000000000 ∧ (0x010000000000 = 0x010000000000 + 0 ∧ 0 < 0x010000000000) ∧
    (0x01FFFFFFFFFF = 0x010000000000 + 0xFFFFFFFFFF ∧ 0xFFFFFFFFFF < 0x010000000000) ∧ 0x020000000000 = 0x020000000000 + 0 := by decide
/-- FabricAddress: K-52's device (3,5,2,0) and the last device of the largest torus. -/
theorem witness_fabric : 3 < 16 ∧ 5 < 16 ∧ 2 < 8 ∧ 0 < 1 ∧ 16 * 16 * 8 * 1 ≤ 2 ^ 12 ∧ 15 < 16 ∧ 7 < 8 ∧ 16 * 16 * 16 * 1 ≤ 2 ^ 12 := by decide
/-- VectorLaneResults and VectorPairResults: MODE 0, with a vector, the last vector and the last scalar as destination. -/
theorem witness_vector : State.reset.dev.powered = true ∧ (vw 0).mode = 0 ∧ (⟨0xEF, 0, 1, 3, 0⟩ : VWord).mode = 0 ∧
    (⟨0xFF, 0, 1, 3, 0⟩ : VWord).mode = 0 := by decide
/-- A scalar destination takes lane 0, and s15 of cluster 5 is no register of cluster 6. -/
theorem test_scalar_destination : (after (.vAdd 5 ⟨0xFF, 0, 1, 3, 0⟩) (vecSt 0x3FC00000 0x40100000 0)).map
    (fun d => (d.src 5 0xFF 9, d.src 6 0xF0 0)) = some (0x40700000, 0) := by decide +kernel
/-- VectorLaneResults: another cluster and another register of the same cluster. -/
theorem witness_vector_others : (0xFF : Nat) < 0x100 ∧ 63 < 64 ∧ ((6 : Fin 128) ≠ 5 ∨ 2 ≠ (vw 0).dst.toNat) ∧
    ((5 : Fin 128) ≠ 5 ∨ 3 ≠ (vw 0).dst.toNat) := by decide
/-- VectorPairResults: |a| ≥ |b| in every lane. -/
theorem witness_fast2sum : ((f32 ((vecSt 0x40100000 0x3FC00000 0).dev.src 5 0 9)).isZero ||
    !(f32 ((vecSt 0x40100000 0x3FC00000 0).dev.src 5 0 9)).abs.lt (f32 ((vecSt 0x40100000 0x3FC00000 0).dev.src 5 1 9)).abs) = true := by decide +kernel
/-- VectorReductions: k = 1 and k = 64 in scalar register 0. -/
theorem witness_kth : (vw 3).mode.toNat < 4 ∧ (⟨2, 0, 0xF0, 3, 0⟩ : VWord).mode = 0 ∧ (⟨2, 0, 0xF0, 3, 0⟩ : VWord).sb.toNat = 0xF0 ∧ (vecSt 0 0 1).dev.powered = true ∧ 1 ≤ (vecSt 0 0 1).dev.src 5 0xF0 0 ∧
    (vecSt 0 0 64).dev.src 5 0xF0 0 ≤ 64 ∧ 1 ≤ (vecSt 0 0 64).dev.src 5 0xF0 0 := by decide +kernel
/-- VectorLoops: no loop open, and one with two passes left, with one pass left. -/
def loopSt (k : Nat) : State := onDev fun d => d.setPos 5 ⟨7, [(3, k)], false, false, 0⟩
theorem witness_loops : (State.reset.dev.vecPos 5).skip = 0 ∧ (State.reset.dev.vecPos 5).loops = [] ∧ (loopSt 1).dev.powered = true ∧
    ((loopSt 1).dev.vecPos 5).skip = 0 ∧ ((loopSt 1).dev.vecPos 5).loops = [(3, 1)] ∧ ((loopSt 2).dev.vecPos 5).loops = [(3, 2)] := by decide
/-- ReservedModeStopsProgram. -/
theorem witness_reserved_mode : (vw 1).mode ≠ 0 ∧ Instr.vEnd 5 (vw 1) ∈ [Instr.vLoop 5 (vw 1), .vEnd 5 (vw 1)] := by decide
/-- PulsePeriodVerifies: no round, a round in its sixth period, one with nothing left, and one that goes on. -/
def roundSt (period : Nat) (ok : Bool) : State := onDev fun d => d.setRound 70 ⟨[⟨1, 2, 3, 0, ok⟩], period⟩
theorem witness_rounds : State.reset.dev.round (64 * 1 + 6) = none ∧ (roundSt 6 false).dev.round (64 * 1 + 6) = some ⟨[⟨1, 2, 3, 0, false⟩], 6⟩ ∧
    (roundSt 1 true).dev.round (64 * 1 + 6) = some ⟨[⟨1, 2, 3, 0, true⟩], 1⟩ ∧
    (roundSt 5 false).dev.round (64 * 1 + 6) = some ⟨[⟨1, 2, 3, 0, false⟩], 5⟩ ∧ (roundSt 5 false).dev.powered = true := by decide
/-- SlotsStartOnlyRunning: not RUNNING, and RUNNING with a frozen program. -/
theorem witness_no_slots : State.reset.dev.st ≠ DS.running ∧
    (onDev fun d => { d with frm := { d.frm with frozen := true } }).dev.frm.frozen = true := by decide
/-- MissedTicksHold and FlywheelOpensFrame: a RUNNING device that is no origin and has acquired the tick. -/
def tickSt (missed : Nat) : State := onDev fun d =>
  { d.setFld Reg.HIF_STATE_STATE DS.running with frm := { d.frm with origin := false, acquired := true, misses := missed } }
theorem witness_missed : (tickSt 65535).dev.powered = true ∧ (tickSt 65535).dev.frm.origin = false ∧ (tickSt 65535).dev.ticking = true ∧
    (tickSt 65535).dev.flag Reg.FRM_STATUS_HOLD_TICK = false ∧ (tickSt 65535).dev.tickCfg.missMax ≤ (tickSt 65535).dev.frm.misses ∧
    (tickSt 65535).dev.st = DS.running ∧ (tickSt 65535).dev.frm.freezeDue = none := by decide
theorem witness_flywheel : (tickSt 0).dev.powered = true ∧ (tickSt 0).dev.frm.origin = false ∧ (tickSt 0).dev.ticking = true ∧
    (tickSt 0).dev.frm.acquired = true ∧ (tickSt 0).dev.frm.pending = none ∧ (tickSt 0).dev.frm.backup = none ∧ (tickSt 0).dev.frm.early = [] := by decide
/-- MailboxWordsPass: SEC at secure channel 0, with an empty queue, an open message, a full queue, words to pass over; end B of channel 9. -/
def mbxSt (words : List Nat) (opened skip : Nat) : State := onDev fun d => (d.setQueue 0 true ⟨words, 0, opened, skip, false⟩).setQueue 0 false ⟨[5], 0, 0, 0, false⟩
def boundSt : State := onDev fun d =>
  ((d.setFld (Reg.MBX_BIND_EN 9) 1).setFld (Reg.MBX_BIND_END_A 9) 0x01).setFld (Reg.MBX_BIND_END_B 9) 0x20
theorem witness_mailbox : State.reset.dev.dead 0 = false ∧ State.reset.dev.endOf 0 (masterId .sec) = some true ∧
    (State.reset.dev.queue 0 true).skip = 0 ∧ (State.reset.dev.queue 0 true).words.length + (msgLen 0xFFFFFFFF + 1) ≤ 8 ∧
    (State.reset.dev.queue 0 false).words = [] := by decide
theorem witness_mailbox_open : (mbxSt [1] 2 0).dev.powered = true ∧ (mbxSt [1] 2 0).dev.dead 0 = false ∧
    (mbxSt [1] 2 0).dev.endOf 0 (masterId .sec) = some true ∧ ((mbxSt [1] 2 0).dev.queue 0 true).skip = 0 ∧
    ((mbxSt [1] 2 0).dev.queue 0 true).open_ ≠ 0 ∧ ((mbxSt [1] 2 0).dev.queue 0 false).words = [5] := by decide
theorem witness_mailbox_full : ((mbxSt [1, 2, 3, 4, 5, 6, 7, 8] 0 0).dev.queue 0 true).skip = 0 ∧
    ((mbxSt [1, 2, 3, 4, 5, 6, 7, 8] 0 0).dev.queue 0 true).open_ = 0 ∧
    8 < ((mbxSt [1, 2, 3, 4, 5, 6, 7, 8] 0 0).dev.queue 0 true).words.length + (msgLen 0 + 1) ∧ ((mbxSt [] 0 3).dev.queue 0 true).skip ≠ 0 := by decide
theorem witness_mailbox_end_b : boundSt.dev.powered = true ∧ boundSt.dev.dead 9 = false ∧ boundSt.dev.endOf 9 (masterId .sec) = some false := by decide
/-- MailboxRefusesStrangers. -/
theorem witness_stranger : State.reset.dev.endOf 8 (masterId .hostPf) = none ∧ State.reset.dev.endOf 0 (masterId .hostPf) = none := by decide
/-- WatchdogKicks: a stranger, a management core with the watchdog armed, another value. -/
def armedSt : State := onDev fun d => d.setFld Reg.FLT_WDOG_STATUS_ARMED 1
theorem witness_watchdog : armedSt.dev.powered = true ∧ isMgmt (masterId .hostPf) = false ∧ isMgmt (masterId (.mgmt 3)) = true ∧
    armedSt.dev.flag Reg.FLT_WDOG_STATUS_ARMED = true ∧ (0xA4 : Byte) ≠ 0xA5 := by decide
/-- MemCfgOnlyInAwaitImage: the greatest SPLIT in AWAIT_IMAGE, and another state. -/
theorem witness_mem_cfg : (inSt DS.awaitImage).dev.powered = true ∧ (inSt DS.awaitImage).dev.hif.power = 0 ∧ (inSt DS.awaitImage).dev.st = DS.awaitImage ∧
    (36 : BitVec 32).toNat % 64 ≤ 36 ∧ State.reset.dev.st ≠ DS.awaitImage := by decide
/-- Bar4Accesses: a mapped range, an unmapped one, no poisoned word. -/
theorem witness_bar4 : State.reset.dev.hif.power = 0 ∧ State.reset.dev.ideBlocked = false ∧
    State.reset.dev.mapped (State.reset.dev.bar4Addr 0) 8 = true ∧ State.reset.dev.poisoned (State.reset.dev.bar4Addr 0) 8 = [] ∧
    State.reset.dev.mapped (State.reset.dev.bar4Addr 0) 0xFFFFFFFFFFF = false ∧
    (onDev fun d => { d with hif := { d.hif with bar4Log2 := 40 } }).dev.mapped
      ((onDev fun d => { d with hif := { d.hif with bar4Log2 := 40 } }).dev.bar4Addr 0xFFFFFFFFFF) 1 = false := by decide
/-- RegisterWrites: an aligned offset that no map defines, and a misaligned one. -/
theorem witness_register_writes : (0x0F0008 : BitVec 24).toNat % 8 = 0 ∧ regAt (0xFF0000 : BitVec 24).toNat = none ∧
    inMsixTab (0xFF0000 : BitVec 24).toNat = false ∧ (0x00001C : BitVec 24).toNat % 8 ≠ 0 := by decide
/-- SplitReadsAgree: the 8-byte register DEV_SCRATCH, and a latched upper half. -/
def latchSt : State := onDev fun d => { d with latch := SMap.set (fun _ => none) d.latch 0x18 (some 77) }
theorem witness_split : latchSt.dev.powered = true ∧ latchSt.dev.hif.power = 0 ∧ (0x18 : BitVec 24).toNat % 8 = 0 ∧ (0x18 : BitVec 24).toNat + 4 < 2 ^ 24 ∧
    wideSlot (0x18 : BitVec 24).toNat = true ∧ ¬ (0xD1000 ≤ (0x18 : BitVec 24).toNat ∧ (0x18 : BitVec 24).toNat < 0xD1400) ∧
    ¬ (0xE4000 ≤ (0x18 : BitVec 24).toNat ∧ (0x18 : BitVec 24).toNat < 0xF0000) ∧
    SMap.get (fun _ => none) latchSt.dev.latch (0x18 : BitVec 24).toNat = some 77 := by decide
/-- GaugeMonitorsAndReferences: the last monitor, the selected one and another, and a reference that differs. -/
theorem witness_gauge : (129 : BitVec 8).toNat ≤ 129 ∧ (1 : Nat) ≠ State.reset.dev.fld Reg.GAU_MON_SEL_MON ∧ 129 < 130 ∧ (2 : BitVec 2).toNat < 3 ∧
    (2 : BitVec 2).toNat ≠ State.reset.dev.fld (Reg.GAU_CONV_REF 1) := by decide
/-- ThermalHoldFreezes: RUNNING and LOADED without a freeze. -/
theorem witness_thermal : (inSt DS.running).dev.powered = true ∧ (inSt DS.running).dev.st = DS.running ∧ (inSt DS.loaded).dev.st = DS.loaded ∧
    (inSt DS.loaded).dev.frm.freezeDue = none := by decide
/-- StrapsSampledOnlyAtPerst. -/
theorem witness_no_perst : ∀ origin mode ok, Instr.powerLoss ≠ .perst origin mode ok := by intro _ _ _ h; cases h
/-- SpdmNegotiation: another version, an early request, two sessions open. -/
def spdmSt : State := onDev fun d =>
  { d.setFld Reg.HIF_STATE_STATE DS.awaitImage with sec := { d.sec with phase := 3, sessions := [⟨1, true, 0⟩, ⟨2, true, 0⟩] } }
theorem witness_spdm : spdmSt.dev.powered = true ∧ DS.rom < spdmSt.dev.st ∧ ((0x12 : Byte).toNat ≠ 0x13 ∨ spdmSt.dev.sec.phase = 0) ∧
    ((0x13 : Byte).toNat ≠ 0x13 ∨ (inSt DS.awaitImage).dev.sec.phase = 0) ∧ 2 ≤ spdmSt.dev.sec.sessions.length := by decide
/-- TokenFormedOnce: formed, and due in the last frame of a step. -/
def tokenSt (formed : Bool) : State := onDev fun d =>
  { (d.setFld Reg.HIF_STATE_STATE DS.running).setFld Reg.FRM_STEP_POS_STEP_FRAMES 1 with frm := { d.frm with tokenFormed := formed } }
theorem witness_token : (tokenSt true).dev.frm.tokenFormed = true ∧ (tokenSt false).dev.powered = true ∧ (tokenSt false).dev.frm.tokenFormed = false ∧
    (tokenSt false).dev.tokenFrame = true ∧ (tokenSt false).dev.tokenBarred = false := by decide
/-- HostCommandsComplete: each of its five commands waits at the front of ring 0, with room in completion ring 0. -/
def ring : Cq := ⟨0x10000, 6, 0xFFF, 0, 0, 0, 0, true, 0, 0⟩
def ringSt (c : Cmd) : State := onDev fun d =>
  { d.setFld Reg.HIF_STATE_STATE DS.awaitImage with hif := { d.hif with ready := [c], cqs := [(0, some ring)] } }
def ringCmd (op : Nat) (p : List Nat) : Cmd := ⟨op, 0, 7, 0, p, 0, 0, 1⟩
theorem witness_nop : (ringSt (ringCmd 0x00 [])).dev.dispatches 0 (ringCmd 0x00 []) := by unfold Dev.dispatches; decide +kernel
theorem witness_create_cq : (ringSt (ringCmd 0x02 [0x2000, 0xFFF00060001])).dev.dispatches 0 (ringCmd 0x02 [0x2000, 0xFFF00060001]) := by
  unfold Dev.dispatches; decide +kernel
theorem witness_create_sq : (ringSt (ringCmd 0x01 [0x2000, 0x60001])).dev.dispatches 0 (ringCmd 0x01 [0x2000, 0x60001]) := by
  unfold Dev.dispatches; decide +kernel
theorem witness_query : (ringSt (ringCmd 0x06 [])).dev.dispatches 0 (ringCmd 0x06 []) := by unfold Dev.dispatches; decide +kernel
theorem witness_counter_clear : (ringSt (ringCmd 0x07 [0xFFFF])).dev.dispatches 0 (ringCmd 0x07 [0xFFFF]) := by
  unfold Dev.dispatches; decide +kernel
theorem witness_ring : (ringSt (ringCmd 0x00 [])).dev.powered = true ∧ (ringSt (ringCmd 0x00 [])).dev.hif.power = 0 ∧
    (ringSt (ringCmd 0x00 [])).dev.cq 0 = some ring := by decide

/-! ### The same for the statements of what each command does -/

/-- A program image with these segments: kind, class, unit, bytes. -/
def image (l : List (Nat × Nat × Nat × List Byte)) : List Byte :=
  let off := fun k => 256 + 32 * l.length + ((l.take k).map fun s => s.2.2.2.length).sum
  List.replicate 12 0 ++ natLe 4 l.length ++ List.replicate 48 0 ++ natLe 8 256 ++ List.replicate 184 0 ++
    ((l.zip (List.range l.length)).flatMap fun x => natLe 2 x.1.1 ++ natLe 1 x.1.2.1 ++ [0] ++ natLe 2 x.1.2.2.1 ++ [0, 0] ++
      natLe 8 (off x.2) ++ natLe 8 x.1.2.2.2.length ++ List.replicate 8 0) ++ l.flatMap fun s => s.2.2.2
/-- A device alone in its torus, in a state, with ports 3 and 4 UP, four frames in its step and a program of these segments and one template in slot 0. -/
def progSt (st : Nat) (l : List (Nat × Nat × Nat × List Byte)) (f : Dev → Dev) : State := onDev fun d =>
  f { [(Reg.HIF_STATE_STATE, st), (Reg.FRM_STATUS_ACTIVE, 0), (Reg.FRM_STEP_POS_STEP_FRAMES, 4), (Reg.FAB_PORT_STATUS_STATE 3, PS.up),
        (Reg.FAB_PORT_STATUS_ROLE 3, 1), (Reg.FAB_PORT_STATUS_STATE 4, PS.up), (Reg.FAB_SHAPE_P, 1), (Reg.FAB_SHAPE_S, 1), (Reg.FAB_SHAPE_D, 1),
        (Reg.FAB_SHAPE_X, 1)].foldl (fun d x => d.setFld x.1 x.2) d with
      variants := [(0, some ⟨image ((1, 0, 0, natLe 2 0 ++ natLe 4 4 ++ [0, 0]) :: l), true, []⟩)] }
/-- A message of one type with its right length and ECRC. -/
def mkMsg (mt : Nat) (dst : BitVec 16) (body : List Byte) : Msg :=
  ⟨0, dst, 0, 1, BitVec.ofNat 32 body.length, BitVec.ofNat 32 (msgEcrc mt dst.toNat 0 body.length body), body⟩
/-- A slot of a kind from 0 to 2,000 quanta, and a task in it. -/
def slotOf (kind : Nat) : Slot := ⟨2, 0, 0, false, kind, 2000, 0, 0⟩
def taskOf (kind : Nat) (desc : List Byte) (total done : Nat) : Running :=
  ⟨slotOf kind, desc, total, total, done, false, false, false, false, 1, none, 0, [], true⟩
def atUnit (cls idx sub : Nat) (r : Running) (d : Dev) : Dev := d.setRunning (unitKey cls idx sub) (some r)
/-- Bytes in memory from an address on. -/
def cells (a : Nat) (l : List Byte) : List Host.Cell := (List.range l.length).map fun k => (a + k, l.getD k 0)
/-- OriginEmitsTicks: the origin in RUNNING, at and before its due time, on its timer and on TICK_IN. -/
def originSt (ext : Bool) : State := onDev fun d =>
  { d.setFld Reg.HIF_STATE_STATE DS.running with
      frm := { d.frm with origin := true, acquired := true, emitting := true, nextEmit := 1000, cfg := ⟨ext, 3, 1, 50⟩ } }
theorem witness_origin : (originSt false).dev.powered = true ∧ (originSt false).dev.frm.origin = true ∧ (originSt false).dev.ticking = true ∧
    (originSt false).dev.frm.acquired = true ∧ (originSt false).dev.frm.emitting = true ∧ (originSt false).dev.frm.pending = none ∧
    (originSt false).dev.frm.queued = [] ∧ (originSt false).dev.tickCfg.extSrc = false ∧ (originSt false).dev.frm.nextEmit = 1000 ∧
    (originSt true).dev.tickCfg.extSrc = true ∧ 1000 ≤ 900 + (originSt true).dev.tickCfg.window := by decide
/-- FramesOpenAndStart: a tick for frame 5 at the edge of the window; a frame_start in READY, in RUNNING within a step, at START_TICK and at RESUME_TICK. -/
def opened : Option PendingFrame := some ⟨5, 900, 1, false⟩
def frameSt (st : Nat) (start resume : Option Nat) : State := progSt st [] fun d =>
  { d.setFld Reg.MBX_STATUS_FW 1 with
    frm := { d.frm with origin := false, acquired := true, pending := opened, startTick := start, resumeTick := resume, cfg := ⟨false, 3, 1, 50⟩ } }
def tickBody : List Byte := natLe 6 5 ++ [0, 0] ++ natLe 4 100 ++ [0, 0, 0, 0]
def recvSt : State := progSt DS.running [] fun d => { d with frm := { d.frm with origin := false, acquired := true, cfg := ⟨false, 3, 1, 50⟩ } }
theorem witness_tick : recvSt.dev.powered = true ∧ recvSt.dev.hears 3 MT.tick true (mkMsg MT.tick 0 tickBody) ∧
    (mkMsg MT.tick 0 tickBody).len = 16 ∧ recvSt.dev.frm.origin = false ∧
    bit (rdLe tickBody 6 1) 0 = false ∧ recvSt.dev.ticking = true ∧ recvSt.dev.upstream 3 1 = true ∧ recvSt.dev.frm.pending = none ∧
    recvSt.dev.frm.queued = [] ∧ recvSt.dev.frm.early = [] ∧ recvSt.dev.lastOpened.1 < rdLe tickBody 0 6 ∧
    recvSt.dev.prediction = 155000 + recvSt.dev.tickCfg.leadTime - rdLe tickBody 8 4 + recvSt.dev.tickCfg.window := by
  unfold Dev.hears; decide +kernel
theorem witness_frames : (frameSt DS.loaded none none).dev.frm.pending = opened ∧ (frameSt DS.loaded none none).dev.ticking = true ∧
    (frameSt DS.loaded none none).dev.frm.misses < (frameSt DS.loaded none none).dev.tickCfg.missMax ∧ (frameSt DS.loaded none none).dev.frm.freezeDue = none ∧
    (frameSt DS.loaded none none).dev.st ≠ DS.running ∧ (frameSt DS.running none none).dev.st = DS.running ∧ (frameSt DS.running none none).dev.lastFrame = false ∧
    (frameSt DS.running none none).dev.run = [] ∧ (frameSt DS.running none none).dev.flt.ledgerFault = false ∧ (frameSt DS.running none none).dev.ticking = true ∧
    (frameSt DS.loaded (some 5) none).dev.st = DS.loaded ∧ (frameSt DS.loaded (some 5) none).dev.flag Reg.FLT_WDOG_STATUS_FROZEN = false ∧
    (frameSt DS.quiesced none (some 5)).dev.st = DS.quiesced ∧ (frameSt DS.quiesced none (some 5)).dev.ticking = true ∧
    (frameSt DS.quiesced none (some 5)).dev.fld Reg.MBX_STATUS_FW = 1 := by decide +kernel
/-- SlotsRunTasks: cluster 5 is free and the first slot of its table begins; its task with both items done, the same task complete, and one unfinished. -/
def mxcSlots : List Byte := [0, 0] ++ natLe 2 2000 ++ [1, 0, 0, 0] ++ natLe 4 0 ++ natLe 4 2
def taskSt (done : Nat) (complete : Bool) : State :=
  progSt DS.running [(2, 2, 5, mxcSlots)] (atUnit 2 5 0 { taskOf 1 [0x20] 2 done with complete := complete })
theorem witness_slot : (progSt DS.running [(2, 2, 5, mxcSlots)] id).dev.st = DS.running ∧ (progSt DS.running [(2, 2, 5, mxcSlots)] id).dev.frm.frozen = false ∧
    ((progSt DS.running [(2, 2, 5, mxcSlots)] id).dev.slots (classCode .mxc) 5)[0]? = some (slotOf 1) ∧
    (progSt DS.running [(2, 2, 5, mxcSlots)] id).dev.slotBusy (classCode .mxc) 5 (slotOf 1) = false ∧
    (progSt DS.running [(2, 2, 5, mxcSlots)] id).dev.inOrder (classCode .mxc) 5 0 (slotOf 1) = true := by decide +kernel
theorem witness_task : (taskSt 2 false).dev.running? (unitKey (classCode .mxc) 5 (subCode .mxc none)) = some (taskOf 1 [0x20] 2 2) ∧
    (taskOf 1 [0x20] 2 2).eligible (classCode .mxc) = true ∧ (taskSt 2 false).dev.taskDone (classCode .mxc) 5 (taskOf 1 [0x20] 2 2) = true ∧
    (taskSt 1 false).dev.taskDone (classCode .mxc) 5 (taskOf 1 [0x20] 2 1) = false ∧
    (taskSt 2 true).dev.running? (unitKey 2 5 0) = some { taskOf 1 [0x20] 2 2 with complete := true } := by decide +kernel
/-- TunsConvertAndCorrect: a task of two vectors and two phases on Tun 0, before its first record, before and after the next one's, and in its last phase. -/
def fwdDesc : List Byte := natLe 2 1 ++ [0, 0, 0, 0] ++ natLe 2 65 ++ natLe 2 2 ++ List.replicate 6 0 ++ natLe 8 (basinBase 0) ++
  natLe 8 (basinBase 0 + 0x10000) ++ natLe 4 0x1000 ++ natLe 4 2112 ++ List.replicate 24 0
def flight (phases : Nat) (next : Option (Bool × List VecIn)) : Flight := ⟨0, false, phases, false, [], next⟩
def fwdTask (fly : Option Flight) : Running := { taskOf 1 fwdDesc 2 0 with fly := fly, begun := true }
def fwdSt (fly : Option Flight) : State := progSt DS.running [] fun d =>
  { atUnit 1 0 0 (fwdTask fly) d with mem := cells (basinBase 0) (List.replicate 16 0) ++ cells (basinBase 0 + 0x1000) (List.replicate 16 0) }
theorem witness_fwd : (fwdSt none).dev.running? (unitKey 1 (0 : Fin 32).val (0 : Fin 64).val) = some (fwdTask none) ∧
    (fwdSt none).dev.vectorOk 0 0 0 (fwdTask none) = true ∧ (fwdSt (some (flight 0 none))).dev.vectorOk 0 0 1 (fwdTask (some (flight 0 none))) = true ∧
    (flight 0 none).phases = 0 ∧ (flight 0 none).next = none ∧ (flight 0 none).vec + 1 < (fwdTask none).total ∧ 0 < (flight 1 none).phases ∧
    (flight 0 (some (false, []))).next.isSome = true ∧ (parseFwd fwdDesc).groups.length = 2 ∧ (fwdTask none).slot.kind = 1 ∧ (fwdTask none).failed = false ∧
    (fwdTask none).complete = false ∧ (fwdTask none).idle = false ∧ (fwdTask none).done < (fwdTask none).total := by decide +kernel
def coverOne : CoverItem := ⟨0, 0, fwdDesc, basinBase 0, basinBase 0 + 0x10000, basinBase 0 + 0x20000, 0, 0, [], [], 0, [], 0, 0, 0, false⟩
def coverSt : State := progSt DS.running [] fun d => { atUnit 3 0 0 (taskOf 1 [] 2 0) d with spg := { d.spg with work := [(0, [[coverOne], []])] } }
theorem witness_cover : coverSt.dev.powered = true ∧ coverSt.dev.work (0 : Fin 32).val = [coverOne] :: [[]] ∧ (coverSt.dev.spargeSlot 0).isSome = true := by
  decide +kernel
def fullWindow : RmWindow := ⟨1, 0, 0, 1, 0, 0, 1, 0, 0, 0, 0, 1, List.replicate 16 0, 3, 9⟩
def windowSt (stale : Nat) : State := onDev fun d => { d.setFld (Reg.TUN_STALE_STALE 1) stale with rmOpen := [(70, ⟨none, [fullWindow]⟩)] }
theorem witness_window : ((windowSt 0).dev.monitor (70 : Fin 2048).val).full = [fullWindow] ∧ (windowSt 0).dev.stale 70 = false ∧
    (windowSt 64).dev.stale 70 = true ∧ ((windowSt 64).dev.monitor 70).full = [fullWindow] ∧ (windowSt 0).dev.powered = true := by decide
/-- ArraysRackAndCalibrate: a RACK slot of Tun 1 with an eligible entry, a finished round, a KILN slot at unit 1 of Tun 1, a folding basin, a SENTINEL slot. -/
def rackSt : State := progSt DS.running [] fun d => { atUnit 1 0 1 (taskOf 3 [] 2 0) d with
  rack := { d.rack with en := true, minSteps := 0, oldQueue := [(1, natLe 8 0x20000203)] } }
theorem witness_rack : rackSt.dev.slotFor (0 : Fin 32).val (1 : Fin 64).val 3 = some (taskOf 3 [] 2 0) ∧ rackSt.dev.roundAllowed (taskOf 3 [] 2 0) 1 0 = true ∧
    rackSt.dev.pendCount 1 + 16 ≤ 1024 ∧ rackSt.dev.pickEntries 1 65552 16 (rackSt.dev.queueCursor 1) = ([⟨1, 3, 2, 0, false⟩], 0, 1) := by decide +kernel
theorem witness_round_end : (roundSt 6 false).dev.round (64 * 1 + 6) = some ⟨[⟨1, 2, 3, 0, false⟩], 6⟩ ∧ ([(1, 2)] : List (Nat × Nat)).Nodup ∧ 1 < 512 ∧
    (roundSt 1 true).dev.round (64 * 1 + 6) = some ⟨[⟨1, 2, 3, 0, true⟩], 1⟩ ∧ ([⟨1, 2, 3, 0, true⟩] : List RoundEntry).all (·.verified) = true := by decide
def kilnRun : KilnRun := ⟨true, 640, [], [(1, 1, true)]⟩
def kilnSt : State := progSt DS.running [] fun d => { atUnit 1 0 1 (taskOf 4 [] 2 0) d with kln := { d.kln with runs := [(0, some kilnRun)] } }
theorem witness_kiln : kilnSt.dev.slotFor (0 : Fin 32).val (1 : Fin 64).val 4 = some (taskOf 4 [] 2 0) ∧ kilnSt.dev.kilnRun 0 = some kilnRun ∧
    kilnSt.dev.tunUnit 0 1 kilnRun = (1, true) ∧ 1 ∉ kilnRun.done ∧ kilnSt.dev.kln.blocked = [] ∧ kilnRun.next [] = some 1 ∧
    kilnSt.dev.frm.frozen = false ∧ 1000 + 250 ≤ (slotOf 4).stop ∧ (kilnSt.dev.ecc noEcc).unitReads 1 = [] := by decide +kernel
def foldSt : State := onDev fun d => { d with rack := { d.rack with folding := [2] } }
def sentOf (cls : Nat) : List (Nat × Nat × Nat × List Byte) :=
  [(8, 0, 0, List.replicate 64 0 ++ [0x10, 0] ++ natLe 1 cls ++ [0] ++ natLe 2 5 ++ List.replicate 58 0)]
def sentSt (cls sub : Nat) : State := progSt DS.running (sentOf cls) (atUnit cls 5 sub (taskOf 5 [] 1 0))
theorem witness_checks : 2 ∈ foldSt.dev.rack.folding ∧ 3 ∉ foldSt.dev.rack.folding ∧ foldSt.dev.powered = true ∧
    (sentSt 1 0xFF).dev.sentSlot (unitKey 1 5 0xFF) = some (taskOf 5 [] 1 0) ∧ ((sentSt 1 0xFF).dev.sentEntry 1 5).isSome = true ∧
    (sentSt 2 0).dev.sentSlot (unitKey 2 5 0) = some (taskOf 5 [] 1 0) ∧ ((sentSt 2 0).dev.sentEntry 2 5).isSome = true := by decide +kernel
/-- MatrixTasksAdvance: a task of each operation with two items left, no companion, a program that is one END, a layer with a rank. -/
def kerDesc (op : Nat) (par : List Nat) : List Byte := natLe 2 op ++ [0, 0] ++ natLe 2 7 ++ [0, 0] ++ par.flatMap (natLe 8) ++ List.replicate (56 - 8 * par.length) 0
def mxcSt (op : Nat) (par : List Nat) : State := progSt DS.running [(7, 0, 0, natLe 2 7 ++ [0, 4] ++ List.replicate 12 0)] fun d =>
  { atUnit 2 5 0 (taskOf 1 (kerDesc op par) 3 1) d with mem := cells (mxcBase 5) (natLe 8 (0x3F * 2 ^ 56)) }
/-- Rows 16, columns 16, depth 32, no companion; A, B and C in the window. -/
def matPar : List Nat := [16 + 2 ^ 32 * 16, 32 + 2 ^ 32 * 0xFFFFFFFF, mxcBase 5 + 0x1000, mxcBase 5 + 0x2000, mxcBase 5 + 0x4000]
theorem witness_tasks : ∀ op ∈ [0x12, 0x13, 0x30, 0x31, 0x40, 0x41, 0x50, 0x58, 0x60, 0x61],
    (mxcSt op []).dev.mxcTask (5 : Fin 128).val op = some (taskOf 1 (kerDesc op []) 3 1) := by decide +kernel
theorem witness_matmul : (mxcSt 0x10 matPar).dev.mxcTask 5 0x10 = some (taskOf 1 (kerDesc 0x10 matPar) 3 1) ∧
    (mxcSt 0x10 matPar).dev.companion 5 (parseMat (kerDesc 0x10 matPar)) = none ∧ (mxcSt 0x10 matPar).dev.sound ∧
    (taskOf 1 (kerDesc 0x10 matPar) 3 1).done + 1 < 3 := by unfold Dev.sound; decide +kernel
theorem witness_fit : (mxcSt 0x61 []).dev.layerEntry 7 = some ⟨7, 0, 4, 0, 0⟩ ∧ (parseKer (kerDesc 0x61 [])).layer = 7 ∧ (mxcSt 0x12 []).dev.powered = true ∧
    (mxcSt 0x12 []).dev.sound ∧ 4096 * 1 < 8192 := by unfold Dev.sound; decide +kernel
theorem witness_program : (mxcSt 0x20 [mxcBase 5]).dev.mxcTask 5 0x20 = some (taskOf 1 (kerDesc 0x20 [mxcBase 5]) 3 1) ∧ inMxc 5 (mxcBase 5) 8 = true ∧
    (parseWord ((mxcSt 0x20 [mxcBase 5]).dev.rd (mxcBase 5) 8)).1 = 0x3F ∧
    (parseWord ((mxcSt 0x20 [mxcBase 5]).dev.rd (mxcBase 5) 8)).2.mode = 0 := by decide +kernel
/-- VectorConvertsAndMemory: FP32 to BF16, to FP16 and to TUNIN, with nothing to scale by, up to 1,024 elements, the last destinations, lanes that reach the window and one another. -/
theorem witness_cvt : (cvtMode (vw 0x100000)).map (·.dstF) = some .bf16 ∧ (cvtMode (vw 0x200000)).map (·.dstF) = some .fp16 ∧
    (cvtMode (vw 0x100000)).map (·.srcF) = some .fp32 ∧ (vw 0x100000).dst.toNat < 0xF0 ∧ (vecSt 1 2 3).dev.src 5 (vw 0).sc.toNat 0 = 0 ∧
    (cvtMode { vw 0x000080 with mode := ((0x000080 : BitVec 24) &&& 0x0FFFFF#24) ||| 0xB00000#24 }).map (·.srcF) = some .fp32 ∧
    (vecSt 1 2 3).dev.src 5 2 0 ≤ 1024 ∧ inMxc 5 (mxcBase 5 + (vecSt 1 2 3).dev.src 5 3 0) (16 + 512 + 8 * 1024 + 64) = true ∧
    tunScaleOk 0x3D800000 = true ∧ tunScaleOk 0 = false ∧ (0xEC : BitVec 8).toNat < 0xED := by decide +kernel
theorem witness_lanes : laneAddr 5 0 4 63 0 = some (mxcBase 5 + 252) ∧ laneAddr 5 0 0 7 0 = laneAddr 5 0 0 63 0 ∧ laneAddr 5 0 0x280000 1 0 = none := by
  decide +kernel
/-- ReductionAdvances: a task of each operation at its end of a ring, a faulted bucket and none, a packet of each kind with its task not in hand. -/
def redDesc (op flags : Nat) : List Byte := natLe 2 op ++ [0] ++ natLe 1 flags ++ natLe 4 0 ++ natLe 4 2 ++ List.replicate 52 0
def redSt (op flags : Nat) (faults : List Nat) : State := progSt DS.running [] fun d =>
  { atUnit 4 0 0 (taskOf 1 (redDesc op flags) 2 0) (d.setFld Reg.RED_SCALE_BASE_BUCKETS 1) with red := { d.red with ownFaults := faults } }
theorem witness_red : (∀ p ∈ [(0x90, 1), (0x95, 1), (0x91, 1), (0x91, 2), (0x92, 1), (0x93, 0), (0x94, 0)],
    (redSt p.1 p.2 []).dev.redTask p.1 = some (taskOf 1 (redDesc p.1 p.2) 2 0)) ∧ (parseRed (redDesc 0x90 1)).first = true ∧
    (parseRed (redDesc 0x91 2)).last = true ∧ (parseRed (redDesc 0x92 1)).last = false ∧ (redSt 0x92 1 []).dev.red.preSent = [] ∧
    (redSt 0x93 0 []).dev.red.noticeSent < 1 + 2 * ((redSt 0x93 0 []).dev.ownNamed 0).length ∧ (redSt 0x94 0 []).dev.red.replayPkt = 0 ∧
    (redSt 0x94 0 []).dev.faulted 0 = [] ∧ (redSt 0x94 0 [0]).dev.faulted 0 = [0] ∧ (redSt 0x94 0 [0]).dev.red.taken = [] ∧
    (redSt 0x94 0 [0]).dev.ringPos 0 = (0 + 1) % (redSt 0x94 0 [0]).dev.ringSize 0 := by decide +kernel
def packet : Msg := mkMsg MT.reduce 0 (List.replicate 4232 0)
theorem mkMsg_ecrc (mt : Nat) (dst : BitVec 16) (body : List Byte) (h : body.length < 2 ^ 32) :
    msgEcrc mt (mkMsg mt dst body).dst.toNat (mkMsg mt dst body).src.toNat (mkMsg mt dst body).len.toNat (mkMsg mt dst body).body =
      (mkMsg mt dst body).ecrc.toNat := by
  have e : (mkMsg mt dst body).ecrc.toNat = msgEcrc mt dst.toNat 0 body.length body := Nat.mod_eq_of_lt (BitVec.isLt _)
  have l : (mkMsg mt dst body).len.toNat = body.length := Nat.mod_eq_of_lt h
  rw [e, l]; rfl
theorem witness_packet_arrives : (progSt DS.running [] id).dev.receives 3 MT.reduce (packet.len == 4232) packet := by
  refine ⟨by decide +kernel, ?_, by decide +kernel⟩
  have h : (progSt DS.running [] id).dev.shape = [1, 1, 1, 1] := by decide +kernel
  have e : msgEcrc MT.reduce packet.dst.toNat packet.src.toNat packet.len.toNat packet.body = packet.ecrc.toNat :=
    mkMsg_ecrc MT.reduce 0 (List.replicate 4232 0) (by rw [List.length_replicate]; decide)
  have l : packet.body.length = 4232 := List.length_replicate
  unfold Dev.checkMsg
  rw [if_neg (not_not_intro e), h, l, if_neg (by decide)]
theorem witness_packet : (progSt DS.running [] id).dev.fld Reg.RED_STEP_STATE_REPEATS = 0 ∧ (progSt DS.running [] id).dev.running? redKey = none ∧
    (progSt DS.running [] id).dev.red.past = false ∧ (progSt DS.running [] id).dev.epoch = 0 ∧ (progSt DS.running [] id).dev.red.absent = [] ∧
    (progSt DS.running [] id).dev.red.absentNext = [] ∧ bit packet.flags.toNat 0 = false ∧ rdLe packet.body 0 1 = 0 ∧
    (parsePkt (packet.body.drop 8)).epoch = 0 := by decide +kernel
/-- TokensAndResultsMeet: a token in the token frame, before and after the device has sent its own on; a new and a seen result; both deadlines. -/
def meetSt (origin sent : Bool) (frames : Nat) : State := progSt DS.running [] fun d =>
  { d.setFld Reg.FRM_STEP_POS_STEP_FRAMES frames with
      frm := { d.frm with origin := origin }
      red := { d.red with sent := sent, own := some (parseToken (List.replicate 64 0)), seen := (if sent then [(0, 0)] else []) } }
def tokenBody : List Byte := List.replicate 64 0
theorem witness_meet : (∀ mt ∈ [MT.token, MT.result], (meetSt false false 1).dev.hears 3 mt (tokenLenOk (mkMsg mt 0 tokenBody)) (mkMsg mt 0 tokenBody)) ∧
    (meetSt false false 1).dev.tokenFrame = true ∧ (meetSt false false 1).dev.red.sent = false ∧ (meetSt false true 1).dev.red.sent = true ∧
    (meetSt false false 4).dev.tokenFrame = false ∧ (meetSt false false 1).dev.seenResult (parseToken tokenBody) = false ∧
    (meetSt false true 1).dev.seenResult (parseToken tokenBody) = true ∧ (meetSt false false 1).dev.frm.origin = false ∧
    (meetSt true false 1).dev.frm.origin = true ∧ (meetSt false false 1).dev.tokenBarred = false ∧
    (meetSt true false 1).dev.combined = some (parseToken tokenBody) ∧ (parseToken tokenBody).epoch = (meetSt true false 1).dev.epoch ∧
    (parseToken tokenBody).repeats = 0 := by unfold Dev.hears; decide +kernel
theorem witness_parent : (progSt DS.running [] id).dev.hears 3 MT.parent ((mkMsg MT.parent 0 (List.replicate 8 0)).len == 8) (mkMsg MT.parent 0 (List.replicate 8 0)) := by
  unfold Dev.hears; decide +kernel
/-- PoundsAndHostTransfers: a SEND of a barge with a credit to take, with none, and to a STORE; PUT and GET of the last, short item; a barge's next and last segment, a stale one; credits and permutes. -/
def pound (dir : Nat) : List Byte := natLe 2 2 ++ natLe 1 dir ++ [0, 2, 0, 0, 0] ++ natLe 4 0 ++ natLe 4 4096 ++ natLe 8 0x8000 ++ List.replicate 8 0
def bargeOf (kind : Nat) : List Byte := natLe 2 kind ++ natLe 2 2 ++ natLe 4 0 ++ natLe 8 0x4000 ++ natLe 4 8192 ++ List.replicate 44 0
def sendDesc : List Byte := natLe 2 0xB0 ++ [0, 0] ++ natLe 4 0 ++ natLe 4 1 ++ List.replicate 52 0
def sendSt (kind credits : Nat) (got : Option BargeIn) : State := progSt DS.running [(4, 0, 0, bargeOf kind), (5, 0, 0, pound 0 ++ pound 1)] fun d =>
  { atUnit 5 3 0 (taskOf 2 sendDesc 2 0) d with pnd := { d.pnd with tx := [(0, some ⟨credits, 0, 0⟩)], rx := [(2, some ⟨0, [], got, 0⟩)], perm := some ⟨[0], 0, 0, 0⟩ } }
def txOne : PoundEntry := ⟨2, 1, 0, 2, 0, 4096, 0x8000, 0, 0⟩
theorem witness_send : (sendSt 1 1 none).dev.running? (portKey (3 : Fin 16).val) = some (taskOf 2 sendDesc 2 0) ∧
    (sendSt 1 1 none).dev.barges (parseSend sendDesc) = [parseBarge (bargeOf 1)] ∧ (sendSt 5 0 none).dev.barges (parseSend sendDesc) = [parseBarge (bargeOf 5)] ∧
    (sendSt 1 1 none).dev.sendPos 3 = ⟨0, 0, false, false, false⟩ ∧ (sendSt 1 1 none).dev.txEntry 2 0 = some (0, txOne) ∧ (parseBarge (bargeOf 5)).kind = 5 ∧
    ((sendSt 1 1 none).dev.txPound 0 txOne).credits = 1 ∧ ((sendSt 1 0 none).dev.txPound 0 txOne).credits = 0 ∧ (sendSt 1 0 none).dev.frm.frozen = false := by
  decide +kernel
def hostSt (op : Nat) : State := progSt DS.running [] (atUnit 6 0 0 (taskOf 1 (kerDesc op [0x4000, 0x100, 5000]) 2 1))
theorem witness_host_task : (∀ op ∈ [0xC0, 0xC1], (hostSt op).dev.hostTask op = some (taskOf 1 (kerDesc op [0x4000, 0x100, 5000]) 2 1)) ∧
    4096 * 1 < (parseKer (kerDesc 0xC0 [0x4000, 0x100, 5000])).par 2 ∧ (hostSt 0xC0).dev.sound := by unfold Dev.sound; decide +kernel
def segment (epoch : Nat) : Msg := mkMsg MT.barge 0 ([1, 0] ++ natLe 2 2 ++ List.replicate 12 0 ++ natLe 8 epoch ++ natLe 4 0 ++ natLe 4 8 ++ List.replicate 40 7)
theorem witness_barge : (∀ e ∈ [0, 1], (sendSt 1 1 (some ⟨0, 8, 24, false⟩)).dev.receives 3 MT.barge true (segment e)) ∧ (segment 0).len = 72 ∧
    rdLe (segment 0).body 0 1 ≠ 6 ∧ (sendSt 1 1 none).dev.hif.permCmd = none ∧ (sendSt 1 1 none).dev.epoch = 0 ∧ rdLe (segment 0).body 0x10 8 = 0 ∧
    rdLe (segment 1).body 0x10 8 = 1 ∧ rdLe (segment 0).body 0x1C 4 = 8 ∧ (sendSt 1 1 none).dev.rxEntry 2 = some { txOne with dir := 0 } ∧
    ((sendSt 1 1 (some ⟨0, 8, 24, false⟩)).dev.rx 2).cur = some ⟨0, 8, 24, false⟩ ∧ (sendSt 1 1 none).dev.coordWord 0 = 0 ∧
    8 + ((segment 0).body.drop 64).length < 24 ∧ 8 + ((segment 0).body.drop 64).length = 16 ∧ (sendSt 1 1 none).dev.pnd.refused = [] := by
  unfold Dev.receives; decide +kernel
def creditBody : List Byte := natLe 2 2 ++ [0, 0] ++ natLe 4 1 ++ List.replicate 8 0
theorem witness_credit : (sendSt 1 1 none).dev.receives 3 MT.credit true (mkMsg MT.credit 0 creditBody) ∧ (mkMsg MT.credit 0 creditBody).len = 16 ∧
    rdLe creditBody 8 8 = (sendSt 1 1 none).dev.epoch ∧ ((sendSt 1 1 none).dev.txPound 0 txOne).released < rdLe creditBody 4 4 ∧
    (sendSt 1 1 none).dev.receives 3 MT.permAck true (mkMsg MT.permAck 0 (List.replicate 8 0)) ∧ (sendSt 1 1 none).dev.pnd.perm.isSome = true := by
  unfold Dev.receives; decide +kernel
/-- FlitsAndPorts: a DATA, CTRL and IDLE flit on port 3, UP and in training; an unacknowledged flit, PROBE, ECHO and CONFIRM; a port that is DOWN; a MGMT message. -/
def linkSt (st : Nat) (l : Option Link) : State := progSt DS.ready [] fun d =>
  { (((d.setFld (Reg.FAB_PORT_STATUS_STATE 3) st).setFld (Reg.FAB_PORT_CTL_EN 3) 1).setFld Reg.FAB_COORD_VALID 1) with fab := { d.fab with links := [(3, l)] } }
def upLink : Link := { freshLink 0 16 with unacked := [⟨0, 0, [], 0xFF, [], false⟩], probe := some (0, 5) }
def flit0 : FlitIn := ⟨0, List.replicate 242 0, BitVec.ofNat 32 (crc32c (natLe 10 0 ++ List.replicate 242 0)), 0, 0⟩
theorem flit0_crc : crc32c (natLe 10 flit0.head.toNat ++ flit0.payload) = flit0.crc.toNat := (Nat.mod_eq_of_lt (BitVec.isLt _)).symm
theorem witness_flit : (∀ st ∈ [PS.up, PS.training], (linkSt st (some upLink)).dev.takesFlit 3 flit0 upLink upLink) ∧
    (linkSt PS.up (some upLink)).dev.pwr.start = none ∧ flitF flit0 27 16 = (upLink.rxLast + 1) % 4096 ∧ upLink.ctrl = false ∧
    portAxis (4 : Fin 16) = portAxis (3 : Fin 16) ∧ portMember (4 : Fin 16) = portMember (3 : Fin 16) ∧ portPlus (4 : Fin 16) ≠ portPlus (3 : Fin 16) ∧
    flitF flit0 3 0 ≤ 2 ∧ upLink.waiting = [] ∧ (linkSt PS.training (some upLink)).dev.portState 3 = PS.training := by
  unfold Dev.takesFlit; decide +kernel
theorem witness_link : upLink.unacked ≠ [] ∧ upLink.replays + 1 < upLink.replayMax ∧ (linkSt PS.up (some upLink)).dev.link (3 : Fin 16).val = some upLink ∧
    (linkSt PS.up (some upLink)).dev.portUp 3 = true ∧ upLink.samples.length + 1 < probeCount ∧ upLink.probe = some (rdLe (List.replicate 8 0) 0 4, 5) ∧
    (∀ st ∈ [PS.up, PS.training], ∀ mt ∈ [MT.echo, MT.probe], (linkSt st (some upLink)).dev.hearsLink 3 mt (mkMsg mt 0 (List.replicate 8 0))) := by
  unfold Dev.hearsLink; decide +kernel
def confirmBody : List Byte := [1, 1, 1, 1, 0, 0, 0, 0]
theorem witness_confirm : (linkSt PS.up (some upLink)).dev.hearsLink 3 MT.confirm (mkMsg MT.confirm 0 confirmBody) ∧
    (linkSt PS.up (some upLink)).dev.flag Reg.FAB_COORD_VALID = true ∧ quad (rdLe confirmBody 0 4) = (linkSt PS.up (some upLink)).dev.shape ∧
    quad (rdLe confirmBody 4 4) = neighbour (linkSt PS.up (some upLink)).dev.coord (linkSt PS.up (some upLink)).dev.shape (3 : Fin 16) := by
  unfold Dev.hearsLink; decide +kernel
theorem witness_port : (linkSt PS.down none).dev.portState 3 = PS.down ∧ (linkSt PS.down none).dev.flag Reg.FAB_CFG_AUTO_RETRAIN = true ∧
    (linkSt PS.down none).dev.flag (Reg.FAB_PORT_CTL_EN 3) = true ∧ (linkSt PS.down none).dev.portState 3 ≠ PS.unused ∧
    (linkSt PS.training none).dev.portState 3 = PS.training ∧ (linkSt PS.training none).dev.link 3 = none := by decide +kernel
def mgmtBody : List Byte := natLe 2 0x20 ++ [0, 0] ++ natLe 4 8 ++ List.replicate 8 7
theorem witness_mgmt : (linkSt PS.up none).dev.receives 3 MT.mgmt true (mkMsg MT.mgmt 0 mgmtBody) ∧ mgmtBody.length = 16 ∧ (linkSt PS.up none).dev.fwServes = false ∧
    (linkSt PS.up none).dev.mbx.mgmt.length < 64 ∧ rdLe mgmtBody 0 2 = 0x20 ∧ rdLe mgmtBody 4 4 = 8 ∧ 8 + (8 + 7) / 8 * 8 = 16 := by
  unfold Dev.receives; decide +kernel
/-- DiscoveryGoesOn: the origin with two axes open, a device without and with a coordinate. -/
def discSt (origin active hasCoord : Bool) : State := progSt DS.ready [] fun d =>
  { d with frm := { d.frm with origin := origin },
           fab := { d.fab with disc := { d.fab.disc with active := active, rings := [0, 1], sizes := [0, 0, 0, 0], hasCoord := hasCoord } } }
theorem witness_discovery : (∀ mt ∈ [MT.ring, MT.assign, MT.census, MT.done], (discSt true true false).dev.discovers 4 mt (mkMsg mt 0 (List.replicate 8 0)) ∧
      (discSt false true false).dev.discovers 4 mt (mkMsg mt 0 (List.replicate 8 0))) ∧
    portPlus (4 : Fin 16) = false ∧ (discSt true true false).dev.frm.origin = true ∧ (discSt true true false).dev.fab.disc.active = true ∧
    portAxis (4 : Fin 16) ∈ (discSt true true false).dev.fab.disc.rings ∧ 1 ∈ (discSt true true false).dev.fab.disc.rings ∧ 1 ≠ portAxis (4 : Fin 16) ∧
    (mkMsg MT.ring 0 (List.replicate 8 0)).hops.toNat ≤ 16 ∧ (discSt false true false).dev.frm.origin = false ∧ (discSt false true false).dev.fab.disc.done = false ∧
    (discSt false true false).dev.fab.disc.hasCoord = false ∧ (discSt true true true).dev.fab.disc.hasCoord = true ∧
    (discSt true true true).dev.pwr.start = none := by unfold Dev.discovers Dev.hears; decide +kernel
/-- HostCommandEffects: each command at its turn in a state that allows it, with Acisk running and HELLO agreed. -/
def cmdSt (st : Nat) (op : Nat) (p : List Nat) : State := progSt st [] fun d =>
  { ((d.setFld Reg.HIF_STATE_HELLO 1).setFld Reg.MBX_STATUS_FW 1).setFld Reg.HIF_STATE_STAGE 0xF with
      hif := { d.hif with ready := [ringCmd op p], cqs := [(0, some ring), (6, some ring)], sqs := [(5, some ⟨0, 6, 0, 0, 0⟩)] } }
def hostCases : List (Nat × Nat × List Nat) :=
  [(DS.ready, 0x03, [0, 5]), (DS.ready, 0x04, [0, 6]), (DS.ready, 0x05, [0]), (DS.ready, 0x05, [0x10000]), (DS.ready, 0x20, [0, 64, 1]), (DS.ready, 0x21, [0, 0, 1]),
    (DS.held, 0x22, [0, 0, 1]), (DS.held, 0x22, [0, 0, 0xFF]), (DS.ready, 0x23, [1, 2, 0, 0]), (DS.held, 0x24, [0, 9, 0, 0]),
    (DS.running, 0x25, [9]), (DS.held, 0x26, []), (DS.held, 0x27, [0]), (DS.ready, 0x30, [0, 0x1000, 64]), (DS.ready, 0x31, [0, 0x1000, 64]),
    (DS.booting, 0x32, [0, 0]), (DS.ready, 0x33, [0, 64]), (DS.awaitImage, 0x10, [0, 64, 0, 0, 0]), (DS.ready, 0x10, [0, 64, 1, 0, 0]),
    (DS.ready, 0x10, [0, 64, 2, 0, 0]), (DS.ready, 0x11, [0]), (DS.ready, 0x11, [1]), (DS.ready, 0x12, [])]
theorem witness_host_commands : ∀ x ∈ hostCases, (cmdSt x.1 x.2.1 x.2.2).dev.dispatches 0 (ringCmd x.2.1 x.2.2) := by
  unfold Dev.dispatches; decide +kernel
theorem witness_host_state : (cmdSt DS.held 0x24 [0, 9]).dev.powered = true ∧ (cmdSt DS.held 0x24 [0, 9]).dev.pwr.start = none ∧
    (cmdSt DS.ready 0x04 [0, 6]).dev.cqBound 6 = false ∧ (ringCmd 0x04 [0, 6]).cq ≠ 6 ∧ (cmdSt DS.ready 0x20 [0, 64, 1]).dev.active ≠ 1 ∧
    (cmdSt DS.ready 0x20 [0, 64, 1]).dev.armed ≠ 1 ∧ (cmdSt DS.ready 0x23 [1, 2]).dev.slotValid 0 = true ∧ (cmdSt DS.held 0x24 [0, 9]).dev.resumeBad = false ∧
    (cmdSt DS.running 0x25 [9]).dev.frm.quiesceAt = none ∧ (cmdSt DS.running 0x25 [9]).dev.frm.updateAt = none ∧ (cmdSt DS.held 0x27 [0]).dev.pnd.perm = none ∧
    (cmdSt DS.held 0x27 [0]).dev.permTableOk 0 = true ∧ (cmdSt DS.ready 0x33 [0, 64]).dev.flt.packStaged = none ∧
    (cmdSt DS.ready 0x12 []).dev.hif.prog = [] ∧ (cmdSt DS.ready 0x30 [0, 0x1000, 64]).dev.untraced := by unfold Dev.untraced; decide +kernel
/-- RingsMailboxesAndManagement: doorbells at their limits, a fetch, a coalescing timeout, both settings of the admin rings. -/
def ringsSt : State := onDev fun d => { d.setFld Reg.HIF_STATE_STATE DS.ready with
  hif := { d.hif with sqs := [(5, some ⟨0, 6, 0, 10, 3⟩)], cqs := [(6, some ⟨0, 6, 2, 0, 0, 3, 9, true, 0, 4⟩)],
                      msixTab := (11, 0) :: d.hif.msixTab } }
theorem witness_doorbells : ringsSt.dev.powered = true ∧ ringsSt.dev.hif.power = 0 ∧ ringsSt.dev.sq (5 : Fin 65536).val = some ⟨0, 6, 0, 10, 3⟩ ∧
    ringsSt.dev.sq 4 = none ∧ ringsSt.dev.cq (6 : Fin 4096).val = some ⟨0, 6, 2, 0, 0, 3, 9, true, 0, 4⟩ ∧ ringsSt.dev.cq 4 = none ∧
    (10 + 64 - 3) % 64 + (2 + 64 - 10) % 64 = 63 ∧ (10 + 64 - 3) % 64 + (3 + 64 - 10) % 64 = 64 ∧ (9 + 64 - 3) % 64 = (9 + 64 - 3) % 64 ∧
    (9 + 64 - 3) % 64 < (10 + 64 - 3) % 64 ∧ DS.awaitImage ≤ ringsSt.dev.st ∧ ringsSt.dev.ideBlocked = false ∧ 3 ≠ 10 ∧ ringsSt.dev.hif.prog = [] ∧
    ringsSt.dev.hif.ready = [] ∧ (parseCmd 5 0 4 (List.replicate 64 0)).reservedBad = false ∧ 2 ≠ noVector ∧ ringsSt.dev.msixMasked 2 = false := by decide +kernel
theorem witness_admin : State.reset.dev.flag Reg.HIF_ADMIN_CFG_EN = false ∧ (onDev fun d => d.setFld Reg.HIF_ADMIN_CFG_EN 1).dev.flag Reg.HIF_ADMIN_CFG_EN = true ∧
    (1 : BitVec 32).toNat % 2 = 1 ∧ (2 : BitVec 32).toNat % 2 = 0 := by decide
/-- The same: channel 9 between core 0 and the host with a PING, an OSTEMU message, a doorbell on pair 1; a request of each kind alone in pair 1; a staged image and a cask to read; the watchdog and VDDIO on and off. -/
def ostSt : State := onDev fun d => (([(Reg.MBX_BIND_EN 9, 1), (Reg.MBX_BIND_OSTEMU 9, 1), (Reg.MBX_BIND_END_A 9, 0x10), (Reg.MBX_BIND_END_B 9, 0x01)]).foldl
  (fun d x => d.setFld x.1 x.2) d).setQueue 9 true ⟨[7], 0, 0, 0, false⟩
def aciskSt (ping : Nat) (fw : Nat) : State := onDev fun d =>
  let e := ([(Reg.MBX_STATUS_FW, fw), (Reg.HIF_STATE_STATE, DS.ready), (Reg.MBX_BIND_EN 9, 1), (Reg.MBX_BIND_END_A 9, 0x10), (Reg.MBX_BIND_END_B 9, 0x01)]).foldl
    (fun d x => d.setFld x.1 x.2) d
  ({ e with mbx := { d.mbx with mgmtUp := true } }).setQueue 9 false ⟨[ping], 0, 0, 0, false⟩
theorem witness_management : (ostSt.dev.binding (9 : Fin 64).val).ostemu = true ∧ (ostSt.dev.binding 9).en = true ∧ (ostSt.dev.queue 9 true).complete = true ∧
    (aciskSt 0x03000000 1).dev.fwRuns = true ∧ (aciskSt 0x03000000 1).dev.mgmtEnd 9 = some (0x10, false) ∧
    ((aciskSt 0x03000000 1).dev.binding 9).a ≠ ((aciskSt 0x03000000 1).dev.binding 9).b ∧ (aciskSt 0x03000000 1).dev.dead 9 = false ∧
    (aciskSt 0x03000000 1).dev.canReply 9 1 = true ∧ ((aciskSt 0x03000000 1).dev.queue 9 false).take = some ([0x03000000], ⟨[], 0, 0, 0, false⟩) ∧
    msgType 0x03000000 = 3 ∧ bit 0x03000000 20 = false ∧ ((aciskSt 0x03000000 1).dev.queue 9 true).open_ = 0 ∧
    ((aciskSt 0x03000000 1).dev.queue 9 true).skip = 0 ∧ (aciskSt 0x01000000 1).dev.fwServes = true ∧ (aciskSt 0x01000000 1).dev.mgmtEnd (8 + 1) = some (0x10, false) ∧
    ((aciskSt 0x01000000 1).dev.queue (8 + 1) false).take = some ([0x01000000], ⟨[], 0, 0, 0, false⟩) ∧ msgType 0x01000000 = 1 ∧
    bit 0x01000000 20 = false := by decide +kernel
def srSt (type : Nat) : State :=
  let d := (aciskSt 0 1).dev
  ⟨{ d with mem := cells (d.sr 1 + 4) [1] ++ cells (d.sr 1 + 0x1000) (natLe 2 type ++ natLe 2 77 ++ natLe 2 (if type = 0x10 then 1 else if type = 0x20 then 10 else 0) ++
      List.replicate 10 0 ++ [3]),
            mbx := { d.mbx with rung := [1] } }, []⟩
def srReq (type : Nat) : List Byte := (srSt type).dev.read ((srSt type).dev.sr 1 + 0x1000) 256
theorem witness_requests : ∀ t ∈ [1, 2, 0x10, 0x20, 0x30], (srSt t).dev.fwServes = true ∧ (srSt t).dev.rspFull (1 : Fin 4).val = false ∧
    (srSt t).dev.request 1 = some (srReq t) ∧ requestOk (srReq t) = true ∧ rdLe (srReq t) 0 2 = t ∧ ((srSt t).dev.reqHead 1 + 1) % 256 = (srSt t).dev.reqTail 1 ∧
    (srSt t).dev.mbx.mgmt = [] ∧ (srSt t).dev.untraced ∧ ((rdLe (((srReq t).drop 16).take (rdLe (srReq t) 4 2)) 0 2 % 4096 ≠ (srSt t).dev.ownAddr) ∨ t ≠ 0x20) := by
  unfold Dev.untraced; decide +kernel
theorem witness_update : (aciskSt 0 2).dev.fld Reg.MBX_STATUS_FW = 2 ∧ (aciskSt 0 2).dev.frm.updateAt = none ∧ (aciskSt 0 4).dev.fld Reg.MBX_STATUS_FW = 4 ∧
    (aciskSt 0 4).dev.hif.prog = [] ∧ armedSt.dev.flag Reg.FLT_WDOG_STATUS_ARMED = true ∧ State.reset.dev.flag Reg.FLT_WDOG_STATUS_ARMED = false ∧
    State.reset.dev.mbx.vddio = true ∧ (onDev fun d => { d with mbx := { d.mbx with vddio := false } }).dev.mbx.vddio = false := by decide +kernel
def tpSt : State := onDev fun d => (((d.setFld (Reg.MBX_BIND_EN 16) 1).setFld (Reg.MBX_BIND_END_A 16) 0x50).setFld (Reg.MBX_BIND_END_B 16) 0x20).setQueue 16 false ⟨[4], 0, 0, 0, false⟩
theorem witness_towpath : tpSt.dev.endOf (16 + (0 : Fin 8).val) 0x50 = some true ∧ tpSt.dev.dead 16 = false ∧ (tpSt.dev.queue 16 true).skip = 0 ∧
    (tpSt.dev.queue 16 true).words.length + (msgLen (0 : BitVec 32).toNat + 1) ≤ 8 ∧ (tpSt.dev.queue 16 (!true)).words = [4] := by decide
/-- GaugeAndPowerEvents: an idle converter 0 with power, one with an urgent request, with a fresh and a stale scan, and a due list in each of its cases. -/
def gauSt (c : Option Conv) : State := onDev fun d =>
  let e := [(Reg.HIF_STATE_STATE, DS.ready), (Reg.GAU_CTL_PWR, 1), (Reg.GAU_SCAN_EN 2, 1), (Reg.GAU_SCAN_CONV 2, 0), (Reg.GAU_SCAN_PERIOD 2, 9),
    (Reg.GAU_SCAN_COUNT 2, 2), (Reg.GAU_SCAN_ENT_CHAN 2 0, 7 + 256 * 8)].foldl (fun d x => d.setFld x.1 x.2) d
  { e with gau := { d.gau with conv := [(0, c)], wait := [] } }
def convOf (list : Nat) (stale : Bool) : Conv := ⟨list, 0, 7, [8], none, stale, false⟩
theorem witness_gauge_events : (gauSt none).dev.powered = true ∧ (gauSt none).dev.flag Reg.GAU_CTL_PWR = true ∧ (gauSt none).dev.conv (0 : Fin 2).val = none ∧
    (gauSt none).dev.waits 0 = [] ∧ chanConv 7 = 0 ∧ (∀ l < 4, (gauSt none).dev.flag (Reg.GAU_SCAN_EN l) = true → (gauSt none).dev.fld (Reg.GAU_SCAN_CONV l) = 0 →
      (gauSt none).dev.fld (Reg.GAU_SCAN_PERIOD l) ≠ 0) ∧ 1 ≤ (5 : BitVec 3).toNat ∧ (5 : BitVec 3).toNat ≤ 5 ∧ 64 ≤ (16384 : BitVec 15).toNat ∧
    (16384 : BitVec 15).toNat ≤ 16384 ∧ (∀ c ∈ [convOf 4 false, convOf 2 false, convOf 2 true], (gauSt (some c)).dev.conv (0 : Fin 2).val = some c) ∧
    (convOf 4 false).list = 4 ∧ (convOf 2 true).list ≠ 4 ∧ (convOf 2 true).chan ≤ 95 ∧ (convOf 2 true).rest = [8] ∧ chanConv 8 = 0 ∧
    (gauSt none).dev.st = DS.ready ∧ State.reset.dev.st ≠ DS.ready := by decide +kernel
theorem witness_scan : (gauSt none).dev.flag (Reg.GAU_SCAN_EN 2) = true ∧ (gauSt none).dev.flag (Reg.GAU_SCAN_EN 1) = false ∧ (gauSt none).dev.fld (Reg.GAU_SCAN_CONV 2) = 0 ∧
    (gauSt (some (convOf 2 false))).dev.conv 0 = some (convOf 2 false) ∧ (gauSt (some (convOf 4 false))).dev.waits 0 = [] ∧
    (gauSt (some (convOf 4 false))).dev.conv 1 = none ∧ (gauSt (some (convOf 4 false))).dev.waits 1 = [] ∧ (convOf 4 false).list ≠ 2 ∧
    (gauSt none).dev.conv 1 = none ∧ (gauSt none).dev.listChans 2 = [7, 8] := by decide +kernel
/-- GaugeAndPowerEvents: a reset of the function alone, one during a cold start, and a warm start. -/
theorem witness_function_reset : (inSt DS.awaitImage).dev.st = DS.awaitImage ∧ (gauSt none).dev.st ≠ DS.rom ∧ (gauSt none).dev.st ≠ DS.awaitImage ∧
    (gauSt none).dev.st ≠ DS.fault ∧ (gauSt none).dev.pwr.start = none := by decide +kernel
/-- SecurityAnswers: negotiated, with an open and a complete session and with a free place, IDE Secure and LOCK. -/
def secSt (sessions : List Session) : State := onDev fun d =>
  { (d.setFld Reg.HIF_STATE_STATE DS.ready).setFld Reg.SEC_STATUS_IDE ideSecure with sec := { d.sec with phase := 3, sessions := sessions, keys := [0], going := [] } }
theorem witness_security : (secSt []).dev.powered = true ∧ DS.rom < (secSt []).dev.st ∧ 3 ≤ (secSt []).dev.sec.phase ∧ (secSt []).dev.sec.sessions.length < 2 ∧
    2 ≤ (secSt [⟨1, false, 0⟩, ⟨2, true, 0⟩]).dev.sec.sessions.length ∧
    (secSt [⟨1, false, 0⟩]).dev.sec.sessions.find? (fun y => y.id == (1 : BitVec 32).toNat && y.done == false) = some ⟨1, false, 0⟩ ∧
    ((secSt [⟨2, true, 0⟩]).dev.sec.sessions.find? fun y => y.id == (2 : BitVec 32).toNat && y.done == true).isSome = true ∧
    ((secSt [⟨2, true, 0⟩]).dev.sec.sessions.any fun y => some y.id == (some (2 : BitVec 32)).map BitVec.toNat && y.done) = true ∧
    keySlot (0 : Fin 2) (0 : Fin 2) (0 : Fin 3) ∈ (secSt []).dev.sec.keys ∧ keySlot (0 : Fin 2) (0 : Fin 2) (0 : Fin 3) ∉ (secSt []).dev.sec.going ∧
    (secSt []).dev.fld Reg.SEC_STATUS_IDE = ideSecure ∧ State.reset.dev.fld Reg.SEC_STATUS_IDE ≠ ideSecure := by decide +kernel

end Sys2Proof.Tests
end

