-- ==== Sys2Proof/Proofs/Registers.lean ====
section
/-!
PROOF. What reset leaves (O7, O8), what a write of a register does (O35) and how a register is read in two halves (O36).
-/

set_option Elab.async false

namespace Sys2Proof.Machine

/-! ### Reset (O7, O8) -/

theorem Dev.reset_fld (f : Field) : Dev.reset.fld f = fieldReset f.key := rfl
theorem Dev.reset_count (c : Nat) : Dev.reset.count c = 0 := rfl

theorem fieldReset_stickyBit : ∀ k < 23, fieldReset (stickyBit k).key = 0 := by decide +kernel

/-- Settles O7: the reset state lists no field and no counter. -/
theorem resetValues : Obligations.ResetValues :=
  ⟨Dev.reset_fld, Dev.reset_count, rfl, rfl, rfl, rfl, rfl⟩

/-- Settles O8: nothing is listed, and the sticky bits reset to 0. -/
theorem resetIsCanonical : Obligations.ResetIsCanonical := by
  refine ⟨Memory.wf_reset, SMap.wf_nil _, SMap.wf_nil _, fun c => ?_, fun k hk => ?_⟩
  · rw [show State.reset.dev.count c = 0 from Dev.reset_count c]; exact Nat.zero_le _
  · rw [show State.reset.dev.fld (stickyBit k) = 0 from fieldReset_stickyBit k hk]; exact Nat.zero_le _

/-! ### Writes of registers (O35) -/

theorem regAt_scratch : regAt 0x18 = some ⟨"DEV_SCRATCH", 0x18, 1, 8, 64, [⟨"VALUE", 63, 0, .rw, 0, .any⟩]⟩ := by decide +kernel

/-- A write of the whole slot leaves none of its former value. -/
theorem splice_whole (old v : Nat) (hv : v < 2 ^ 64) : splice old 0 64 v % 2 ^ 64 = v := by
  unfold splice
  have := Nat.div_add_mod old (2 ^ 64)
  simp only [pow_zero, Nat.div_one, Nat.mul_one, Nat.mod_eq_of_lt hv]
  omega

/-- A write of all of DEV_SCRATCH sets its field. -/
theorem Dev.writeReg_scratch (d : Dev) (v : Nat) (hv : v < 2 ^ 64) : d.writeReg 0x18 0 64 v = d.setFld Reg.DEV_SCRATCH_VALUE v := by
  have hlow (new act : Nat) : d.putLow 0x18 0 64 new act ⟨"DEV_SCRATCH", 0x18, 1, 8, 64, [⟨"VALUE", 63, 0, .rw, 0, .any⟩]⟩ =
      (true, d.setFld Reg.DEV_SCRATCH_VALUE (new % 2 ^ 64)) := by
    have : new / 2 ^ 0 % 2 ^ 64 = new % 2 ^ 64 := by omega
    rw [← this]; rfl
  rw [Dev.writeReg, regAt_scratch]
  simp only [hlow, splice_whole _ v hv]
  rfl

/-- An access that is not aligned covers nothing. -/
theorem accessAt_misaligned (off : Nat) (h : off % 8 ≠ 0) : accessAt off true = none := by
  simp [accessAt, h]

/-- An access at a multiple of 8 is one of that slot. -/
theorem accessAt_slot (off : Nat) (whole : Bool) (h : off % 8 = 0) : accessAt off whole = some (off, 0, if whole then 64 else 32) := by
  have h4 : off % 4 = 0 := by omega
  have h8 : off / 8 * 8 = off := by omega
  cases whole <;> simp [accessAt, h, h4, h8]

/-- In D0 a write of a slot outside the MSI-X table is one of its register. -/
theorem Dev.barWrite_slot (d : Dev) (off v : Nat) (whole : Bool) (hd : d.hif.power = 0) (h : off % 8 = 0) (hm : inMsixTab off = false) :
    d.barWrite off whole v = d.writeReg off 0 (if whole then 64 else 32) v := by
  rw [Dev.barWrite, accessAt_slot off whole h]
  simp [hd, hm]

theorem Dev.writeReg_unmapped (d : Dev) (slot lo w v : Nat) (h : regAt slot = none) : d.writeReg slot lo w v = d := by
  rw [Dev.writeReg, h]

/-- Settles O35, through what an aligned access, a misaligned one and one of an unmapped slot write. -/
theorem registerWrites : Obligations.RegisterWrites := by
  intro v s hp hd
  refine ⟨?_, fun off whole h8 hr hm => ?_, fun off h8 => ?_⟩
  · have hoff : (0x18 : BitVec 24).toNat = 0x18 := rfl
    have hw : s.dev.quiet.barWrite (0x18 : BitVec 24).toNat true v.toNat = s.dev.quiet.setFld Reg.DEV_SCRATCH_VALUE v.toNat := by
      rw [hoff, Dev.barWrite_slot s.dev.quiet 0x18 _ true hd rfl rfl, if_pos rfl, Dev.writeReg_scratch _ _ v.isLt]
    refine answers_run _ _ _ _ (exec_registerWrite _ _ _ s) hp ?_
    rw [hw]
    refine ⟨?_, fun key hkey => ?_, ?_⟩
    · rw [Dev.fld_setFld_same]; exact Nat.mod_eq_of_lt v.isLt
    · exact SMap.get_set_other _ _ _ _ _ (by simpa using hkey)
    · exact Dev.keepsBut_trans _ _ _ _ (Dev.keepsBut_mono [] _ _ _ (Dev.quiet_keeps s.dev) (by simp)) (Dev.setFld_keeps _ _ _)
  · rw [exec_registerWrite, execRegisterWrite, State.run_powered _ _ hp, Dev.barWrite_slot s.dev.quiet _ _ _ hd h8 hm, Dev.writeReg_unmapped _ _ _ _ _ hr]
  · rw [exec_registerWrite, execRegisterWrite, State.run_powered _ _ hp, Dev.barWrite, accessAt_misaligned _ h8]

/-! ### Reads of a register in two halves (O36) -/

/-- The device with the latch of a slot set or cleared (R16). -/
def Dev.setLatch (d : Dev) (slot : Nat) (x : Option Nat) : Dev := { d with latch := SMap.set (fun _ => none) d.latch slot x }

theorem Dev.setLatch_keeps (d : Dev) (slot : Nat) (x : Option Nat) : d.keepsBut [.latch] (d.setLatch slot x) := by
  intro p hp
  cases p <;> first | rfl | simp at hp

/-- The latch of a slot reads as it was set. -/
theorem Dev.latch_setLatch (d : Dev) (slot : Nat) (x : Option Nat) : SMap.get (fun _ => none) (d.setLatch slot x).latch slot = x :=
  SMap.get_set_same (fun _ => none) d.latch slot x

/-- An answer that sets a latch changes nothing else. -/
theorem Dev.setLatch_emit_keeps (d : Dev) (slot : Nat) (x : Option Nat) (o : Out) : d.keepsBut [.latch] ((d.quiet.setLatch slot x).emit o) :=
  Dev.keepsBut_trans _ _ _ _ (Dev.keepsBut_mono [] _ _ _ (Dev.quiet_keeps d) (by simp))
    (Dev.keepsBut_trans _ _ _ _ (Dev.setLatch_keeps _ _ _) (Dev.keepsBut_mono [] _ _ _ (Dev.emit_keeps _ _) (by simp)))

/-- The lower half of a wide slot: its low word is read and its high word latched. -/
theorem Dev.readSlot_lower (d : Dev) (slot : Nat) (h : wideSlot slot = true) :
    d.readSlot slot 0 32 = (d.setLatch slot (some (d.slotView slot / 2 ^ 32))).emit (.data (d.slotView slot % 2 ^ 32)) := by
  simp [Dev.readSlot, h, Dev.setLatch]

/-- The upper half of a slot with a latched word: that word is read and the latch cleared. -/
theorem Dev.readSlot_latched (d : Dev) (slot x : Nat) (h : SMap.get (fun _ => none) d.latch slot = some x) :
    d.readSlot slot 32 32 = (d.setLatch slot none).emit (.data x) := by
  simp [Dev.readSlot, h, Dev.setLatch]

/-- A 4-byte access in the lower half of a slot. -/
theorem accessAt_lower (off : Nat) (h : off % 8 = 0) : accessAt off false = some (off, 0, 32) := by
  simpa using accessAt_slot off false h

/-- A 4-byte access in the upper half of a slot. -/
theorem accessAt_upper (off : Nat) (h : off % 8 = 0) : accessAt (off + 4) false = some (off, 32, 32) := by
  have h4 : (off + 4) % 4 = 0 := by omega
  have h8 : (off + 4) / 8 * 8 = off := by omega
  have hlo : (off + 4) % 8 * 8 = 32 := by omega
  simp [accessAt, h4, h8, hlo]

/-- Outside the mailbox words and the ledger a read in D0 is one of the slot. -/
theorem Dev.barRead_slot (d : Dev) (off slot lo w : Nat) (whole : Bool) (e : Ecc) (hd : d.hif.power = 0) (ha : accessAt off whole = some (slot, lo, w))
    (hm : ¬ (0xD1000 ≤ slot ∧ slot < 0xD1400)) (hl : ¬ (0xE4000 ≤ slot ∧ slot < 0xF0000)) :
    d.barRead off whole e = d.readSlot slot lo w := by
  rw [Dev.barRead, ha]
  simp only [hd, ne_eq, not_true_eq_false, if_false]
  rw [if_neg (by omega), if_neg (by omega), if_neg hl]

theorem toNat_add_four (off : BitVec 24) (h : off.toNat + 4 < 2 ^ 24) : (off + 4).toNat = off.toNat + 4 := by bv_omega

theorem Dev.raw_quiet (d : Dev) (off : Nat) : d.quiet.raw off = d.raw off := by simp only [Dev.raw, Dev.quiet_fld]
theorem Dev.tunView_quiet (d : Dev) (slot : Nat) : d.quiet.tunView slot = d.tunView slot := rfl
theorem Dev.poundStat_quiet (d : Dev) : d.quiet.poundStat = d.poundStat := rfl
theorem Dev.hostPend_quiet (d : Dev) : d.quiet.hostPend = d.hostPend := rfl
theorem Dev.bindView_quiet (d : Dev) (n : Nat) : d.quiet.bindView n = d.bindView n := rfl
theorem Dev.chStat_quiet (d : Dev) (n : Nat) : d.quiet.chStat n = d.chStat n := rfl
theorem Dev.alertMask_quiet (d : Dev) : d.quiet.alertMask = d.alertMask := rfl

/-- What a slot shows does not depend on what was sent. Each view is rewritten by its own lemma: a single `rfl` for them all recurses too deep. -/
theorem Dev.slotView_quiet (d : Dev) (slot : Nat) : d.quiet.slotView slot = d.slotView slot := by
  rw [Dev.slotView, Dev.slotView, Dev.raw_quiet, Dev.tunView_quiet, Dev.poundStat_quiet, Dev.hostPend_quiet, Dev.bindView_quiet,
    Dev.chStat_quiet, Dev.alertMask_quiet]
  rfl

/-- Settles O36, through what a read of the lower half and one of a latched upper half do. -/
theorem splitReadsAgree : Obligations.SplitReadsAgree := by
  intro off s e hp hd h8 hoff hw hm hl
  have keeps (x : Option Nat) (o : Out) := Dev.setLatch_emit_keeps s.dev off.toNat x o
  refine ⟨?_, fun x hx => ?_⟩
  · have hread := (Dev.barRead_slot s.dev.quiet _ _ _ _ _ e hd (accessAt_lower _ h8) hm hl).trans (Dev.readSlot_lower s.dev.quiet _ hw)
    refine answers_run _ _ _ _ (exec_lowerHalfRead off false e false s) hp ?_
    simp only [Bool.false_eq_true, if_false, hread, Dev.slotView_quiet]
    refine ⟨by rw [Dev.emit_out]; rfl, ?_, keeps _ _⟩
    rw [Dev.emit_latch, Dev.latch_setLatch]
  · have hup : (off + 4).toNat = off.toNat + 4 := toNat_add_four off hoff
    have hread := (Dev.barRead_slot s.dev.quiet _ _ _ _ _ e hd (accessAt_upper _ h8) hm hl).trans (Dev.readSlot_latched s.dev.quiet _ x hx)
    refine answers_run _ _ _ _ (exec_lowerHalfRead (off + 4) false e false s) hp ?_
    simp only [Bool.false_eq_true, if_false, hup, hread]
    refine ⟨by rw [Dev.emit_out]; rfl, ?_, keeps _ _⟩
    rw [Dev.emit_latch, Dev.latch_setLatch]

end Sys2Proof.Machine
end

