-- ==== Sys2Proof/Proofs/Sticky.lean ====
section
/-!
PROOF. FLT_STK0 as a word of one-bit fields, and the sticky bits a write clears (O12).
-/

set_option Elab.async false

namespace Sys2Proof.Machine


/-- The bits of `a` without those of `b`. -/
theorem testBit_sub_and (a b k : Nat) : (a - Nat.land a b).testBit k = (a.testBit k && !b.testBit k) := by
  change (a - (a &&& b)).testBit k = _
  induction k generalizing a b with
  | zero =>
    have hle : a &&& b ≤ a := Nat.and_le_left
    have hodd : (a &&& b) % 2 = 1 ↔ a % 2 = 1 ∧ b % 2 = 1 := Nat.and_mod_two_eq_one
    rw [Bool.eq_iff_iff]
    simp only [Nat.testBit_zero, Bool.and_eq_true, Bool.not_eq_true', decide_eq_true_eq, decide_eq_false_iff_not]
    omega
  | succ k ih =>
    have hle : a &&& b ≤ a := Nat.and_le_left
    have hodd : (a &&& b) % 2 = 1 ↔ a % 2 = 1 ∧ b % 2 = 1 := Nat.and_mod_two_eq_one
    have hdiv : (a &&& b) / 2 = a / 2 &&& b / 2 := Nat.and_div_two
    have hhalf : (a - (a &&& b)) / 2 = a / 2 - (a / 2 &&& b / 2) := by omega
    rw [Nat.testBit_succ, Nat.testBit_succ, Nat.testBit_succ, hhalf, ih]

/-- A number put together from bits has those bits. -/
theorem sum_bits (f : Nat → Nat) (n : Nat) (hf : ∀ k < n, f k ≤ 1) :
    ((List.range n).map fun k => f k * 2 ^ k).sum < 2 ^ n ∧
      ∀ k < n, (((List.range n).map fun k => f k * 2 ^ k).sum.testBit k).toNat = f k := by
  induction n with
  | zero => simp
  | succ n ih =>
    obtain ⟨hlt, hbit⟩ := ih fun k hk => hf k (by omega)
    have hn := hf n (by omega)
    simp only [List.range_succ, List.map_append, List.map_cons, List.map_nil, List.sum_append, List.sum_cons, List.sum_nil, Nat.add_zero]
    constructor
    · have := Nat.mul_le_mul_right (2 ^ n) hn
      omega
    · intro k hk
      rw [Nat.add_comm, Nat.mul_comm, Nat.testBit_two_pow_mul_add _ hlt]
      split
      · exact hbit k ‹_›
      · obtain rfl : k = n := by omega
        rcases Nat.le_one_iff_eq_zero_or_eq_one.mp hn with h | h <;> simp [h]

/-- The positions of FLT_STK0's fields, in the table's order. -/
def stickyOrder : List Nat := (List.range 23).reverse

/-- FLT_STK0 has one field of one bit at each of its positions. -/
theorem regAt_stk0 : ∃ r, regAt 0xE0000 = some r ∧ r.fields.map (fun f => (f.lo, f.hi - f.lo + 1)) = stickyOrder.map fun k => (k, 1) := by
  refine ⟨_, rfl, ?_⟩
  decide +kernel

/-- A write of FLT_STK0 writes its bits one after the other. -/
theorem Dev.setRaw_stk0 (d : Dev) (v : Nat) :
    d.setRaw 0xE0000 v = stickyOrder.foldl (fun d k => d.setFld (stickyBit k) (v / 2 ^ k)) d := by
  obtain ⟨r, hr, hf⟩ := regAt_stk0
  calc d.setRaw 0xE0000 v
      = (r.fields.map fun f => (f.lo, f.hi - f.lo + 1)).foldl (fun d x => d.setFld ⟨0xE0000, x.1, x.2⟩ (v / 2 ^ x.1)) d := by
        rw [Dev.setRaw, hr, List.foldl_map]
    _ = _ := by rw [hf, List.foldl_map]; rfl

/-- A register as one word, from the positions and widths of its fields. -/
theorem Dev.raw_of_regAt (d : Dev) (off : Nat) (r : RegDef) (h : regAt off = some r) :
    d.raw off = ((r.fields.map fun f => (f.lo, f.hi - f.lo + 1)).map fun x => d.fld ⟨off, x.1, x.2⟩ * 2 ^ x.1).sum := by
  rw [Dev.raw, h, List.map_map]; rfl

/-- FLT_STK0 as one word is put together from its bits. -/
theorem Dev.stk0_eq (d : Dev) : d.stk0 = ((List.range 23).map fun k => d.fld (stickyBit k) * 2 ^ k).sum := by
  obtain ⟨r, hr, hf⟩ := regAt_stk0
  have hraw := Dev.raw_of_regAt d _ r hr
  rw [hf, List.map_map] at hraw
  have hrev : (stickyOrder.map fun k => d.fld (stickyBit k) * 2 ^ k).sum = ((List.range 23).map fun k => d.fld (stickyBit k) * 2 ^ k).sum := by
    rw [stickyOrder, List.map_reverse, List.sum_reverse]
  exact hraw.trans hrev

theorem stickyBit_key (k : Nat) : (stickyBit k).key = 0xE0000 * 64 + k := rfl
theorem stickyBit_width (k : Nat) : (stickyBit k).w = 1 := rfl

/-- Bits written one after the other: each listed one reads as written, every other field as before. -/
theorem Dev.get_stickyBits (v : Nat) (ks : List Nat) (d : Dev) (key : Nat) :
    SMap.get fieldReset (ks.foldl (fun d k => d.setFld (stickyBit k) (v / 2 ^ k)) d).regs key =
      if 0xE0000 * 64 ≤ key ∧ key - 0xE0000 * 64 ∈ ks then (v.testBit (key - 0xE0000 * 64)).toNat else SMap.get fieldReset d.regs key := by
  induction ks generalizing d with
  | nil => simp
  | cons k ks ih =>
    rw [List.foldl_cons, ih]
    by_cases hk : key = (stickyBit k).key
    · subst hk
      rw [Dev.setFld, SMap.get_set_same, stickyBit_width, stickyBit_key, Nat.add_sub_cancel_left, Nat.toNat_testBit, pow_one, ite_self,
        if_pos ⟨Nat.le_add_right _ _, List.mem_cons_self⟩]
    · have hmem : (0xE0000 * 64 ≤ key ∧ key - 0xE0000 * 64 ∈ k :: ks) ↔ (0xE0000 * 64 ≤ key ∧ key - 0xE0000 * 64 ∈ ks) := by
        rw [stickyBit_key] at hk
        refine and_congr_right fun hle => ?_
        have : key - 0xE0000 * 64 ≠ k := by omega
        simp [this]
      rw [Dev.setFld, SMap.get_set_other _ _ _ _ _ hk]
      simp only [hmem]

/-- Every sticky bit is 0 or 1. -/
theorem Dev.wf.sticky_le {d : Dev} (h : d.wf) : ∀ k < 23, d.fld (stickyBit k) ≤ 1 := h.2.2.2.2

/-- FLT_STK0 as one word has the sticky bits as its bits. -/
theorem Dev.testBit_stk0 (d : Dev) (h : ∀ k < 23, d.fld (stickyBit k) ≤ 1) (k : Nat) (hk : k < 23) :
    (d.stk0.testBit k).toNat = d.fld (stickyBit k) := by
  rw [d.stk0_eq]
  exact (sum_bits _ 23 h).2 k hk

/-- What a field of FLT_STK0 and any other field read as after a write of `v` (R17, R409). -/
theorem Dev.get_clearSticky (d : Dev) (v key : Nat) :
    SMap.get fieldReset (d.clearSticky v).regs key =
      if 0xE0000 * 64 ≤ key ∧ key - 0xE0000 * 64 < 23 then (d.stk0.testBit (key - 0xE0000 * 64) && !v.testBit (key - 0xE0000 * 64)).toNat
      else SMap.get fieldReset d.regs key := by
  rw [Dev.clearSticky, Dev.setRaw_stk0, Dev.get_stickyBits, testBit_sub_and]
  simp only [stickyOrder, List.mem_reverse, List.mem_range]

theorem Dev.clearSticky_keeps (d : Dev) (v : Nat) : d.keepsBut [.regs] (d.clearSticky v) := by
  rw [Dev.clearSticky, Dev.setRaw_stk0]
  exact Dev.keepsBut_foldl _ _ (fun d _ => Dev.setFld_keeps d _ _) _ _

/-- Settles O12: the word that STICKY_CLEAR writes back holds the old bits without the written ones, one field a bit. -/
theorem stickyBitsClearByOne : Obligations.StickyBitsClearByOne := by
  intro v s hp hwf
  have hget := Dev.get_clearSticky s.dev.quiet v.toNat
  refine answers_run _ _ _ _ (exec_stickyClear v s) hp ⟨fun k hk => ?_, fun key hkey => ?_, ?_⟩
  · have hold := s.dev.testBit_stk0 hwf.sticky_le k hk
    have hnew : (s.dev.quiet.clearSticky v.toNat).fld (stickyBit k) = (s.dev.stk0.testBit k && !v.toNat.testBit k).toNat := by
      rw [Dev.fld, hget, stickyBit_key, Nat.add_sub_cancel_left, if_pos ⟨Nat.le_add_right _ _, hk⟩]
      rfl
    rw [hnew, ← BitVec.testBit_toNat, ← hold]
    cases v.toNat.testBit k <;> simp
  · rw [hget key, if_neg (by omega)]; rfl
  · exact Dev.keepsBut_trans _ _ _ _ (Dev.keepsBut_mono [] _ _ _ (Dev.quiet_keeps s.dev) (by simp)) (Dev.clearSticky_keeps _ _)

end Sys2Proof.Machine
end

