-- ==== Sys2Proof/Proofs/CanonicalForm.lean ====
section
/-!
PROOF. A step that leaves the canonical form (O9): a result token with more entries than there are layers.
-/

set_option Elab.async false

namespace Sys2Proof.Machine

/-! ### A trouble vector that runs past the layers (R232) -/

/-- A layer without trouble keeps its adjustment. -/
theorem Dev.lpLayer_calm (st : Bool × Dev) (l : Nat) : Dev.lpLayer st (l, 0) = st := by
  simp [Dev.lpLayer, bit]

theorem Dev.lpLayers_calm (xs : List (Nat × Nat)) (h : ∀ x ∈ xs, x.2 = 0) (st : Bool × Dev) : xs.foldl Dev.lpLayer st = st := by
  induction xs generalizing st with
  | nil => rfl
  | cons x xs ih =>
    obtain ⟨l, trb⟩ := x
    obtain rfl : trb = 0 := h _ List.mem_cons_self
    rw [List.foldl_cons, Dev.lpLayer_calm, ih fun y hy => h y (List.mem_cons_of_mem _ hy)]

/-- A vector whose last layer alone has trouble acts on that layer alone. -/
theorem Dev.lpApply_last (d : Dev) (n trb : Nat) (h : trb % 4 ≠ 0) :
    d.lpApply (List.replicate n 0 ++ [trb]) = Dev.lpLayer (false, d.sticky Reg.FLT_STK0_LP_TROUBLE) (n, trb) := by
  have hany : (List.replicate n 0 ++ [trb]).any (· % 4 != 0) = true := by simp [h]
  have hlen : (List.replicate n 0 ++ [trb]).length = n + 1 := by simp
  have hcalm : ∀ x ∈ (List.range n).zip (List.replicate n 0), x.2 = 0 :=
    fun x hx => List.eq_of_mem_replicate (List.of_mem_zip (a := x.1) (b := x.2) hx).2
  rw [Dev.lpApply, if_pos hany, hlen, List.range_succ, List.zip_append (by simp), List.foldl_append, Dev.lpLayers_calm _ hcalm]
  rfl

/-! ### A frame_start that ends a step in RUNNING -/

/-- The device as the opened frame `f` begins, before its run (R46). -/
def Dev.opened (d : Dev) (f : PendingFrame) : Dev :=
  let d := (d.setFrm fun x => { x with pending := x.queued.head?, queued := x.queued.drop 1 }).closeFrame
  let d := (d.setFld Reg.FRM_TICK_NUM_NUM f.num).setFld Reg.FRM_STATUS_TICK_SRC f.src
  let lost := d.flag Reg.FRM_STATUS_HOLD_TICK && (d.st == DS.held || d.st == DS.quiesced)
  let d := d.setFld Reg.FRM_STATUS_TICK_STATE (if lost then 0 else if f.src = 3 then 2 else 1)
  d.setFrm fun x => { x with frameStart := f.start, inFrame := true, frameLate := f.late, misses := if f.src = 3 then x.misses + 1 else 0 }

theorem Dev.frameStart_running (d : Dev) (m : StepMeas) (f : PendingFrame) (hf : d.frm.pending = some f) (ht : d.ticking = true)
    (hs : (d.opened f).st = DS.running) (hw : ((d.opened f).frameRunning m).flag Reg.FLT_WDOG_STATUS_EXPIRED = false) :
    d.frameStart m = (d.opened f).frameRunning m := by
  have hrun : d.frameStart m = (let e := if (d.opened f).st = DS.running then (d.opened f).frameRunning m
      else ((d.opened f).freezeIdle.startDue f.num).resumeDue f.num
      if e.flag Reg.FLT_WDOG_STATUS_EXPIRED then e.setFld Reg.FLT_WDOG_STATUS_FROZEN 1 else e) := by
    rw [Dev.frameStart, hf]
    simp only [ht, Bool.not_true, Bool.false_eq_true, if_false]
    rfl
  rw [hrun, if_pos hs]
  exact if_neg (by simp [hw])

/-- The last frame of a step in RUNNING: the boundary, and what follows it where it leaves RUNNING. -/
theorem Dev.frameRunning_last (d : Dev) (m : StepMeas) (hd : d.frm.freezeDue = none) (hf : d.flt.ledgerFault = false) (hl : d.lastFrame = true)
    (hs : (d.boundary m).st ≠ DS.running) : d.frameRunning m = (d.boundary m).writeParams.freezeIdle := by
  simp [Dev.frameRunning, hd, hf, hl, hs]

/-- The device at a boundary before the result is applied. -/
def Dev.atBoundary (d : Dev) (m : StepMeas) : Dev :=
  (((((d.takeSpg.takeFlt).stageOverrun).portsUp).setFld Reg.RED_STEP_STATE_REPLAYS (min 0xFFFF d.red.replays)).measure m).writeStepMin

theorem Dev.boundary_result (d : Dev) (m : StepMeas) (t : Token) (ht : (d.atBoundary m).red.result = some t) (hh : t.hold = false) :
    d.boundary m = (d.atBoundary m).applyResult t := by
  have hb : d.boundary m = (match (d.atBoundary m).red.result with
    | none => ((d.atBoundary m).bump Cnt.RED_NO_RESULT_CNT).holdStep 1 (highestReason (d.atBoundary m).ownReasons) 0
    | some t =>
      if t.hold then
        (((d.atBoundary m).countSplit t).bump Cnt.RED_HOLD_RX_CNT).holdStep 2 (reportReason (d.atBoundary m).ownReasons t.reasons false) (t.reasons / 2)
      else (d.atBoundary m).applyResult t) := rfl
  rw [hb, ht]
  simp only [hh, Bool.false_eq_true, if_false]

/-! ### O9 fails -/

/-- The entry of a layer without trouble, and of one with UFL alone. -/
def calmEntry : TokenEntry := ⟨0, 0, 0, 0⟩
def uflEntry : TokenEntry := ⟨0, 0, 0, 1⟩

/-- The layer whose adjustment R232 would keep at the key of FLT_STK0's bit 0: NUM_LP_ADJ has 16 layers in 8 bytes from 0x71000 on. -/
def layerAtStk0 : Nat := 16 * ((0xE0000 - 0x71000) / 8)

theorem layerAtStk0_key : (Reg.NUM_LP_ADJ_ADJ (layerAtStk0 / 16)).key = (stickyBit 0).key := rfl

/-- A result of a good step with an entry for that layer. -/
def longResult : Token :=
  ⟨0, 0, true, 0, 0xFF, 0xFF, false, false, false, 0, 0, 0, List.replicate layerAtStk0 calmEntry ++ [uflEntry]⟩

theorem longResult_trb : longResult.entries.map (·.trb) = List.replicate layerAtStk0 0 ++ [1] := by
  simp [longResult, calmEntry, uflEntry]

/-- The frame that opens, and what the sensors report with it. -/
def lastFrameOpened : PendingFrame := ⟨1, 0, 1, false⟩
def calmMeas : StepMeas := ⟨0, 0, [], 0⟩

/-- An origin in RUNNING with steps of one frame and repeats at REPEAT_MAX, that holds the result and has a frame opened. -/
def longResultDev : Dev :=
  { Dev.reset with
    regs := [(Reg.HIF_STATE_STATE.key, DS.running), (Reg.FRM_STEP_POS_STEP_FRAMES.key, 1), (Reg.RED_STEP_STATE_REPEATS.key, 15)]
    frm := { Dev.reset.frm with origin := true, pending := some lastFrameOpened }
    red := { Dev.reset.red with result := some longResult } }

theorem longResultDev_wf : longResultDev.wf := by
  refine ⟨Memory.wf_reset, by decide +kernel, SMap.wf_nil _, fun c => ?_, by decide +kernel⟩
  rw [show longResultDev.count c = 0 from rfl]
  exact Nat.zero_le _

/-- The device at the step boundary. -/
def longResultBoundary : Dev := (longResultDev.quiet.missHold.opened lastFrameOpened).atBoundary calmMeas

set_option maxRecDepth 4000 in
theorem longResultBoundary_result : longResultBoundary.red.result = some longResult := rfl

/-- R232 on that result acts on the one layer alone, whatever the device. -/
theorem longResult_lpApply (d : Dev) :
    d.lpApply (longResult.entries.map (·.trb)) = Dev.lpLayer (false, d.sticky Reg.FLT_STK0_LP_TROUBLE) (layerAtStk0, 1) := by
  rw [longResult_trb, Dev.lpApply_last _ _ _ (by decide)]

/-- What a step of RUNNING with that result comes to: the adjustment −1, as a nibble, stands in bit 0 of FLT_STK0. -/
def overflowed (e : Dev) : Prop :=
  e.st ≠ DS.running ∧ e.writeParams.freezeIdle.flag Reg.FLT_WDOG_STATUS_EXPIRED = false ∧ e.writeParams.freezeIdle.fld (stickyBit 0) = 15

/-- The result is applied: the repeat limit holds the program, and the adjustment has overwritten the sticky bit. -/
theorem overflowed_applyResult : overflowed (longResultBoundary.applyResult longResult) := by
  unfold overflowed Dev.applyResult
  rw [longResult_lpApply]
  decide +kernel

/-- The frame_start of that device is a step boundary that applies the result. -/
theorem longResultDev_frameStart :
    longResultDev.quiet.missHold.frameStart calmMeas = (longResultBoundary.applyResult longResult).writeParams.freezeIdle := by
  obtain ⟨hst, hw, -⟩ := overflowed_applyResult
  have hb := Dev.boundary_result (longResultDev.quiet.missHold.opened lastFrameOpened) calmMeas longResult longResultBoundary_result rfl
  have hrun := Dev.frameRunning_last (longResultDev.quiet.missHold.opened lastFrameOpened) calmMeas (by decide +kernel) (by decide +kernel)
    (by decide +kernel) (by rw [hb]; exact hst)
  rw [hb] at hrun
  rw [Dev.frameStart_running _ _ lastFrameOpened (by decide +kernel) (by decide +kernel) (by decide +kernel) (by rw [hrun]; exact hw), hrun]
  rfl

/-- Refutes O9: the clause on the sticky bits fails. The model's R232 bounds no layer: a result token that lists layer 909,312 (16 × 56,832) puts that
layer's adjustment under the key of FLT_STK0's bit 0, so after the boundary the bit reads 15. The device is in canonical form, which is all that the
statement asks of it; no step reaches it from reset, since its token goes beyond the 4,096 layer indices of R232. -/
theorem not_stepKeepsCanonicalForm : ¬ Obligations.StepKeepsCanonicalForm := by
  intro h
  obtain ⟨-, -, hbit⟩ := overflowed_applyResult
  have hstep : step ⟨longResultDev, [.frameStart calmMeas]⟩ = .next ⟨(longResultBoundary.applyResult longResult).writeParams.freezeIdle, []⟩ := by
    calc step ⟨longResultDev, [.frameStart calmMeas]⟩
        = execFrameStart calmMeas ⟨longResultDev, []⟩ := exec_frameStart calmMeas ⟨longResultDev, []⟩
      _ = .next ⟨longResultDev.quiet.missHold.frameStart calmMeas, []⟩ := State.run_powered _ _ (by decide +kernel)
      _ = _ := by rw [longResultDev_frameStart]
  have hle (e : Dev) (he : step ⟨longResultDev, [.frameStart calmMeas]⟩ = .next ⟨e, []⟩) : e.fld (stickyBit 0) ≤ 1 :=
    (h _ ⟨e, []⟩ longResultDev_wf he).sticky_le 0 (by decide)
  exact absurd (hbit.symm.trans_le (hle _ hstep)) (by decide)

end Sys2Proof.Machine
end

