-- ==== Sys2Proof/Proofs/Evolves.lean ====
section
/-!
PROOF. One relation for what a run of the model's functions does to a device: which parts it can change, and that no counter falls. Each function of
the model has one rule (named after it) that says so, proved from the rules of the functions it calls in the shape of its definition: `step` for a call,
`ite` and `when` for a condition, `foldl` for a loop, `use` for a device that is named and used more than once. A function that is given another function
takes the rule of that one as a hypothesis.
-/

set_option Elab.async false

namespace Sys2Proof.Machine

/-- From `d` the device comes to `e`: no part but those of `l` has changed, and every counter that stood within its range (R15) reads at least
what it did. -/
structure Evolves (l : List Part) (d e : Dev) : Prop where
  keeps : d.keepsBut l e
  rises : ∀ c, min cntMax (d.count c) ≤ e.count c

namespace Evolves

variable {l m : List Part} {d e f : Dev}

theorem refl : Evolves l d d := ⟨Dev.keepsBut_refl l d, fun _ => min_le_right _ _⟩

/-- A further step, whose parts are among those already listed. -/
theorem step (h : Evolves l d e) (k : Evolves m e f) (hm : ∀ p ∈ m, p ∈ l := by decide) : Evolves l d f :=
  ⟨Dev.keepsBut_trans l d e f h.keeps (Dev.keepsBut_mono m l e f k.keeps hm), fun c =>
    (le_min (min_le_left _ _) (h.rises c)).trans (k.rises c)⟩

/-- The parts of a step among those of a function that takes another one, and so among those of its caller. -/
theorem sub {a b c : List Part} (hl : ∀ p ∈ b, p ∈ c) (h : ∀ p ∈ a, p ∈ b := by decide) : ∀ p ∈ a, p ∈ c := fun p hp => hl p (h p hp)

/-- A change of other parts than the counters. -/
theorem of_keeps (h : d.keepsBut l e) (hc : .cnt ∉ l) : Evolves l d e :=
  ⟨h, fun c => by rw [Dev.count_congr d e c (h .cnt hc)]; exact min_le_right _ _⟩

/-! ### The shapes of the model's functions -/

/-- A device that the function names and goes on from. -/
theorem use (h : Evolves l d e) (k : Evolves l d e → Evolves l d f) : Evolves l d f := k h

theorem pair {α : Type} {x : α} (h : Evolves l d e) : Evolves l d (x, e).2 := h

theorem ite {c : Prop} [Decidable c] (h : Evolves l d e) (k : Evolves l d f) : Evolves l d (if c then e else f) :=
  iteInduction (fun _ => h) fun _ => k

theorem iteSnd {β : Type} {c : Prop} [Decidable c] {x y : β × Dev} (h : Evolves l d x.2) (k : Evolves l d y.2) :
    Evolves l d (if c then x else y).2 :=
  iteInduction (motive := fun z : β × Dev => Evolves l d z.2) (fun _ => h) fun _ => k

/-- A step taken on a condition. -/
theorem when {c : Prop} [Decidable c] (h : Evolves l d e) (k : Evolves l d e → Evolves l d f) : Evolves l d (if c then f else e) := ite (k h) h

/-- A loop whose every step evolves, in whatever state the steps before it leave the device. -/
theorem foldl {α : Type} {g : Dev → α → Dev} {xs : List α} (h : Evolves l d e) (k : ∀ e x, Evolves l d e → Evolves l d (g e x)) :
    Evolves l d (xs.foldl g e) :=
  List.foldlRecOn xs g h fun e he x _ => k e x he

/-- A loop that carries a value beside the device. -/
theorem foldlSnd {α β : Type} {g : β × Dev → α → β × Dev} {xs : List α} {s : β × Dev} (h : Evolves l d s.2)
    (k : ∀ s x, Evolves l d s.2 → Evolves l d (g s x).2) : Evolves l d (xs.foldl g s).2 :=
  List.foldlRecOn (motive := fun s => Evolves l d s.2) xs g h fun s hs x _ => k s x hs

/-- A loop that carries two values beside the device. -/
theorem foldlSndSnd {α β γ : Type} {g : β × γ × Dev → α → β × γ × Dev} {xs : List α} {s : β × γ × Dev} (h : Evolves l d s.2.2)
    (k : ∀ s x, Evolves l d s.2.2 → Evolves l d (g s x).2.2) : Evolves l d (xs.foldl g s).2.2 :=
  List.foldlRecOn (motive := fun s => Evolves l d s.2.2) xs g h fun s hs x _ => k s x hs

/-! ### The operations of the state -/

theorem quiet : Evolves [] d d.quiet := of_keeps (Dev.quiet_keeps d) (by decide)
theorem emit {o} : Evolves [] d (d.emit o) := of_keeps (Dev.emit_keeps d o) (by decide)
theorem setFld {g v} : Evolves [.regs] d (d.setFld g v) := of_keeps (Dev.setFld_keeps d g v) (by decide)
theorem setByte {a b} : Evolves [.mem] d (d.setByte a b) := of_keeps (Dev.setByte_keeps d a b) (by decide)
theorem write {a bs} : Evolves [.mem, .poison] d (d.write a bs) := of_keeps (Dev.write_keeps d a bs) (by decide)

/-- Counting raises one counter and moves no other (R15). -/
theorem bumpBy {c n} : Evolves [.cnt] d (d.bumpBy c n) := by
  refine ⟨Dev.bumpBy_keeps d c n, fun k => ?_⟩
  by_cases h : k = c
  · subst h; rw [Dev.count_bumpBy_same]; omega
  · exact (min_le_right _ _).trans (SMap.get_set_other _ _ _ _ _ h).ge

/-! ### Updates of whole parts -/

theorem put_cells {x} : Evolves [.cells] d { d with cells := x } :=
  of_keeps (by intro p hp; cases p <;> first | rfl | simp at hp) (by decide)

theorem put_draws {x} : Evolves [.draws] d { d with draws := x } :=
  of_keeps (by intro p hp; cases p <;> first | rfl | simp at hp) (by decide)

theorem put_draws_mbx {x0 x1} : Evolves [.draws, .mbx] d { d with draws := x0, mbx := x1 } :=
  of_keeps (by intro p hp; cases p <;> first | rfl | simp at hp) (by decide)

theorem put_draws_rack {x0 x1} : Evolves [.draws, .rack] d { d with draws := x0, rack := x1 } :=
  of_keeps (by intro p hp; cases p <;> first | rfl | simp at hp) (by decide)

theorem put_fab {x} : Evolves [.fab] d { d with fab := x } :=
  of_keeps (by intro p hp; cases p <;> first | rfl | simp at hp) (by decide)

theorem put_flt {x} : Evolves [.flt] d { d with flt := x } :=
  of_keeps (by intro p hp; cases p <;> first | rfl | simp at hp) (by decide)

theorem put_frm {x} : Evolves [.frm] d { d with frm := x } :=
  of_keeps (by intro p hp; cases p <;> first | rfl | simp at hp) (by decide)

theorem put_frm_late_red {x0 x1 x2} : Evolves [.frm, .late, .red] d { d with frm := x0, late := x1, red := x2 } :=
  of_keeps (by intro p hp; cases p <;> first | rfl | simp at hp) (by decide)

theorem put_frm_pnd {x0 x1} : Evolves [.frm, .pnd] d { d with frm := x0, pnd := x1 } :=
  of_keeps (by intro p hp; cases p <;> first | rfl | simp at hp) (by decide)

theorem put_frm_red {x0 x1} : Evolves [.frm, .red] d { d with frm := x0, red := x1 } :=
  of_keeps (by intro p hp; cases p <;> first | rfl | simp at hp) (by decide)

theorem put_frm_run_rack_kln_red {x0 x1 x2 x3 x4} :
    Evolves [.frm, .run, .rack, .kln, .red] d { d with frm := x0, run := x1, rack := x2, kln := x3, red := x4 } :=
  of_keeps (by intro p hp; cases p <;> first | rfl | simp at hp) (by decide)

theorem put_gau {x} : Evolves [.gau] d { d with gau := x } :=
  of_keeps (by intro p hp; cases p <;> first | rfl | simp at hp) (by decide)

theorem put_hif {x} : Evolves [.hif] d { d with hif := x } :=
  of_keeps (by intro p hp; cases p <;> first | rfl | simp at hp) (by decide)

theorem put_kln {x} : Evolves [.kln] d { d with kln := x } :=
  of_keeps (by intro p hp; cases p <;> first | rfl | simp at hp) (by decide)

theorem put_latch {x} : Evolves [.latch] d { d with latch := x } :=
  of_keeps (by intro p hp; cases p <;> first | rfl | simp at hp) (by decide)

theorem put_late {x} : Evolves [.late] d { d with late := x } :=
  of_keeps (by intro p hp; cases p <;> first | rfl | simp at hp) (by decide)

theorem put_mbx {x} : Evolves [.mbx] d { d with mbx := x } :=
  of_keeps (by intro p hp; cases p <;> first | rfl | simp at hp) (by decide)

theorem put_mem_lsEpoch_poison {x0 x1 x2} : Evolves [.mem, .lsEpoch, .poison] d { d with mem := x0, lsEpoch := x1, poison := x2 } :=
  of_keeps (by intro p hp; cases p <;> first | rfl | simp at hp) (by decide)

theorem put_mem_poison {x0 x1} : Evolves [.mem, .poison] d { d with mem := x0, poison := x1 } :=
  of_keeps (by intro p hp; cases p <;> first | rfl | simp at hp) (by decide)

theorem put_mem_split_poison {x0 x1 x2} : Evolves [.mem, .split, .poison] d { d with mem := x0, split := x1, poison := x2 } :=
  of_keeps (by intro p hp; cases p <;> first | rfl | simp at hp) (by decide)

theorem put_mxc {x} : Evolves [.mxc] d { d with mxc := x } :=
  of_keeps (by intro p hp; cases p <;> first | rfl | simp at hp) (by decide)

theorem put_num {x} : Evolves [.num] d { d with num := x } :=
  of_keeps (by intro p hp; cases p <;> first | rfl | simp at hp) (by decide)

theorem put_pnd {x} : Evolves [.pnd] d { d with pnd := x } :=
  of_keeps (by intro p hp; cases p <;> first | rfl | simp at hp) (by decide)

theorem put_poison {x} : Evolves [.poison] d { d with poison := x } :=
  of_keeps (by intro p hp; cases p <;> first | rfl | simp at hp) (by decide)

theorem put_pwr {x} : Evolves [.pwr] d { d with pwr := x } :=
  of_keeps (by intro p hp; cases p <;> first | rfl | simp at hp) (by decide)

theorem put_rack {x} : Evolves [.rack] d { d with rack := x } :=
  of_keeps (by intro p hp; cases p <;> first | rfl | simp at hp) (by decide)

theorem put_red {x} : Evolves [.red] d { d with red := x } :=
  of_keeps (by intro p hp; cases p <;> first | rfl | simp at hp) (by decide)

theorem put_regs {x} : Evolves [.regs] d { d with regs := x } :=
  of_keeps (by intro p hp; cases p <;> first | rfl | simp at hp) (by decide)

/-- What a warm start sets anew (R446). -/
theorem put_warm {x0 x1 x2 x3 x4 x5 x6 x7 x8 x9 x10 x11 x12 x13 x14 x15 x16 x17 x18 x19} :
    Evolves [.regs, .latch, .frm, .run, .late, .rmOpen, .rmStats, .spg, .rack, .kln, .mxc, .num, .red, .pnd, .fab, .hif, .mbx, .flt, .pwr, .sec] d
      { d with
        regs := x0, latch := x1, frm := x2, run := x3, late := x4, rmOpen := x5, rmStats := x6, spg := x7, rack := x8, kln := x9, mxc := x10
        num := x11, red := x12, pnd := x13, fab := x14, hif := x15, mbx := x16, flt := x17, pwr := x18, sec := x19 } :=
  of_keeps (by intro p hp; cases p <;> first | rfl | simp at hp) (by decide)

theorem put_rmOpen {x} : Evolves [.rmOpen] d { d with rmOpen := x } :=
  of_keeps (by intro p hp; cases p <;> first | rfl | simp at hp) (by decide)

theorem put_rmStats {x} : Evolves [.rmStats] d { d with rmStats := x } :=
  of_keeps (by intro p hp; cases p <;> first | rfl | simp at hp) (by decide)

theorem put_run {x} : Evolves [.run] d { d with run := x } :=
  of_keeps (by intro p hp; cases p <;> first | rfl | simp at hp) (by decide)

theorem put_sec {x} : Evolves [.sec] d { d with sec := x } :=
  of_keeps (by intro p hp; cases p <;> first | rfl | simp at hp) (by decide)

theorem put_spg {x} : Evolves [.spg] d { d with spg := x } :=
  of_keeps (by intro p hp; cases p <;> first | rfl | simp at hp) (by decide)

theorem put_spg_num {x0 x1} : Evolves [.spg, .num] d { d with spg := x0, num := x1 } :=
  of_keeps (by intro p hp; cases p <;> first | rfl | simp at hp) (by decide)

theorem put_spg_num_flt {x0 x1 x2} : Evolves [.spg, .num, .flt] d { d with spg := x0, num := x1, flt := x2 } :=
  of_keeps (by intro p hp; cases p <;> first | rfl | simp at hp) (by decide)

theorem put_tp {x} : Evolves [.tp] d { d with tp := x } :=
  of_keeps (by intro p hp; cases p <;> first | rfl | simp at hp) (by decide)

theorem put_tpMode {x} : Evolves [.tpMode] d { d with tpMode := x } :=
  of_keeps (by intro p hp; cases p <;> first | rfl | simp at hp) (by decide)

theorem put_variants {x} : Evolves [.variants] d { d with variants := x } :=
  of_keeps (by intro p hp; cases p <;> first | rfl | simp at hp) (by decide)

end Evolves

end Sys2Proof.Machine
end

