-- ==== Sys2Proof/Proofs/EvolvesCompute.lean ====
section
/-!
PROOF. How the state's operations, the vector unit, the matrix tasks and attention change the device:
one rule a function of the model, with the parts that it can change.
-/

set_option Elab.async false

namespace Sys2Proof.Machine.Evolves

variable {l m : List Part} {d e f d₀ : Dev}

/-! ### Ops -/

theorem setRaw {off v} : Evolves [.regs] d (d.setRaw off v) := by
  unfold Dev.setRaw
  split
  · exact refl
  · exact foldl refl fun _ _ h => h.step .setFld

theorem bump {c} : Evolves [.cnt] d (d.bump c) := by
  unfold Dev.bump
  exact refl.step .bumpBy

theorem draw : Evolves [.draws] d (d.draw).2 := by
  unfold Dev.draw
  exact refl.step .put_draws

theorem zeroFill {a n} : Evolves [.mem, .poison] d (d.zeroFill a n) := by
  unfold Dev.zeroFill
  exact ite (refl.step .put_mem_poison) (refl.step .write)

theorem wr {a n v} : Evolves [.mem, .poison] d (d.wr a n v) := by
  unfold Dev.wr
  exact refl.step .write

theorem trace {point src arg0 arg1} : Evolves [.regs, .cnt, .mem, .poison, .draws, .mbx] d (d.trace point src arg0 arg1) := by
  unfold Dev.trace
  exact ite (when (refl.step .write |>.step .setFld |>.step .put_draws_mbx) fun h => h.step .bump) refl

theorem sticky {f} : Evolves [.regs, .cnt, .mem, .poison, .draws, .mbx] d (d.sticky f) := by
  unfold Dev.sticky
  exact ite refl (refl.step .setFld |>.step .trace)

theorem setSt {v} : Evolves [.regs, .cnt, .mem, .poison, .draws, .mbx] d (d.setSt v) := by
  unfold Dev.setSt
  exact ite refl (refl.step .setFld |>.step .trace)

theorem setRunning {k r} : Evolves [.run] d (d.setRunning k r) := by
  unfold Dev.setRunning
  exact refl.step .put_run

theorem onRunning {k f} : Evolves [.run] d (d.onRunning k f) := by
  unfold Dev.onRunning
  split
  · exact refl.step .setRunning
  · exact refl

theorem trouble {reason} : Evolves [.frm] d (d.trouble reason) := by
  unfold Dev.trouble
  exact ite (refl.step .put_frm) (refl.step .put_frm)

theorem markLate {a n} : Evolves [.late] d (d.markLate a n) := by
  unfold Dev.markLate
  exact ite refl (refl.step .put_late)

theorem freeze {cause} : Evolves [.frm] d (d.freeze cause) := by
  unfold Dev.freeze
  split
  · exact ite (refl.step .put_frm) refl
  · exact refl.step .put_frm

theorem noteUncorr {a cls} : Evolves [.regs] d (d.noteUncorr a cls) := by
  unfold Dev.noteUncorr
  exact refl.step .setFld |>.step .setFld |>.step .setFld |>.step .setFld

theorem uncorrIdle {a} : Evolves [.regs, .cnt] d (d.uncorrIdle a) := by
  unfold Dev.uncorrIdle
  exact refl.step .noteUncorr |>.step .bump

theorem uncorr {task a} : Evolves [.regs, .cnt, .mem, .poison, .draws, .frm, .variants, .mbx] d (d.uncorr task a) := by
  unfold Dev.uncorr
  refine ite (refl.step .noteUncorr |>.step .sticky |>.step .bump |>.step .freeze) ?_
  split
  · exact refl.step .noteUncorr |>.step .sticky |>.step .bump |>.step .setFld |>.step .put_variants
  · exact ite (refl.step .noteUncorr |>.step .bump |>.step .trouble) (refl.step .uncorrIdle)

theorem ecc {e} : Evolves [.cnt, .poison] d (d.ecc e) := by
  unfold Dev.ecc
  exact use (foldl refl fun _ _ h => ite (h.step .bump) (h.step .bump)) fun h => h.step .put_poison

theorem consume {k ranges} : Evolves [.regs, .cnt, .mem, .poison, .draws, .frm, .variants, .run, .mbx] d (d.consume k ranges) := by
  unfold Dev.consume
  exact when (foldl (ite (refl.step .bump |>.step .trouble) refl) fun _ _ h => h.step .uncorr) fun h => h.step .onRunning

theorem readStep {ranges} : Evolves [.regs, .cnt, .mem, .poison, .draws, .frm, .variants, .mbx] d (d.readStep ranges) := by
  unfold Dev.readStep
  exact foldl refl fun _ _ h => h.step .uncorr

theorem produce {k ranges} : Evolves [.late] d (d.produce k ranges) := by
  unfold Dev.produce
  exact ite (foldl refl fun _ _ h => h.step .markLate) refl

/-! ### Cvt -/

theorem histWrite {c a base add stopped h} :
    Evolves [.regs, .cnt, .mem, .poison, .draws, .frm, .variants, .run, .mbx] d (d.histWrite c a base add stopped h) := by
  unfold Dev.histWrite
  exact use (ite (refl.step .consume) refl) fun h =>
    ite (h.step .write)
      (ite (h.step .wr |>.step .bump)
        (when (use (foldl (foldl h fun _ _ h => h.step .wr) fun _ _ h => h.step .wr) fun h => h.step .wr) fun h => h.step .wr))

/-! ### Operands -/

theorem setTileCode {base cols r c v} : Evolves [.mem] d (d.setTileCode base cols r c v) := by
  unfold Dev.setTileCode
  exact refl.step .setByte

theorem setCodeAt {f a c i j v} : Evolves [.mem, .poison] d (d.setCodeAt f a c i j v) := by
  unfold Dev.setCodeAt
  exact ite (refl.step .setTileCode) (ite (refl.step .setByte) (refl.step .wr))

theorem earlyRead {k which c} : Evolves [.cnt, .run] d (d.earlyRead k which c) := by
  unfold Dev.earlyRead
  exact use (ite refl (refl.step .bump)) fun h => h.step .onRunning

theorem foldLate {k rs} : Evolves [.cnt, .run] d (d.foldLate k rs) := by
  unfold Dev.foldLate
  exact ite (refl.step .earlyRead) refl

theorem paramLate {k rs} : Evolves [.cnt, .run] d (d.paramLate k rs) := by
  unfold Dev.paramLate
  exact ite (refl.step .earlyRead) refl

theorem agreedLate {k rs} : Evolves [.run] d (d.agreedLate k rs) := by
  unfold Dev.agreedLate
  exact ite (refl.step .onRunning) refl

theorem readChecks {k rs} : Evolves [.regs, .cnt, .mem, .poison, .draws, .frm, .variants, .run, .mbx] d (d.readChecks k rs) := by
  unfold Dev.readChecks
  exact refl.step .consume |>.step .foldLate |>.step .paramLate |>.step .agreedLate

theorem setRowLevel {t r c w} : Evolves [.mem] d (d.setRowLevel t r c w) := by
  unfold Dev.setRowLevel
  exact refl.step .setByte

/-! ### Vector -/

theorem setLane {c r lane v} : Evolves [.mxc] d (d.setLane c r lane v) := by
  unfold Dev.setLane
  exact refl.step .put_mxc

theorem setScalar {c i v} : Evolves [.mxc] d (d.setScalar c i v) := by
  unfold Dev.setScalar
  exact refl.step .put_mxc

theorem dst {c r vals} : Evolves [.mxc] d (d.dst c r vals) := by
  unfold Dev.dst
  exact ite (foldl refl fun _ _ h => h.step .setLane) (refl.step .setScalar)

theorem lanes {c w f} : Evolves [.mxc] d (d.lanes c w f) := by
  unfold Dev.lanes
  exact refl.step .dst

theorem lanePairs {c w f} : Evolves [.mxc] d (d.lanePairs c w f) := by
  unfold Dev.lanePairs
  exact refl.step .dst |>.step .dst

theorem vFma {c w} : Evolves [.mxc] d (Machine.vFma c w d) := by
  unfold Machine.vFma
  exact refl.step .lanes

theorem vAdd {c w} : Evolves [.mxc] d (Machine.vAdd c w d) := by
  unfold Machine.vAdd
  exact refl.step .lanes

theorem vMul {c w} : Evolves [.mxc] d (Machine.vMul c w d) := by
  unfold Machine.vMul
  exact refl.step .lanes

theorem vMax {c w} : Evolves [.mxc] d (Machine.vMax c w d) := by
  unfold Machine.vMax
  exact refl.step .lanes

theorem vMin {c w} : Evolves [.mxc] d (Machine.vMin c w d) := by
  unfold Machine.vMin
  exact refl.step .lanes

theorem vSel {c w} : Evolves [.mxc] d (Machine.vSel c w d) := by
  unfold Machine.vSel
  exact refl.step .lanes

theorem vCmplt {c w} : Evolves [.mxc] d (Machine.vCmplt c w d) := by
  unfold Machine.vCmplt
  exact refl.step .lanes

theorem vExp2 {c w} : Evolves [.mxc] d (Machine.vExp2 c w d) := by
  unfold Machine.vExp2
  exact refl.step .lanes

theorem vRcp {c w} : Evolves [.mxc] d (Machine.vRcp c w d) := by
  unfold Machine.vRcp
  exact refl.step .lanes

theorem vRsq {c w} : Evolves [.mxc] d (Machine.vRsq c w d) := by
  unfold Machine.vRsq
  exact refl.step .lanes

theorem vLog2 {c w} : Evolves [.mxc] d (Machine.vLog2 c w d) := by
  unfold Machine.vLog2
  exact refl.step .lanes

theorem vTwoSum {c w} : Evolves [.mxc] d (Machine.vTwoSum c w d) := by
  unfold Machine.vTwoSum
  exact refl.step .lanePairs

theorem vFast2Sum {c w} : Evolves [.mxc] d (Machine.vFast2Sum c w d) := by
  unfold Machine.vFast2Sum
  exact refl.step .lanePairs

theorem vTwoProd {c w} : Evolves [.mxc] d (Machine.vTwoProd c w d) := by
  unfold Machine.vTwoProd
  exact refl.step .lanePairs

theorem reduce {c w wide f} : Evolves [.mxc] d (d.reduce c w wide f) := by
  unfold Dev.reduce
  exact when (refl.step .dst) fun h => h.step .dst

theorem vRedSum {c w} : Evolves [.mxc] d (Machine.vRedSum c w d) := by
  unfold Machine.vRedSum
  exact refl.step .reduce

theorem vRedMax {c w} : Evolves [.mxc] d (Machine.vRedMax c w d) := by
  unfold Machine.vRedMax
  exact refl.step .reduce

theorem vRedMin {c w} : Evolves [.mxc] d (Machine.vRedMin c w d) := by
  unfold Machine.vRedMin
  exact refl.step .reduce

theorem vKth {c w} : Evolves [.draws, .mxc] d (Machine.vKth c w d) := by
  unfold Machine.vKth
  exact ite (refl.step .dst) (refl.step .draw |>.step .dst)

theorem vRng {c w} : Evolves [.mxc] d (Machine.vRng c w d) := by
  unfold Machine.vRng
  exact refl.step .dst |>.step .dst |>.step .dst |>.step .dst

theorem setHist {c k h} : Evolves [.mxc] d (d.setHist c k h) := by
  unfold Dev.setHist
  exact refl.step .put_mxc

theorem countInto {c k fmt es} : Evolves [.mxc] d (d.countInto c k fmt es) := by
  unfold Dev.countInto
  exact refl.step .setHist

theorem loadLanes {c w addr} : Evolves [.regs, .cnt, .mem, .poison, .draws, .frm, .variants, .run, .mxc, .mbx] d (d.loadLanes c w addr) := by
  unfold Dev.loadLanes
  exact refl.step .readChecks |>.step .dst |>.step .put_draws

theorem vLd {c w} : Evolves [.regs, .cnt, .mem, .poison, .draws, .frm, .variants, .run, .mxc, .mbx] d (Machine.vLd c w d) := by
  unfold Machine.vLd
  exact refl.step .loadLanes

theorem vGld {c w} : Evolves [.regs, .cnt, .mem, .poison, .draws, .frm, .variants, .run, .mxc, .mbx] d (Machine.vGld c w d) := by
  unfold Machine.vGld
  exact refl.step .loadLanes

theorem vSt {c w} : Evolves [.mem, .poison, .late, .mxc] d (Machine.vSt c w d) := by
  unfold Machine.vSt
  refine use (foldl refl fun _ _ h => ?_) fun h => ite (h.step .countInto) h
  split
  · exact h.step .wr |>.step .produce
  · exact h

theorem gather {f} : Evolves [.num] d (d.gather f) := by
  unfold Dev.gather
  exact ite (refl.step .put_num) (refl.step .put_num)

theorem w32Count {l fault nsat} : Evolves [.regs, .cnt, .mem, .poison, .draws, .num, .mbx] d (d.w32Count l fault nsat) := by
  unfold Dev.w32Count
  exact use (ite (refl.step .bump |>.step .gather) refl) fun h => ite h (h.step .bumpBy |>.step .sticky |>.step .gather)

theorem w32Block {c fault nsat} : Evolves [.regs, .cnt, .mem, .poison, .draws, .num, .mbx] d (d.w32Block c fault nsat) := by
  unfold Dev.w32Block
  exact refl.step .w32Count

theorem cvtRegs {c dst f out} : Evolves [.mxc] d (d.cvtRegs c dst f out) := by
  unfold Dev.cvtRegs
  exact use (foldl refl fun _ _ h => h.step .dst) fun h => ite (h.step .dst) (ite (when (h.step .dst) fun h => h.step .dst) h)

theorem cvtStore {f a t q o} : Evolves [.mem, .poison] d (d.cvtStore f a t q o) := by
  unfold Dev.cvtStore
  exact ite refl (ite (refl.step .wr |>.step .wr) (use (refl.step .setCodeAt) fun h => when (ite (h.step .wr) h) fun h => h.step .wr))

theorem cvtPut {c w m s p out} : Evolves [.mem, .poison, .late, .mxc] d (d.cvtPut c w m s p out) := by
  unfold Dev.cvtPut
  exact ite (refl.step .cvtRegs) (ite refl (use (foldl refl fun _ _ h => foldl h fun _ _ h => h.step .cvtStore) fun h => h.step .produce))

theorem cvtVote {c x} : Evolves [.regs, .cnt, .mem, .poison, .draws, .num, .mbx] d (d.cvtVote c x) := by
  unfold Dev.cvtVote
  exact foldl refl fun _ _ h => h.step .w32Block

theorem countIssue {c dst} : Evolves [.mxc] d (d.countIssue c dst) := by
  unfold Dev.countIssue
  exact refl.step .put_mxc

theorem vCvt {c w m} : Evolves [.regs, .cnt, .mem, .poison, .draws, .frm, .variants, .run, .late, .mxc, .num, .mbx] d (Machine.vCvt c w m d) := by
  unfold Machine.vCvt
  exact use (refl.step .readChecks |>.step .cvtPut) fun h =>
    use (ite (h.step .cvtVote) h) fun h => use (ite (h.step .countInto) h) fun h => h.step .countIssue |>.step .put_draws

theorem vCvtTunin {c w m} (h : Machine.vCvtTunin c w m d = some e) :
    Evolves [.regs, .cnt, .mem, .poison, .draws, .frm, .variants, .run, .late, .mxc, .mbx] d e := by
  unfold Machine.vCvtTunin at h
  dsimp only at h
  split at h
  · contradiction
  · cases h
    exact use (ite (refl.step .readChecks) refl) fun h => use (ite (h.step .write |>.step .write |>.step .produce) h) fun h =>
      use (ite (h.step .countInto) h) fun h => h.step .put_draws

theorem setPos {c p} : Evolves [.mxc] d (d.setPos c p) := by
  unfold Dev.setPos
  exact refl.step .put_mxc

theorem keepCounts {c} : Evolves [.mxc] d (d.keepCounts c) := by
  unfold Dev.keepCounts
  exact foldl refl fun _ _ h => h.step .put_mxc

theorem nextInsn {c} : Evolves [.mxc] d (d.nextInsn c) := by
  unfold Dev.nextInsn
  exact refl.step .setPos

theorem vLoop {c w} : Evolves [.mxc] d (Machine.vLoop c w d) := by
  unfold Machine.vLoop
  exact ite (refl.step .setPos) (ite (refl.step .setPos) (refl.step .setPos))

theorem vEnd {c} : Evolves [.mxc] d (Machine.vEnd c d) := by
  unfold Machine.vEnd
  refine ite (refl.step .setPos) ?_
  split
  · exact refl.step .setPos |>.step .keepCounts
  · exact use (ite (refl.step .keepCounts) refl) fun h => ite (h.step .setPos) (h.step .setPos)

theorem badInsn {c} : Evolves [.regs, .cnt, .run, .mxc] d (d.badInsn c) := by
  unfold Dev.badInsn
  exact refl.step .setPos |>.step .bump |>.step .setFld |>.step .setFld |>.step .setFld |>.step .setFld |>.step .onRunning

theorem plainOp {c w op g} (h : Machine.plainOp c w op = some g) : Evolves [.draws, .mxc] d (g d) := by
  unfold Machine.plainOp at h
  split at h <;> cases h
  · exact refl.step .vFma
  · exact refl.step .vAdd
  · exact refl.step .vMul
  · exact refl.step .vMax
  · exact refl.step .vMin
  · exact refl.step .vSel
  · exact refl.step .vCmplt
  · exact refl.step .vExp2
  · exact refl.step .vRcp
  · exact refl.step .vRsq
  · exact refl.step .vLog2
  · exact refl.step .vTwoSum
  · exact refl.step .vFast2Sum
  · exact refl.step .vTwoProd
  · exact refl.step .vKth
  · exact refl.step .vRng

theorem insn {c op w} : Evolves [.regs, .cnt, .mem, .poison, .draws, .frm, .variants, .run, .late, .mxc, .num, .mbx] d (d.insn c op w) := by
  unfold Dev.insn
  split
  · next g hg => exact ite (use (refl.step (plainOp hg)) fun h => h.step .nextInsn) (refl.step .badInsn)
  · split
    · split
      · exact refl.step .badInsn
      · refine ite ?_ (refl.step .vCvt |>.step .nextInsn)
        split
        · next _ he => exact refl.step (vCvtTunin he) |>.step .nextInsn
        · exact refl.step .badInsn
    · refine ite (refl.step .badInsn) ?_
      split
      · exact refl.step .vRedSum |>.step .nextInsn
      · exact refl.step .vRedMax |>.step .nextInsn
      · exact refl.step .vRedMin |>.step .nextInsn
      · exact refl.step .badInsn
    · exact refl.step .vLd |>.step .nextInsn
    · exact refl.step .vSt |>.step .nextInsn
    · exact refl.step .vGld |>.step .nextInsn
    · exact ite (refl.step .vLoop) (refl.step .badInsn)
    · exact ite (refl.step .vEnd) (refl.step .badInsn)
    · exact refl.step .badInsn

theorem fetchRun {c prog} : Evolves [.regs, .cnt, .mem, .poison, .draws, .frm, .variants, .run, .late, .mxc, .num, .mbx] d (d.fetchRun c prog) := by
  unfold Dev.fetchRun
  exact ite (refl.step .badInsn) (use (refl.step .readChecks) fun h => ite (h.step .nextInsn) (h.step .insn))

theorem vecRun {c prog n} :
    Evolves [.regs, .cnt, .mem, .poison, .draws, .frm, .variants, .run, .late, .mxc, .num, .mbx] d (Dev.vecRun c prog n d) := by
  induction n generalizing d with
  | zero => exact refl
  | succ n ih => exact ite refl (refl.step .fetchRun |>.step ih)

/-! ### Matrix -/

theorem mxcDone {c n} : Evolves [.run] d (d.mxcDone c n) := by
  unfold Dev.mxcDone
  exact refl.step .onRunning

theorem setTaskHist {c h} : Evolves [.mxc] d (d.setTaskHist c h) := by
  unfold Dev.setTaskHist
  exact refl.step .put_mxc

theorem resetProg {c x passes} : Evolves [.mxc] d (d.resetProg c x passes) := by
  unfold Dev.resetProg
  exact refl.step .setScalar |>.step .setScalar |>.step .setScalar |>.step .setScalar |>.step .setPos

theorem startProg {c x passes} : Evolves [.mxc] d (d.startProg c x passes) := by
  unfold Dev.startProg
  exact use (foldl (refl.step .resetProg |>.step .put_mxc) fun _ _ h => h.step .setHist) fun h => h.step .keepCounts

theorem judge {l h} : Evolves [.cnt, .num] d (d.judge l h) := by
  unfold Dev.judge
  exact ite (ite (refl.step .bump |>.step .gather) refl) refl

theorem endProg {c stopped} : Evolves [.regs, .cnt, .mem, .poison, .draws, .frm, .variants, .run, .mxc, .num, .mbx] d (d.endProg c stopped) := by
  unfold Dev.endProg
  refine foldl refl fun _ _ h => ?_
  dsimp only
  split
  · exact h.step .setHist
  · exact use (h.step .setHist |>.step .consume) fun h => use (ite h (h.step .histWrite)) fun h => h.step .judge

theorem runProg {c x passes} :
    Evolves [.regs, .cnt, .mem, .poison, .draws, .frm, .variants, .run, .late, .mxc, .num, .mbx] d (d.runProg c x passes) := by
  unfold Dev.runProg
  exact refl.step .resetProg |>.step .vecRun

theorem writePatch {x vals} : Evolves [.mem, .poison] d (d.writePatch x vals) := by
  unfold Dev.writePatch
  exact foldl refl fun _ _ h => h.step .wr

theorem countPatch {c vals} : Evolves [.cnt, .run, .mxc] d (d.countPatch c vals) := by
  unfold Dev.countPatch
  exact refl.step .setTaskHist |>.step .bump |>.step .mxcDone |>.step .keepCounts

theorem matPatch {c x p} : Evolves [.regs, .cnt, .mem, .poison, .draws, .frm, .variants, .run, .late, .mxc, .num, .mbx] d (d.matPatch c x p) := by
  unfold Dev.matPatch
  refine ite refl ?_
  dsimp only
  split
  · exact refl.step .writePatch |>.step .countPatch
  · exact ite (refl.step .writePatch |>.step .countPatch)
      (use (refl.step .writePatch |>.step .runProg) fun h => ite (h.step .writePatch) (h.step .countPatch))

theorem matHist {c x stopped} : Evolves [.regs, .cnt, .mem, .poison, .draws, .frm, .variants, .run, .mxc, .mbx] d (d.matHist c x stopped) := by
  unfold Dev.matHist
  exact refl.step .histWrite |>.step .setTaskHist

theorem wotBack {x j} : Evolves [.mem, .poison] d (d.wotBack x j) := by
  unfold Dev.wotBack
  exact foldl refl fun _ _ h => h.step .wr

theorem wotEntriesBack {x from_ n} : Evolves [.mem, .poison] d (d.wotEntriesBack x from_ n) := by
  unfold Dev.wotEntriesBack
  exact foldl refl fun _ _ h => h.step .wotBack

theorem normToken {x t} : Evolves [.mem, .poison] d (d.normToken x t) := by
  unfold Dev.normToken
  exact refl.step .write |>.step .write

theorem freeProg {c x} : Evolves [.regs, .cnt, .mem, .poison, .draws, .frm, .variants, .run, .late, .mxc, .num, .mbx] d (d.freeProg c x) := by
  unfold Dev.freeProg
  split
  · exact ite (refl.step .runProg) refl
  · exact refl

theorem matEnd {c x} : Evolves [.regs, .cnt, .mem, .poison, .draws, .frm, .variants, .run, .late, .mxc, .num, .mbx] d (d.matEnd c x) := by
  unfold Dev.matEnd
  refine use ?_ fun h => h.step .matHist
  split
  · exact refl
  · exact ite (refl.step .wotEntriesBack |>.step .produce)
      (ite (use (foldl refl fun _ _ h => h.step .normToken) fun h => h.step .produce) (refl.step .endProg))

theorem matmul {c n} : Evolves [.regs, .cnt, .mem, .poison, .draws, .frm, .variants, .run, .late, .mxc, .num, .mbx] d (d.matmul c n) := by
  unfold Dev.matmul
  split
  · exact refl
  · exact use (refl.step .readChecks) fun h =>
      when (use (foldl (ite (h.step .freeProg) h) fun _ _ h => h.step .matPatch) fun h => h.step .produce) fun h => h.step .matEnd

theorem move {c n} : Evolves [.regs, .cnt, .mem, .poison, .draws, .frm, .variants, .run, .late, .mbx] d (d.move c n) := by
  unfold Dev.move
  split
  · exact refl
  · exact refl.step .readChecks |>.step .write |>.step .mxcDone |>.step .produce

theorem gatherRows {c n} : Evolves [.regs, .cnt, .mem, .poison, .draws, .frm, .variants, .run, .late, .mbx] d (d.gatherRows c n) := by
  unfold Dev.gatherRows
  split
  · exact refl
  · exact use (foldl (refl.step .readChecks) fun _ _ h => h.step .write) fun h => h.step .mxcDone |>.step .produce

theorem vprog {c} : Evolves [.regs, .cnt, .mem, .poison, .draws, .frm, .variants, .run, .late, .mxc, .num, .mbx] d (d.vprog c) := by
  unfold Dev.vprog
  split
  · exact refl
  · exact use (refl.step .readChecks |>.step .runProg) fun h => ite h (h.step .endProg |>.step .mxcDone)

theorem asmHist {c x stopped} : Evolves [.regs, .cnt, .mem, .poison, .draws, .frm, .variants, .run, .mxc, .mbx] d (d.asmHist c x stopped) := by
  unfold Dev.asmHist
  exact refl.step .histWrite |>.step .setTaskHist

theorem assemble {c n} : Evolves [.regs, .cnt, .mem, .poison, .draws, .frm, .variants, .run, .late, .mxc, .mbx] d (d.assemble c n) := by
  unfold Dev.assemble
  split
  · exact refl
  · exact when
        (use (foldl (refl.step .readChecks) fun _ _ h => h.step .readChecks |>.step .setTaskHist |>.step .write |>.step .produce) fun h =>
          h.step .mxcDone) fun h =>
      h.step .asmHist

theorem bwdWot {c n} : Evolves [.regs, .cnt, .mem, .poison, .draws, .frm, .variants, .run, .late, .mbx] d (d.bwdWot c n) := by
  unfold Dev.bwdWot
  split
  · exact refl
  · exact refl.step .readChecks |>.step .wotEntriesBack |>.step .mxcDone |>.step .produce

theorem normBwd {c n} : Evolves [.regs, .cnt, .mem, .poison, .draws, .frm, .variants, .run, .late, .mbx] d (d.normBwd c n) := by
  unfold Dev.normBwd
  split
  · exact refl
  · exact use (foldl (refl.step .readChecks) fun _ _ h => h.step .normToken) fun h => h.step .mxcDone |>.step .produce

theorem tiesum {c n} : Evolves [.regs, .cnt, .mem, .poison, .draws, .frm, .variants, .run, .late, .mbx] d (d.tiesum c n) := by
  unfold Dev.tiesum
  split
  · exact refl
  · exact use (foldl (refl.step .readChecks) fun _ _ h => h.step .wr) fun h => h.step .mxcDone |>.step .produce

/-! ### Attention -/

theorem setRow32 {a xs} : Evolves [.mem, .poison] d (d.setRow32 a xs) := by
  unfold Dev.setRow32
  exact refl.step .write

theorem attnFwdBlock {c x b} : Evolves [.cnt, .mem, .poison] d (d.attnFwdBlock c x b) := by
  unfold Dev.attnFwdBlock
  exact refl.step .setRow32 |>.step .setRow32 |>.step .setRow32 |>.step .bump

theorem accumulate {f a b k r at_} : Evolves [.mem, .poison] d (d.accumulate f a b k r at_) := by
  unfold Dev.accumulate
  exact refl.step .setRow32

theorem attnBwdBlock {c x b} : Evolves [.cnt, .mem, .poison] d (d.attnBwdBlock c x b) := by
  unfold Dev.attnBwdBlock
  exact refl.step .accumulate |>.step .accumulate |>.step .accumulate |>.step .bump

theorem attn {c op n block} (h : Evolves l d₀ d)
    (act' : ∀ x0 x1 e x3, Evolves l d₀ e → Evolves l d₀ (block x0 x1 e x3))
    (hl : ∀ p ∈ ([.regs, .cnt, .mem, .poison, .draws, .frm, .variants, .run, .late, .mbx] : List Part), p ∈ l := by decide) :
    Evolves l d₀ (d.attn c op n block) := by
  unfold Dev.attn
  split
  · exact h
  · exact use (foldl (h.step .readChecks (sub hl)) fun _ _ h => act' _ _ _ _ h) fun h => h.step .mxcDone (sub hl) |>.step .produce (sub hl)

end Sys2Proof.Machine.Evolves
end

