-- ==== Sys2Proof/Proofs/EvolvesArrays.lean ====
section
/-!
PROOF. How the Tun arrays, the racks, the ledger, the mailboxes, the Kiln and the gauge change the device:
one rule a function of the model, with the parts that it can change.
-/

set_option Elab.async false

namespace Sys2Proof.Machine.Evolves

variable {l m : List Part} {d e f d₀ : Dev}

/-! ### Tun -/

theorem setCell {t r c w} : Evolves [.cells] d (d.setCell t r c w) := by
  unfold Dev.setCell
  exact refl.step .put_cells

theorem setMonitor {t m} : Evolves [.rmOpen] d (d.setMonitor t m) := by
  unfold Dev.setMonitor
  exact refl.step .put_rmOpen

theorem setWindow {t w} : Evolves [.rmOpen] d (d.setWindow t w) := by
  unfold Dev.setWindow
  exact refl.step .setMonitor

theorem countVector {t} : Evolves [.rmOpen] d (d.countVector t) := by
  unfold Dev.countVector
  exact ite (refl.step .setMonitor) (refl.step .setWindow)

theorem kilnRequest {b measured} : Evolves [.regs, .cnt] d (d.kilnRequest b measured) := by
  unfold Dev.kilnRequest
  exact ite (refl.step .setFld) (ite (refl.step .setFld) (refl.step .bump))

theorem closeWindow {t w} : Evolves [.regs, .cnt, .draws, .rmStats] d (d.closeWindow t w) := by
  unfold Dev.closeWindow
  exact when (refl.step .draw |>.step .put_rmStats) fun h =>
    h.step .bump |>.step .setFld |>.step .setFld |>.step .setFld |>.step .setFld |>.step .setFld |>.step .kilnRequest

theorem addStats {layer f} : Evolves [.spg] d (d.addStats layer f) := by
  unfold Dev.addStats
  exact ite (refl.step .put_spg) (refl.step .put_spg)

theorem setPool {b n} : Evolves [.spg] d (d.setPool b n) := by
  unfold Dev.setPool
  exact refl.step .put_spg

theorem readVector {f b sub i v covered} : Evolves [.cnt, .spg] d (d.readVector f b sub i v covered).2 := by
  unfold Dev.readVector
  exact iteSnd (refl.step .bumpBy |>.step .setPool) refl

theorem claimSat {b g c covered phaseVal a} : Evolves [.regs, .cnt, .mem, .poison, .draws, .spg, .mbx] d (d.claimSat b g c covered phaseVal a).2 := by
  unfold Dev.claimSat
  exact iteSnd (refl.step .setPool |>.step .bump) (refl.step .bump |>.step .sticky)

theorem dataColumn {g b i covered v mon base st c} :
    Evolves [.regs, .cnt, .mem, .poison, .draws, .spg, .mbx] st.2.2 (Dev.dataColumn g b i covered v mon base st c).2.2 := by
  unfold Dev.dataColumn
  exact iteSnd (refl.step .claimSat) refl

theorem phase {f b g covered st p} : Evolves [.regs, .cnt, .mem, .poison, .draws, .rmOpen, .spg, .mbx] st.2 (Dev.phase f b g covered st p).2 := by
  unfold Dev.phase
  exact when (use (foldlSndSnd refl fun _ _ h => h.step .dataColumn) fun h => h.step .put_draws) fun h => h.step .setWindow

theorem writeOutput {f out a} : Evolves [.mem, .poison] d (d.writeOutput f out a) := by
  unfold Dev.writeOutput
  exact foldl (foldl refl fun _ _ h => h.step .wr) fun _ _ h => h.step .setByte

theorem finishVector {f sd sub v covered late desc key acc p} :
    Evolves [.regs, .cnt, .mem, .poison, .draws, .late, .rmOpen, .spg, .mbx] acc.2 (Dev.finishVector f sd sub v covered late desc key acc p).2 := by
  unfold Dev.finishVector
  exact use (refl.step .writeOutput |>.step .bump) fun h =>
    use (ite (h.step .bump) h) fun h =>
    use (h.step .produce) fun h =>
    use (ite (h.step .countVector) h) fun h =>
    use (h.step .addStats) fun h =>
    iteSnd (use (h.step .bumpBy |>.step .bumpBy) fun h => when (ite (h.step .sticky) h) fun h => h.step .bump) (pair (h.step .markLate))

theorem coverCheck {b sub key r sdesc} : Evolves [.cnt, .run] d (d.coverCheck b sub key r sdesc).2 := by
  unfold Dev.coverCheck
  exact iteSnd refl (iteSnd refl (iteSnd (refl.step .onRunning) (refl.step .onRunning |>.step .bump)))

theorem setWork {b l} : Evolves [.spg] d (d.setWork b l) := by
  unfold Dev.setWork
  exact refl.step .put_spg

theorem readRecords {b sub v r} :
    Evolves [.regs, .cnt, .mem, .poison, .draws, .frm, .variants, .run, .spg, .mbx] d (d.readRecords b sub v r).2.2 := by
  unfold Dev.readRecords
  exact foldlSnd (use (iteSnd (refl.step .coverCheck) refl) fun h => h.step .consume) fun _ _ h => h.step .readVector

theorem applyInputs {f y} : Evolves [.cnt, .spg] d (d.applyInputs f y) := by
  unfold Dev.applyInputs
  exact foldl refl fun _ _ h => h.step .bumpBy |>.step .addStats

theorem landVector {b sub r f y} : Evolves [.regs, .cnt, .mem, .poison, .draws, .run, .late, .rmOpen, .spg, .mbx] d (d.landVector b sub r f y) := by
  unfold Dev.landVector
  exact use (foldlSnd refl fun _ _ h => h.step .finishVector) fun h =>
    use (ite (h.step .onRunning |>.step .setWork) (h.step .bump)) fun h => h.step .onRunning

theorem convertPhase {b sub r y} : Evolves [.regs, .cnt, .mem, .poison, .draws, .run, .late, .rmOpen, .spg, .mbx] d (d.convertPhase b sub r y) := by
  unfold Dev.convertPhase
  exact use (foldlSnd (ite (refl.step .applyInputs) refl) fun _ _ h => h.step .phase) fun h => ite (h.step .onRunning) (h.step .landVector)

theorem stopTask {key} : Evolves [.run] d (d.stopTask key) := by
  unfold Dev.stopTask
  exact refl.step .onRunning

theorem fwdAct {b sub r} : Evolves [.regs, .cnt, .mem, .poison, .draws, .frm, .variants, .run, .late, .rmOpen, .spg, .mbx] d (d.fwdAct b sub r) := by
  unfold Dev.fwdAct
  dsimp only
  split
  · exact ite (refl.step .readRecords |>.step .onRunning) (refl.step .stopTask |>.step .bump)
  · exact ite (refl.step .readRecords |>.step .onRunning) (refl.step .convertPhase)

theorem fwd {b sub n} :
    Evolves [.regs, .cnt, .mem, .poison, .draws, .frm, .variants, .run, .late, .rmOpen, .spg, .mbx] d (d.fwd b sub n) := by
  induction n generalizing d with
  | zero => exact refl
  | succ n ih =>
    unfold Dev.fwd
    split
    · exact refl
    · exact ite refl (refl.step .fwdAct |>.step ih)

theorem rewriteSum {f it s} : Evolves [.mem, .poison] d (d.rewriteSum f it s) := by
  unfold Dev.rewriteSum
  exact refl.step .wr

theorem applyPending {f it p} : Evolves [.mem, .poison] d (d.applyPending f it p) := by
  unfold Dev.applyPending
  exact ite (refl.step .wr) refl

theorem coverItem {b it} : Evolves [.regs, .cnt, .mem, .poison, .draws, .frm, .variants, .run, .late, .mbx] d (d.coverItem b it) := by
  unfold Dev.coverItem
  exact when
      (use (foldl (foldl (refl.step .consume |>.step .bumpBy) fun _ _ h => h.step .rewriteSum) fun _ _ h => h.step .applyPending) fun h =>
        h.step .write |>.step .write |>.step .produce) fun h =>
    h.step .markLate |>.step .markLate

theorem cover {b n} : Evolves [.regs, .cnt, .mem, .poison, .draws, .frm, .variants, .run, .late, .spg, .mbx] d (d.cover b n) := by
  induction n generalizing d with
  | zero => exact refl
  | succ n ih =>
    unfold Dev.cover
    refine ite refl ?_
    split
    · exact refl
    · exact use (foldl refl fun _ _ h => h.step .coverItem) fun h => h.step .setWork |>.step .onRunning |>.step ih

theorem windowClose {t} : Evolves [.regs, .cnt, .draws, .rmOpen, .rmStats] d (d.windowClose t) := by
  unfold Dev.windowClose
  split
  · exact refl
  · exact ite refl (refl.step .setMonitor |>.step .closeWindow)

/-! ### Rack -/

theorem setPendCount {t n} : Evolves [.rack] d (d.setPendCount t n) := by
  unfold Dev.setPendCount
  exact refl.step .put_rack

theorem setCursor {t n} : Evolves [.rack] d (d.setCursor t n) := by
  unfold Dev.setCursor
  exact refl.step .put_rack

theorem setRound {t r} : Evolves [.rack] d (d.setRound t r) := by
  unfold Dev.setRound
  exact refl.step .put_rack

theorem endRound {t} : Evolves [.rack] d (d.endRound t) := by
  unfold Dev.endRound
  exact refl.step .put_rack

theorem installQueue {t} : Evolves [.rack] d (d.installQueue t) := by
  unfold Dev.installQueue
  split
  · exact refl
  · exact refl.step .setCursor |>.step .put_rack

theorem startRound {b i now} : Evolves [.regs, .cnt, .mem, .poison, .draws, .frm, .variants, .rack, .mbx] d (d.startRound b i now) := by
  unfold Dev.startRound
  dsimp only
  split
  · exact refl
  · exact ite refl
      (ite (refl.step .put_rack |>.step .bump) (use (refl.step .readStep |>.step .setCursor |>.step .bumpBy) fun h => ite h (h.step .setRound)))

theorem pulsePeriod {t mask} : Evolves [.cells, .rack] d (d.pulsePeriod t mask) := by
  unfold Dev.pulsePeriod
  split
  · exact refl
  · exact ite refl (foldl (refl.step .setRound) fun _ _ h => ite (h.step .setCell) h)

theorem addPending {t p} : Evolves [.mem, .poison, .rack] d (d.addPending t p) := by
  unfold Dev.addPending
  exact refl.step .wr |>.step .wr |>.step .setPendCount

theorem roundEnd {t levels} : Evolves [.cnt, .mem, .poison, .cells, .rack] d (d.roundEnd t levels) := by
  unfold Dev.roundEnd
  split
  · exact refl
  · exact ite refl
      (foldl (refl.step .endRound |>.step .bump |>.step .bumpBy) fun _ _ h => use (h.step .setCell) fun h => ite h (h.step .addPending |>.step .bump))

theorem foldStart {epoch} : Evolves [.rack] d (d.foldStart epoch) := by
  unfold Dev.foldStart
  exact refl.step .put_rack

theorem setSig {t} : Evolves [.flt] d (d.setSig t) := by
  unfold Dev.setSig
  exact refl.step .put_flt

theorem writeFold {t epoch ps} : Evolves [.mem, .poison, .flt] d (d.writeFold t epoch ps) := by
  unfold Dev.writeFold
  exact when (foldl refl fun _ _ h => h.step .setTileCode |>.step .setRowLevel |>.step .wr) fun h => h.step .setSig

theorem foldTun {t} : Evolves [.regs, .cnt, .mem, .poison, .draws, .frm, .variants, .rack, .mbx, .flt] d (d.foldTun t) := by
  unfold Dev.foldTun
  exact refl.step .readStep |>.step .writeFold |>.step .put_rack

theorem installWot {t} : Evolves [.regs, .cnt, .mem, .poison, .draws, .frm, .variants, .rack, .mbx] d (d.installWot t) := by
  unfold Dev.installWot
  exact ite (use (foldl (refl.step .readStep) fun _ _ h => h.step .write) fun h => h.step .put_rack) refl

theorem installFit {t} : Evolves [.cnt, .mem, .poison, .rack] d (d.installFit t) := by
  unfold Dev.installFit
  split
  · exact refl
  · exact refl.step .write |>.step .bump |>.step .put_rack

theorem foldComplete {b} : Evolves [.regs, .cnt, .mem, .poison, .draws, .frm, .variants, .rack, .mbx, .flt] d (d.foldComplete b) := by
  unfold Dev.foldComplete
  exact ite (use (foldl refl fun _ _ h => h.step .foldTun |>.step .installWot |>.step .installFit) fun h => h.step .put_rack) refl

/-! ### Compare -/

theorem takeRackSettings {c} : Evolves [.rack] d (d.takeRackSettings c) := by
  unfold Dev.takeRackSettings
  exact refl.step .put_rack

theorem restartRackSettings : Evolves [.rack] d d.restartRackSettings := by
  unfold Dev.restartRackSettings
  exact refl.step .takeRackSettings |>.step .put_rack

theorem stageWot {th x ts} : Evolves [.cnt, .mem, .poison, .rack] d (d.stageWot th x ts) := by
  unfold Dev.stageWot
  exact use (refl.step .bumpBy) fun h => ite h (h.step .write |>.step .put_rack)

theorem orderQueue {x ts} : Evolves [.cnt, .mem, .poison, .rack] d (d.orderQueue x ts) := by
  unfold Dev.orderQueue
  exact refl.step .put_rack |>.step .write |>.step .wr |>.step .bumpBy

theorem compareEnd {c x} : Evolves [.cnt, .mem, .poison, .rack] d (d.compareEnd c x) := by
  unfold Dev.compareEnd
  exact refl.step .stageWot |>.step .orderQueue |>.step .put_rack

theorem compare {c n} : Evolves [.regs, .cnt, .mem, .poison, .draws, .frm, .variants, .run, .late, .rack, .mbx] d (d.compare c n) := by
  unfold Dev.compare
  split
  · exact refl
  · exact when (use (ite (refl.step .takeRackSettings) refl) fun h => h.step .readChecks |>.step .mxcDone) fun h =>
      h.step .compareEnd |>.step .produce

theorem lrFit {c} : Evolves [.regs, .cnt, .mem, .poison, .draws, .frm, .variants, .run, .late, .rack, .mbx] d (d.lrFit c) := by
  unfold Dev.lrFit
  split
  · exact refl
  · exact use (refl.step .readChecks |>.step .mxcDone) fun h => ite h (h.step .put_draws_rack |>.step .produce)

/-! ### Flags -/

theorem clearSticky {v} : Evolves [.regs] d (d.clearSticky v) := by
  unfold Dev.clearSticky
  exact refl.step .setRaw

/-! ### Ledger -/

theorem writeLedger : Evolves [.regs, .cnt, .flt] d d.writeLedger := by
  unfold Dev.writeLedger
  exact refl.step .put_flt |>.step .bump |>.step .setFld |>.step .setFld

theorem configWritten {off} : Evolves [.regs, .cnt, .flt] d (d.configWritten off) := by
  unfold Dev.configWritten
  exact ite (refl.step .writeLedger) refl

theorem judgeCopies : Evolves [.regs, .cnt, .flt] d d.judgeCopies := by
  unfold Dev.judgeCopies
  dsimp only
  split
  · exact refl.step .bumpBy |>.step .setFld |>.step .setFld
  · exact refl.step .bumpBy |>.step .put_flt |>.step .setFld |>.step .setFld

theorem loadRegs {os bs} : Evolves [.regs] d (d.loadRegs os bs) := by
  induction os generalizing d bs with
  | nil => exact refl
  | cons o os ih => exact refl.step .setRaw |>.step ih

theorem restoreCopy {c} : Evolves [.regs, .spg, .num, .flt] d (d.restoreCopy c) := by
  unfold Dev.restoreCopy
  exact use
      (foldl
          (use
              (foldl (foldl (refl.step .loadRegs |>.step .loadRegs |>.step .loadRegs) fun _ _ h => h.step .setFld) fun _ _ h => h.step .setFld) fun h =>
            h.step .put_spg_num_flt) fun _ _ h =>
        h.step .setFld) fun h =>
    h.step .loadRegs

/-! ### Mailbox -/

theorem setQueue {n toB q} : Evolves [.mbx] d (d.setQueue n toB q) := by
  unfold Dev.setQueue
  exact refl.step .put_mbx

theorem append {n toB w} : Evolves [.cnt, .mbx] d (d.append n toB w) := by
  unfold Dev.append
  exact use (refl.step .setQueue) fun h => use (ite (h.step .bump) h) fun h => when (ite (h.step .bump) h) fun h => h.step .emit

theorem refuseMbx {n id} : Evolves [.regs, .cnt, .mem, .poison, .draws, .mbx] d (d.refuseMbx n id) := by
  unfold Dev.refuseMbx
  exact refl.step .bump |>.step .sticky |>.step .trace

theorem mbxTx {id n w} : Evolves [.regs, .cnt, .mem, .poison, .draws, .mbx] d (d.mbxTx id n w) := by
  unfold Dev.mbxTx
  split
  · exact use (refl.step .refuseMbx) fun h => ite h (h.step .emit)
  · exact ite (use (refl.step .bump) fun h => ite h (h.step .emit)) (refl.step .append)

theorem mbxRx {id n} : Evolves [.regs, .cnt, .mem, .poison, .draws, .mbx] d (d.mbxRx id n) := by
  unfold Dev.mbxRx
  dsimp only
  split
  · exact refl.step .refuseMbx |>.step .emit
  · exact ite (ite (refl.step .emit) (refl.step .bump |>.step .emit)) (refl.step .setQueue |>.step .emit)

theorem mbxIdle {id n isRead} : Evolves [.regs, .cnt, .mem, .poison, .draws, .mbx] d (d.mbxIdle id n isRead) := by
  unfold Dev.mbxIdle
  exact ite (ite (ite (refl.step .refuseMbx |>.step .emit) (refl.step .refuseMbx)) (refl.step .refuseMbx |>.step .emit))
    (ite (ite (ite (refl.step .bump |>.step .emit) (refl.step .bump)) (refl.step .bump |>.step .emit)) (ite (refl.step .emit) refl))

theorem mbxSend {id n words} : Evolves [.regs, .cnt, .mem, .poison, .draws, .mbx] d (d.mbxSend id n words) := by
  unfold Dev.mbxSend
  exact foldl refl fun _ _ h => h.step .mbxTx

theorem mbxTimeout {n toB} : Evolves [.cnt, .mbx] d (d.mbxTimeout n toB) := by
  unfold Dev.mbxTimeout
  exact ite (refl.step .setQueue |>.step .bump) refl

theorem flush {inDomain} : Evolves [.cnt, .mbx] d (d.flush inDomain) := by
  unfold Dev.flush
  exact foldl refl fun _ _ h => ite (h.step .setQueue |>.step .setQueue |>.step .bumpBy) h

theorem mgmtDown : Evolves [.cnt, .mbx] d d.mgmtDown := by
  unfold Dev.mgmtDown
  exact refl.step .put_mbx |>.step .flush

theorem domainDown {m} : Evolves [.regs, .cnt, .hif, .mbx] d (d.domainDown m) := by
  unfold Dev.domainDown
  split
  · exact refl.step .mgmtDown
  · exact refl.step .setFld |>.step .flush
  · exact refl.step .put_mbx |>.step .flush
  · exact refl.step .put_hif |>.step .flush
  · exact refl
  · exact refl

theorem lockMbx : Evolves [.regs] d d.lockMbx := by
  unfold Dev.lockMbx
  exact refl.step .setFld

/-! ### Kiln -/

theorem storeCrc {t j} : Evolves [.kln] d (d.storeCrc t j) := by
  unfold Dev.storeCrc
  exact refl.step .put_kln

theorem setWorking {t k v} : Evolves [.kln] d (d.setWorking t k v) := by
  unfold Dev.setWorking
  exact refl.step .put_kln

theorem loadTrims {t temp} : Evolves [.cnt, .kln] d (d.loadTrims t temp) := by
  unfold Dev.loadTrims
  exact foldl (refl.step .bumpBy) fun _ _ h => use (ite h (h.step .bump)) fun h => h.step .setWorking

theorem calWrite : Evolves [.sec] d d.calWrite := by
  unfold Dev.calWrite
  exact refl.step .put_sec

theorem retire {t} : Evolves [.regs, .cnt, .mem, .poison, .draws, .kln, .mbx, .sec] d (d.retire t) := by
  unfold Dev.retire
  exact ite refl (refl.step .calWrite |>.step .put_kln |>.step .storeCrc |>.step .setFld |>.step .sticky |>.step .bump)

theorem degrade {t temp} : Evolves [.regs, .cnt, .mem, .poison, .draws, .kln, .mbx, .sec] d (d.degrade t temp) := by
  unfold Dev.degrade
  exact use (refl.step .put_kln) fun h => when (use (ite h (h.step .storeCrc |>.step .calWrite)) fun h => h.step .bumpBy) fun h => h.step .retire

theorem setKilnRun {b r} : Evolves [.kln] d (d.setKilnRun b r) := by
  unfold Dev.setKilnRun
  exact refl.step .put_kln

theorem showRun {b} : Evolves [.regs] d (d.showRun b) := by
  unfold Dev.showRun
  split
  · exact refl.step .setFld |>.step .setFld |>.step .setFld |>.step .setFld
  · exact refl.step .setFld |>.step .setFld |>.step .setFld |>.step .setFld

theorem startRun {b} : Evolves [.regs, .kln] d (d.startRun b) := by
  unfold Dev.startRun
  dsimp only
  split
  · exact refl
  · exact ite refl (refl.step .setKilnRun |>.step .put_kln |>.step .setFld |>.step .showRun)

theorem kilnTunDone {b i r measured} : Evolves [.regs, .cnt, .kln, .sec] d (d.kilnTunDone b i r measured) := by
  unfold Dev.kilnTunDone
  refine use (ite ?_ (refl.step .put_kln |>.step .setFld |>.step .bump)) fun h =>
    ite (h.step .setFld |>.step .put_kln |>.step .setKilnRun |>.step .showRun) (h.step .setKilnRun |>.step .showRun)
  extract_lets
  split
  · exact refl.step .put_kln |>.step .setFld |>.step .bump |>.step .bump |>.step .put_kln
  · exact ite (refl.step .put_kln |>.step .setFld |>.step .bump |>.step .bump |>.step .put_kln)
      (refl.step .put_kln |>.step .setFld |>.step .bump |>.step .bump |>.step .put_kln |>.step .put_kln |>.step .storeCrc |>.step .calWrite
        |>.step .bump)

theorem unitWork {b i u r m} : Evolves [.regs, .cnt, .mem, .poison, .draws, .kln, .mbx, .sec] d (d.unitWork b i u r m) := by
  unfold Dev.unitWork
  exact ite (use (ite (refl.step .retire) refl) fun h => h.step .loadTrims |>.step .setFld)
    (ite (use (foldl refl fun _ _ h => h.step .setWorking) fun h => h.step .setWorking)
      (use (foldl refl fun _ _ h => h.step .setWorking) fun h => h.step .degrade))

theorem afterUnit {b i u measured r m} : Evolves [.regs, .cnt, .kln, .sec] d (d.afterUnit b i u measured r m) := by
  unfold Dev.afterUnit
  exact use (ite (refl.step .bump) refl) fun h => ite (h.step .kilnTunDone) (h.step .put_kln |>.step .setKilnRun |>.step .showRun)

theorem kilnUnit {b i now m} : Evolves [.regs, .cnt, .mem, .poison, .draws, .frm, .variants, .kln, .mbx, .sec] d (d.kilnUnit b i now m) := by
  unfold Dev.kilnUnit
  split
  · exact ite refl (ite (use (foldl refl fun _ _ h => h.step .uncorr) fun h => h.step .put_kln) (refl.step .unitWork |>.step .afterUnit))
  · exact refl

theorem kilnRequests {basins measured} : Evolves [.regs, .cnt] d (d.kilnRequests basins measured) := by
  unfold Dev.kilnRequests
  exact foldl refl fun _ _ h => ite (h.step .kilnRequest) h

theorem newTemp {b temp} : Evolves [.regs, .cnt, .mem, .poison, .draws, .kln, .mbx] d (d.newTemp b temp) := by
  unfold Dev.newTemp
  exact use (refl.step .put_kln) fun h => when (ite (h.step .kilnRequest) h) fun h => h.step .put_kln |>.step .sticky |>.step .bump

/-! ### Gauge -/

theorem setMon {i m} : Evolves [.gau] d (d.setMon i m) := by
  unfold Dev.setMon
  exact refl.step .put_gau

theorem monSample {i x} : Evolves [.gau] d (d.monSample i x) := by
  unfold Dev.monSample
  exact ite refl (refl.step .setMon)

theorem clearMon {i} : Evolves [.gau] d (d.clearMon i) := by
  unfold Dev.clearMon
  exact refl.step .setMon

theorem monSelect {i} : Evolves [.regs] d (d.monSelect i) := by
  unfold Dev.monSelect
  exact ite refl
    (foldl (refl.step .setFld |>.step .setFld |>.step .setFld |>.step .setFld |>.step .setFld |>.step .setFld) fun _ _ h => h.step .setFld)

theorem monConfig {base w} : Evolves [.regs, .gau] d (d.monConfig base w) := by
  unfold Dev.monConfig
  exact refl.step .setFld |>.step .setFld |>.step .setMon

theorem setConv {g c} : Evolves [.regs, .gau] d (d.setConv g c) := by
  unfold Dev.setConv
  dsimp only
  split
  · exact refl.step .put_gau |>.step .setFld |>.step .setFld
  · exact use (refl.step .put_gau |>.step .setFld |>.step .setFld) fun h => ite h (h.step .setFld |>.step .setFld)

theorem setWaits {g l} : Evolves [.gau] d (d.setWaits g l) := by
  unfold Dev.setWaits
  exact refl.step .put_gau

theorem nextEntry {g l i ks} : Evolves [.regs, .cnt, .gau] d (d.nextEntry g l i ks) := by
  induction ks generalizing d i with
  | nil => exact refl.step .setConv
  | cons k ks ih => exact ite (refl.step .bump |>.step ih) (refl.step .setConv)

theorem startPass {g n} : Evolves [.regs, .cnt, .gau] d (d.startPass g n) := by
  induction n generalizing d with
  | zero => exact refl
  | succ n ih =>
    unfold Dev.startPass
    split
    · exact refl.step .setWaits |>.step .nextEntry |>.step ih
    · exact refl

theorem passDue {l} : Evolves [.regs, .cnt, .gau] d (d.passDue l) := by
  unfold Dev.passDue
  exact ite refl (ite (refl.step .bump) (refl.step .setWaits |>.step .startPass))

theorem alarmEdge {k hi enter v} : Evolves [.regs, .cnt, .mem, .poison, .draws, .mbx, .gau] d (d.alarmEdge k hi enter v) := by
  unfold Dev.alarmEdge
  exact use (refl.step .put_gau |>.step .setFld) fun h => use (ite (h.step .bump) h) fun h => h.step .mbxSend |>.step .put_mbx

theorem judgeAlarms {k v} : Evolves [.regs, .cnt, .mem, .poison, .draws, .mbx, .gau] d (d.judgeAlarms k v) := by
  unfold Dev.judgeAlarms
  exact use (ite (refl.step .alarmEdge) (ite (refl.step .alarmEdge) refl)) fun h => ite (h.step .alarmEdge) (ite (h.step .alarmEdge) h)

theorem scanResult {c v} : Evolves [.regs, .cnt, .mem, .poison, .draws, .kln, .mbx, .gau] d (d.scanResult c v) := by
  unfold Dev.scanResult
  exact ite (refl.step .setFld |>.step .bump)
    (use (refl.step .setFld |>.step .setFld |>.step .setFld |>.step .setFld) fun h =>
      ite (h.step .bump) (when (h.step .judgeAlarms |>.step .monSample) fun h => h.step .newTemp))

theorem entryDone {g v} : Evolves [.regs, .cnt, .mem, .poison, .draws, .kln, .mbx, .gau] d (d.entryDone g v) := by
  unfold Dev.entryDone
  split
  · exact refl
  · exact ite refl (use (refl.step .scanResult |>.step .nextEntry) fun h => ite h (use (ite (h.step .passDue) h) fun h => h.step .startPass))

theorem kilnOverlaps {b} : Evolves [.regs, .gau] d (d.kilnOverlaps b) := by
  unfold Dev.kilnOverlaps
  refine foldl refl fun _ _ h => ?_
  split
  · exact ite (h.step .setConv) h
  · exact h

theorem startSettling {g} : Evolves [.regs, .gau] d (d.startSettling g) := by
  unfold Dev.startSettling
  dsimp only
  split
  · exact refl.step .setFld |>.step .setConv
  · exact refl.step .setFld

theorem urgent {g order n chan fits} : Evolves [.regs, .cnt, .gau] d (d.urgent g order n chan fits) := by
  unfold Dev.urgent
  exact use (ite (refl.step .setFld) refl) fun h =>
    use (ite (h.step .setFld) h) fun h => use (ite (h.step .setFld) h) fun h => ite (h.step .bump) (h.step .setFld |>.step .setConv)

theorem urgentDone {g v} : Evolves [.regs, .cnt, .gau] d (d.urgentDone g v) := by
  unfold Dev.urgentDone
  split
  · exact ite refl
      (use (refl.step .setFld |>.step .setFld |>.step .setFld |>.step .setFld) fun h =>
        use (ite (h.step .bump) h) fun h => h.step .bump |>.step .setConv |>.step .startPass)
  · exact refl

theorem gaugePower {on} : Evolves [.regs, .cnt, .mbx, .gau] d (d.gaugePower on) := by
  unfold Dev.gaugePower
  exact ite (refl.step .bump)
    (ite (ite refl (refl.step .setFld |>.step .startSettling |>.step .startSettling))
      (refl.step .setFld |>.step .setConv |>.step .setConv |>.step .setWaits |>.step .setWaits |>.step .flush))

end Sys2Proof.Machine.Evolves
end

