-- ==== Sys2Proof/Proofs/EvolvesFabric.lean ====
section
/-!
PROOF. How the links, routing and the messages between devices change the device:
one rule a function of the model, with the parts that it can change.
-/

set_option Elab.async false

namespace Sys2Proof.Machine.Evolves

variable {l m : List Part} {d e f d₀ : Dev}

/-! ### Fabric -/

theorem checkMsg {mt lenOk routed m} : Evolves [.cnt] d (d.checkMsg mt lenOk routed m).2 := by
  unfold Dev.checkMsg
  exact iteSnd (refl.step .bump) (iteSnd (refl.step .bump) refl)

theorem setLink {p l} : Evolves [.fab] d (d.setLink p l) := by
  unfold Dev.setLink
  exact refl.step .put_fab

theorem putFlit {p head payload} : Evolves [] d (d.putFlit p head payload) := by
  unfold Dev.putFlit
  exact refl.step .emit

theorem idleFlit {p nak ch n} : Evolves [] d (d.idleFlit p nak ch n) := by
  unfold Dev.idleFlit
  split
  · exact refl
  · exact refl.step .putFlit

theorem dataOut {p l f} : Evolves [] d (d.dataOut p l f) := by
  unfold Dev.dataOut
  exact refl.step .putFlit

theorem drain {p} : Evolves [.cnt, .fab] d (d.drain p) := by
  unfold Dev.drain
  split
  · exact refl
  · exact use (foldl (refl.step .setLink |>.step .bumpBy) fun _ _ h => h.step .dataOut) fun h => h.step .bumpBy

theorem txRaw {p mt bytes} : Evolves [.cnt, .fab] d (d.txRaw p mt bytes) := by
  unfold Dev.txRaw
  split
  · exact refl.step .bump
  · exact refl.step .setLink |>.step .put_fab |>.step .emit |>.step .drain

theorem tx {p mt bytes} : Evolves [.cnt, .fab] d (d.tx p mt bytes) := by
  unfold Dev.tx
  exact ite (refl.step .txRaw) (refl.step .bump)

theorem txLocal {p mt body} : Evolves [.cnt, .fab] d (d.txLocal p mt body) := by
  unfold Dev.txLocal
  exact refl.step .tx

theorem txRouted {p mt dst late body} : Evolves [.cnt, .fab] d (d.txRouted p mt dst late body) := by
  unfold Dev.txRouted
  exact refl.step .tx

theorem forward {p mt m} : Evolves [.cnt, .fab] d (d.forward p mt m) := by
  unfold Dev.forward
  exact ite (refl.step .bump) (refl.step .tx)

theorem routed {p mt lenOk m deliver} (h : Evolves l d₀ d) (k : ∀ e, Evolves l d₀ e → Evolves l d₀ (deliver e))
    (hl : ∀ p ∈ ([.cnt, .fab] : List Part), p ∈ l := by decide) : Evolves l d₀ (d.routed p mt lenOk m deliver) := by
  refine ite h ?_
  have hc := h.step (.checkMsg (lenOk := lenOk) (routed := true) (m := m) (mt := mt)) (sub hl)
  rcases hx : d.checkMsg mt lenOk true m with ⟨_ | _, e⟩ <;> rw [hx] at hc
  · exact hc
  · exact ite (k e hc) (hc.step .forward (sub hl))

theorem localMsg {p mt lenOk m deliver} (h : Evolves l d₀ d) (k : ∀ e, Evolves l d₀ e → Evolves l d₀ (deliver e))
    (hl : ∀ p ∈ ([.cnt] : List Part), p ∈ l := by decide) : Evolves l d₀ (d.localMsg p mt lenOk m deliver) := by
  refine ite h ?_
  have hc := h.step (.checkMsg (lenOk := lenOk) (routed := false) (m := m) (mt := mt)) (sub hl)
  rcases hx : d.checkMsg mt lenOk false m with ⟨_ | _, e⟩ <;> rw [hx] at hc
  · exact hc
  · exact k e hc

theorem writeRoles {c sz} : Evolves [.regs] d (d.writeRoles c sz) := by
  unfold Dev.writeRoles
  exact foldl (refl.step .setFld) fun _ _ h => h.step .setFld

theorem deriveUp {c sz force} : Evolves [.regs, .cnt, .fab] d (d.deriveUp c sz force) := by
  unfold Dev.deriveUp
  exact when (foldl (refl.step .writeRoles |>.step .setFld) fun _ _ h => h.step .setFld) fun h => h.step .txLocal

theorem partition : Evolves [.regs, .cnt, .mem, .poison, .draws, .fab, .mbx] d d.partition := by
  unfold Dev.partition
  exact ite (refl.step .put_fab |>.step .sticky |>.step .bump) refl

theorem checkPartition : Evolves [.regs, .cnt, .mem, .poison, .draws, .fab, .mbx] d d.checkPartition := by
  unfold Dev.checkPartition
  exact ite (refl.step .partition) refl

theorem setPort {p v} : Evolves [.regs, .cnt, .mem, .poison, .draws, .fab, .mbx] d (d.setPort p v) := by
  unfold Dev.setPort
  exact ite refl
    (use (refl.step .setFld |>.step .trace) fun h =>
      use (ite (h.step .setFld) h) fun h => use (ite (h.step .deriveUp) h) fun h => h.step .checkPartition)

theorem settlePort {p} : Evolves [.fab] d (d.settlePort p) := by
  unfold Dev.settlePort
  exact refl.step .put_fab

theorem loseLink {p v} : Evolves [.regs, .cnt, .mem, .poison, .draws, .fab, .mbx] d (d.loseLink p v) := by
  unfold Dev.loseLink
  split
  · exact refl
  · exact refl.step .bump |>.step .sticky |>.step .bumpBy |>.step .setLink |>.step .put_fab |>.step .settlePort |>.step .setPort

theorem protoError {p} : Evolves [.regs, .cnt, .mem, .poison, .draws, .fab, .mbx] d (d.protoError p) := by
  unfold Dev.protoError
  exact refl.step .bump |>.step .loseLink

theorem replay {p} : Evolves [.regs, .cnt, .mem, .poison, .draws, .fab, .mbx] d (d.replay p) := by
  unfold Dev.replay
  split
  · exact refl
  · exact ite refl
      (when (foldl (refl.step .bump |>.step .bumpBy |>.step .draw |>.step .setLink) fun _ _ h => h.step .dataOut) fun h => h.step .loseLink)

theorem nak {p} : Evolves [.fab] d (d.nak p) := by
  unfold Dev.nak
  split
  · exact refl
  · exact ite refl (refl.step .setLink |>.step .idleFlit)

theorem flitHead {p x} : Evolves [.regs, .cnt, .mem, .poison, .draws, .fab, .mbx] d (d.flitHead p x).2 := by
  unfold Dev.flitHead
  split
  · exact refl
  · split
    · exact refl.step .protoError
    · refine iteSnd (refl.step .setLink |>.step .drain) ?_
      split
      · exact refl.step .protoError
      · exact use (refl.step .setLink) fun h => use (ite (h.step .replay) h) fun h => h.step .drain

theorem flitRx {p x body} (h : Evolves l d₀ d) (k : ∀ e, Evolves l d₀ e → Evolves l d₀ (body e))
    (hl : ∀ p ∈ ([.regs, .cnt, .mem, .poison, .draws, .fab, .mbx] : List Part), p ∈ l := by decide) : Evolves l d₀ (d.flitRx p x body) := by
  unfold Dev.flitRx
  split
  · exact h
  · have hb := h.step (.bumpBy (c := Cnt.FAB_FEC_CORR_CNT p) (n := x.corr)) (sub hl)
      |>.step (.bumpBy (c := Cnt.FAB_FEC_UNCORR_CNT p) (n := x.uncorr)) (sub hl)
    refine ite (use (when hb fun h => h.step .bump (sub hl)) fun h => h.step .nak (sub hl)) ?_
    have hc := hb.step (.flitHead (p := p) (x := x)) (sub hl)
    generalize Dev.flitHead _ p x = y at hc ⊢
    obtain ⟨_ | _, e⟩ := y
    · exact hc
    · exact k e hc

theorem dataFlit {p x} : Evolves [.fab] d (d.dataFlit p x) := by
  unfold Dev.dataFlit
  split
  · exact refl
  · exact ite (ite (refl.step .nak) refl) (refl.step .setLink |>.step .idleFlit)

theorem trainPort {p} : Evolves [.regs, .cnt, .mem, .poison, .draws, .fab, .mbx] d (d.trainPort p) := by
  unfold Dev.trainPort
  exact ite (refl.step .setLink |>.step .setPort |>.step .put_fab) refl

theorem retrain {p} : Evolves [.regs, .cnt, .mem, .poison, .draws, .fab, .mbx] d (d.retrain p) := by
  unfold Dev.retrain
  exact ite refl (refl.step .loseLink |>.step .trainPort)

theorem disablePort {p} : Evolves [.regs, .cnt, .mem, .poison, .draws, .fab, .mbx] d (d.disablePort p) := by
  unfold Dev.disablePort
  exact refl.step .setFld |>.step .loseLink |>.step .setPort |>.step .settlePort

theorem sendProbe {p t} : Evolves [.cnt, .fab] d (d.sendProbe p t) := by
  unfold Dev.sendProbe
  split
  · exact refl
  · exact refl.step .setLink |>.step .txRaw

theorem meanLat {samples} : Evolves [.draws] d (d.meanLat samples).2 := by
  unfold Dev.meanLat
  exact iteSnd (refl.step .draw) refl

theorem sendConfirm {p} : Evolves [.cnt, .fab] d (d.sendConfirm p) := by
  unfold Dev.sendConfirm
  exact refl.step .txRaw

theorem setLat {p v} : Evolves [.regs] d (d.setLat p v) := by
  unfold Dev.setLat
  exact refl.step .setFld |>.step .setFld

theorem bringUp {p} : Evolves [.regs, .cnt, .mem, .poison, .draws, .fab, .mbx] d (d.bringUp p) := by
  unfold Dev.bringUp
  split
  · exact refl
  · exact use (refl.step .setLat) fun h => use (ite (h.step .bump |>.step .put_fab) h) fun h => h.step .setPort

theorem finishBringUp {p} : Evolves [.regs, .cnt, .mem, .poison, .draws, .fab, .mbx] d (d.finishBringUp p) := by
  unfold Dev.finishBringUp
  split
  · exact refl
  · exact ite (use (ite (refl.step .setPort) (refl.step .bringUp)) fun h => h.step .settlePort) refl

theorem miswire {p} : Evolves [.regs, .cnt, .mem, .poison, .draws, .fab, .mbx] d (d.miswire p) := by
  unfold Dev.miswire
  exact refl.step .setLink |>.step .bump |>.step .setPort |>.step .settlePort

theorem portTrain {p} : Evolves [.fab] d (d.portTrain p) := by
  unfold Dev.portTrain
  exact ite (refl.step .setLink |>.step .emit) refl

theorem ctrlFlit {p peer credits t} : Evolves [.regs, .cnt, .mem, .poison, .draws, .fab, .mbx] d (d.ctrlFlit p peer credits t) := by
  unfold Dev.ctrlFlit
  split
  · exact refl
  · exact ite refl (ite (refl.step .miswire) (refl.step .setFld |>.step .setLink |>.step .sendProbe))

theorem echo {p id turn t next} : Evolves [.regs, .cnt, .mem, .poison, .draws, .fab, .mbx, .gau] d (d.echo p id turn t next) := by
  unfold Dev.echo
  split
  · exact refl
  · split
    · exact refl
    · exact ite refl
        (ite
          (ite refl
            (ite (refl.step .setLink |>.step .sendProbe)
              (use (refl.step .meanLat |>.step .setLink) fun h => use (ite (h.step .sendConfirm) h) fun h => h.step .finishBringUp)))
          (when (refl.step .setLink |>.step .monSample) fun h => h.step .bump))

theorem confirm {p shape coord} : Evolves [.regs, .cnt, .mem, .poison, .draws, .fab, .mbx] d (d.confirm p shape coord) := by
  unfold Dev.confirm
  split
  · exact refl
  · exact ite refl (ite (refl.step .miswire) (refl.step .setLink |>.step .finishBringUp))

theorem bringUpMsg {p mt m deliver} (h : Evolves l d₀ d) (k : ∀ e, Evolves l d₀ e → Evolves l d₀ (deliver e))
    (hl : ∀ p ∈ ([.cnt] : List Part), p ∈ l := by decide) : Evolves l d₀ (d.bringUpMsg p mt m deliver) := by
  refine ite h ?_
  have hc := h.step (.checkMsg (lenOk := m.len.toNat == 8) (routed := false) (m := m) (mt := mt)) (sub hl)
  rcases hx : d.checkMsg mt (m.len.toNat == 8) false m with ⟨_ | _, e⟩ <;> rw [hx] at hc
  · exact hc
  · exact k e hc

theorem floodTick {num test acc skip} : Evolves [.cnt, .fab] d (d.floodTick num test acc skip) := by
  unfold Dev.floodTick
  exact foldl refl fun _ _ h => ite (h.step .txLocal) h

theorem setDisc {x} : Evolves [.fab] d (d.setDisc x) := by
  unfold Dev.setDisc
  exact refl.step .put_fab

theorem beginDisc : Evolves [.regs, .fab] d d.beginDisc := by
  unfold Dev.beginDisc
  exact refl.step .setDisc |>.step .setFld |>.step .setFld

theorem applyDone {code dmax devices maxLat} : Evolves [.regs, .cnt, .fab] d (d.applyDone code dmax devices maxLat) := by
  unfold Dev.applyDone
  exact use (refl.step .setDisc) fun h =>
    ite
      (h.step .setFld |>.step .setFld |>.step .setFld |>.step .setFld |>.step .setFld |>.step .setFld |>.step .setFld |>.step .setFld |>.step .setFld
        |>.step .setFld |>.step .setFld |>.step .setFld |>.step .setFld |>.step .deriveUp |>.step .setFld |>.step .setFld |>.step .setFld)
      (h.step .setFld |>.step .setFld |>.step .setFld |>.step .bump)

theorem finishDisc {code devices maxLat} : Evolves [.regs, .cnt, .fab] d (d.finishDisc code devices maxLat) := by
  unfold Dev.finishDisc
  exact use (foldl refl fun _ _ h => ite (h.step .txLocal) h) fun h => h.step .applyDone

theorem tryCensus : Evolves [.regs, .cnt, .fab] d d.tryCensus := by
  unfold Dev.tryCensus
  refine ite refl (ite refl (ite (use (refl.step .setDisc) fun h => ite (h.step .finishDisc) (ite (h.step .finishDisc) (h.step .finishDisc))) ?_))
  split
  · exact refl.step .setDisc |>.step .txLocal
  · exact refl

theorem takeCoord {c sz} : Evolves [.cnt, .fab] d (d.takeCoord c sz) := by
  unfold Dev.takeCoord
  dsimp only
  split
  · exact foldl (refl.step .setDisc) fun _ _ h => ite (h.step .txLocal) h
  · exact ite (use (foldl (refl.step .setDisc) fun _ _ h => ite (h.step .txLocal) h) fun h => h.step .txLocal)
      (foldl (refl.step .setDisc) fun _ _ h => ite (h.step .txLocal) h)

theorem trySizes : Evolves [.regs, .cnt, .fab] d d.trySizes := by
  unfold Dev.trySizes
  exact ite refl (ite (refl.step .finishDisc) (refl.step .takeCoord |>.step .tryCensus))

theorem startSize : Evolves [.regs, .cnt, .fab] d d.startSize := by
  unfold Dev.startSize
  exact use (refl.step .beginDisc |>.step .setDisc) fun h =>
    ite (use (foldl h fun _ _ h => h.step .txLocal) fun h => h.step .trySizes) (h.step .finishDisc)

theorem discMsg {p mt m deliver} (h : Evolves l d₀ d)
    (act' : ∀ e, Evolves l d₀ e → Evolves l d₀ (deliver e))
    (hl : ∀ p ∈ ([.cnt] : List Part), p ∈ l := by decide) :
    Evolves l d₀ (d.discMsg p mt m deliver) := by
  unfold Dev.discMsg
  exact .localMsg h (fun _ h => ite (act' _ h) (h.step .bump (sub hl))) (sub hl)

theorem joinDisc : Evolves [.regs, .fab] d d.joinDisc := by
  unfold Dev.joinDisc
  exact ite refl (refl.step .beginDisc)

theorem ringIn {p m} : Evolves [.regs, .cnt, .fab] d (d.ringIn p m) := by
  unfold Dev.ringIn
  exact ite (ite refl (ite (refl.step .finishDisc) (refl.step .setDisc |>.step .trySizes)))
    (ite refl (ite (refl.step .joinDisc |>.step .bump) (refl.step .joinDisc |>.step .tx)))

theorem assignIn {p m} : Evolves [.regs, .cnt, .fab] d (d.assignIn p m) := by
  unfold Dev.assignIn
  exact use (ite refl (refl.step .joinDisc)) fun h =>
    ite h (use (h.step .setDisc) fun h => use (ite (ite (h.step .setDisc) h) (ite h (h.step .takeCoord))) fun h => h.step .tryCensus)

theorem censusIn {p m} : Evolves [.regs, .cnt, .fab] d (d.censusIn p m) := by
  unfold Dev.censusIn
  exact ite refl (refl.step .setDisc |>.step .tryCensus)

theorem testTick {p num acc delay} : Evolves [.regs, .cnt, .fab] d (d.testTick p num acc delay) := by
  unfold Dev.testTick
  exact ite refl (use (ite (refl.step .setDisc |>.step .floodTick) refl) fun h => h.step .setDisc |>.step .tryCensus)

theorem doneIn {p m} : Evolves [.regs, .cnt, .fab] d (d.doneIn p m) := by
  unfold Dev.doneIn
  exact ite refl (use (foldl refl fun _ _ h => ite (h.step .tx) h) fun h => h.step .applyDone)

end Sys2Proof.Machine.Evolves
end

