-- ==== Sys2Proof/Proofs/EvolvesReduction.lean ====
section
/-!
PROOF. How the reduction engine and the pounds change the device:
one rule a function of the model, with the parts that it can change.
-/

set_option Elab.async false

namespace Sys2Proof.Machine.Evolves

variable {l m : List Part} {d e f d₀ : Dev}

/-! ### Reduction -/

theorem redDone : Evolves [.run] d d.redDone := by
  unfold Dev.redDone
  exact refl.step .onRunning

theorem setRed {f} : Evolves [.red] d (d.setRed f) := by
  unfold Dev.setRed
  exact refl.step .put_red

theorem sendPkt {axis p} : Evolves [.cnt, .fab] d (d.sendPkt axis p) := by
  unfold Dev.sendPkt
  exact refl.step .txRouted

theorem takePkt {tag bucket packet hop t p} (h : d.takePkt tag bucket packet hop = some (t, p, e)) : Evolves [.red] d e := by
  unfold Dev.takePkt at h
  dsimp only at h
  split at h
  · contradiction
  · cases h
    exact refl.step .setRed

theorem arrival {t} : Evolves [.gau] d (d.arrival t) := by
  unfold Dev.arrival
  exact refl.step .monSample

theorem missing {tag bucket packet} : Evolves [.cnt, .frm, .run, .red] d (d.missing tag bucket packet) := by
  unfold Dev.missing
  exact use (refl.step .bump |>.step .onRunning) fun h => ite (h.step .put_frm_red) (h.step .put_frm_red)

theorem incoming {tag bucket packet kind hop which a p} (h : d.incoming tag bucket packet kind hop which = some (a, p, e)) :
    Evolves [.cnt, .frm, .run, .red, .gau] d e := by
  unfold Dev.incoming at h
  split at h
  · next ht => cases h; exact refl.step (takePkt ht) |>.step .arrival
  · split at h
    · cases h; exact refl.step .missing
    · contradiction

theorem countFaults {fault} : Evolves [.regs, .cnt, .mem, .poison, .draws, .mbx] d (d.countFaults fault) := by
  unfold Dev.countFaults
  exact ite refl (refl.step .bumpBy |>.step .sticky)

theorem ownerResult {axis p result} : Evolves [.mem, .poison, .late, .red] d (d.ownerResult axis p result) := by
  unfold Dev.ownerResult
  exact when (refl.step .write |>.step .write |>.step .produce |>.step .setRed) fun h => h.step .setRed

/-- A packet that the first of a chain makes itself, or that is awaited (R255, R261). -/
theorem firstOrIncoming {c : Bool} {p₀ tag bucket packet kind hop which a p}
    (h : (if c then some (true, p₀, d) else d.incoming tag bucket packet kind hop which) = some (a, p, e)) :
    Evolves [.cnt, .frm, .run, .red, .gau] d e := by
  split at h
  · cases h; exact refl
  · exact incoming h

theorem rs : Evolves [.regs, .cnt, .mem, .poison, .draws, .frm, .variants, .run, .late, .red, .fab, .mbx, .gau] d d.rs := by
  unfold Dev.rs
  split
  · exact refl
  · dsimp only
    split
    · exact refl
    · next hi =>
      exact use (refl.step (firstOrIncoming hi) |>.step .readChecks |>.step .countFaults) fun h =>
        use (when h fun h => h.step .onRunning) fun h => use (ite (h.step .ownerResult) (h.step .sendPkt)) fun h => h.step .redDone

theorem shardVer : Evolves [.regs, .cnt, .mem, .poison, .draws, .frm, .mbx] d d.shardVer := by
  unfold Dev.shardVer
  exact refl.step .bump |>.step .sticky |>.step .trouble

theorem ag : Evolves [.regs, .cnt, .mem, .poison, .draws, .frm, .variants, .run, .late, .red, .fab, .mbx, .gau] d d.ag := by
  unfold Dev.ag
  split
  · exact refl
  · refine ite (refl.step .readChecks |>.step .sendPkt |>.step .redDone) ?_
    split
    · exact refl
    · next hi =>
      exact use (refl.step (incoming hi)) fun h =>
        ite (h.step .markLate |>.step .redDone) (ite (h.step .shardVer |>.step .redDone)
        (use (h.step .write |>.step .write) fun h => use (when h fun h => h.step .markLate) fun h =>
          use (ite h (h.step .sendPkt)) fun h => h.step .redDone))

theorem recordEpoch {x e} : Evolves [.red] d (d.recordEpoch x e) := by
  unfold Dev.recordEpoch
  exact ite refl (refl.step .setRed)

theorem fetch : Evolves [.regs, .cnt, .mem, .poison, .draws, .frm, .variants, .run, .late, .red, .fab, .mbx, .gau] d d.fetch := by
  unfold Dev.fetch
  split
  · exact refl
  · refine ite (refl.step .readChecks |>.step .sendPkt |>.step .redDone) ?_
    split
    · exact refl
    · next hi =>
      exact use (refl.step (incoming hi)) fun h =>
        ite (h.step .markLate |>.step .redDone) (ite (h.step .recordEpoch |>.step .shardVer |>.step .redDone)
        (use (h.step .recordEpoch |>.step .write) fun h => use (when h fun h => h.step .markLate) fun h =>
          use (ite h (h.step .sendPkt)) fun h => h.step .redDone))

theorem writeAgreed {b k xs} : Evolves [.mem, .poison, .red] d (d.writeAgreed b k xs) := by
  unfold Dev.writeAgreed
  exact ite (when (refl.step .write) fun h => h.step .setRed) refl

theorem preX : Evolves [.regs, .cnt, .mem, .poison, .draws, .frm, .variants, .run, .late, .red, .fab, .mbx, .gau] d d.preX := by
  unfold Dev.preX
  split
  · exact refl
  · refine ite ?_ ?_
    · split
      · exact refl
      · next hi =>
        exact use (refl.step (incoming hi)) fun h => use (ite (h.step .writeAgreed) h) fun h => use (when h fun h => h.step .markLate) fun h =>
          use (ite h (h.step .sendPkt)) fun h => h.step .redDone
    · dsimp only
      split
      · exact refl
      · next _ inc e hgot =>
        have hin : Evolves [.cnt, .frm, .run, .red, .gau] d e := by
          split at hgot
          · cases hgot; exact refl
          · split at hgot
            · next ht =>
              obtain ⟨_, _, hp⟩ := List.exists_of_findSome?_eq_some ht
              cases hgot
              exact refl.step (takePkt hp) |>.step .arrival
            · split at hgot
              · cases hgot; exact refl.step .missing
              · contradiction
        exact use (refl.step hin |>.step .readChecks) fun h =>
          ite (use (h.step .writeAgreed |>.step .sendPkt) fun h => use (when h fun h => h.step .markLate) fun h => h.step .redDone)
            (h.step .setRed |>.step .sendPkt)

theorem setNeed {key half xs} : Evolves [.red] d (d.setNeed key half xs) := by
  unfold Dev.setNeed
  exact refl.step .setRed

theorem takeNotice {axis q p} : Evolves [.cnt, .run, .red, .fab] d (d.takeNotice axis q p) := by
  unfold Dev.takeNotice
  refine use (ite (refl.step .setRed |>.step .setRed) ?_) fun h => when (ite (h.step .onRunning) h) fun h => h.step .sendPkt
  split
  · exact refl.step .setRed |>.step .setNeed
  · exact refl.step .setRed

theorem writeCounts : Evolves [.mem, .poison] d d.writeCounts := by
  unfold Dev.writeCounts
  exact foldl refl fun _ _ h => ite (h.step .wr) h

theorem noticeItem {axis} : Evolves [.mem, .poison, .run] d (d.noticeItem axis) := by
  unfold Dev.noticeItem
  exact when (ite (refl.step .onRunning) (refl.step .redDone)) fun h => h.step .writeCounts

theorem sendNotice {axis} : Evolves [.regs, .cnt, .mem, .poison, .draws, .frm, .variants, .run, .red, .fab, .mbx] d (d.sendNotice axis) := by
  unfold Dev.sendNotice
  exact use (ite (refl.step .setRed) (refl.step .readChecks)) fun h =>
    use (ite h (h.step .setNeed)) fun h => h.step .sendPkt |>.step .setRed |>.step .noticeItem

theorem notice : Evolves [.regs, .cnt, .mem, .poison, .draws, .frm, .variants, .run, .red, .fab, .mbx, .gau] d d.notice := by
  unfold Dev.notice
  split
  · exact refl
  · refine ite (refl.step .sendNotice) ?_
    dsimp only
    split
    · exact refl.step .setRed |>.step .arrival |>.step .takeNotice |>.step .noticeItem
    · split
      · exact refl.step .missing |>.step .setRed |>.step .noticeItem
      · exact refl

theorem replayRed : Evolves [.regs, .cnt, .mem, .poison, .draws, .frm, .variants, .run, .late, .num, .red, .fab, .mbx, .gau] d d.replayRed := by
  unfold Dev.replayRed
  split
  · exact refl
  · dsimp only
    split
    · exact refl.step .onRunning
    · split
      · exact refl
      · next hi =>
        exact use (refl.step (firstOrIncoming hi) |>.step .readChecks) fun h => use (foldl h fun _ _ h => ite h (h.step .w32Count)) fun h =>
          use (h.step .write |>.step .write |>.step .countFaults) fun h => use (when h fun h => h.step .onRunning) fun h =>
          use (h.step .produce) fun h =>
          use (ite (use (foldl h fun _ _ h => ite h (h.step .write |>.step .wr)) fun h => use (h.step .produce) fun h =>
            when h fun h => h.step .trouble)
            (h.step .sendPkt)) fun h =>
          use (h.step .setRed) fun h => ite h (use (h.step .setRed) fun h => use (when h fun h => h.step .bump) fun h => h.step .redDone)

theorem redStep : Evolves [.regs, .cnt, .mem, .poison, .draws, .frm, .variants, .run, .late, .num, .red, .fab, .mbx, .gau] d d.redStep := by
  unfold Dev.redStep
  exact refl.step .rs |>.step .ag |>.step .fetch |>.step .preX |>.step .notice |>.step .replayRed

theorem redArrive {tag m t} :
    Evolves [.regs, .cnt, .mem, .poison, .draws, .frm, .variants, .run, .late, .num, .red, .fab, .mbx, .gau] d (d.redArrive tag m t) := by
  unfold Dev.redArrive
  exact ite (refl.step .bump)
    (ite (refl.step .bump |>.step .setRed) (ite (refl.step .bump) (ite (refl.step .bump |>.step .setRed) (refl.step .setRed |>.step .redStep))))

theorem reduceIn {p tag m t} :
    Evolves [.regs, .cnt, .mem, .poison, .draws, .frm, .variants, .run, .late, .num, .red, .fab, .mbx, .gau] d (d.reduceIn p tag m t) := by
  unfold Dev.reduceIn
  exact .routed refl fun _ h => h.step .redArrive

theorem uwrLane {den l} : Evolves [.draws] d (d.uwrLane den l).2.2 := by
  unfold Dev.uwrLane
  dsimp only
  split
  · split
    · exact refl
    · split
      · exact refl
      · exact refl
  · split
    · exact refl
    · exact refl
  · exact refl.step .draw

theorem uwrLanes {ls} : Evolves [.cnt, .draws, .num] d (d.uwrLanes ls).2 := by
  unfold Dev.uwrLanes
  exact foldlSnd refl fun _ _ h => use (h.step .uwrLane |>.step .uwrLane |>.step .bumpBy) fun h => ite h (h.step .put_num)

theorem formToken : Evolves [.cnt, .draws, .frm, .num, .red] d d.formToken := by
  unfold Dev.formToken
  exact use (refl.step .uwrLanes) fun h => use (ite (h.step .bump) h) fun h => use (ite (h.step .put_frm) h) fun h => h.step .put_frm_red

theorem holdResult {t} : Evolves [.cnt, .red] d (d.holdResult t) := by
  unfold Dev.holdResult
  exact ite (refl.step .put_red) (refl.step .bump)

theorem decideToken : Evolves [.regs, .cnt, .mem, .poison, .draws, .red, .fab, .mbx] d d.decideToken := by
  unfold Dev.decideToken
  exact use (refl.step .put_red) fun h => use (foldl (ite (h.step .partition) h) fun _ _ h => ite (h.step .txLocal) h) fun h => h.step .holdResult

theorem forwardToken : Evolves [.regs, .cnt, .mem, .poison, .draws, .red, .fab, .mbx] d d.forwardToken := by
  unfold Dev.forwardToken
  refine ite (refl.step .decideToken) ?_
  dsimp only
  split
  · exact refl.step .put_red
  · exact ite (refl.step .put_red) (refl.step .put_red |>.step .txLocal)

theorem tryToken : Evolves [.regs, .cnt, .mem, .poison, .draws, .red, .fab, .mbx] d d.tryToken := by
  unfold Dev.tryToken
  exact ite refl (ite (ite (refl.step .decideToken) refl) (ite (refl.step .forwardToken) refl))

theorem tokenIn {p m} : Evolves [.regs, .cnt, .mem, .poison, .draws, .red, .fab, .mbx] d (d.tokenIn p m) := by
  unfold Dev.tokenIn
  exact ite (refl.step .bump) (refl.step .setRed |>.step .tryToken)

theorem resultIn {p m} : Evolves [.cnt, .red, .fab] d (d.resultIn p m) := by
  unfold Dev.resultIn
  exact ite refl (use (foldl (refl.step .put_red) fun _ _ h => ite (h.step .tx) h) fun h => h.step .holdResult)

/-! ### Pounds -/

theorem setPnd {f} : Evolves [.pnd] d (d.setPnd f) := by
  unfold Dev.setPnd
  exact refl.step .put_pnd

theorem setRx {k r} : Evolves [.pnd] d (d.setRx k r) := by
  unfold Dev.setRx
  exact refl.step .setPnd

theorem setTx {k t} : Evolves [.pnd] d (d.setTx k t) := by
  unfold Dev.setTx
  exact refl.step .setPnd

theorem resetPounds : Evolves [.pnd] d d.resetPounds := by
  unfold Dev.resetPounds
  exact refl.step .setPnd

theorem poundHalt {cause pound} : Evolves [.regs, .cnt, .mem, .poison, .draws, .frm, .mbx] d (d.poundHalt cause pound) := by
  unfold Dev.poundHalt
  exact refl.step .bump |>.step .sticky |>.step .setFld |>.step .setFld |>.step .put_frm |>.step .freeze

theorem setSend {p x} : Evolves [.pnd] d (d.setSend p x) := by
  unfold Dev.setSend
  exact refl.step .setPnd

theorem sendItem {p} : Evolves [.regs, .cnt, .mem, .poison, .draws, .frm, .variants, .run, .pnd, .fab, .mbx] d (d.sendItem p) := by
  unfold Dev.sendItem
  split
  · exact refl
  · refine ite refl ?_
    dsimp only
    split
    · exact refl
    · split
      · exact refl
      · exact ite (refl.step .setSend)
          (use (ite (use (ite (refl.step .bump) refl) fun h => h.step .setTx) refl) fun h =>
            use (h.step .readChecks) fun h =>
            use (ite (use (h.step .txRouted) fun h => ite h (h.step .setTx)) h) fun h =>
            use (ite (h.step .bump |>.step .setSend) (h.step .setSend)) fun h => h.step .onRunning)

theorem sendStop {p r} : Evolves [.regs, .cnt, .mem, .poison, .draws, .frm, .pnd, .mbx] d (d.sendStop p r) := by
  unfold Dev.sendStop
  refine use ?_ fun h => h.step .setSend
  split
  · exact refl
  · split
    · exact refl
    · exact ite (refl.step .setTx) (ite (refl.step .poundHalt) refl)

theorem bargeWrite {e c store off data late} : Evolves [.cnt, .mem, .poison, .late, .pnd] d (d.bargeWrite e c store off data late) := by
  unfold Dev.bargeWrite
  exact use (refl.step .write) fun h =>
    use (ite (h.step .markLate) h) fun h => ite (h.step .setRx) (use (h.step .bump) fun h => ite (h.step .setRx) (h.step .setRx |>.step .setPnd))

theorem refuse {src pound seq} : Evolves [.pnd] d (d.refuse src pound seq) := by
  unfold Dev.refuse
  exact refl.step .setPnd

theorem bargeFirst {src late h data} : Evolves [.regs, .cnt, .mem, .poison, .draws, .frm, .late, .pnd, .mbx] d (d.bargeFirst src late h data) := by
  unfold Dev.bargeFirst
  dsimp only
  split
  · exact refl.step .refuse |>.step .bump
  · exact ite (refl.step .refuse |>.step .bump)
      (ite (refl.step .refuse |>.step .poundHalt) (use (ite refl (refl.step .setRx)) fun h => h.step .bargeWrite))

theorem bargeIn {src late h data} : Evolves [.regs, .cnt, .mem, .poison, .draws, .frm, .late, .pnd, .mbx] d (d.bargeIn src late h data) := by
  unfold Dev.bargeIn
  refine ite (ite (refl.step .bump) refl) (ite (refl.step .bargeFirst) (ite refl ?_))
  dsimp only
  split
  · exact ite (refl.step .refuse |>.step .bump) (ite (refl.step .setRx |>.step .refuse |>.step .bump) (refl.step .bargeWrite))
  · exact refl.step .refuse |>.step .bump

theorem creditIn {src body} : Evolves [.cnt, .pnd] d (d.creditIn src body) := by
  unfold Dev.creditIn
  refine ite (refl.step .bump) ?_
  split
  · exact refl.step .bump
  · exact ite refl (use (ite (refl.step .bump) refl) fun h => h.step .setTx)

theorem sendCredit {peer pound released} : Evolves [.cnt, .pnd, .fab] d (d.sendCredit peer pound released) := by
  unfold Dev.sendCredit
  exact ite (refl.step .creditIn) (ite (refl.step .bump) (foldl refl fun _ _ h => h.step .txRouted))

theorem releaseDue : Evolves [.cnt, .pnd, .fab] d d.releaseDue := by
  unfold Dev.releaseDue
  exact foldl refl fun _ _ h => ite h (foldl h fun _ _ h => h.step .setRx |>.step .sendCredit)

theorem poundCheck {k ranges} : Evolves [.cnt, .frm, .run, .pnd] d (d.poundCheck k ranges) := by
  unfold Dev.poundCheck
  exact ite refl (use (refl.step .bump |>.step .onRunning) fun h => ite (h.step .put_frm_pnd) (h.step .put_frm_pnd))

theorem hostPut : Evolves [.regs, .cnt, .mem, .poison, .draws, .frm, .variants, .run, .mbx] d d.hostPut := by
  unfold Dev.hostPut
  split
  · exact refl
  · exact ite refl (refl.step .readChecks |>.step .emit |>.step .onRunning)

theorem hostGet {data} : Evolves [.mem, .poison, .run, .late] d (d.hostGet data) := by
  unfold Dev.hostGet
  split
  · exact refl
  · exact ite refl (refl.step .emit |>.step .write |>.step .onRunning |>.step .produce)

theorem hostError : Evolves [.cnt, .frm, .run, .late] d d.hostError := by
  unfold Dev.hostError
  split
  · exact refl
  · exact ite (use (refl.step .bump |>.step .onRunning) fun h => use (ite (h.step .produce) h) fun h => h.step .trouble) refl

theorem permCheck : Evolves [.regs, .cnt, .pnd] d d.permCheck := by
  unfold Dev.permCheck
  split
  · exact refl
  · exact ite (refl.step .put_pnd |>.step .setFld |>.step .bump) refl

theorem permAck {k} : Evolves [.regs, .cnt, .pnd] d (d.permAck k) := by
  unfold Dev.permAck
  split
  · exact refl
  · exact refl.step .put_pnd |>.step .permCheck

theorem permIn {src h data} : Evolves [.regs, .cnt, .mem, .poison, .pnd, .fab] d (d.permIn src h data) := by
  unfold Dev.permIn
  split
  · exact refl.step .bump
  · exact ite (refl.step .bump)
      (use (refl.step .write |>.step .setFld) fun h => use (ite (ite (h.step .permAck) (h.step .txRouted)) h) fun h => h.step .permCheck)

theorem permMove {j e} : Evolves [.regs, .cnt, .mem, .poison, .pnd, .fab] d (d.permMove j e) := by
  unfold Dev.permMove
  exact foldl refl fun _ _ h => ite (h.step .permIn) (h.step .txRouted)

theorem permStart {a} : Evolves [.regs, .cnt, .mem, .poison, .pnd, .fab] d (d.permStart a) := by
  unfold Dev.permStart
  exact use (foldl (refl.step .put_pnd |>.step .setFld |>.step .setFld) fun _ _ h => h.step .permMove) fun h => h.step .permCheck

theorem permTimeout : Evolves [.regs, .cnt, .pnd] d d.permTimeout := by
  unfold Dev.permTimeout
  split
  · exact refl
  · exact refl.step .put_pnd |>.step .setFld |>.step .bump

theorem bargeMsg {p m} : Evolves [.regs, .cnt, .mem, .poison, .draws, .frm, .late, .pnd, .fab, .mbx] d (d.bargeMsg p m) := by
  unfold Dev.bargeMsg
  exact .routed refl fun _ h => ite (h.step .permIn) (h.step .bargeIn)

end Sys2Proof.Machine.Evolves
end

