-- ==== Sys2Proof/Proofs/EvolvesHost.lean ====
section
/-!
PROOF. How Acisk, the host interface, security and faults change the device:
one rule a function of the model, with the parts that it can change.
-/

set_option Elab.async false

namespace Sys2Proof.Machine.Evolves

variable {l m : List Part} {d e f d₀ : Dev}

/-! ### Acisk -/

theorem aciskTake {n want act} (h : Evolves l d₀ d)
    (act' : ∀ x0 x1 e, Evolves l d₀ e → Evolves l d₀ (act x0 x1 e))
    (hl : ∀ p ∈ ([.cnt, .mbx] : List Part), p ∈ l := by decide) :
    Evolves l d₀ (d.aciskTake n want act) := by
  unfold Dev.aciskTake
  split
  · exact h
  · split
    · exact h
    · exact ite (h.step .setQueue (sub hl) |>.step .bump (sub hl)) (ite (act' _ _ _ (h.step .setQueue (sub hl))) h)

theorem srNotice {k} : Evolves [.regs, .cnt, .mem, .poison, .draws, .mbx] d (d.srNotice k) := by
  unfold Dev.srNotice
  dsimp only
  split
  · exact refl
  · exact ite refl (refl.step .mbxSend)

theorem respond {k type tag st payload} : Evolves [.regs, .cnt, .mem, .poison, .draws, .mbx] d (d.respond k type tag st payload) := by
  unfold Dev.respond
  exact refl.step .write |>.step .wr |>.step .srNotice

theorem consumeReq {k} : Evolves [.mem, .poison] d (d.consumeReq k) := by
  unfold Dev.consumeReq
  exact refl.step .wr

theorem answerBad {n k} : Evolves [.regs, .cnt, .mem, .poison, .draws, .mbx] d (Dev.answerBad n d k) := by
  induction n generalizing d with
  | zero => exact refl
  | succ n ih =>
    unfold Dev.answerBad
    split
    · exact refl
    · exact ite refl (refl.step .consumeReq |>.step .respond |>.step .bump |>.step ih)

theorem deliverMgmt {n} : Evolves [.regs, .cnt, .mem, .poison, .draws, .mbx] d (Dev.deliverMgmt n d) := by
  induction n generalizing d with
  | zero => exact refl
  | succ n ih =>
    unfold Dev.deliverMgmt
    split
    · exact refl
    · exact ite refl (refl.step .put_mbx |>.step .respond |>.step ih)

theorem aciskLog : Evolves [.regs, .cnt, .mem, .poison, .draws, .mbx] d d.aciskLog := by
  unfold Dev.aciskLog
  exact ite (refl.step .put_draws) (when (refl.step .write |>.step .setFld |>.step .put_draws_mbx) fun h => h.step .bump)

theorem serve {k type act} (h : Evolves l d₀ d)
    (act' : ∀ x0 e, Evolves l d₀ e → Evolves l d₀ (act x0 e).2.2)
    (hl : ∀ p ∈ ([.regs, .cnt, .mem, .poison, .draws, .mbx] : List Part), p ∈ l := by decide) :
    Evolves l d₀ (d.serve k type act) := by
  unfold Dev.serve
  refine ite h ?_
  split
  · exact h
  · exact ite h
      (use (act' _ _ (h.step .consumeReq (sub hl))) fun h =>
        h.step .respond (sub hl) |>.step .answerBad (sub hl) |>.step .deliverMgmt (sub hl) |>.step .aciskLog (sub hl))

theorem mgmtIn {src body} : Evolves [.regs, .cnt, .mem, .poison, .draws, .mbx] d (d.mgmtIn src body) := by
  unfold Dev.mgmtIn
  exact ite (refl.step .bump) (ite (refl.step .bump) (refl.step .put_mbx |>.step .deliverMgmt))

/-! ### Host -/

theorem setHif {f} : Evolves [.hif] d (d.setHif f) := by
  unfold Dev.setHif
  exact refl.step .put_hif

theorem setSq {n q} : Evolves [.hif] d (d.setSq n q) := by
  unfold Dev.setSq
  exact refl.step .setHif

theorem setCq {n q} : Evolves [.hif] d (d.setCq n q) := by
  unfold Dev.setCq
  exact refl.step .setHif

theorem fire {v} : Evolves [.hif] d (d.fire v) := by
  unfold Dev.fire
  exact ite refl (ite (refl.step .setHif) (refl.step .emit))

theorem firePending : Evolves [.hif] d d.firePending := by
  unfold Dev.firePending
  exact foldl (refl.step .setHif) fun _ _ h => h.step .emit

theorem msixWrite {i v} : Evolves [.hif] d (d.msixWrite i v) := by
  unfold Dev.msixWrite
  exact refl.step .setHif |>.step .firePending

theorem post {n reserved e} : Evolves [.cnt, .hif] d (d.post n reserved e) := by
  unfold Dev.post
  split
  · exact refl.step .bump
  · exact ite (refl.step .bump) (when (refl.step .setCq |>.step .emit) fun h => h.step .fire)

theorem postHeld {n e} : Evolves [.cnt, .hif] d (d.postHeld n e) := by
  unfold Dev.postHeld
  exact ite (refl.step .post) (refl.step .setHif)

theorem finish {c st i0 i1 i2} : Evolves [.regs, .cnt, .mem, .poison, .draws, .hif, .mbx] d (d.finish c st i0 i1 i2) := by
  unfold Dev.finish
  refine use ?_ fun h => h.step .postHeld
  split
  · exact use (ite (refl.step .setHif |>.step .trace |>.step .bump) (refl.step .setHif |>.step .trace)) fun h => h.step .bump
  · exact use (ite (refl.step .setHif |>.step .trace |>.step .bump) (refl.step .setHif |>.step .trace)) fun h => h.step .bump
  · exact ite (refl.step .setHif |>.step .trace |>.step .bump) (refl.step .setHif |>.step .trace)

theorem take {c} : Evolves [.regs, .cnt, .mem, .poison, .draws, .hif, .mbx] d (d.take c) := by
  unfold Dev.take
  refine use ?_ fun h => h.step .trace
  split
  · exact refl.step .setHif |>.step .setCq
  · exact refl.step .setHif

theorem sweepN {n} : Evolves [.regs, .cnt, .mem, .poison, .draws, .hif, .mbx] d (Dev.sweepN n d) := by
  induction n generalizing d with
  | zero => exact refl
  | succ n ih =>
    unfold Dev.sweepN
    split
    · exact refl.step .take |>.step .finish |>.step ih
    · split
      · exact refl.step .setSq |>.step .finish |>.step ih
      · exact refl

theorem sweep : Evolves [.regs, .cnt, .mem, .poison, .draws, .hif, .mbx] d d.sweep := by
  unfold Dev.sweep
  exact refl.step .sweepN

theorem complete {c st i0 i1 i2} : Evolves [.regs, .cnt, .mem, .poison, .draws, .hif, .mbx] d (d.complete c st i0 i1 i2) := by
  unfold Dev.complete
  exact refl.step .finish |>.step .sweep

/-- What a command's row comes to (R352, R357, R368): the device has evolved by the row's own tests alone, or the command acts on such a device. -/
theorem command_induction {P : Dev → Prop} {n kind act} (hk : ∀ e, Evolves [.regs, .cnt, .mem, .poison, .draws, .hif, .mbx] d e → P e)
    (ha : ∀ c e, Evolves [.regs, .cnt, .mem, .poison, .draws, .hif, .mbx] d e → P (act c e)) : P (d.command n kind act) := by
  unfold Dev.command
  split
  · exact hk d refl
  · exact iteInduction (fun _ => hk d refl) fun _ => iteInduction (fun _ => hk _ (refl.step .take |>.step .complete)) fun _ =>
      iteInduction (fun _ => hk _ (refl.step .take |>.step .bump |>.step .complete)) fun _ =>
      iteInduction (fun _ => hk _ (refl.step .take |>.step .complete)) fun _ =>
      iteInduction (fun _ => hk _ (refl.step .take |>.step .complete)) fun _ =>
      iteInduction (fun _ => hk _ (refl.step .take)) fun _ => ha _ _ (refl.step .take)

theorem command {n kind act} (h : Evolves l d₀ d) (act' : ∀ c e, Evolves l d₀ e → Evolves l d₀ (act c e))
    (hl : ∀ p ∈ ([.regs, .cnt, .mem, .poison, .draws, .hif, .mbx] : List Part), p ∈ l := by decide) : Evolves l d₀ (d.command n kind act) :=
  command_induction (fun _ he => h.step he hl) fun c e he => act' c e (h.step he hl)

theorem opCommand {n op act} (h : Evolves l d₀ d)
    (act' : ∀ x0 e, Evolves l d₀ e → Evolves l d₀ (act x0 e))
    (hl : ∀ p ∈ ([.regs, .cnt, .mem, .poison, .draws, .hif, .mbx] : List Part), p ∈ l := by decide) :
    Evolves l d₀ (d.opCommand n op act) := by
  unfold Dev.opCommand
  exact .command h (fun _ _ h => act' _ _ h) (sub hl)

theorem tailDoorbell {n v} : Evolves [.cnt, .hif] d (d.tailDoorbell n v) := by
  unfold Dev.tailDoorbell
  refine ite refl ?_
  split
  · exact refl.step .bump
  · exact ite (refl.step .bump) (refl.step .setSq)

theorem headDoorbell {n v} : Evolves [.regs, .cnt, .mem, .poison, .draws, .hif, .mbx] d (d.headDoorbell n v) := by
  unfold Dev.headDoorbell
  refine ite refl ?_
  split
  · exact refl.step .bump
  · exact ite (refl.step .bump) (refl.step .setCq |>.step .sweep)

theorem bar2Write {whole act} (h : Evolves l d₀ d)
    (act' : ∀ e, Evolves l d₀ e → Evolves l d₀ (act e))
    (hl : ∀ p ∈ ([.cnt] : List Part), p ∈ l := by decide) :
    Evolves l d₀ (d.bar2Write whole act) := by
  unfold Dev.bar2Write
  exact ite (h.step .bump (sub hl)) (act' _ h)

theorem fetchDesc {n data} : Evolves [.regs, .cnt, .mem, .poison, .draws, .hif, .mbx] d (d.fetchDesc n data) := by
  unfold Dev.fetchDesc
  split
  · exact refl
  · refine ite refl ?_
    dsimp only
    split
    · exact refl.step .setSq |>.step .bump |>.step .post
    · exact refl.step .setSq |>.step .setHif |>.step .sweep

theorem idleRead {a n} : Evolves [.regs, .cnt, .mem, .poison, .draws, .frm, .variants, .mbx] d (d.idleRead a n) := by
  unfold Dev.idleRead
  exact foldl refl fun _ _ h => h.step .uncorr

theorem writeAdmin {v} : Evolves [.regs, .cnt, .mem, .poison, .draws, .hif, .mbx] d (d.writeAdmin v) := by
  unfold Dev.writeAdmin
  exact ite (ite refl (refl.step .setFld |>.step .setSq |>.step .setCq |>.step .setHif |>.step .sweep))
    (use (ite (refl.step .setFld) refl) fun h => when (ite (h.step .setFld) h) fun h => h.step .setFld |>.step .setSq |>.step .setCq)

theorem bar4Gate {refused blocked act} (h : Evolves l d₀ d)
    (act'0 : ∀ e, Evolves l d₀ e → Evolves l d₀ (refused e))
    (act'1 : ∀ e, Evolves l d₀ e → Evolves l d₀ (blocked e))
    (act'2 : ∀ e, Evolves l d₀ e → Evolves l d₀ (act e))
    (hl : ∀ p ∈ ([.cnt] : List Part), p ∈ l := by decide) :
    Evolves l d₀ (d.bar4Gate refused blocked act) := by
  unfold Dev.bar4Gate
  exact ite (act'0 _ h) (ite (act'1 _ (h.step .bump (sub hl))) (act'2 _ h))

theorem setPower {p} : Evolves [.regs, .cnt, .hif, .mbx] d (d.setPower p) := by
  unfold Dev.setPower
  exact use (refl.step .setHif) fun h =>
    ite (h.step .domainDown) (ite (use (foldl (h.step .setHif) fun _ _ h => h.step .postHeld) fun h => h.step .firePending) h)

/-! ### Secure -/

theorem setSec {f} : Evolves [.sec] d (d.setSec f) := by
  unfold Dev.setSec
  exact refl.step .put_sec

theorem noteSig {kind r} : Evolves [.regs, .cnt] d (d.noteSig kind r) := by
  unfold Dev.noteSig
  exact ite (refl.step .bump) (refl.step .bump |>.step .setFld |>.step .setFld |>.step .setFld |>.step .setFld)

theorem setFpDigest : Evolves [.regs] d d.setFpDigest := by
  unfold Dev.setFpDigest
  exact foldl refl fun _ _ h => h.step .setFld

theorem askCommit {r} : Evolves [.sec] d (d.askCommit r) := by
  unfold Dev.askCommit
  exact refl.step .setSec

theorem burnFloors {fwBad certBad} : Evolves [.cnt, .sec] d (d.burnFloors fwBad certBad) := by
  unfold Dev.burnFloors
  split
  · exact refl
  · exact refl.step .setSec |>.step .bump |>.step .bumpBy

theorem secretBytes {n} : Evolves [.draws] d (d.secretBytes n).2 := by
  unfold Dev.secretBytes
  exact refl.step .put_draws

theorem spdm {ver code p1 p2 body} : Evolves [] d (d.spdm ver code p1 p2 body) := by
  unfold Dev.spdm
  exact refl.step .emit

theorem spdmErr {code data} : Evolves [.cnt] d (d.spdmErr code data) := by
  unfold Dev.spdmErr
  exact refl.step .bump |>.step .spdm

theorem spdmReq {act} (h : Evolves l d₀ d)
    (act' : ∀ e, Evolves l d₀ e → Evolves l d₀ (act e))
    (hl : ∀ p ∈ ([.cnt] : List Part), p ∈ l := by decide) :
    Evolves l d₀ (d.spdmReq act) := by
  unfold Dev.spdmReq
  exact ite h (act' _ (h.step .bump (sub hl)))

theorem spdmAt {ver phase act} (h : Evolves l d₀ d)
    (act' : ∀ e, Evolves l d₀ e → Evolves l d₀ (act e))
    (hl : ∀ p ∈ ([.cnt] : List Part), p ∈ l := by decide) :
    Evolves l d₀ (d.spdmAt ver phase act) := by
  unfold Dev.spdmAt
  exact .spdmReq h (fun _ h => ite (h.step .spdmErr (sub hl)) (ite (h.step .spdmErr (sub hl)) (act' _ h))) (sub hl)

theorem setSessions {l} : Evolves [.regs, .sec] d (d.setSessions l) := by
  unfold Dev.setSessions
  exact refl.step .setSec |>.step .setFld

theorem inSession {id done act} (h : Evolves l d₀ d)
    (act' : ∀ x0 e, Evolves l d₀ e → Evolves l d₀ (act x0 e))
    (hl : ∀ p ∈ ([.cnt] : List Part), p ∈ l := by decide) :
    Evolves l d₀ (d.inSession id done act) := by
  unfold Dev.inSession
  refine .spdmReq h (fun _ h => ?_) (sub hl)
  split
  · exact h.step .spdmErr (sub hl)
  · exact act' _ _ h

theorem endSession {id} : Evolves [.regs, .sec] d (d.endSession id) := by
  unfold Dev.endSession
  exact refl.step .setSessions

theorem onSession {id f} : Evolves [.sec] d (d.onSession id f) := by
  unfold Dev.onSession
  exact refl.step .setSec

theorem setIde : Evolves [.regs] d d.setIde := by
  unfold Dev.setIde
  exact refl.step .setFld |>.step .setFld

theorem loseIde {v} : Evolves [.regs, .sec] d (d.loseIde v) := by
  unfold Dev.loseIde
  exact refl.step .setSec |>.step .setFld |>.step .setFld

theorem ideRsp {body} : Evolves [] d (d.ideRsp body) := by
  unfold Dev.ideRsp
  exact refl.step .spdm

theorem ideReq {session bad act} (h : Evolves l d₀ d)
    (act'0 : ∀ e, Evolves l d₀ e → Evolves l d₀ (bad e))
    (act'1 : ∀ e, Evolves l d₀ e → Evolves l d₀ (act e))
    (hl : ∀ p ∈ ([.cnt] : List Part), p ∈ l := by decide) :
    Evolves l d₀ (d.ideReq session bad act) := by
  unfold Dev.ideReq
  exact .spdmReq h (fun _ h => ite (act'1 _ h) (act'0 _ (h.step .bump (sub hl)))) (sub hl)

theorem lockSec : Evolves [.sec] d d.lockSec := by
  unfold Dev.lockSec
  exact refl.step .setSec

/-! ### Faults -/

theorem setSentUnit {k u} : Evolves [.flt] d (d.setSentUnit k u) := by
  unfold Dev.setSentUnit
  exact refl.step .put_flt

theorem nextPack {bank count items x n j wrapped} : Evolves [.cnt] d (Dev.nextPack bank count items x n j wrapped d).2 := by
  induction n generalizing d j wrapped with
  | zero => exact refl
  | succ n ih =>
    unfold Dev.nextPack
    dsimp only
    split
    · exact ih
    · exact iteSnd refl (refl.step .bump |>.step ih)

theorem countPasses : Evolves [.regs, .flt] d d.countPasses := by
  unfold Dev.countPasses
  exact ite (foldl (refl.step .setFld) fun _ _ h => h.step .setSentUnit) refl

theorem chooseCheck {key who items x} : Evolves [.regs, .cnt, .flt] d (d.chooseCheck key who items x).2 := by
  unfold Dev.chooseCheck
  dsimp only
  split
  · exact refl.step .setSentUnit
  · exact refl.step .setSentUnit
  · exact refl.step .setSentUnit
  · refine iteSnd (refl.step .setSentUnit) ?_
    split
    · next hx => exact use (refl.step .setSentUnit |>.step .nextPack) fun h => by rw [hx] at h; exact h.step .setSentUnit
    · next hx => exact use (refl.step .setSentUnit |>.step .nextPack) fun h => by rw [hx] at h; exact h.step .setSentUnit |>.step .countPasses

theorem sentLast {cls unit cause result epoch pack} : Evolves [.regs] d (d.sentLast cls unit cause result epoch pack) := by
  unfold Dev.sentLast
  exact refl.step .setFld |>.step .setFld |>.step .setFld |>.step .setFld |>.step .setFld |>.step .setFld

theorem permAction {cls unit} : Evolves [.regs, .cnt, .red] d (d.permAction cls unit) := by
  unfold Dev.permAction
  refine ite (ite (refl.step .put_red) refl) ?_
  split
  · exact refl
  · exact refl.step .kilnRequest
  · exact refl.step .put_red |>.step .kilnRequest

theorem sentOutcome {cls unit pack cause} : Evolves [.regs, .cnt, .mem, .poison, .draws, .red, .mbx, .flt] d (d.sentOutcome cls unit pack cause) := by
  unfold Dev.sentOutcome
  dsimp only
  split
  · exact refl.step .bump
  · exact refl.step .bump |>.step .put_flt |>.step .bump |>.step .sticky |>.step .sentLast
  · exact refl.step .bump |>.step .bump |>.step .sentLast |>.step .put_flt
  · exact use (refl.step .bump |>.step .put_flt |>.step .bump |>.step .sentLast) fun h =>
      ite (h.step .bump |>.step .sticky) (use (h.step .bump |>.step .sticky |>.step .setFld) fun h => ite h (h.step .permAction))

theorem wholeTask {c r b} :
    Evolves [.regs, .cnt, .mem, .poison, .draws, .frm, .variants, .run, .late, .rack, .mxc, .num, .mbx] d (d.wholeTask c r b) := by
  unfold Dev.wholeTask
  dsimp only
  split
  · exact refl.step .setRunning |>.step .matmul
  · exact refl.step .setRunning |>.step .move
  · exact refl.step .setRunning |>.step .gatherRows
  · exact refl.step .setRunning |>.step .vprog
  · exact refl.step .setRunning |>.step .assemble
  · exact refl.step .setRunning |>.step .bwdWot
  · exact .attn (refl.step .setRunning) fun _ _ _ _ h => h.step .attnFwdBlock
  · exact .attn (refl.step .setRunning) fun _ _ _ _ h => h.step .attnBwdBlock
  · exact refl.step .setRunning |>.step .normBwd
  · exact refl.step .setRunning |>.step .tiesum
  · exact refl.step .setRunning |>.step .compare
  · exact refl.step .setRunning |>.step .lrFit
  · exact refl.step .setRunning

theorem packDiscard : Evolves [.cnt] d d.packDiscard := by
  unfold Dev.packDiscard
  exact refl.step .bump

theorem mxcSentinel {c} :
    Evolves [.regs, .cnt, .mem, .poison, .draws, .frm, .variants, .run, .late, .rack, .mxc, .num, .red, .mbx, .flt] d (d.mxcSentinel c) := by
  unfold Dev.mxcSentinel
  dsimp only
  split
  · exact use (refl.step .chooseCheck) fun h => ite (h.step .packDiscard |>.step .setRunning)
      (use (foldl h fun _ _ h => h.step .uncorr) fun h => use (h.step .write) fun h =>
        ite (h.step .setRunning |>.step .sentOutcome) (use (h.step .wholeTask |>.step .setRunning) fun h =>
          ite (h.step .sentOutcome) (ite (h.step .sentOutcome) (h.step .sentOutcome))))
  · exact refl

theorem tunVector {t lsb tol group stride scratch pend st v} :
    Evolves [.cnt, .draws] st.2 (Dev.tunVector t lsb tol group stride scratch pend st v).2 := by
  unfold Dev.tunVector
  exact when (refl.step .put_draws |>.step .bump |>.step .bumpBy) fun h => h.step .bump

theorem tunSentinel {b sub} : Evolves [.regs, .cnt, .mem, .poison, .draws, .frm, .variants, .run, .red, .mbx, .flt] d (d.tunSentinel b sub) := by
  unfold Dev.tunSentinel
  dsimp only
  split
  · exact use (refl.step .chooseCheck) fun h => ite (h.step .packDiscard |>.step .setRunning)
      (use (foldl h fun _ _ h => h.step .uncorr) fun h => use (h.step .write) fun h =>
        use (foldlSnd h fun _ _ h => h.step .tunVector) fun h => use (h.step .setRunning) fun h =>
        ite h (use (h.step .put_flt) fun h => use (h.step .sentOutcome) fun h => when h fun h => h.step .setSentUnit))
  · exact refl

theorem sentTimeout {cls idx sub} : Evolves [.regs, .cnt, .mem, .poison, .draws, .red, .mbx, .flt] d (d.sentTimeout cls idx sub) := by
  unfold Dev.sentTimeout
  split
  · exact refl
  · exact use (refl.step .chooseCheck) fun h => ite h (h.step .sentOutcome)

theorem armWatchdog : Evolves [.regs] d d.armWatchdog := by
  unfold Dev.armWatchdog
  exact refl.step .setFld |>.step .setFld |>.step .setFld

theorem wdogExpire : Evolves [.regs, .cnt, .mem, .poison, .draws, .frm, .hif, .mbx] d d.wdogExpire := by
  unfold Dev.wdogExpire
  exact ite refl
    (refl.step .sticky |>.step .setFld |>.step .setFld |>.step .setFld |>.step .bump |>.step .setFld |>.step .mgmtDown |>.step .fire |>.step .freeze)

end Sys2Proof.Machine.Evolves
end

