-- ==== Sys2Proof/Proofs/EvolvesBoundary.lean ====
section
/-!
PROOF. How the step boundary, slots and frames change the device:
one rule a function of the model, with the parts that it can change.
-/

set_option Elab.async false

namespace Sys2Proof.Machine.Evolves

variable {l m : List Part} {d e f d₀ : Dev}

/-! ### Grants -/

theorem countDescErrs : Evolves [.cnt] d d.countDescErrs := by
  unfold Dev.countDescErrs
  exact refl.step .bumpBy

theorem setGrants {new denied} : Evolves [.regs] d (d.setGrants new denied) := by
  unfold Dev.setGrants
  exact use (foldl refl fun _ _ h => h.step .setFld) fun h => h.step .setFld |>.step .setFld

theorem digitalGrants : Evolves [.regs, .cnt, .num] d d.digitalGrants := by
  unfold Dev.digitalGrants
  exact refl.step .put_num |>.step .bumpBy |>.step .setGrants

theorem carryGrants : Evolves [.regs] d d.carryGrants := by
  unfold Dev.carryGrants
  exact refl.step .setGrants

theorem analogGrants {k} : Evolves [.regs, .cnt, .mem, .poison, .draws, .spg, .num, .mbx] d (d.analogGrants k) := by
  unfold Dev.analogGrants
  exact when (refl.step .put_spg_num |>.step .bumpBy |>.step .bumpBy |>.step .setGrants |>.step .setFld) fun h =>
    foldl (h.step .sticky |>.step .bump) fun _ _ h => h.step .kilnRequest

theorem boundaryGrants {k} : Evolves [.regs, .cnt, .mem, .poison, .draws, .spg, .num, .mbx] d (d.boundaryGrants k) := by
  unfold Dev.boundaryGrants
  refine ite (refl.step .digitalGrants) ?_
  split
  · exact refl.step .analogGrants
  · exact refl

theorem formRequest : Evolves [.spg] d d.formRequest := by
  unfold Dev.formRequest
  exact refl.step .put_spg

theorem writeLayerStats {layers} : Evolves [.mem, .poison] d (d.writeLayerStats layers) := by
  unfold Dev.writeLayerStats
  exact ite refl (foldl refl fun _ _ h => h.step .write)

theorem shiftStats : Evolves [.spg] d d.shiftStats := by
  unfold Dev.shiftStats
  exact refl.step .put_spg

theorem takeSpg : Evolves [.spg] d d.takeSpg := by
  unfold Dev.takeSpg
  exact refl.step .put_spg

/-! ### Numerics -/

theorem setNum {f} : Evolves [.num] d (d.setNum f) := by
  unfold Dev.setNum
  exact refl.step .put_num

theorem takePolicy : Evolves [.regs] d d.takePolicy := by
  unfold Dev.takePolicy
  exact refl.step .setFld

theorem lossScale {skipped sat} : Evolves [.regs, .cnt] d (d.lossScale skipped sat) := by
  unfold Dev.lossScale
  exact ite (use (ite (refl.step .bump) (refl.step .setFld |>.step .bump)) fun h => h.step .setFld)
    (ite (refl.step .setFld) (ite (when (refl.step .setFld) fun h => h.step .setFld |>.step .bump) (refl.step .setFld)))

theorem setLpAdj {l a dir} : Evolves [.regs, .num] d (d.setLpAdj l a dir) := by
  unfold Dev.setLpAdj
  exact refl.step .setFld |>.step .setNum

theorem lpLayer {st x} : Evolves [.regs, .cnt, .num] st.2 (Dev.lpLayer st x).2 := by
  unfold Dev.lpLayer
  exact use (ite (refl.step .bump) refl) fun h => iteSnd h (iteSnd (h.step .bump) (iteSnd (h.step .bump) (h.step .setLpAdj |>.step .bump)))

theorem lpApply {trb} : Evolves [.regs, .cnt, .mem, .poison, .draws, .num, .mbx] d (d.lpApply trb).2 := by
  unfold Dev.lpApply
  exact foldlSnd (ite (refl.step .sticky) refl) fun _ _ h => h.step .lpLayer

theorem writeParams : Evolves [.regs, .cnt, .mem, .poison, .draws, .frm, .variants, .mbx] d d.writeParams := by
  unfold Dev.writeParams
  exact ite refl (use (ite refl (refl.step .readStep)) fun h => h.step .write |>.step .zeroFill)

theorem writeMon {epoch outcome t l} : Evolves [.regs, .cnt, .mem, .poison] d (d.writeMon epoch outcome t l) := by
  unfold Dev.writeMon
  exact when (refl.step .write |>.step .setFld) fun h => h.step .bump

theorem writeRing {epoch outcome t} : Evolves [.regs, .cnt, .mem, .poison] d (d.writeRing epoch outcome t) := by
  unfold Dev.writeRing
  exact ite (foldl refl fun _ _ h => h.step .writeMon) refl

theorem takeExps {en ed t} : Evolves [.num] d (d.takeExps en ed t) := by
  unfold Dev.takeExps
  exact foldl refl fun _ _ h => h.step .setNum

theorem shiftNum : Evolves [.num] d d.shiftNum := by
  unfold Dev.shiftNum
  exact refl.step .setNum

/-! ### Boundary -/

theorem setFrm {f} : Evolves [.frm] d (d.setFrm f) := by
  unfold Dev.setFrm
  exact refl.step .put_frm

theorem abortCmds {p} : Evolves [.regs, .cnt, .mem, .poison, .draws, .hif, .mbx] d (d.abortCmds p) := by
  unfold Dev.abortCmds
  exact foldl refl fun _ _ h => h.step .complete

theorem abortStart : Evolves [.regs, .cnt, .mem, .poison, .draws, .frm, .hif, .mbx] d d.abortStart := by
  unfold Dev.abortStart
  exact refl.step .setFrm |>.step .abortCmds

theorem dropStaged : Evolves [.regs, .mbx] d d.dropStaged := by
  unfold Dev.dropStaged
  exact when (refl.step .put_mbx) fun h => h.step .setFld

theorem abortUpdate : Evolves [.regs, .cnt, .mem, .poison, .draws, .frm, .hif, .mbx] d d.abortUpdate := by
  unfold Dev.abortUpdate
  exact refl.step .setFrm |>.step .dropStaged |>.step .abortCmds

theorem abortEpochs : Evolves [.regs, .cnt, .mem, .poison, .draws, .frm, .hif, .mbx] d d.abortEpochs := by
  unfold Dev.abortEpochs
  exact when (refl.step .setFrm |>.step .abortCmds) fun h => h.step .abortUpdate

theorem stepCompletion {st epoch reason mask replays repeats cause} :
    Evolves [.cnt, .draws, .hif] d (d.stepCompletion st epoch reason mask replays repeats cause) := by
  unfold Dev.stepCompletion
  exact refl.step .draw |>.step .setHif |>.step .postHeld

theorem stepState {outcome reason mask cause} : Evolves [.regs] d (d.stepState outcome reason mask cause) := by
  unfold Dev.stepState
  exact refl.step .setFld |>.step .setFld |>.step .setFld |>.step .setFld

theorem stopSteps : Evolves [.frm, .run, .rack, .kln, .red] d d.stopSteps := by
  unfold Dev.stopSteps
  exact refl.step .put_frm_run_rack_kln_red

theorem activatePack : Evolves [.regs, .flt] d d.activatePack := by
  unfold Dev.activatePack
  split
  · exact refl
  · exact use (foldl refl fun _ _ h => h.step .setSentUnit) fun h => h.step .put_flt |>.step .setFld |>.step .setFld

theorem holdStep {cause reason mask} :
    Evolves [.regs, .cnt, .mem, .poison, .draws, .frm, .run, .rack, .kln, .red, .fab, .hif, .mbx, .flt] d (d.holdStep cause reason mask) := by
  unfold Dev.holdStep
  exact use (refl.step .stopSteps) fun h =>
    use (ite (h.step .setFld) h) fun h =>
    ite (ite (h.step .writeLedger) h)
      (use (h.step .stepState) fun h =>
        use (ite (h.step .partition) h) fun h =>
        use (ite (h.step .setFld) h) fun h =>
        use (h.step .stepCompletion |>.step .trace |>.step .setSt) fun h =>
        use (ite h (h.step .fire)) fun h =>
        use (h.step .writeLedger) fun h => ite (h.step .setFrm |>.step .abortCmds) (h.step .activatePack |>.step .abortStart |>.step .abortEpochs))

theorem holdNow {cause} :
    Evolves [.regs, .cnt, .mem, .poison, .draws, .frm, .run, .rack, .kln, .red, .fab, .hif, .mbx, .flt] d (d.holdNow cause) := by
  unfold Dev.holdNow
  exact use (ite (refl.step .setFld) refl) fun h => h.step .holdStep

theorem takeFlt : Evolves [.flt] d d.takeFlt := by
  unfold Dev.takeFlt
  exact refl.step .put_flt

theorem portsUp : Evolves [.regs, .cnt, .mem, .poison, .draws, .fab, .mbx] d d.portsUp := by
  unfold Dev.portsUp
  exact use (foldl refl fun _ _ h => ite (h.step .bringUp) h) fun h => h.step .put_fab

theorem activate {v} : Evolves [.regs, .cnt, .mem, .poison, .draws, .frm, .variants, .num, .mbx] d (d.activate v) := by
  unfold Dev.activate
  split
  · exact refl
  · exact use
        (refl.step .setFld |>.step .setFld |>.step .setFld |>.step .setFpDigest |>.step .takePolicy |>.step .countDescErrs |>.step .setNum
          |>.step .writeParams) fun h =>
      ite h (h.step .trace)

theorem changeTo {v} : Evolves [.regs, .cnt, .mem, .poison, .draws, .frm, .variants, .num, .mbx] d (d.changeTo v) := by
  unfold Dev.changeTo
  exact refl.step .activate |>.step .bump |>.step .setFld |>.step .setFrm

theorem switchTo {v} : Evolves [.regs, .cnt, .mem, .poison, .draws, .frm, .variants, .num, .mbx] d (d.switchTo v) := by
  unfold Dev.switchTo
  exact refl.step .changeTo |>.step .setFld

theorem writeCask : Evolves [.mem, .poison, .draws] d d.writeCask := by
  unfold Dev.writeCask
  exact refl.step .put_draws |>.step .write

theorem enterImage {b} : Evolves [.regs, .mbx, .sec] d (d.enterImage b) := by
  unfold Dev.enterImage
  exact refl.step .setFld |>.step .setFld |>.step .setFld |>.step .setFld |>.step .setSec |>.step .put_mbx |>.step .armWatchdog

theorem handover : Evolves [.regs, .cnt, .mem, .poison, .draws, .frm, .hif, .mbx, .sec] d d.handover := by
  unfold Dev.handover
  exact refl.step .setFrm |>.step .abortCmds |>.step .writeCask |>.step .setFld |>.step .setFld |>.step .put_mbx |>.step .enterImage

theorem atCommit : Evolves [.regs, .cnt, .mem, .poison, .draws, .frm, .run, .hif, .mbx, .sec] d d.atCommit := by
  unfold Dev.atCommit
  refine ite (foldl (refl.step .setSt |>.step .setFrm |>.step .put_run) fun _ _ h => h.step .complete) ?_
  split
  · exact ite refl (when (refl.step .setSt |>.step .setFrm |>.step .put_run) fun h => h.step .handover)
  · exact refl

theorem stageOverrun : Evolves [.regs, .cnt, .mem, .poison, .draws, .pnd, .mbx] d d.stageOverrun := by
  unfold Dev.stageOverrun
  exact use (refl.step .setPnd) fun h => ite h (h.step .sticky |>.step .bump |>.step .setFld |>.step .setFld)

theorem measure {m} : Evolves [.regs, .cnt] d (d.measure m) := by
  unfold Dev.measure
  exact use (refl.step .setFld |>.step .setFld) fun h =>
    use (ite (h.step .setFld) h) fun h =>
    use (foldl (ite (h.step .setFld |>.step .bump) (h.step .setFld)) fun _ _ h => h.step .setFld) fun h => h.step .bumpBy

theorem writeStepMin : Evolves [.regs] d d.writeStepMin := by
  unfold Dev.writeStepMin
  split
  · exact refl
  · exact refl.step .setFld |>.step .setFld |>.step .setFld |>.step .setFld |>.step .setFld

theorem markFits : Evolves [.rack] d d.markFits := by
  unfold Dev.markFits
  exact refl.step .put_rack

theorem fold {epoch} : Evolves [.regs, .cnt, .mem, .poison, .draws, .frm, .variants, .rack, .mbx, .flt] d (d.fold epoch) := by
  unfold Dev.fold
  exact ite (use (foldl refl fun _ _ h => h.step .foldComplete) fun h => h.step .foldStart) refl

theorem storeScales : Evolves [.regs, .cnt, .mem, .poison, .draws, .frm, .variants, .mbx] d d.storeScales := by
  unfold Dev.storeScales
  exact foldl (refl.step .readStep) fun _ _ h => ite h (h.step .setByte |>.step .setByte)

theorem countSplit {t} : Evolves [.cnt] d (d.countSplit t) := by
  unfold Dev.countSplit
  exact ite (refl.step .bump) refl

theorem voteSwitch {t} : Evolves [.regs, .cnt, .mem, .poison, .draws, .frm, .variants, .num, .mbx] d (d.voteSwitch t) := by
  unfold Dev.voteSwitch
  split
  · exact refl.step .switchTo
  · exact refl

theorem nextRun : Evolves [.frm, .late, .red, .pnd] d d.nextRun := by
  unfold Dev.nextRun
  exact refl.step .put_frm_late_red |>.step .resetPounds

theorem applyResult {t} :
    Evolves [.regs, .cnt, .mem, .poison, .draws, .frm, .variants, .run, .late, .spg, .rack, .kln, .num, .red, .pnd, .fab, .hif, .mbx, .flt, .sec] d
      (d.applyResult t) := by
  unfold Dev.applyResult
  exact use (iteSnd refl (refl.step .lpApply)) fun h =>
    use (ite h (h.step .lossScale)) fun h =>
    use (ite (h.step .bump |>.step .sticky) h) fun h =>
    use (h.step .writeRing |>.step .countSplit) fun h =>
    use (ite h (h.step .voteSwitch)) fun h =>
    use (h.step .boundaryGrants |>.step .takeExps |>.step .writeLayerStats |>.step .shiftStats |>.step .shiftNum) fun h =>
    ite (h.step .markFits |>.step .sticky |>.step .bump |>.step .holdStep)
      (use (h.step .storeScales) fun h =>
        use (ite (h.step .setFld |>.step .bump) (h.step .setFld |>.step .setNum |>.step .setPnd |>.step .fold)) fun h =>
        use (ite (h.step .setFld |>.step .bump) h) fun h =>
        use (h.step .markFits |>.step .stepState |>.step .activatePack |>.step .stepCompletion |>.step .trace) fun h =>
        use (ite (h.step .atCommit) h) fun h => h.step .nextRun |>.step .writeLedger)

theorem boundary {m} :
    Evolves [.regs, .cnt, .mem, .poison, .draws, .frm, .variants, .run, .late, .spg, .rack, .kln, .num, .red, .pnd, .fab, .hif, .mbx, .flt, .sec] d
      (d.boundary m) := by
  unfold Dev.boundary
  dsimp only
  split
  · exact refl.step .takeSpg |>.step .takeFlt |>.step .stageOverrun |>.step .portsUp |>.step .setFld |>.step .measure |>.step .writeStepMin
      |>.step .bump |>.step .holdStep
  · exact ite
      (refl.step .takeSpg |>.step .takeFlt |>.step .stageOverrun |>.step .portsUp |>.step .setFld |>.step .measure |>.step .writeStepMin
        |>.step .countSplit |>.step .bump |>.step .holdStep)
      (refl.step .takeSpg |>.step .takeFlt |>.step .stageOverrun |>.step .portsUp |>.step .setFld |>.step .measure |>.step .writeStepMin
        |>.step .applyResult)

/-! ### Slots -/

theorem overrun : Evolves [.regs, .cnt, .mem, .poison, .draws, .frm, .mbx] d d.overrun := by
  unfold Dev.overrun
  exact use (ite refl (refl.step .bump |>.step .sticky)) fun h => h.step .setFrm |>.step .trouble

theorem slotSlack {slack u} : Evolves [.frm] d (d.slotSlack slack u) := by
  unfold Dev.slotSlack
  split
  · exact ite (refl.step .setFrm) refl
  · exact refl.step .setFrm

theorem failSlot {key r c} : Evolves [.cnt, .run] d (d.failSlot key r c) := by
  unfold Dev.failSlot
  exact refl.step .setRunning |>.step .bump

theorem beginTask {cls idx key count r} :
    Evolves [.regs, .cnt, .mem, .poison, .draws, .frm, .variants, .run, .pnd, .mbx] d (d.beginTask cls idx key count r) := by
  unfold Dev.beginTask
  exact refl.step .setRunning |>.step .consume |>.step .poundCheck

theorem startBasin {b key s} : Evolves [.regs, .cnt, .mem, .poison, .draws, .frm, .variants, .run, .pnd, .mbx] d (d.startBasin b key s) := by
  unfold Dev.startBasin
  exact ite (refl.step .setRunning) (ite (refl.step .beginTask) (refl.step .failSlot))

theorem mxcError {c task cause} : Evolves [.regs] d (d.mxcError c task cause) := by
  unfold Dev.mxcError
  exact refl.step .setFld |>.step .setFld |>.step .setFld |>.step .setFld

theorem fitCount {t s} : Evolves [.rack] d (d.fitCount t s).2 := by
  unfold Dev.fitCount
  exact iteSnd refl (refl.step .put_rack)

theorem startMxc {c key s task digital} :
    Evolves [.regs, .cnt, .mem, .poison, .draws, .frm, .variants, .run, .rack, .mxc, .pnd, .mbx] d (d.startMxc c key s task digital) := by
  unfold Dev.startMxc
  refine ite (refl.step .setRunning |>.step .bump)
    (ite (refl.step .failSlot |>.step .mxcError) (ite (use (iteSnd (refl.step .fitCount) refl) fun h => h.step .beginTask |>.step .startProg) ?_))
  split
  · exact ite (use (iteSnd (refl.step .fitCount) refl) fun h => h.step .beginTask |>.step .startProg)
      (use (iteSnd (refl.step .fitCount) refl) fun h => h.step .beginTask)
  · exact use (iteSnd (refl.step .fitCount) refl) fun h => h.step .beginTask

theorem startFallback {c key s} :
    Evolves [.regs, .cnt, .mem, .poison, .draws, .frm, .variants, .run, .rack, .mxc, .pnd, .mbx] d (d.startFallback c key s) := by
  unfold Dev.startFallback
  split
  · exact refl.step .startMxc
  · exact refl.step .setRunning

theorem startSparge {key s} : Evolves [.run] d (d.startSparge key s) := by
  unfold Dev.startSparge
  exact refl.step .setRunning

theorem startRed {key s} : Evolves [.regs, .cnt, .mem, .poison, .draws, .frm, .variants, .run, .red, .pnd, .mbx] d (d.startRed key s) := by
  unfold Dev.startRed
  exact use (refl.step .setRed) fun h => ite (h.step .failSlot) (h.step .beginTask)

theorem startSend {p key s} : Evolves [.regs, .cnt, .mem, .poison, .draws, .frm, .variants, .run, .pnd, .mbx] d (d.startSend p key s) := by
  unfold Dev.startSend
  exact ite (refl.step .failSlot) (refl.step .setSend |>.step .beginTask)

theorem startHost {key s} : Evolves [.regs, .cnt, .mem, .poison, .draws, .frm, .variants, .run, .pnd, .mbx] d (d.startHost key s) := by
  unfold Dev.startHost
  exact ite (refl.step .failSlot) (refl.step .beginTask)

theorem startRack {b key s} : Evolves [.run, .rack] d (d.startRack b key s) := by
  unfold Dev.startRack
  exact foldl (refl.step .setRunning) fun _ _ h => h.step .installQueue

theorem startKiln {b key s} : Evolves [.regs, .cnt, .run, .kln, .gau] d (d.startKiln b key s) := by
  unfold Dev.startKiln
  exact use (refl.step .setRunning |>.step .startRun) fun h => ite (h.step .bump) (ite (h.step .onRunning |>.step .kilnOverlaps) h)

theorem openSlot {cls idx s} :
    Evolves [.regs, .cnt, .mem, .poison, .draws, .frm, .variants, .run, .rack, .kln, .mxc, .red, .pnd, .mbx, .gau] d (d.openSlot cls idx s) := by
  unfold Dev.openSlot
  dsimp only
  split
  · exact refl.step .startRack
  · exact refl.step .startKiln
  · exact refl.step .setRunning
  · exact refl.step .startFallback
  · split
    · exact refl.step .startBasin
    · exact refl.step .startMxc
    · exact refl.step .startSparge
    · exact refl.step .startRed
    · exact refl.step .startSend
    · exact refl.step .startHost

theorem readProgram {parts} : Evolves [.regs, .cnt, .mem, .poison, .draws, .frm, .variants, .mbx] d (d.readProgram parts) := by
  unfold Dev.readProgram
  split
  · split
    · exact refl.step .readStep
    · exact refl
  · exact refl

theorem slotStart {cls idx k} :
    Evolves [.regs, .cnt, .mem, .poison, .draws, .frm, .variants, .run, .rack, .kln, .mxc, .red, .pnd, .mbx, .gau] d (d.slotStart cls idx k) := by
  unfold Dev.slotStart
  refine ite refl ?_
  split
  · exact refl
  · exact ite refl (refl.step .setFrm |>.step .readProgram |>.step .openSlot)

theorem lateOutputs {cls idx r} : Evolves [.late] d (d.lateOutputs cls idx r) := by
  unfold Dev.lateOutputs
  exact foldl refl fun _ _ h => h.step .markLate

theorem taskEnds {cls idx key q r} :
    Evolves [.regs, .cnt, .mem, .poison, .draws, .frm, .variants, .run, .late, .mxc, .num, .mbx] d (d.taskEnds cls idx key q r) := by
  unfold Dev.taskEnds
  exact use (ite (refl.step .endProg) refl) fun h => use (ite (h.step .lateOutputs) h) fun h => h.step .setRunning |>.step .slotSlack

theorem taskComplete {cls idx sub q} :
    Evolves [.regs, .cnt, .mem, .poison, .draws, .frm, .variants, .run, .late, .mxc, .num, .mbx] d (d.taskComplete cls idx sub q) := by
  unfold Dev.taskComplete
  dsimp only
  split
  · exact refl
  · exact ite refl (refl.step .taskEnds)

theorem stopUnit {cls idx r} :
    Evolves [.regs, .cnt, .mem, .poison, .draws, .frm, .variants, .run, .late, .spg, .mxc, .num, .pnd, .mbx] d (d.stopUnit cls idx r) := by
  unfold Dev.stopUnit
  split
  · refine ite refl (ite (use ?_ fun h => h.step .matHist) (ite (refl.step .endProg) (ite (refl.step .asmHist) refl)))
    split
    · exact ite (refl.step .endProg) refl
    · exact refl
  · exact foldl (refl.step .setWork |>.step .bumpBy) fun _ _ h => h.step .markLate |>.step .markLate
  · exact ite (refl.step .writeCounts) refl
  · exact ite refl (refl.step .sendStop)
  · exact refl

theorem stopSlot {cls idx r} :
    Evolves [.regs, .cnt, .mem, .poison, .draws, .frm, .variants, .run, .late, .spg, .mxc, .num, .red, .pnd, .mbx] d (d.stopSlot cls idx r) := by
  unfold Dev.stopSlot
  exact use (ite (refl.step .setRed) refl) fun h => h.step .stopUnit |>.step .lateOutputs |>.step .slotSlack |>.step .overrun

theorem endSlot {cls idx sub} :
    Evolves [.regs, .cnt, .mem, .poison, .draws, .frm, .variants, .run, .late, .spg, .kln, .mxc, .num, .red, .pnd, .mbx, .flt] d (d.endSlot cls idx
      sub) := by
  unfold Dev.endSlot
  dsimp only
  split
  · exact refl
  · refine use ?_ fun h => h.step .setRunning
    split
    · exact refl.step .put_kln
    · exact ite refl (refl.step .sentTimeout)
    · exact ite refl (ite (refl.step .taskEnds) (refl.step .stopSlot))

theorem endSlots :
    Evolves [.regs, .cnt, .mem, .poison, .draws, .frm, .variants, .run, .late, .spg, .kln, .mxc, .num, .red, .pnd, .mbx, .flt] d d.endSlots := by
  unfold Dev.endSlots
  exact foldl refl fun _ _ h => h.step .endSlot

/-! ### Frame -/

theorem openFrame {f} : Evolves [.frm] d (d.openFrame f) := by
  unfold Dev.openFrame
  exact refl.step .setFrm

theorem missedStart {num} : Evolves [.regs, .cnt, .mem, .poison, .draws, .frm, .hif, .mbx] d (d.missedStart num) := by
  unfold Dev.missedStart
  split
  · exact ite (refl.step .abortStart |>.step .bump) refl
  · exact refl

theorem emitTick {stamp wait} : Evolves [.regs, .cnt, .mem, .poison, .draws, .frm, .fab, .hif, .mbx] d (d.emitTick stamp wait) := by
  unfold Dev.emitTick
  exact use (ite refl (refl.step .missedStart)) fun h =>
    h.step .floodTick |>.step .emit |>.step .setFld |>.step .setFld |>.step .setFrm |>.step .openFrame

theorem timerTick {now} : Evolves [.regs, .cnt, .mem, .poison, .draws, .frm, .fab, .hif, .mbx] d (d.timerTick now) := by
  unfold Dev.timerTick
  exact ite refl (ite (refl.step .emitTick) (ite refl (refl.step .emitTick)))

theorem tickEdge {now} : Evolves [.regs, .cnt, .mem, .poison, .draws, .frm, .fab, .hif, .mbx] d (d.tickEdge now) := by
  unfold Dev.tickEdge
  exact ite refl (ite (refl.step .emitTick) (refl.step .bump))

theorem windowEnd {now} : Evolves [.regs, .cnt, .mem, .poison, .draws, .frm, .fab, .hif, .mbx] d (d.windowEnd now) := by
  unfold Dev.windowEnd
  exact ite refl (refl.step .bump |>.step .emitTick)

theorem acceptTick {f} : Evolves [.cnt, .frm] d (d.acceptTick f) := by
  unfold Dev.acceptTick
  exact use (refl.step .setFrm) fun h => use (ite (h.step .bump) h) fun h => h.step .openFrame

theorem judgeWindow {f} : Evolves [.cnt, .frm] d (d.judgeWindow f) := by
  unfold Dev.judgeWindow
  exact ite refl (ite (refl.step .setFrm) (ite (refl.step .acceptTick) (ite (refl.step .setFrm) refl)))

theorem judgeRound : Evolves [.cnt, .frm] d d.judgeRound := by
  unfold Dev.judgeRound
  exact foldl (refl.step .setFrm) fun _ _ h => h.step .judgeWindow

theorem judgeLater : Evolves [.cnt, .frm] d d.judgeLater := by
  unfold Dev.judgeLater
  exact foldl refl fun _ _ h => h.step .judgeRound

theorem judgeTick {p num acc now} : Evolves [.regs, .cnt, .mem, .poison, .draws, .frm, .hif, .mbx] d (d.judgeTick p num acc now) := by
  unfold Dev.judgeTick
  exact ite (ite (refl.step .setFrm |>.step .setFld |>.step .acceptTick |>.step .missedStart) refl)
    (ite (refl.step .judgeWindow |>.step .judgeLater) (ite (refl.step .judgeWindow |>.step .judgeLater) refl))

theorem tickIn {p m now delay} : Evolves [.regs, .cnt, .mem, .poison, .draws, .frm, .fab, .hif, .mbx] d (d.tickIn p m now delay) := by
  unfold Dev.tickIn
  exact ite (refl.step .testTick) (ite refl (when (ite refl (refl.step .setFrm |>.step .floodTick)) fun h => h.step .judgeTick))

theorem flywheel : Evolves [.cnt, .frm] d d.flywheel := by
  unfold Dev.flywheel
  refine ite refl ?_
  split
  · exact refl.step .bump |>.step .acceptTick |>.step .judgeLater
  · exact refl.step .bump |>.step .openFrame |>.step .judgeLater

theorem missHold : Evolves [.regs, .frm] d d.missHold := by
  unfold Dev.missHold
  exact ite refl (use (refl.step .setFld) fun h => ite (h.step .freeze) (h.step .setFld))

theorem noteStepMin {x} : Evolves [.frm] d (d.noteStepMin x) := by
  unfold Dev.noteStepMin
  split
  · exact ite (refl.step .setFrm) refl
  · exact refl.step .setFrm

theorem closeFrame :
    Evolves [.regs, .cnt, .mem, .poison, .draws, .frm, .variants, .run, .late, .spg, .kln, .mxc, .num, .red, .pnd, .mbx, .flt, .gau] d d.closeFrame :=
      by
  unfold Dev.closeFrame
  exact ite refl (when (use (ite (refl.step .endSlots) refl) fun h => h.step .setFld |>.step .monSample |>.step .setFrm) fun h => h.step .noteStepMin)

theorem writeStale : Evolves [.regs, .cnt, .mem, .poison, .draws, .frm, .variants, .mbx] d d.writeStale := by
  unfold Dev.writeStale
  exact ite refl (foldl refl fun _ _ h => h.step .readStep |>.step .write)

theorem beginStep : Evolves [.regs, .cnt, .mem, .poison, .draws, .frm, .variants, .num, .mbx] d d.beginStep := by
  unfold Dev.beginStep
  exact use (refl.step .setFrm |>.step .setFld |>.step .writeStale |>.step .setFld |>.step .takePolicy) fun h =>
    use (ite (h.step .digitalGrants) h) fun h => h.step .setFrm |>.step .writeParams

theorem samplePounds : Evolves [.gau] d d.samplePounds := by
  unfold Dev.samplePounds
  exact foldl refl fun _ _ h => ite (h.step .monSample) h

theorem runFrame : Evolves [.regs, .cnt, .mem, .poison, .draws, .frm, .spg, .red, .pnd, .fab, .mbx, .gau] d d.runFrame := by
  unfold Dev.runFrame
  exact use (refl.step .setRed |>.step .setFrm |>.step .releaseDue |>.step .samplePounds) fun h =>
    when (ite (h.step .formRequest) h) fun h => h.step .overrun

theorem startSteps : Evolves [.regs, .cnt, .mem, .poison, .draws, .frm, .late, .spg, .num, .red, .pnd, .fab, .hif, .mbx, .flt] d d.startSteps := by
  unfold Dev.startSteps
  exact foldl
      (refl.step .setSt |>.step .portsUp |>.step .takeSpg |>.step .takeFlt |>.step .put_spg_num |>.step .setFrm |>.step .setRed |>.step .setPnd
        |>.step .nextRun) fun _ _ h =>
    h.step .complete

theorem startDue {num} :
    Evolves [.regs, .cnt, .mem, .poison, .draws, .frm, .variants, .late, .spg, .num, .red, .pnd, .fab, .hif, .mbx, .flt, .gau] d (d.startDue num) := by
  unfold Dev.startDue
  split
  · exact refl
  · exact ite refl
      (ite (use (ite (refl.step .startSteps |>.step .abortUpdate) (refl.step .startSteps)) fun h => h.step .beginStep |>.step .runFrame)
        (refl.step .abortStart |>.step .bump))

theorem resumeDue {num} :
    Evolves [.regs, .cnt, .mem, .poison, .draws, .frm, .variants, .late, .spg, .num, .red, .pnd, .fab, .hif, .mbx, .flt, .gau] d (d.resumeDue num) :=
      by
  unfold Dev.resumeDue
  split
  · exact refl
  · exact ite refl
      (use (refl.step .setFrm) fun h =>
        ite (use (foldl (h.step .abortStart |>.step .startSteps) fun _ _ h => h.step .complete) fun h => h.step .beginStep |>.step .runFrame)
          (foldl h fun _ _ h => h.step .complete))

theorem freezeIdle : Evolves [.regs, .cnt, .mem, .poison, .draws, .frm, .run, .rack, .kln, .red, .fab, .hif, .mbx, .flt] d d.freezeIdle := by
  unfold Dev.freezeIdle
  split
  · exact refl
  · exact ite (refl.step .holdNow) (refl.step .setFrm)

theorem frameRunning {m} :
    Evolves [.regs, .cnt, .mem, .poison, .draws, .frm, .variants, .run, .late, .spg, .rack, .kln, .num, .red, .pnd, .fab, .hif, .mbx, .flt, .gau,
      .sec] d (d.frameRunning m) := by
  unfold Dev.frameRunning
  exact ite (refl.step .stageOverrun |>.step .holdNow)
    (use (ite (refl.step .boundary) (refl.step .setFld)) fun h =>
      ite (use (ite (h.step .writeParams) h) fun h => h.step .freezeIdle)
        (ite (use (ite (h.step .writeParams) (h.step .stageOverrun)) fun h => h.step .holdNow)
          (ite (h.step .beginStep |>.step .runFrame) (h.step .runFrame))))

theorem frameStart {m} :
    Evolves [.regs, .cnt, .mem, .poison, .draws, .frm, .variants, .run, .late, .spg, .rack, .kln, .mxc, .num, .red, .pnd, .fab, .hif, .mbx, .flt,
      .gau, .sec] d (d.frameStart m) := by
  unfold Dev.frameStart
  split
  · exact refl
  · exact ite refl
      (use (refl.step .setFrm |>.step .closeFrame |>.step .setFld |>.step .setFld |>.step .setFld |>.step .setFrm) fun h =>
        when (ite (h.step .frameRunning) (h.step .freezeIdle |>.step .startDue |>.step .resumeDue)) fun h => h.step .setFld)

end Sys2Proof.Machine.Evolves
end

