-- ==== Sys2Proof/Proofs/EvolvesStarts.lean ====
section
/-!
PROOF. How resets, starts, programs and the registers change the device:
one rule a function of the model, with the parts that it can change.
-/

set_option Elab.async false

namespace Sys2Proof.Machine.Evolves

variable {l m : List Part} {d e f d₀ : Dev}

/-! ### Reset -/

theorem setPwr {f} : Evolves [.pwr] d (d.setPwr f) := by
  unfold Dev.setPwr
  exact refl.step .put_pwr

theorem noteCause {c} : Evolves [.regs] d (d.noteCause c) := by
  unfold Dev.noteCause
  exact refl.step .setFld |>.step .setFld

theorem noteStart {stage kind} : Evolves [.regs, .draws] d (d.noteStart stage kind) := by
  unfold Dev.noteStart
  exact use (ite refl (refl.step .draw |>.step .setFld)) fun h => h.step .setFld |>.step .setFld

theorem noteFailed {stage kind} : Evolves [.regs] d (d.noteFailed stage kind) := by
  unfold Dev.noteFailed
  exact refl.step .setFld |>.step .setFld

theorem stage {k} : Evolves [.regs, .pwr] d (d.stage k) := by
  unfold Dev.stage
  exact refl.step .setFld |>.step .setPwr

theorem dropRounds : Evolves [.draws, .cells, .rack] d d.dropRounds := by
  unfold Dev.dropRounds
  exact use (foldl refl fun _ _ h => foldl h fun _ _ h => h.step .draw |>.step .setCell) fun h => h.step .put_rack

theorem loseLs : Evolves [.mem, .lsEpoch, .poison] d d.loseLs := by
  unfold Dev.loseLs
  exact refl.step .put_mem_lsEpoch_poison

/-- The parts that a cold start without a loss of power can change, but for the counters: all but SPLIT and the towpath's. -/
def coldParts : List Part :=
  [.regs, .latch, .mem, .lsEpoch, .poison, .draws, .frm, .variants, .run, .late, .cells, .rmOpen, .rmStats, .spg, .rack, .kln, .mxc, .num,
    .red, .pnd, .fab, .hif, .mbx, .flt, .gau, .pwr, .sec]

theorem coldState {pcie} : Evolves (.cnt :: coldParts) d (d.coldState pcie false) := by
  have hfresh (e : Dev) : ∀ a b c h r g k s, Evolves coldParts e
      { Dev.reset with
        regs := r, cnt := e.cnt, mem := e.mem, lsEpoch := e.lsEpoch, split := e.split, poison := e.poison, draws := e.draws, frm := a
        cells := e.cells, kln := k, sec := s, flt := b, hif := h, mbx := c, pwr := g, tpMode := e.tpMode, tp := e.tp, out := e.out } := by
    intros
    exact of_keeps (by intro p hp; cases p <;> first | rfl | simp [coldParts] at hp) (by decide)
  exact refl.step .dropRounds |>.step .mgmtDown |>.step .loseLs |>.step (hfresh _ _ _ _ _ _ _ _ _)

theorem beginCold {cause pcie} : Evolves (.cnt :: coldParts) d (d.beginCold cause pcie false) := by
  unfold Dev.beginCold
  exact refl.step .setSt |>.step .coldState |>.step .setFld |>.step .noteCause |>.step .setFld |>.step .startSettling |>.step .startSettling
    |>.step .bump

theorem romDone {ok starter} : Evolves [.regs, .cnt, .mem, .poison, .draws, .hif, .mbx] d (d.romDone ok starter) := by
  unfold Dev.romDone
  refine use ?_ fun h => h.step .abortCmds
  split
  · exact use (ite (refl.step .setSt) (refl.step .noteFailed |>.step .setSt)) fun h => h.step .complete
  · exact ite (refl.step .setSt) (refl.step .noteFailed |>.step .setSt)

theorem enterFault : Evolves [.regs, .cnt, .mem, .poison, .draws, .frm, .run, .rack, .kln, .red, .hif, .mbx, .pwr] d d.enterFault := by
  unfold Dev.enterFault
  refine use ?_ fun h => h.step .stopSteps |>.step .setFrm |>.step .setPwr |>.step .setFld |>.step .setSt |>.step .dropStaged |>.step .abortCmds
  split
  · exact refl.step .noteFailed
  · exact refl

theorem railFault {rail} :
    Evolves [.regs, .cnt, .mem, .poison, .draws, .frm, .run, .cells, .rack, .kln, .red, .fab, .hif, .mbx, .pwr] d (d.railFault rail) := by
  unfold Dev.railFault
  exact use (refl.step .dropRounds) fun h =>
    use (foldl (use (ite (h.step .stepCompletion) h) fun h => h.step .put_run) fun _ _ h => h.step .loseLink) fun h =>
    h.step .setFld |>.step .bump |>.step .noteCause |>.step .enterFault

theorem thermalHold {i} : Evolves [.regs, .cnt, .frm, .pwr] d (d.thermalHold i) := by
  unfold Dev.thermalHold
  exact when (refl.step .setFld |>.step .setFld |>.step .bump |>.step .setFld |>.step .setPwr) fun h => h.step .freeze

/-! ### Start -/

theorem fetchImage {c data addr} : Evolves [.regs, .cnt, .mem, .poison, .draws, .hif, .mbx] d (d.fetchImage c data addr).2 := by
  unfold Dev.fetchImage
  exact use (refl.step .emit |>.step .write) fun h => iteSnd (h.step .bump |>.step .complete) h

theorem fetched {c data addr o} (h : Evolves l d₀ d) (hx : d.fetchImage c data addr = (o, e))
    (hl : ∀ p ∈ ([.regs, .cnt, .mem, .poison, .draws, .hif, .mbx] : List Part), p ∈ l := by decide) : Evolves l d₀ e := by
  have hf := h.step (.fetchImage (c := c) (data := data) (addr := addr)) hl
  rwa [hx] at hf

theorem judgeImage {c b act} (h : Evolves l d₀ d)
    (act' : ∀ x0 e, Evolves l d₀ e → Evolves l d₀ (act x0 e))
    (hl : ∀ p ∈ ([.regs, .cnt, .mem, .poison, .draws, .hif, .mbx] : List Part), p ∈ l := by decide) :
    Evolves l d₀ (d.judgeImage c b act) := by
  unfold Dev.judgeImage
  exact ite (h.step .complete (sub hl)) (use (h.step .noteSig (sub hl)) fun h => ite (h.step .complete (sub hl)) (act' _ _ h))

theorem startImage {b keep} : Evolves [.regs, .cnt, .mem, .poison, .draws, .hif, .mbx, .sec] d (d.startImage b keep) := by
  unfold Dev.startImage
  exact refl.step .enterImage |>.step .setFld |>.step .setFld |>.step .put_mbx |>.step .abortCmds

theorem trainHbm {bad} : Evolves [.regs, .cnt] d (d.trainHbm bad) := by
  unfold Dev.trainHbm
  exact refl.step .setFld |>.step .setFld |>.step .bumpBy

theorem initHbm : Evolves [.regs, .mem, .split, .poison] d d.initHbm := by
  unfold Dev.initHbm
  exact refl.step .put_mem_split_poison |>.step .setFld

theorem bindDefaults : Evolves [.regs] d d.bindDefaults := by
  unfold Dev.bindDefaults
  refine foldl refl fun _ _ h => ?_
  split
  · exact h.step .setFld |>.step .setFld |>.step .setFld
  · exact h.step .setFld

theorem trainPorts {p} : Evolves [.regs, .cnt, .mem, .poison, .draws, .fab, .mbx] d (d.trainPorts p) := by
  unfold Dev.trainPorts
  exact foldl refl fun _ _ h => ite h (ite (h.step .trainPort) (h.step .settlePort))

theorem coldStages {c b env} :
    Evolves [.regs, .cnt, .mem, .split, .poison, .draws, .frm, .run, .rack, .kln, .red, .fab, .hif, .mbx, .pwr, .sec] d (d.coldStages c b env) := by
  unfold Dev.coldStages
  exact use (refl.step .stage |>.step .trainHbm) fun h =>
    ite (h.step .enterFault)
      (use (h.step .stage |>.step .initHbm |>.step .setFld |>.step .write |>.step .startImage |>.step .bindDefaults |>.step .stage) fun h =>
        ite (h.step .enterFault) (h.step .stage |>.step .trainPorts))

theorem selfTestFail {c} : Evolves [.regs, .cnt, .mem, .poison, .draws, .red, .mbx] d (d.selfTestFail c) := by
  unfold Dev.selfTestFail
  exact use (refl.step .bump |>.step .sticky |>.step .setFld) fun h => ite h (h.step .permAction)

theorem loadRetired : Evolves [.regs] d d.loadRetired := by
  unfold Dev.loadRetired
  exact foldl refl fun _ _ h => h.step .setFld

theorem startRuns {measured} : Evolves [.regs, .kln] d (d.startRuns measured) := by
  unfold Dev.startRuns
  exact foldl refl fun _ _ h => h.step .setKilnRun |>.step .showRun

theorem kilnUnits {l units t} : Evolves [.regs, .cnt, .mem, .poison, .draws, .kln, .mbx, .sec] d (d.kilnUnits l units t) := by
  unfold Dev.kilnUnits
  split
  · exact refl
  · exact foldl refl fun _ _ h => h.step .unitWork

theorem kilnFinish {t measured} : Evolves [.regs, .cnt, .kln, .sec] d (d.kilnFinish t measured) := by
  unfold Dev.kilnFinish
  split
  · exact refl
  · exact refl.step .kilnTunDone

theorem afterFabric {x} : Evolves [.regs, .cnt, .mem, .lsEpoch, .poison, .draws, .kln, .red, .mbx, .pwr, .sec] d (d.afterFabric x) := by
  unfold Dev.afterFabric
  exact use
      (foldl
          (use (foldl (refl.step .stage) fun _ _ h => h.step .selfTestFail) fun h =>
            h.step .loseLs |>.step .stage |>.step .setFld |>.step .setFld |>.step .stage |>.step .loadRetired |>.step .startRuns) fun _ _ h =>
        h.step .kilnUnits) fun h =>
    h.step .stage

theorem programCell {t stamp missed r c} : Evolves [.cnt, .mem, .poison, .cells] d (d.programCell t stamp missed r c) := by
  unfold Dev.programCell
  exact when (use (ite refl (refl.step .bump)) fun h => h.step .setCell |>.step .setRowLevel |>.step .wr) fun h => h.step .setTileCode |>.step .bump

theorem programTun {img stamp missed t} : Evolves [.cnt, .mem, .poison, .cells, .rack, .flt] d (d.programTun img stamp missed t) := by
  unfold Dev.programTun
  exact use (foldl (refl.step .put_rack) fun _ _ h => foldl h fun _ _ h => h.step .programCell) fun h => h.step .setSig |>.step .bumpBy

theorem coldEnd {fwBad certBad} : Evolves [.regs, .cnt, .mem, .poison, .draws, .hif, .mbx, .flt, .pwr, .sec] d (d.coldEnd fwBad certBad) := by
  unfold Dev.coldEnd
  dsimp only
  split
  · exact refl.step .lockMbx |>.step .lockSec |>.step .noteStart |>.step .setPwr |>.step .setFld |>.step .setSt |>.step .burnFloors
      |>.step .writeLedger |>.step .complete
  · exact refl.step .lockMbx |>.step .lockSec |>.step .noteStart |>.step .setPwr |>.step .setFld |>.step .setSt |>.step .burnFloors
      |>.step .writeLedger

/-! ### Warm -/

theorem ledgerRead {e} : Evolves [.regs, .cnt, .mem, .poison, .draws, .frm, .run, .rack, .kln, .red, .hif, .mbx, .flt, .pwr] d (d.ledgerRead e) := by
  unfold Dev.ledgerRead
  dsimp only
  split
  · exact refl.step .bumpBy
  · exact use (refl.step .bumpBy |>.step .setFld |>.step .setFld |>.step .setFld |>.step .setFld |>.step .sticky |>.step .bumpBy) fun h =>
      ite (h.step .put_flt |>.step .freeze) (h.step .enterFault)

theorem warmState {pcie reload} :
    Evolves [.regs, .cnt, .latch, .mem, .lsEpoch, .poison, .draws, .frm, .run, .late, .cells, .rmOpen, .rmStats, .spg, .rack, .kln, .mxc, .num, .red,
      .pnd, .fab, .hif, .mbx, .flt, .pwr, .sec] d (d.warmState pcie reload) := by
  unfold Dev.warmState
  exact refl.step .dropRounds |>.step .mgmtDown |>.step .loseLs
    |>.step .put_warm |>.step .setFld |>.step .setFld
    |>.step .setFld

theorem resetFunction : Evolves [.regs, .hif, .pwr, .sec] d d.resetFunction := by
  unfold Dev.resetFunction
  exact refl.step .setHif |>.step .put_regs |>.step .setPwr |>.step .loseIde

theorem beginWarm {cause cmd pcie reload} :
    Evolves [.regs, .cnt, .latch, .mem, .lsEpoch, .poison, .draws, .frm, .run, .late, .cells, .rmOpen, .rmStats, .spg, .rack, .kln, .mxc, .num, .red,
      .pnd, .fab, .hif, .mbx, .flt, .pwr, .sec] d (d.beginWarm cause cmd pcie reload) := by
  unfold Dev.beginWarm
  exact use (ite (refl.step .abortCmds) (refl.step .resetFunction)) fun h =>
    h.step .setSt |>.step .warmState |>.step .noteCause |>.step .bump |>.step .setPwr

theorem escalate {cause} :
    Evolves [.regs, .cnt, .latch, .mem, .lsEpoch, .poison, .draws, .frm, .variants, .run, .late, .cells, .rmOpen, .rmStats, .spg, .rack, .kln, .mxc,
      .num, .red, .pnd, .fab, .hif, .mbx, .flt, .gau, .pwr, .sec] d (d.escalate cause) := by
  unfold Dev.escalate
  exact refl.step .beginCold |>.step .setFld |>.step .bump |>.step .noteFailed |>.step .romDone

theorem foldJournal {t bank n} : Evolves [.mem, .poison, .flt] d (d.foldJournal t bank n) := by
  unfold Dev.foldJournal
  exact refl.step .writeFold

theorem foldJournals : Evolves [.regs, .cnt, .mem, .poison, .draws, .frm, .variants, .rack, .mbx, .flt] d d.foldJournals := by
  unfold Dev.foldJournals
  exact use (foldl refl fun _ _ h => h.step .idleRead |>.step .idleRead |>.step .foldJournal |>.step .foldJournal) fun h => h.step .put_rack

theorem interpTun {l t} : Evolves [.regs, .cnt, .mem, .poison, .draws, .kln, .mbx, .sec] d (d.interpTun l t) := by
  unfold Dev.interpTun
  exact use (refl.step .kilnUnits) fun h => use (ite (h.step .bump) h) fun h => ite (h.step .kilnUnits |>.step .kilnFinish) (h.step .kilnFinish)

theorem kilnInterp {l} : Evolves [.regs, .cnt, .mem, .poison, .draws, .kln, .mbx, .sec] d (d.kilnInterp l) := by
  unfold Dev.kilnInterp
  exact foldl (refl.step .loadRetired |>.step .startRuns) fun _ _ h => h.step .interpTun

theorem confirmPort {p} : Evolves [.regs, .cnt, .mem, .poison, .draws, .fab, .mbx] d (d.confirmPort p) := by
  unfold Dev.confirmPort
  dsimp only
  split
  · exact ite (refl.step .bringUp) refl
  · exact ite (use (ite (refl.step .bringUp) refl) fun h => h.step .setLink |>.step .sendConfirm |>.step .put_fab)
      (use (ite (refl.step .bringUp) refl) fun h => h.step .settlePort)

theorem warmFabric {reload} : Evolves [.regs, .cnt, .mem, .poison, .draws, .fab, .mbx, .pwr] d (d.warmFabric reload) := by
  unfold Dev.warmFabric
  exact foldl (refl.step .stage |>.step .trainPorts) fun _ _ h => h.step .confirmPort

theorem slotStands {i} : Evolves [.regs, .cnt] d (d.slotStands i).2 := by
  unfold Dev.slotStands
  exact iteSnd refl (refl.step .noteSig)

theorem emptySlot {v} : Evolves [.regs, .variants] d (d.emptySlot v) := by
  unfold Dev.emptySlot
  exact refl.step .setFld |>.step .put_variants

theorem revalidate {v} : Evolves [.regs, .cnt, .variants] d (d.revalidate v) := by
  unfold Dev.revalidate
  split
  · exact refl
  · exact ite (refl.step .emptySlot)
      (ite (use (foldl refl fun _ _ h => h.step .uncorrIdle) fun h => h.step .emptySlot)
        (use (refl.step .slotStands) fun h => ite h (h.step .emptySlot)))

theorem confirmResult : Evolves [.regs, .cnt, .variants, .fab] d d.confirmResult := by
  unfold Dev.confirmResult
  exact ite (use (ite (refl.step .setFld) refl) fun h => h.step .setFld |>.step .setFld |>.step .setFld |>.step .setFld |>.step .deriveUp)
    (foldl (refl.step .setFld) fun _ _ h => h.step .emptySlot)

theorem resumeHeld : Evolves [.regs, .cnt, .mem, .poison, .draws, .frm, .mbx] d d.resumeHeld := by
  unfold Dev.resumeHeld
  exact use (ite refl (refl.step .setFld)) fun h =>
    h.step .setFld |>.step .setFld |>.step .setFpDigest |>.step .setFld |>.step .setFld |>.step .setFrm |>.step .setSt

theorem resumeReady : Evolves [.regs, .cnt, .mem, .poison, .draws, .mbx] d d.resumeReady := by
  unfold Dev.resumeReady
  exact refl.step .setFld |>.step .setFld |>.step .setFld |>.step .setFld |>.step .setFpDigest |>.step .setSt

theorem warmEnd : Evolves [.regs, .cnt, .mem, .poison, .draws, .frm, .variants, .fab, .hif, .mbx, .flt, .pwr] d d.warmEnd := by
  unfold Dev.warmEnd
  dsimp only
  split
  · exact use
        (ite
          (use (foldl (refl.step .confirmResult) fun _ _ h => h.step .revalidate) fun h =>
            h.step .noteStart |>.step .setPwr |>.step .setFld |>.step .resumeHeld |>.step .fire |>.step .writeLedger)
          (use (foldl (refl.step .confirmResult) fun _ _ h => h.step .revalidate) fun h =>
            h.step .noteStart |>.step .setPwr |>.step .setFld |>.step .resumeReady)) fun h =>
      h.step .complete
  · exact ite
      (use (foldl (refl.step .confirmResult) fun _ _ h => h.step .revalidate) fun h =>
        h.step .noteStart |>.step .setPwr |>.step .setFld |>.step .resumeHeld |>.step .fire |>.step .writeLedger)
      (use (foldl (refl.step .confirmResult) fun _ _ h => h.step .revalidate) fun h =>
        h.step .noteStart |>.step .setPwr |>.step .setFld |>.step .resumeReady)

theorem endDiscover : Evolves [.regs, .cnt, .mem, .poison, .draws, .hif, .mbx] d d.endDiscover := by
  unfold Dev.endDiscover
  exact ite refl (foldl refl fun _ _ h => h.step .complete)

theorem advance :
    Evolves [.regs, .cnt, .mem, .lsEpoch, .poison, .draws, .frm, .variants, .kln, .red, .fab, .hif, .mbx, .flt, .pwr, .sec] d d.advance := by
  unfold Dev.advance
  split
  · exact refl.step .endDiscover
  · exact ite refl (ite (when (ite (refl.step .startSize) refl) fun h => h.step .afterFabric) (ite (refl.step .warmEnd) refl))

theorem warmRest {reload env} :
    Evolves [.regs, .cnt, .latch, .mem, .lsEpoch, .poison, .draws, .frm, .variants, .run, .late, .cells, .rmOpen, .rmStats, .spg, .rack, .kln, .mxc,
      .num, .red, .pnd, .fab, .hif, .mbx, .flt, .gau, .pwr, .sec] d (d.warmRest reload env) := by
  unfold Dev.warmRest
  exact use (refl.step .stage |>.step .foldJournals |>.step .bumpBy) fun h =>
    ite (h.step .escalate) (h.step .stage |>.step .kilnInterp |>.step .warmFabric |>.step .advance)

theorem warmLedger {reload env} :
    Evolves [.regs, .cnt, .latch, .mem, .lsEpoch, .poison, .draws, .frm, .variants, .run, .late, .cells, .rmOpen, .rmStats, .spg, .rack, .kln, .mxc,
      .num, .red, .pnd, .fab, .hif, .mbx, .flt, .gau, .pwr, .sec] d (d.warmLedger reload env) := by
  unfold Dev.warmLedger
  refine ite (refl.step .stage |>.step .ledgerRead) ?_
  dsimp only
  split
  · exact refl.step .stage |>.step .ledgerRead |>.step .judgeCopies |>.step .escalate
  · exact refl.step .stage |>.step .ledgerRead |>.step .judgeCopies |>.step .restoreCopy |>.step .takeFlt |>.step .takeSpg
      |>.step .restartRackSettings |>.step .warmRest

theorem warmStages {b reload env} :
    Evolves [.regs, .cnt, .latch, .mem, .lsEpoch, .poison, .draws, .frm, .variants, .run, .late, .cells, .rmOpen, .rmStats, .spg, .rack, .kln, .mxc,
      .num, .red, .pnd, .fab, .hif, .mbx, .flt, .gau, .pwr, .sec] d (d.warmStages b reload env) := by
  unfold Dev.warmStages
  split
  · exact refl.step .escalate
  · exact ite (refl.step .startImage |>.step .warmLedger)
      (use (refl.step .stage) fun h =>
        ite (h.step .escalate) (use (h.step .setFld |>.step .startImage |>.step .stage) fun h => ite (h.step .warmLedger) (h.step .enterFault)))

theorem warmStart {cause cmd pcie env} :
    Evolves [.regs, .cnt, .latch, .mem, .lsEpoch, .poison, .draws, .frm, .variants, .run, .late, .cells, .rmOpen, .rmStats, .spg, .rack, .kln, .mxc,
      .num, .red, .pnd, .fab, .hif, .mbx, .flt, .gau, .pwr, .sec] d (d.warmStart cause cmd pcie env) := by
  unfold Dev.warmStart
  exact refl.step .beginWarm |>.step .idleRead |>.step .warmStages

theorem functionReset {cause env} :
    Evolves [.regs, .cnt, .latch, .mem, .lsEpoch, .poison, .draws, .frm, .variants, .run, .late, .cells, .rmOpen, .rmStats, .spg, .rack, .kln, .mxc,
      .num, .red, .pnd, .fab, .hif, .mbx, .flt, .gau, .pwr, .sec] d (d.functionReset cause env) := by
  unfold Dev.functionReset
  exact ite (refl.step .resetFunction) (refl.step .warmStart)

theorem refuseStart : Evolves [.regs, .cnt, .mem, .poison, .draws, .hif, .mbx, .pwr] d d.refuseStart := by
  unfold Dev.refuseStart
  dsimp only
  split
  · exact refl.step .setFld |>.step .setSt
  · split
    · exact refl.step .setFld |>.step .noteFailed |>.step .setPwr |>.step .setFld |>.step .setSt |>.step .complete
    · exact refl.step .setFld |>.step .noteFailed |>.step .setPwr |>.step .setFld |>.step .setSt

theorem answerHello {c} :
    Evolves [.regs, .cnt, .mem, .lsEpoch, .poison, .draws, .frm, .variants, .kln, .red, .fab, .hif, .mbx, .flt, .pwr, .sec] d (d.answerHello c) := by
  unfold Dev.answerHello
  exact use (refl.step .setFld |>.step .setFld) fun h =>
    ite (h.step .setFld |>.step .complete |>.step .setPwr |>.step .advance)
      (use (h.step .sticky |>.step .setFld) fun h => use (ite (h.step .refuseStart) h) fun h => h.step .complete)

/-! ### Links -/

theorem retrainDue {p} : Evolves [.regs, .cnt, .mem, .poison, .draws, .fab, .mbx] d (d.retrainDue p) := by
  unfold Dev.retrainDue
  exact ite (ite (refl.step .trainPort) refl) (ite (refl.step .trainPort |>.step .settlePort) (ite (refl.step .settlePort) refl))

theorem confirmIn {p m} : Evolves [.regs, .cnt, .mem, .poison, .draws, .fab, .mbx] d (d.confirmIn p m) := by
  unfold Dev.confirmIn
  exact use (refl.step .confirm) fun h => ite h (ite (h.step .sendConfirm) (h.step .settlePort))

theorem discTimeout : Evolves [.regs, .cnt, .fab] d d.discTimeout := by
  unfold Dev.discTimeout
  exact ite (refl.step .applyDone) refl

theorem endPermute : Evolves [.regs, .cnt, .mem, .poison, .draws, .hif, .mbx] d d.endPermute := by
  unfold Dev.endPermute
  split
  · exact refl
  · exact ite refl (when (refl.step .setHif) fun h => h.step .complete)

/-! ### Program -/

theorem place {b} : Evolves [.mem, .poison, .draws] d (d.place b).2 := by
  unfold Dev.place
  exact iteSnd refl (refl.step .draw |>.step .write)

theorem placeConsts {i} : Evolves [.mem, .poison, .draws] d (d.placeConsts i).2 := by
  unfold Dev.placeConsts
  exact foldlSnd refl fun _ _ h => h.step .place

theorem loadCheck {v i bad} : Evolves [.regs, .cnt] d (d.loadCheck v i bad).2 := by
  unfold Dev.loadCheck
  split
  · exact refl
  · exact use (refl.step .noteSig) fun h => iteSnd h h

theorem checked {v i bad o} (hx : d.loadCheck v i bad = (o, e)) (h : Evolves l d₀ d) (hl : ∀ p ∈ ([.regs, .cnt] : List Part), p ∈ l := by decide) :
    Evolves l d₀ e := by
  have hf := h.step (.loadCheck (v := v) (i := i) (bad := bad)) hl
  rwa [hx] at hf

theorem loadFailed {c v f} : Evolves [.regs, .cnt, .mem, .poison, .draws, .hif, .mbx] d (d.loadFailed c v f) := by
  unfold Dev.loadFailed
  exact refl.step .setFld |>.step .setFld |>.step .setFld |>.step .bump |>.step .complete

theorem loadDone {c v i ranges} : Evolves [.regs, .cnt, .mem, .poison, .draws, .variants, .hif, .mbx] d (d.loadDone c v i ranges) := by
  unfold Dev.loadDone
  exact refl.step .placeConsts |>.step .put_variants |>.step .setFld |>.step .setFld |>.step .setFld |>.step .setFld |>.step .complete

theorem awaitStart {c} : Evolves [.regs, .frm, .hif] d (d.awaitStart c) := by
  unfold Dev.awaitStart
  exact refl.step .setFld |>.step .setFld |>.step .setFrm |>.step .setHif

theorem loseTick : Evolves [.regs, .frm] d d.loseTick := by
  unfold Dev.loseTick
  exact refl.step .setFld |>.step .setFld |>.step .setFld |>.step .setFrm

theorem runSlot {c} : Evolves [.regs, .cnt, .mem, .poison, .draws, .frm, .variants, .num, .pnd, .hif, .mbx, .flt] d (d.runSlot c) := by
  unfold Dev.runSlot
  exact refl.step .setFld |>.step .activate |>.step .resetPounds |>.step .loseTick |>.step .setFrm |>.step .setFld |>.step .awaitStart |>.step .setSt
    |>.step .writeParams |>.step .writeLedger

theorem resumeSlot : Evolves [.regs, .cnt, .mem, .poison, .draws, .frm, .variants, .num, .pnd, .mbx, .flt] d d.resumeSlot := by
  unfold Dev.resumeSlot
  exact ite (use (refl.step .changeTo |>.step .setFrm) fun h => use (ite (h.step .carryGrants) h) fun h => h.step .resetPounds |>.step .writeLedger)
    refl

theorem resumeTicks : Evolves [.regs, .frm] d d.resumeTicks := by
  unfold Dev.resumeTicks
  exact ite (refl.step .setFrm) (ite (refl.step .loseTick) refl)

theorem resume {c} : Evolves [.regs, .cnt, .mem, .poison, .draws, .frm, .variants, .num, .pnd, .fab, .hif, .mbx, .flt] d (d.resume c) := by
  unfold Dev.resume
  exact refl.step .resumeSlot |>.step .portsUp |>.step .resumeTicks |>.step .setFld |>.step .setFld |>.step .setFrm |>.step .awaitStart
    |>.step .writeParams

theorem frameOf {tick} :
    Evolves [.regs, .cnt, .mem, .poison, .draws, .frm, .variants, .run, .late, .spg, .rack, .kln, .mxc, .num, .red, .pnd, .fab, .hif, .mbx, .flt,
      .gau, .sec] d (d.frameOf tick) := by
  unfold Dev.frameOf
  split
  · exact ite (refl.step .missHold |>.step .frameStart) refl
  · exact refl

theorem stop : Evolves [.regs, .cnt, .mem, .poison, .draws, .frm, .run, .rack, .kln, .red, .pnd, .fab, .hif, .mbx] d d.stop := by
  unfold Dev.stop
  exact use (refl.step .abortStart) fun h =>
    use (ite (h.step .abortUpdate) h) fun h =>
    h.step .portsUp |>.step .stopSteps |>.step .resetPounds |>.step .setPnd |>.step .setFld |>.step .setFld |>.step .loseTick |>.step .setFrm
      |>.step .setHif |>.step .setFpDigest |>.step .setSt

theorem stageUpdate {c} : Evolves [.regs, .cnt, .mem, .poison, .draws, .frm, .hif, .mbx] d (d.stageUpdate c) := by
  unfold Dev.stageUpdate
  exact ite (refl.step .complete) (when (refl.step .setFld) fun h => h.step .setFrm)

theorem ledgerRebuild : Evolves [.regs, .cnt, .spg, .num, .flt] d d.ledgerRebuild := by
  unfold Dev.ledgerRebuild
  dsimp only
  split
  · exact refl.step .judgeCopies
  · exact refl.step .judgeCopies |>.step .restoreCopy

theorem endHandover : Evolves [.regs, .cnt, .mem, .poison, .draws, .frm, .hif, .mbx] d d.endHandover := by
  unfold Dev.endHandover
  dsimp only
  split
  · exact foldl refl fun _ _ h => h.step .complete
  · exact ite (foldl (refl.step .setFrm) fun _ _ h => h.step .complete) refl

theorem caskRead {fwBad certBad e} :
    Evolves [.regs, .cnt, .mem, .lsEpoch, .poison, .draws, .frm, .variants, .spg, .kln, .num, .red, .fab, .hif, .mbx, .flt, .pwr, .sec] d (d.caskRead
      fwBad certBad e) := by
  unfold Dev.caskRead
  exact ite refl
    (use (refl.step .ecc |>.step .idleRead) fun h =>
      use
          (foldl
              (use (ite (h.step .setFld) (h.step .bump |>.step .ledgerRebuild |>.step .setFld)) fun h =>
                h.step .setFld |>.step .put_mbx |>.step .setFld |>.step .bump |>.step .burnFloors) fun _ _ h =>
            h.step .answerHello) fun h =>
      h.step .deliverMgmt |>.step .endHandover)

theorem stagePack {bank} : Evolves [.regs, .flt] d (d.stagePack bank) := by
  unfold Dev.stagePack
  exact use (refl.step .put_flt |>.step .setFld) fun h => ite h (h.step .activatePack)

/-! ### Registers -/

theorem putField {x slot new f} : Evolves [.regs] x.2 (Dev.putField x slot new f).2 := by
  unfold Dev.putField
  dsimp only
  split
  · exact refl.step .setFld
  · exact iteSnd (refl.step .setFld) refl

theorem putFields {slot lo w new r} : Evolves [.regs] d (d.putFields slot lo w new r).2 := by
  unfold Dev.putFields
  exact foldlSnd refl fun _ _ h => h.step .putField

theorem gated {ok c act} (h : Evolves l d₀ d)
    (act' : ∀ e, Evolves l d₀ e → Evolves l d₀ (act e).2)
    (hl : ∀ p ∈ ([.cnt] : List Part), p ∈ l := by decide) :
    Evolves l d₀ (d.gated ok c act).2 := by
  unfold Dev.gated
  exact iteSnd (act' _ h) (h.step .bump (sub hl))

theorem putLossScale {lo w new} : Evolves [.regs] d (d.putLossScale lo w new) := by
  unfold Dev.putLossScale
  exact use (ite (refl.step .setFld |>.step .setFld) refl) fun h => ite h (h.step .setFld |>.step .setFld |>.step .setFld)

theorem putNum {slot lo w new r} : Evolves [.regs, .frm] d (d.putNum slot lo w new r).2 := by
  unfold Dev.putNum
  exact iteSnd (refl.step .putLossScale) (use (refl.step .putFields) fun h => iteSnd (pair (h.step .setFrm)) h)

theorem putPort {p act} :
    Evolves [.regs, .cnt, .mem, .lsEpoch, .poison, .draws, .frm, .variants, .kln, .red, .fab, .hif, .mbx, .flt, .pwr, .sec] d (d.putPort p act) := by
  unfold Dev.putPort
  exact ite (ite (refl.step .disablePort |>.step .advance) refl)
    (when (ite refl (refl.step .setFld |>.step .trainPort)) fun h => h.step .retrain |>.step .advance)

theorem putMemCfg {v} : Evolves [.regs, .cnt] d (d.putMemCfg v).2 := by
  unfold Dev.putMemCfg
  exact .gated refl fun _ h => iteSnd (h.step .setFld) h

theorem putConv {slot lo w new r} : Evolves [.regs, .gau] d (d.putConv slot lo w new r).2 := by
  unfold Dev.putConv
  exact use (refl.step .putFields) fun h => iteSnd h (h.step .startSettling)

theorem putUrgent {slot lo w new act r} : Evolves [.regs, .cnt, .draws, .gau] d (d.putUrgent slot lo w new act r).2 := by
  unfold Dev.putUrgent
  exact iteSnd (refl.step .draw |>.step .urgent) (use (refl.step .putFields) fun h => iteSnd h (h.step .setFld))

theorem putMonSel {new act} : Evolves [.regs, .gau] d (d.putMonSel new act) := by
  unfold Dev.putMonSel
  exact use (refl.step .monSelect) fun h => when (ite (h.step .clearMon) h) fun h => foldl h fun _ _ h => h.step .clearMon

theorem putKilnReq {act} : Evolves [.regs, .cnt] d (d.putKilnReq act) := by
  unfold Dev.putKilnReq
  exact ite (refl.step .kilnRequests) refl

theorem putLow {slot lo w new act r} : Evolves [.regs, .cnt, .mem, .poison, .draws, .frm, .hif, .mbx] d (d.putLow slot lo w new act r).2 := by
  unfold Dev.putLow
  exact iteSnd (iteSnd refl (refl.step .putFields))
    (iteSnd (refl.step .writeAdmin)
      (iteSnd (refl.step .putKilnReq)
        (iteSnd (.gated refl fun _ h => h.step .putNum)
          (iteSnd (.gated refl fun _ h => h.step .putFields) (iteSnd (.gated refl fun _ h => h.step .putFields) (refl.step .putFields))))))

theorem putHigh {slot lo w new act r} :
    Evolves [.regs, .cnt, .mem, .lsEpoch, .poison, .draws, .frm, .variants, .kln, .red, .fab, .hif, .mbx, .flt, .gau, .pwr, .sec] d (d.putHigh slot lo
      w new act r).2 := by
  unfold Dev.putHigh
  exact iteSnd (refl.step .putPort)
    (iteSnd (refl.step .putMemCfg)
      (iteSnd (ite (refl.step .lockMbx) refl)
        (iteSnd (.gated refl fun _ h => h.step .putFields)
          (iteSnd refl
            (iteSnd (refl.step .mbxTx)
              (iteSnd (refl.step .clearSticky)
                (iteSnd (refl.step .bump)
                  (iteSnd (refl.step .gaugePower)
                    (iteSnd (refl.step .putConv)
                      (iteSnd (refl.step .putUrgent)
                        (iteSnd (refl.step .putMonSel)
                          (iteSnd (refl.step .monConfig)
                            (iteSnd (.gated refl fun _ h => h.step .putFields)
                              (iteSnd (ite (refl.step .lockSec) refl) (refl.step .putFields)))))))))))))))

theorem writeReg {slot lo w v} :
    Evolves [.regs, .cnt, .mem, .lsEpoch, .poison, .draws, .frm, .variants, .kln, .red, .fab, .hif, .mbx, .flt, .gau, .pwr, .sec] d (d.writeReg slot
      lo w v) := by
  unfold Dev.writeReg
  split
  · exact refl
  · exact ite (refl.step .mbxIdle) (ite refl (when (iteSnd (refl.step .putLow) (refl.step .putHigh)) fun h => h.step .configWritten))

theorem barWrite {off whole v} :
    Evolves [.regs, .cnt, .mem, .lsEpoch, .poison, .draws, .frm, .variants, .kln, .red, .fab, .hif, .mbx, .flt, .gau, .pwr, .sec] d (d.barWrite off
      whole v) := by
  unfold Dev.barWrite
  split
  · exact refl
  · exact ite refl (ite (when (refl.step .msixWrite) fun h => h.step .msixWrite) (refl.step .writeReg))

theorem readSlot {slot lo w} : Evolves [.latch] d (d.readSlot slot lo w) := by
  unfold Dev.readSlot
  refine ite (refl.step .emit) (ite (use (ite (refl.step .put_latch) refl) fun h => h.step .emit) ?_)
  split
  · exact refl.step .put_latch |>.step .emit
  · exact refl.step .emit

theorem barRead {off whole e} :
    Evolves [.regs, .cnt, .latch, .mem, .poison, .draws, .frm, .run, .rack, .kln, .red, .hif, .mbx, .flt, .pwr] d (d.barRead off whole e) := by
  unfold Dev.barRead
  refine ite (refl.step .emit) ?_
  split
  · exact refl.step .emit
  · exact ite (refl.step .mbxRx) (ite (refl.step .mbxIdle) (ite (refl.step .ledgerRead |>.step .readSlot) (refl.step .readSlot)))

theorem bar2Read : Evolves [] d d.bar2Read := by
  unfold Dev.bar2Read
  exact ite (refl.step .emit) (refl.step .emit)

end Sys2Proof.Machine.Evolves
end

