-- ==== Sys2Proof/Proofs/EvolvesCommands.lean ====
section
/-!
PROOF. What each command can change, from the rules of its functions. COUNTER_CLEAR, POWER_ON and POWER_LOSS lower counters and are not among
them.
-/

set_option Elab.async false

namespace Sys2Proof.Machine

open Evolves

variable {l m : List Part} {d e : Dev} {c : Instr} {f : Dev → Dev}

/-- From every state the command answers a next state with the queue as it was, and a device that has evolved with these parts alone. -/
def evolvesOnly (l : List Part) (c : Instr) : Prop := ∀ s, answers c s fun e => Evolves l s.dev e

theorem of_run (hc : ∀ s, exec c s = s.run f) (h : ∀ d, Evolves l d (f d)) : evolvesOnly l c := fun s =>
  ⟨_, hc s, rfl, when (refl.step .quiet (by simp)) fun hq => hq.step (h s.dev.quiet) fun _ hp => hp⟩

theorem of_always (hc : ∀ s, exec c s = s.always f) (h : ∀ d, Evolves l d (f d)) : evolvesOnly l c := fun s =>
  ⟨_, hc s, rfl, (refl.step .quiet (by simp)).step (h s.dev.quiet) fun _ hp => hp⟩

/-- A command that evolves with parts of a list touches only those. -/
theorem evolvesOnly.touches (h : evolvesOnly l c) (hl : ∀ p ∈ l, p ∈ m := by decide) : touchesOnly m c := fun s => by
  obtain ⟨t, hx, hq, he⟩ := h s
  exact ⟨t, hx, hq, Dev.keepsBut_mono l m _ _ he.keeps hl⟩

/-- A command that evolves lowers no counter that is within its range (R15). -/
theorem evolvesOnly.counts (h : evolvesOnly l c) (s : State) :
    answers c s fun e => ∀ k, s.dev.count k ≤ 2 ^ 48 - 1 → s.dev.count k ≤ e.count k := by
  obtain ⟨t, hx, hq, he⟩ := h s
  exact ⟨t, hx, hq, fun k hk => (le_min hk le_rfl).trans (he.rises k)⟩


theorem evolves_tickEmit {now} : evolvesOnly [.regs, .cnt, .mem, .poison, .draws, .frm, .fab, .hif, .mbx] (.tickEmit now) :=
  of_run (exec_tickEmit _) fun _ => refl.step .timerTick

theorem evolves_tickInEdge {now} : evolvesOnly [.regs, .cnt, .mem, .poison, .draws, .frm, .fab, .hif, .mbx] (.tickInEdge now) :=
  of_run (exec_tickInEdge _) fun _ => refl.step .tickEdge

theorem evolves_tickWindowEnd {now} : evolvesOnly [.regs, .cnt, .mem, .poison, .draws, .frm, .fab, .hif, .mbx] (.tickWindowEnd now) :=
  of_run (exec_tickWindowEnd _) fun _ => refl.step .windowEnd

theorem evolves_tickMsg {p m now delay} : evolvesOnly [.regs, .cnt, .mem, .poison, .draws, .frm, .fab, .hif, .mbx] (.tickMsg p m now delay) :=
  of_run (exec_tickMsg _ _ _ _) fun _ => .localMsg refl fun _ h => h.step .tickIn

theorem evolves_flywheelStart : evolvesOnly [.cnt, .frm] .flywheelStart :=
  of_run (exec_flywheelStart) fun _ => refl.step .flywheel

theorem evolves_tickMissHold : evolvesOnly [.regs, .frm] .tickMissHold :=
  of_run (exec_tickMissHold) fun _ => refl.step .missHold

theorem evolves_frameStart {m} :
    evolvesOnly [.regs, .cnt, .mem, .poison, .draws, .frm, .variants, .run, .late, .spg, .rack, .kln, .mxc, .num, .red, .pnd, .fab, .hif, .mbx, .flt,
      .gau, .sec] (.frameStart m) :=
  of_run (exec_frameStart _) fun _ => refl.step .missHold |>.step .frameStart

theorem evolves_slotStart {u i k e} :
    evolvesOnly [.regs, .cnt, .mem, .poison, .draws, .frm, .variants, .run, .rack, .kln, .mxc, .red, .pnd, .mbx, .gau] (.slotStart u i k e) :=
  of_run (exec_slotStart _ _ _ _) fun _ => refl.step .ecc |>.step .slotStart

theorem evolves_slotEnd {u i sub} :
    evolvesOnly [.regs, .cnt, .mem, .poison, .draws, .frm, .variants, .run, .late, .spg, .kln, .mxc, .num, .red, .pnd, .mbx, .flt] (.slotEnd u i sub)
      :=
  of_run (exec_slotEnd _ _ _) fun _ => refl.step .endSlot

theorem evolves_taskComplete {u i sub q} :
    evolvesOnly [.regs, .cnt, .mem, .poison, .draws, .frm, .variants, .run, .late, .mxc, .num, .mbx] (.taskComplete u i sub q) :=
  of_run (exec_taskComplete _ _ _ _) fun _ => refl.step .taskComplete

theorem evolves_fwd {b sub n e} :
    evolvesOnly [.regs, .cnt, .mem, .poison, .draws, .frm, .variants, .run, .late, .rmOpen, .spg, .mbx] (.fwd b sub n e) :=
  of_run (exec_fwd _ _ _ _) fun _ => refl.step .ecc |>.step .fwd

theorem evolves_cover {b n e} : evolvesOnly [.regs, .cnt, .mem, .poison, .draws, .frm, .variants, .run, .late, .spg, .mbx] (.cover b n e) :=
  of_run (exec_cover _ _ _) fun _ => refl.step .ecc |>.step .cover

theorem evolves_spargePeriod {b} : evolvesOnly [.spg] (.spargePeriod b) :=
  of_run (exec_spargePeriod _) fun _ => refl.step .setPool

theorem evolves_rmWindowClose {t} : evolvesOnly [.regs, .cnt, .draws, .rmOpen, .rmStats] (.rmWindowClose t) :=
  of_run (exec_rmWindowClose _) fun _ => refl.step .windowClose

theorem evolves_pulseRound {b i now e} : evolvesOnly [.regs, .cnt, .mem, .poison, .draws, .frm, .variants, .rack, .mbx] (.pulseRound b i now e) :=
  of_run (exec_pulseRound _ _ _ _) fun _ => refl.step .ecc |>.step .startRound

theorem evolves_pulsePeriod {b i verified} : evolvesOnly [.cells, .rack] (.pulsePeriod b i verified) :=
  of_run (exec_pulsePeriod _ _ _) fun _ => refl.step .pulsePeriod

theorem evolves_pulseRoundEnd {b i levels} : evolvesOnly [.cnt, .mem, .poison, .cells, .rack] (.pulseRoundEnd b i levels) :=
  of_run (exec_pulseRoundEnd _ _ _) fun _ => refl.step .roundEnd

theorem evolves_foldComplete {b e} : evolvesOnly [.regs, .cnt, .mem, .poison, .draws, .frm, .variants, .rack, .mbx, .flt] (.foldComplete b e) :=
  of_run (exec_foldComplete _ _) fun _ => refl.step .ecc |>.step .foldComplete

theorem evolves_kilnUnit {b i now m e} :
    evolvesOnly [.regs, .cnt, .mem, .poison, .draws, .frm, .variants, .kln, .mbx, .sec] (.kilnUnit b i now m e) :=
  of_run (exec_kilnUnit _ _ _ _ _) fun _ => refl.step .ecc |>.step .kilnUnit

theorem evolves_kilnRestore {b i} : evolvesOnly [.kln] (.kilnRestore b i) :=
  of_run (exec_kilnRestore _ _) fun _ => refl.step .put_kln

theorem evolves_matmul {c n e} : evolvesOnly [.regs, .cnt, .mem, .poison, .draws, .frm, .variants, .run, .late, .mxc, .num, .mbx] (.matmul c n e) :=
  of_run (exec_matmul _ _ _) fun _ => refl.step .ecc |>.step .matmul

theorem evolves_move {c n e} : evolvesOnly [.regs, .cnt, .mem, .poison, .draws, .frm, .variants, .run, .late, .mbx] (.move c n e) :=
  of_run (exec_move _ _ _) fun _ => refl.step .ecc |>.step .move

theorem evolves_gather {c n e} : evolvesOnly [.regs, .cnt, .mem, .poison, .draws, .frm, .variants, .run, .late, .mbx] (.gather c n e) :=
  of_run (exec_gather _ _ _) fun _ => refl.step .ecc |>.step .gatherRows

theorem evolves_vprog {c e} : evolvesOnly [.regs, .cnt, .mem, .poison, .draws, .frm, .variants, .run, .late, .mxc, .num, .mbx] (.vprog c e) :=
  of_run (exec_vprog _ _) fun _ => refl.step .ecc |>.step .vprog

theorem evolves_assemble {c n e} : evolvesOnly [.regs, .cnt, .mem, .poison, .draws, .frm, .variants, .run, .late, .mxc, .mbx] (.assemble c n e) :=
  of_run (exec_assemble _ _ _) fun _ => refl.step .ecc |>.step .assemble

theorem evolves_bwdWot {c n e} : evolvesOnly [.regs, .cnt, .mem, .poison, .draws, .frm, .variants, .run, .late, .mbx] (.bwdWot c n e) :=
  of_run (exec_bwdWot _ _ _) fun _ => refl.step .ecc |>.step .bwdWot

theorem evolves_attnFwd {c n e} : evolvesOnly [.regs, .cnt, .mem, .poison, .draws, .frm, .variants, .run, .late, .mbx] (.attnFwd c n e) :=
  of_run (exec_attnFwd _ _ _) fun _ => .attn (refl.step .ecc) fun _ _ _ _ h => h.step .attnFwdBlock

theorem evolves_attnBwd {c n e} : evolvesOnly [.regs, .cnt, .mem, .poison, .draws, .frm, .variants, .run, .late, .mbx] (.attnBwd c n e) :=
  of_run (exec_attnBwd _ _ _) fun _ => .attn (refl.step .ecc) fun _ _ _ _ h => h.step .attnBwdBlock

theorem evolves_normBwd {c n e} : evolvesOnly [.regs, .cnt, .mem, .poison, .draws, .frm, .variants, .run, .late, .mbx] (.normBwd c n e) :=
  of_run (exec_normBwd _ _ _) fun _ => refl.step .ecc |>.step .normBwd

theorem evolves_tiesum {c n e} : evolvesOnly [.regs, .cnt, .mem, .poison, .draws, .frm, .variants, .run, .late, .mbx] (.tiesum c n e) :=
  of_run (exec_tiesum _ _ _) fun _ => refl.step .ecc |>.step .tiesum

theorem evolves_compare {c n e} : evolvesOnly [.regs, .cnt, .mem, .poison, .draws, .frm, .variants, .run, .late, .rack, .mbx] (.compare c n e) :=
  of_run (exec_compare _ _ _) fun _ => refl.step .ecc |>.step .compare

theorem evolves_lrFit {c e} : evolvesOnly [.regs, .cnt, .mem, .poison, .draws, .frm, .variants, .run, .late, .rack, .mbx] (.lrFit c e) :=
  of_run (exec_lrFit _ _) fun _ => refl.step .ecc |>.step .lrFit

theorem evolves_rs {e} : evolvesOnly [.regs, .cnt, .mem, .poison, .draws, .frm, .variants, .run, .late, .red, .fab, .mbx, .gau] (.rs e) :=
  of_run (exec_rs _) fun _ => refl.step .ecc |>.step .rs

theorem evolves_ag {e} : evolvesOnly [.regs, .cnt, .mem, .poison, .draws, .frm, .variants, .run, .late, .red, .fab, .mbx, .gau] (.ag e) :=
  of_run (exec_ag _) fun _ => refl.step .ecc |>.step .ag

theorem evolves_preX {e} : evolvesOnly [.regs, .cnt, .mem, .poison, .draws, .frm, .variants, .run, .late, .red, .fab, .mbx, .gau] (.preX e) :=
  of_run (exec_preX _) fun _ => refl.step .ecc |>.step .preX

theorem evolves_notice {e} : evolvesOnly [.regs, .cnt, .mem, .poison, .draws, .frm, .variants, .run, .red, .fab, .mbx, .gau] (.notice e) :=
  of_run (exec_notice _) fun _ => refl.step .ecc |>.step .notice

theorem evolves_replay {e} :
    evolvesOnly [.regs, .cnt, .mem, .poison, .draws, .frm, .variants, .run, .late, .num, .red, .fab, .mbx, .gau] (.replay e) :=
  of_run (exec_replay _) fun _ => refl.step .ecc |>.step .replayRed

theorem evolves_fetch {e} : evolvesOnly [.regs, .cnt, .mem, .poison, .draws, .frm, .variants, .run, .late, .red, .fab, .mbx, .gau] (.fetch e) :=
  of_run (exec_fetch _) fun _ => refl.step .ecc |>.step .fetch

theorem evolves_send {p n e} : evolvesOnly [.regs, .cnt, .mem, .poison, .draws, .frm, .variants, .run, .pnd, .fab, .mbx] (.send p n e) :=
  of_run (exec_send _ _ _) fun _ => foldl (refl.step .ecc) fun _ _ h => h.step .sendItem

theorem evolves_hostPut {e} : evolvesOnly [.regs, .cnt, .mem, .poison, .draws, .frm, .variants, .run, .mbx] (.hostPut e) :=
  of_run (exec_hostPut _) fun _ => refl.step .ecc |>.step .hostPut

theorem evolves_hostGet {data e} : evolvesOnly [.cnt, .mem, .poison, .run, .late] (.hostGet data e) :=
  of_run (exec_hostGet _ _) fun _ => refl.step .ecc |>.step .hostGet

theorem evolves_hostXferCompletion : evolvesOnly [.cnt, .frm, .run, .late] .hostXferCompletion :=
  of_run (exec_hostXferCompletion) fun _ => refl.step .hostError

theorem evolves_mxcCheck {c e} :
    evolvesOnly [.regs, .cnt, .mem, .poison, .draws, .frm, .variants, .run, .late, .rack, .mxc, .num, .red, .mbx, .flt] (.mxcCheck c e) :=
  of_run (exec_mxcCheck _ _) fun _ => refl.step .ecc |>.step .mxcSentinel

theorem evolves_tunCheck {b sub e} : evolvesOnly [.regs, .cnt, .mem, .poison, .draws, .frm, .variants, .run, .red, .mbx, .flt] (.tunCheck b sub e) :=
  of_run (exec_tunCheck _ _ _) fun _ => refl.step .ecc |>.step .tunSentinel

theorem evolves_vFma {c w} : evolvesOnly [.regs, .cnt, .mem, .poison, .draws, .frm, .variants, .run, .late, .mxc, .num, .mbx] (.vFma c w) :=
  of_run (exec_vFma _ _) fun _ => refl.step .insn

theorem evolves_vAdd {c w} : evolvesOnly [.regs, .cnt, .mem, .poison, .draws, .frm, .variants, .run, .late, .mxc, .num, .mbx] (.vAdd c w) :=
  of_run (exec_vAdd _ _) fun _ => refl.step .insn

theorem evolves_vMul {c w} : evolvesOnly [.regs, .cnt, .mem, .poison, .draws, .frm, .variants, .run, .late, .mxc, .num, .mbx] (.vMul c w) :=
  of_run (exec_vMul _ _) fun _ => refl.step .insn

theorem evolves_vMax {c w} : evolvesOnly [.regs, .cnt, .mem, .poison, .draws, .frm, .variants, .run, .late, .mxc, .num, .mbx] (.vMax c w) :=
  of_run (exec_vMax _ _) fun _ => refl.step .insn

theorem evolves_vMin {c w} : evolvesOnly [.regs, .cnt, .mem, .poison, .draws, .frm, .variants, .run, .late, .mxc, .num, .mbx] (.vMin c w) :=
  of_run (exec_vMin _ _) fun _ => refl.step .insn

theorem evolves_vSel {c w} : evolvesOnly [.regs, .cnt, .mem, .poison, .draws, .frm, .variants, .run, .late, .mxc, .num, .mbx] (.vSel c w) :=
  of_run (exec_vSel _ _) fun _ => refl.step .insn

theorem evolves_vCmplt {c w} : evolvesOnly [.regs, .cnt, .mem, .poison, .draws, .frm, .variants, .run, .late, .mxc, .num, .mbx] (.vCmplt c w) :=
  of_run (exec_vCmplt _ _) fun _ => refl.step .insn

theorem evolves_vExp2 {c w} : evolvesOnly [.regs, .cnt, .mem, .poison, .draws, .frm, .variants, .run, .late, .mxc, .num, .mbx] (.vExp2 c w) :=
  of_run (exec_vExp2 _ _) fun _ => refl.step .insn

theorem evolves_vRcp {c w} : evolvesOnly [.regs, .cnt, .mem, .poison, .draws, .frm, .variants, .run, .late, .mxc, .num, .mbx] (.vRcp c w) :=
  of_run (exec_vRcp _ _) fun _ => refl.step .insn

theorem evolves_vRsq {c w} : evolvesOnly [.regs, .cnt, .mem, .poison, .draws, .frm, .variants, .run, .late, .mxc, .num, .mbx] (.vRsq c w) :=
  of_run (exec_vRsq _ _) fun _ => refl.step .insn

theorem evolves_vLog2 {c w} : evolvesOnly [.regs, .cnt, .mem, .poison, .draws, .frm, .variants, .run, .late, .mxc, .num, .mbx] (.vLog2 c w) :=
  of_run (exec_vLog2 _ _) fun _ => refl.step .insn

theorem evolves_vTwosum {c w} : evolvesOnly [.regs, .cnt, .mem, .poison, .draws, .frm, .variants, .run, .late, .mxc, .num, .mbx] (.vTwosum c w) :=
  of_run (exec_vTwosum _ _) fun _ => refl.step .insn

theorem evolves_vFast2sum {c w} : evolvesOnly [.regs, .cnt, .mem, .poison, .draws, .frm, .variants, .run, .late, .mxc, .num, .mbx] (.vFast2sum c w) :=
  of_run (exec_vFast2sum _ _) fun _ => refl.step .insn

theorem evolves_vTwoprod {c w} : evolvesOnly [.regs, .cnt, .mem, .poison, .draws, .frm, .variants, .run, .late, .mxc, .num, .mbx] (.vTwoprod c w) :=
  of_run (exec_vTwoprod _ _) fun _ => refl.step .insn

theorem evolves_vCvt {c w e} : evolvesOnly [.regs, .cnt, .mem, .poison, .draws, .frm, .variants, .run, .late, .mxc, .num, .mbx] (.vCvt c w e) :=
  of_run (exec_vCvt _ _ _) fun _ => refl.step .ecc |>.step .insn

theorem evolves_vCvtTunin {c w e} :
    evolvesOnly [.regs, .cnt, .mem, .poison, .draws, .frm, .variants, .run, .late, .mxc, .num, .mbx] (.vCvtTunin c w e) :=
  of_run (exec_vCvtTunin _ _ _) fun _ => refl.step .ecc |>.step .insn

theorem evolves_vRedSum {c w} : evolvesOnly [.regs, .cnt, .mem, .poison, .draws, .frm, .variants, .run, .late, .mxc, .num, .mbx] (.vRedSum c w) :=
  of_run (exec_vRedSum _ _) fun _ => refl.step .insn

theorem evolves_vRedMax {c w} : evolvesOnly [.regs, .cnt, .mem, .poison, .draws, .frm, .variants, .run, .late, .mxc, .num, .mbx] (.vRedMax c w) :=
  of_run (exec_vRedMax _ _) fun _ => refl.step .insn

theorem evolves_vRedMin {c w} : evolvesOnly [.regs, .cnt, .mem, .poison, .draws, .frm, .variants, .run, .late, .mxc, .num, .mbx] (.vRedMin c w) :=
  of_run (exec_vRedMin _ _) fun _ => refl.step .insn

theorem evolves_vKth {c w} : evolvesOnly [.regs, .cnt, .mem, .poison, .draws, .frm, .variants, .run, .late, .mxc, .num, .mbx] (.vKth c w) :=
  of_run (exec_vKth _ _) fun _ => refl.step .insn

theorem evolves_vRng {c w} : evolvesOnly [.regs, .cnt, .mem, .poison, .draws, .frm, .variants, .run, .late, .mxc, .num, .mbx] (.vRng c w) :=
  of_run (exec_vRng _ _) fun _ => refl.step .insn

theorem evolves_vLd {c w e} : evolvesOnly [.regs, .cnt, .mem, .poison, .draws, .frm, .variants, .run, .late, .mxc, .num, .mbx] (.vLd c w e) :=
  of_run (exec_vLd _ _ _) fun _ => refl.step .ecc |>.step .insn

theorem evolves_vSt {c w e} : evolvesOnly [.regs, .cnt, .mem, .poison, .draws, .frm, .variants, .run, .late, .mxc, .num, .mbx] (.vSt c w e) :=
  of_run (exec_vSt _ _ _) fun _ => refl.step .ecc |>.step .insn

theorem evolves_vGld {c w e} : evolvesOnly [.regs, .cnt, .mem, .poison, .draws, .frm, .variants, .run, .late, .mxc, .num, .mbx] (.vGld c w e) :=
  of_run (exec_vGld _ _ _) fun _ => refl.step .ecc |>.step .insn

theorem evolves_vLoop {c w} : evolvesOnly [.regs, .cnt, .mem, .poison, .draws, .frm, .variants, .run, .late, .mxc, .num, .mbx] (.vLoop c w) :=
  of_run (exec_vLoop _ _) fun _ => refl.step .insn

theorem evolves_vEnd {c w} : evolvesOnly [.regs, .cnt, .mem, .poison, .draws, .frm, .variants, .run, .late, .mxc, .num, .mbx] (.vEnd c w) :=
  of_run (exec_vEnd _ _) fun _ => refl.step .insn

theorem evolves_tokenForm {e} : evolvesOnly [.regs, .cnt, .mem, .poison, .draws, .frm, .variants, .num, .red, .fab, .mbx] (.tokenForm e) :=
  of_run (exec_tokenForm _) fun _ => when (refl.step .ecc) fun h => h.step .readStep |>.step .formToken |>.step .tryToken

theorem evolves_tokenMsg {p m} : evolvesOnly [.regs, .cnt, .mem, .poison, .draws, .red, .fab, .mbx] (.tokenMsg p m) :=
  of_run (exec_tokenMsg _ _) fun _ => .localMsg refl fun _ h => h.step .tokenIn

theorem evolves_tokenForwardDeadline : evolvesOnly [.regs, .cnt, .mem, .poison, .draws, .red, .fab, .mbx] .tokenForwardDeadline :=
  of_run (exec_tokenForwardDeadline) fun _ => ite (refl.step .forwardToken) refl

theorem evolves_tokenDecideDeadline : evolvesOnly [.regs, .cnt, .mem, .poison, .draws, .red, .fab, .mbx] .tokenDecideDeadline :=
  of_run (exec_tokenDecideDeadline) fun _ => ite (refl.step .decideToken) refl

theorem evolves_resultMsg {p m} : evolvesOnly [.cnt, .red, .fab] (.resultMsg p m) :=
  of_run (exec_resultMsg _ _) fun _ => .localMsg refl fun _ h => h.step .resultIn

theorem evolves_reduceMsg {p m t} :
    evolvesOnly [.regs, .cnt, .mem, .poison, .draws, .frm, .variants, .run, .late, .num, .red, .fab, .mbx, .gau] (.reduceMsg p m t) :=
  of_run (exec_reduceMsg _ _ _) fun _ => refl.step .reduceIn

theorem evolves_agRx {p m t} :
    evolvesOnly [.regs, .cnt, .mem, .poison, .draws, .frm, .variants, .run, .late, .num, .red, .fab, .mbx, .gau] (.agRx p m t) :=
  of_run (exec_agRx _ _ _) fun _ => refl.step .reduceIn

theorem evolves_fetchRx {p m t} :
    evolvesOnly [.regs, .cnt, .mem, .poison, .draws, .frm, .variants, .run, .late, .num, .red, .fab, .mbx, .gau] (.fetchRx p m t) :=
  of_run (exec_fetchRx _ _ _) fun _ => refl.step .reduceIn

theorem evolves_preXRx {p m t} :
    evolvesOnly [.regs, .cnt, .mem, .poison, .draws, .frm, .variants, .run, .late, .num, .red, .fab, .mbx, .gau] (.preXRx p m t) :=
  of_run (exec_preXRx _ _ _) fun _ => refl.step .reduceIn

theorem evolves_noticeRx {p m t} :
    evolvesOnly [.regs, .cnt, .mem, .poison, .draws, .frm, .variants, .run, .late, .num, .red, .fab, .mbx, .gau] (.noticeRx p m t) :=
  of_run (exec_noticeRx _ _ _) fun _ => refl.step .reduceIn

theorem evolves_packetDeadline :
    evolvesOnly [.regs, .cnt, .mem, .poison, .draws, .frm, .variants, .run, .late, .num, .red, .fab, .mbx, .gau] .packetDeadline :=
  of_run (exec_packetDeadline) fun _ => refl.step .setRed |>.step .redStep

theorem evolves_bargeMsg {p m} : evolvesOnly [.regs, .cnt, .mem, .poison, .draws, .frm, .late, .pnd, .fab, .hif, .mbx] (.bargeMsg p m) :=
  of_run (exec_bargeMsg _ _) fun _ => refl.step .bargeMsg |>.step .endPermute

theorem evolves_poundRelease : evolvesOnly [.cnt, .pnd, .fab] .poundRelease :=
  of_run (exec_poundRelease) fun _ => ite (refl.step .releaseDue) refl

theorem evolves_creditMsg {p m} : evolvesOnly [.cnt, .pnd, .fab] (.creditMsg p m) :=
  of_run (exec_creditMsg _ _) fun _ => .routed refl fun _ h => h.step .creditIn

theorem evolves_permAck {p m} : evolvesOnly [.regs, .cnt, .mem, .poison, .draws, .pnd, .fab, .hif, .mbx] (.permAck p m) :=
  of_run (exec_permAck _ _) fun _ => use (.routed refl fun _ h => h.step .permAck) fun h => h.step .endPermute

theorem evolves_permuteTimeout : evolvesOnly [.regs, .cnt, .mem, .poison, .draws, .pnd, .hif, .mbx] .permuteTimeout :=
  of_run (exec_permuteTimeout) fun _ => refl.step .permTimeout |>.step .endPermute

theorem evolves_flitRxData {p x} :
    evolvesOnly [.regs, .cnt, .mem, .lsEpoch, .poison, .draws, .frm, .variants, .kln, .red, .fab, .hif, .mbx, .flt, .pwr, .sec] (.flitRxData p x) :=
  of_run (exec_flitRxData _ _) fun _ => use (.flitRx refl fun _ h => h.step .dataFlit) fun h => h.step .advance

theorem evolves_flitRxCtrl {p x peer credits t} :
    evolvesOnly [.regs, .cnt, .mem, .lsEpoch, .poison, .draws, .frm, .variants, .kln, .red, .fab, .hif, .mbx, .flt, .pwr, .sec] (.flitRxCtrl p x peer
      credits t) :=
  of_run (exec_flitRxCtrl _ _ _ _ _) fun _ => use (.flitRx refl fun _ h => h.step .ctrlFlit) fun h => h.step .advance

theorem evolves_flitRxIdle {p x} :
    evolvesOnly [.regs, .cnt, .mem, .lsEpoch, .poison, .draws, .frm, .variants, .kln, .red, .fab, .hif, .mbx, .flt, .pwr, .sec] (.flitRxIdle p x) :=
  of_run (exec_flitRxIdle _ _) fun _ => use (.flitRx refl fun _ h => ite (h.step .protoError) h) fun h => h.step .advance

theorem evolves_ackTimeout {p} :
    evolvesOnly [.regs, .cnt, .mem, .lsEpoch, .poison, .draws, .frm, .variants, .kln, .red, .fab, .hif, .mbx, .flt, .pwr, .sec] (.ackTimeout p) :=
  of_run (exec_ackTimeout _) fun _ => refl.step .replay |>.step .advance

theorem evolves_flitIdleTimeout {p} :
    evolvesOnly [.regs, .cnt, .mem, .lsEpoch, .poison, .draws, .frm, .variants, .kln, .red, .fab, .hif, .mbx, .flt, .pwr, .sec] (.flitIdleTimeout p) :=
  of_run (exec_flitIdleTimeout _) fun _ => refl.step .loseLink |>.step .advance

theorem evolves_linkLost {p} :
    evolvesOnly [.regs, .cnt, .mem, .lsEpoch, .poison, .draws, .frm, .variants, .kln, .red, .fab, .hif, .mbx, .flt, .pwr, .sec] (.linkLost p) :=
  of_run (exec_linkLost _) fun _ => refl.step .loseLink |>.step .advance

theorem evolves_retrainTimer {p} :
    evolvesOnly [.regs, .cnt, .mem, .lsEpoch, .poison, .draws, .frm, .variants, .kln, .red, .fab, .hif, .mbx, .flt, .pwr, .sec] (.retrainTimer p) :=
  of_run (exec_retrainTimer _) fun _ => refl.step .retrainDue |>.step .advance

theorem evolves_portTrained {p} : evolvesOnly [.fab] (.portTrained p) :=
  of_run (exec_portTrained _) fun _ => refl.step .portTrain

theorem evolves_guardProbe {t} : evolvesOnly [.cnt, .fab] (.guardProbe t) :=
  of_run (exec_guardProbe _) fun _ => foldl refl fun _ _ h => ite (h.step .sendProbe) h

theorem evolves_probeMsg {p m turn} : evolvesOnly [.cnt, .fab] (.probeMsg p m turn) :=
  of_run (exec_probeMsg _ _ _) fun _ => .bringUpMsg refl fun _ h => h.step .txRaw

theorem evolves_echoMsg {p m t next} :
    evolvesOnly [.regs, .cnt, .mem, .lsEpoch, .poison, .draws, .frm, .variants, .kln, .red, .fab, .hif, .mbx, .flt, .gau, .pwr, .sec] (.echoMsg p m t
      next) :=
  of_run (exec_echoMsg _ _ _ _) fun _ => use (.bringUpMsg refl fun _ h => h.step .echo) fun h => h.step .advance

theorem evolves_parentMsg {p m} : evolvesOnly [.regs, .cnt] (.parentMsg p m) :=
  of_run (exec_parentMsg _ _) fun _ => .localMsg refl fun _ h => h.step .setFld

theorem evolves_mgmtMsg {p m} : evolvesOnly [.regs, .cnt, .mem, .poison, .draws, .fab, .mbx] (.mgmtMsg p m) :=
  of_run (exec_mgmtMsg _ _) fun _ => .routed refl fun _ h => h.step .mgmtIn

theorem evolves_ringMsg {p m} :
    evolvesOnly [.regs, .cnt, .mem, .lsEpoch, .poison, .draws, .frm, .variants, .kln, .red, .fab, .hif, .mbx, .flt, .pwr, .sec] (.ringMsg p m) :=
  of_run (exec_ringMsg _ _) fun _ => use (.discMsg refl fun _ h => h.step .ringIn) fun h => h.step .advance

theorem evolves_assignMsg {p m} :
    evolvesOnly [.regs, .cnt, .mem, .lsEpoch, .poison, .draws, .frm, .variants, .kln, .red, .fab, .hif, .mbx, .flt, .pwr, .sec] (.assignMsg p m) :=
  of_run (exec_assignMsg _ _) fun _ => use (.discMsg refl fun _ h => h.step .assignIn) fun h => h.step .advance

theorem evolves_censusMsg {p m} :
    evolvesOnly [.regs, .cnt, .mem, .lsEpoch, .poison, .draws, .frm, .variants, .kln, .red, .fab, .hif, .mbx, .flt, .pwr, .sec] (.censusMsg p m) :=
  of_run (exec_censusMsg _ _) fun _ => use (.discMsg refl fun _ h => h.step .censusIn) fun h => h.step .advance

theorem evolves_doneMsg {p m} :
    evolvesOnly [.regs, .cnt, .mem, .lsEpoch, .poison, .draws, .frm, .variants, .kln, .red, .fab, .hif, .mbx, .flt, .pwr, .sec] (.doneMsg p m) :=
  of_run (exec_doneMsg _ _) fun _ => use (.discMsg refl fun _ h => h.step .doneIn) fun h => h.step .advance

theorem evolves_confirmMsg {p m} :
    evolvesOnly [.regs, .cnt, .mem, .lsEpoch, .poison, .draws, .frm, .variants, .kln, .red, .fab, .hif, .mbx, .flt, .pwr, .sec] (.confirmMsg p m) :=
  of_run (exec_confirmMsg _ _) fun _ => use (.bringUpMsg refl fun _ h => h.step .confirmIn) fun h => h.step .advance

theorem evolves_discTestTick : evolvesOnly [.cnt, .fab] .discTestTick :=
  of_run (exec_discTestTick) fun _ => ite (refl.step .setDisc |>.step .floodTick) refl

theorem evolves_discoveryTimeout :
    evolvesOnly [.regs, .cnt, .mem, .lsEpoch, .poison, .draws, .frm, .variants, .kln, .red, .fab, .hif, .mbx, .flt, .pwr, .sec] .discoveryTimeout :=
  of_run (exec_discoveryTimeout) fun _ => refl.step .discTimeout |>.step .advance

theorem evolves_hbmRefresh {h} : evolvesOnly [] (.hbmRefresh h) :=
  of_run (exec_hbmRefresh _) fun _ => refl

theorem evolves_hbmTempReport {h hot} : evolvesOnly [.regs] (.hbmTempReport h hot) :=
  of_run (exec_hbmTempReport _ _) fun _ => refl.step .setFld

theorem evolves_bar4Read {off n e} : evolvesOnly [.regs, .cnt, .mem, .poison, .draws, .frm, .variants, .mbx] (.bar4Read off n e) :=
  of_run (exec_bar4Read _ _ _) fun _ => .bar4Gate refl (fun _ h => h.step .emit) (fun _ h => h.step .emit) fun _ h =>
    ite (h.step .bump |>.step .emit) (when (h.step .ecc |>.step .idleRead |>.step .emit) fun h => h.step .emit)

theorem evolves_sqTailDoorbell {n v whole} : evolvesOnly [.cnt, .hif] (.sqTailDoorbell n v whole) :=
  of_run (exec_sqTailDoorbell _ _ _) fun _ => .bar2Write refl fun _ h => h.step .tailDoorbell

theorem evolves_cqHeadDoorbell {n v whole} : evolvesOnly [.regs, .cnt, .mem, .poison, .draws, .hif, .mbx] (.cqHeadDoorbell n v whole) :=
  of_run (exec_cqHeadDoorbell _ _ _) fun _ => .bar2Write refl fun _ h => h.step .headDoorbell

theorem evolves_descriptorFetch {n data} : evolvesOnly [.regs, .cnt, .mem, .poison, .draws, .hif, .mbx] (.descriptorFetch n data) :=
  of_run (exec_descriptorFetch _ _) fun _ => refl.step .fetchDesc

theorem evolves_msixCoalTimeout {n} : evolvesOnly [.hif] (.msixCoalTimeout n) :=
  of_run (exec_msixCoalTimeout _) fun _ => by
    split
    · exact refl
    · exact ite refl (refl.step .setCq |>.step .fire)

theorem evolves_nop {n} : evolvesOnly [.regs, .cnt, .mem, .poison, .draws, .hif, .mbx] (.nop n) :=
  of_run (exec_nop _) fun _ => .opCommand refl fun _ _ h => h.step .complete

theorem evolves_createSq {n} : evolvesOnly [.regs, .cnt, .mem, .poison, .draws, .hif, .mbx] (.createSq n) :=
  of_run (exec_createSq _) fun _ => .opCommand refl fun _ _ h => h.step .setSq |>.step .complete

theorem evolves_createCq {n} : evolvesOnly [.regs, .cnt, .mem, .poison, .draws, .hif, .mbx] (.createCq n) :=
  of_run (exec_createCq _) fun _ => .opCommand refl fun _ _ h => h.step .setCq |>.step .complete

theorem evolves_deleteSq {n} : evolvesOnly [.regs, .cnt, .mem, .poison, .draws, .hif, .mbx] (.deleteSq n) :=
  of_run (exec_deleteSq _) fun _ => .opCommand refl fun _ _ h => h.step .setHif |>.step .sweep

theorem evolves_deleteCq {n} : evolvesOnly [.regs, .cnt, .mem, .poison, .draws, .hif, .mbx] (.deleteCq n) :=
  of_run (exec_deleteCq _) fun _ => .opCommand refl fun _ _ h => ite (h.step .complete) (h.step .setCq |>.step .complete)

theorem evolves_hello {n} :
    evolvesOnly [.regs, .cnt, .mem, .lsEpoch, .poison, .draws, .frm, .variants, .kln, .red, .fab, .hif, .mbx, .flt, .pwr, .sec] (.hello n) :=
  of_run (exec_hello _) fun _ => .opCommand refl fun _ _ h => h.step .answerHello

theorem evolves_query {n} : evolvesOnly [.regs, .cnt, .mem, .poison, .draws, .hif, .mbx] (.query n) :=
  of_run (exec_query _) fun _ => .opCommand refl fun _ _ h => h.step .complete

theorem evolves_updateStaged : evolvesOnly [.regs, .cnt, .mem, .poison, .draws, .frm, .hif, .mbx, .sec] .updateStaged :=
  of_run (exec_updateStaged) fun _ => ite refl (use (refl.step .setFld |>.step .put_mbx) fun h => ite h (h.step .handover))

theorem evolves_caskRead {fwBad certBad e} :
    evolvesOnly [.regs, .cnt, .mem, .lsEpoch, .poison, .draws, .frm, .variants, .spg, .kln, .num, .red, .fab, .hif, .mbx, .flt, .pwr, .sec] (.caskRead
      fwBad certBad e) :=
  of_run (exec_caskRead _ _ _) fun _ => refl.step .caskRead

theorem evolves_updateResume :
    evolvesOnly [.regs, .cnt, .mem, .poison, .draws, .frm, .variants, .run, .late, .spg, .rack, .kln, .mxc, .num, .red, .pnd, .fab, .hif, .mbx, .flt,
      .gau, .sec] .updateResume :=
  of_run (exec_updateResume) fun _ => refl.step .frameOf

theorem evolves_startWarm {n env} :
    evolvesOnly [.regs, .cnt, .latch, .mem, .lsEpoch, .poison, .draws, .frm, .variants, .run, .late, .cells, .rmOpen, .rmStats, .spg, .rack, .kln,
      .mxc, .num, .red, .pnd, .fab, .hif, .mbx, .flt, .gau, .pwr, .sec] (.startWarm n env) :=
  of_run (exec_startWarm _ _) fun _ => .command refl fun _ _ h => h.step .warmStart

theorem evolves_startCold {n romOk} :
    evolvesOnly [.regs, .cnt, .latch, .mem, .lsEpoch, .poison, .draws, .frm, .variants, .run, .late, .cells, .rmOpen, .rmStats, .spg, .rack, .kln,
      .mxc, .num, .red, .pnd, .fab, .hif, .mbx, .flt, .gau, .pwr, .sec] (.startCold n romOk) :=
  of_run (exec_startCold _ _) fun _ => .command refl fun _ _ h => h.step .beginCold |>.step .romDone

theorem evolves_discover {n} :
    evolvesOnly [.regs, .cnt, .mem, .lsEpoch, .poison, .draws, .frm, .variants, .kln, .red, .fab, .hif, .mbx, .flt, .pwr, .sec] (.discover n) :=
  of_run (exec_discover _) fun _ => .opCommand refl fun _ _ h =>
    ite (h.step .complete) (use (ite (h.step .startSize) (h.step .joinDisc)) fun h => h.step .advance)

theorem evolves_fpDiscard {n} : evolvesOnly [.regs, .cnt, .mem, .poison, .draws, .variants, .hif, .mbx] (.fpDiscard n) :=
  of_run (exec_fpDiscard _) fun _ => .opCommand refl fun _ _ h => ite (h.step .complete) (h.step .emptySlot |>.step .complete)

theorem evolves_fpArm {n} : evolvesOnly [.regs, .cnt, .mem, .poison, .draws, .hif, .mbx] (.fpArm n) :=
  of_run (exec_fpArm _) fun _ => .opCommand refl fun _ _ h =>
    ite (h.step .setFld |>.step .complete) (ite (h.step .setFld |>.step .complete) (h.step .complete))

theorem evolves_run {n} : evolvesOnly [.regs, .cnt, .mem, .poison, .draws, .frm, .variants, .num, .pnd, .hif, .mbx, .flt] (.run n) :=
  of_run (exec_run _) fun _ => .opCommand refl fun _ _ h => ite (h.step .runSlot) (h.step .complete)

theorem evolves_resume {n} : evolvesOnly [.regs, .cnt, .mem, .poison, .draws, .frm, .variants, .num, .pnd, .fab, .hif, .mbx, .flt] (.resume n) :=
  of_run (exec_resume _) fun _ => .opCommand refl fun _ _ h => ite (h.step .complete) (h.step .resume)

theorem evolves_startTickReached :
    evolvesOnly [.regs, .cnt, .mem, .poison, .draws, .frm, .variants, .run, .late, .spg, .rack, .kln, .mxc, .num, .red, .pnd, .fab, .hif, .mbx, .flt,
      .gau, .sec] .startTickReached :=
  of_run (exec_startTickReached) fun _ => refl.step .frameOf

theorem evolves_quiesce {n} : evolvesOnly [.regs, .cnt, .mem, .poison, .draws, .frm, .hif, .mbx] (.quiesce n) :=
  of_run (exec_quiesce _) fun _ => .opCommand refl fun _ _ h => ite (h.step .complete) (h.step .setFrm)

theorem evolves_stop {n} : evolvesOnly [.regs, .cnt, .mem, .poison, .draws, .frm, .run, .rack, .kln, .red, .pnd, .fab, .hif, .mbx] (.stop n) :=
  of_run (exec_stop _) fun _ => .opCommand refl fun _ _ h => h.step .stop |>.step .complete

theorem evolves_permute {n e} : evolvesOnly [.regs, .cnt, .mem, .poison, .draws, .frm, .variants, .pnd, .fab, .hif, .mbx] (.permute n e) :=
  of_run (exec_permute _ _) fun _ => .opCommand refl fun _ _ h =>
    ite (h.step .complete)
      (use (h.step .ecc) fun h =>
        ite (h.step .complete)
          (use (foldl (h.step .idleRead) fun _ _ h => h.step .idleRead) fun h => h.step .setHif |>.step .permStart |>.step .endPermute))

theorem evolves_dmaH2d {n data} : evolvesOnly [.regs, .cnt, .mem, .poison, .draws, .hif, .mbx] (.dmaH2d n data) :=
  of_run (exec_dmaH2d _ _) fun _ => .opCommand refl fun _ _ h =>
    use (h.step .emit |>.step .write) fun h => ite (h.step .bump |>.step .complete) (h.step .complete)

theorem evolves_dmaD2h {n sent e} : evolvesOnly [.regs, .cnt, .mem, .poison, .draws, .frm, .variants, .hif, .mbx] (.dmaD2h n sent e) :=
  of_run (exec_dmaD2h _ _ _) fun _ => .opCommand refl fun _ _ h =>
    use (h.step .ecc |>.step .idleRead |>.step .emit) fun h => ite (h.step .bump |>.step .complete) (h.step .complete)

theorem evolves_program {n missed kiln fwBad certBad e} :
    evolvesOnly [.regs, .cnt, .mem, .poison, .draws, .frm, .variants, .cells, .rack, .kln, .hif, .mbx, .flt, .pwr, .sec] (.program n missed kiln fwBad
      certBad e) :=
  of_run (exec_program _ _ _ _ _ _) fun _ => .opCommand refl fun _ _ h =>
    use
        (foldl
            (use (foldl (h.step .ecc |>.step .idleRead |>.step .stage) fun _ _ h => h.step .programTun) fun h => h.step .complete |>.step .stage) fun _ _ h =>
          h.step .kilnUnits |>.step .kilnFinish) fun h =>
    h.step .coldEnd

theorem evolves_mbxTx {m n w} : evolvesOnly [.regs, .cnt, .mem, .poison, .draws, .mbx] (.mbxTx m n w) :=
  of_run (exec_mbxTx _ _ _) fun _ => refl.step .mbxTx

theorem evolves_mbxRx {m n} : evolvesOnly [.regs, .cnt, .mem, .poison, .draws, .mbx] (.mbxRx m n) :=
  of_run (exec_mbxRx _ _) fun _ => refl.step .mbxRx

theorem evolves_mbxLock {v} : evolvesOnly [.regs] (.mbxLock v) :=
  of_run (exec_mbxLock _) fun _ => ite (refl.step .lockMbx) refl

theorem evolves_mbxMsgTimeout {n toB} : evolvesOnly [.cnt, .mbx] (.mbxMsgTimeout n toB) :=
  of_run (exec_mbxMsgTimeout _ _) fun _ => refl.step .mbxTimeout

theorem evolves_domainDown {m} : evolvesOnly [.regs, .cnt, .hif, .mbx] (.domainDown m) :=
  of_run (exec_domainDown _) fun _ => refl.step .domainDown

theorem evolves_ping {n} : evolvesOnly [.regs, .cnt, .mem, .poison, .draws, .mbx] (.ping n) :=
  of_run (exec_ping _) fun _ => ite (.aciskTake refl fun _ _ _ h => h.step .mbxTx) refl

theorem evolves_srDoorbell {k} : evolvesOnly [.regs, .cnt, .mem, .poison, .draws, .mbx] (.srDoorbell k) :=
  of_run (exec_srDoorbell _) fun _ => ite (.aciskTake refl fun _ _ _ h => h.step .put_mbx |>.step .answerBad |>.step .deliverMgmt) refl

theorem evolves_srEcho {k} : evolvesOnly [.regs, .cnt, .mem, .poison, .draws, .mbx] (.srEcho k) :=
  of_run (exec_srEcho _) fun _ => .serve refl fun _ _ h => h

theorem evolves_srVersion {k} : evolvesOnly [.regs, .cnt, .mem, .poison, .draws, .mbx] (.srVersion k) :=
  of_run (exec_srVersion _) fun _ => .serve refl fun _ _ h => h

theorem evolves_logLevel {k} : evolvesOnly [.regs, .cnt, .mem, .poison, .draws, .mbx] (.logLevel k) :=
  of_run (exec_logLevel _) fun _ => .serve refl fun _ _ h => h.step .put_mbx

theorem evolves_mgmtSend {k full} : evolvesOnly [.regs, .cnt, .mem, .poison, .draws, .fab, .mbx] (.mgmtSend k full) :=
  of_run (exec_mgmtSend _ _) fun _ => by
    refine .serve refl fun _ _ h => ?_
    split
    · exact h
    · exact use (h.step .put_mbx) fun h => ite (h.step .mgmtIn) (h.step .txRouted)

theorem evolves_caskInfo {k} : evolvesOnly [.regs, .cnt, .mem, .poison, .draws, .mbx] (.caskInfo k) :=
  of_run (exec_caskInfo _) fun _ => .serve refl fun _ _ h => h

theorem evolves_stickyClear {v} : evolvesOnly [.regs] (.stickyClear v) :=
  of_run (exec_stickyClear _) fun _ => refl.step .clearSticky

theorem evolves_wdogKick {m v} : evolvesOnly [.regs, .cnt] (.wdogKick m v) :=
  of_run (exec_wdogKick _ _) fun _ => ite (refl.step .bump) (ite (refl.step .setFld) refl)

theorem evolves_wdogExpire : evolvesOnly [.regs, .cnt, .mem, .poison, .draws, .frm, .hif, .mbx] .wdogExpire :=
  of_run (exec_wdogExpire) fun _ => ite (refl.step .wdogExpire |>.step .abortUpdate) refl

theorem evolves_klnReqInterp {basins} : evolvesOnly [.regs, .cnt] (.klnReqInterp basins) :=
  of_run (exec_klnReqInterp _) fun _ => refl.step .kilnRequests

theorem evolves_klnReqMeasured {basins} : evolvesOnly [.regs, .cnt] (.klnReqMeasured basins) :=
  of_run (exec_klnReqMeasured _) fun _ => refl.step .kilnRequests

theorem evolves_portRetrain {p} :
    evolvesOnly [.regs, .cnt, .mem, .lsEpoch, .poison, .draws, .frm, .variants, .kln, .red, .fab, .hif, .mbx, .flt, .pwr, .sec] (.portRetrain p) :=
  of_run (exec_portRetrain _) fun _ => refl.step .retrain |>.step .advance

theorem evolves_portDisable {p} :
    evolvesOnly [.regs, .cnt, .mem, .lsEpoch, .poison, .draws, .frm, .variants, .kln, .red, .fab, .hif, .mbx, .flt, .pwr, .sec] (.portDisable p) :=
  of_run (exec_portDisable _) fun _ => refl.step .disablePort |>.step .advance

theorem evolves_memCfgWrite {v} : evolvesOnly [.regs, .cnt] (.memCfgWrite v) :=
  of_run (exec_memCfgWrite _) fun _ => ite refl (refl.step .putMemCfg)

theorem evolves_adminRingsEnable {asq acq} : evolvesOnly [.regs, .cnt, .mem, .poison, .draws, .hif, .mbx] (.adminRingsEnable asq acq) :=
  of_run (exec_adminRingsEnable _ _) fun _ => refl.step .writeAdmin

theorem evolves_adminRingsDisable {asq acq} : evolvesOnly [.regs, .cnt, .mem, .poison, .draws, .hif, .mbx] (.adminRingsDisable asq acq) :=
  of_run (exec_adminRingsDisable _ _) fun _ => refl.step .writeAdmin

theorem evolves_secLock {v} : evolvesOnly [.sec] (.secLock v) :=
  of_run (exec_secLock _) fun _ => ite (refl.step .lockSec) refl

theorem evolves_gauUrg {g order n chan fits} : evolvesOnly [.regs, .cnt, .gau] (.gauUrg g order n chan fits) :=
  of_run (exec_gauUrg _ _ _ _ _) fun _ => refl.step .urgent

theorem evolves_urgentDone {g v} : evolvesOnly [.regs, .cnt, .gau] (.urgentDone g v) :=
  of_run (exec_urgentDone _ _) fun _ => refl.step .urgentDone

theorem evolves_gauPwr {on} : evolvesOnly [.regs, .cnt, .mbx, .gau] (.gauPwr on) :=
  of_run (exec_gauPwr _) fun _ => refl.step .gaugePower

theorem evolves_gauRefChange {g r} : evolvesOnly [.regs, .gau] (.gauRefChange g r) :=
  of_run (exec_gauRefChange _ _) fun _ => ite refl (refl.step .setFld |>.step .startSettling)

theorem evolves_refSettled {g} : evolvesOnly [.regs] (.refSettled g) :=
  of_run (exec_refSettled _) fun _ => refl.step .setFld

theorem evolves_scanPassDue {l} : evolvesOnly [.regs, .cnt, .gau] (.scanPassDue l) :=
  of_run (exec_scanPassDue _) fun _ => refl.step .passDue

theorem evolves_scanEntryDone {g v} : evolvesOnly [.regs, .cnt, .mem, .poison, .draws, .kln, .mbx, .gau] (.scanEntryDone g v) :=
  of_run (exec_scanEntryDone _ _) fun _ => refl.step .entryDone

theorem evolves_gauMonSel {mon} : evolvesOnly [.regs] (.gauMonSel mon) :=
  of_run (exec_gauMonSel _) fun _ => refl.step .monSelect

theorem evolves_gauMonClr : evolvesOnly [.gau] .gauMonClr :=
  of_run (exec_gauMonClr) fun _ => refl.step .clearMon

theorem evolves_gauMonClrAll : evolvesOnly [.gau] .gauMonClrAll :=
  of_run (exec_gauMonClrAll) fun _ => foldl refl fun _ _ h => h.step .clearMon

theorem evolves_gauMonCfg {base w} : evolvesOnly [.regs, .gau] (.gauMonCfg base w) :=
  of_run (exec_gauMonCfg _ _) fun _ => refl.step .monConfig

theorem evolves_registerWrite {off whole v} :
    evolvesOnly [.regs, .cnt, .mem, .lsEpoch, .poison, .draws, .frm, .variants, .kln, .red, .fab, .hif, .mbx, .flt, .gau, .pwr, .sec] (.registerWrite
      off whole v) :=
  of_run (exec_registerWrite _ _ _) fun _ => refl.step .barWrite

theorem evolves_perst {origin mode romOk} :
    evolvesOnly [.regs, .cnt, .latch, .mem, .lsEpoch, .poison, .draws, .frm, .variants, .run, .late, .cells, .rmOpen, .rmStats, .spg, .rack, .kln,
      .mxc, .num, .red, .pnd, .fab, .hif, .mbx, .flt, .gau, .pwr, .sec, .tpMode] (.perst origin mode romOk) :=
  of_always (exec_perst _ _ _) fun _ => ite refl (refl.step .beginCold |>.step .setFrm |>.step .put_tpMode |>.step .romDone)

theorem evolves_hotReset {env} :
    evolvesOnly [.regs, .cnt, .latch, .mem, .lsEpoch, .poison, .draws, .frm, .variants, .run, .late, .cells, .rmOpen, .rmStats, .spg, .rack, .kln,
      .mxc, .num, .red, .pnd, .fab, .hif, .mbx, .flt, .gau, .pwr, .sec] (.hotReset env) :=
  of_run (exec_hotReset _) fun _ => refl.step .functionReset

theorem evolves_flr {env} :
    evolvesOnly [.regs, .cnt, .latch, .mem, .lsEpoch, .poison, .draws, .frm, .variants, .run, .late, .cells, .rmOpen, .rmStats, .spg, .rack, .kln,
      .mxc, .num, .red, .pnd, .fab, .hif, .mbx, .flt, .gau, .pwr, .sec] (.flr env) :=
  of_run (exec_flr _) fun _ => refl.step .functionReset

theorem evolves_railFault {rail} :
    evolvesOnly [.regs, .cnt, .mem, .poison, .draws, .frm, .run, .cells, .rack, .kln, .red, .fab, .hif, .mbx, .pwr] (.railFault rail) :=
  of_run (exec_railFault _) fun _ => refl.step .railFault

theorem evolves_thermalHold {diode} : evolvesOnly [.regs, .cnt, .frm, .pwr] (.thermalHold diode) :=
  of_run (exec_thermalHold _) fun _ => refl.step .thermalHold

theorem evolves_thermalRelease : evolvesOnly [.regs, .pwr] .thermalRelease :=
  of_run (exec_thermalRelease) fun _ => refl.step .setPwr |>.step .setFld

theorem evolves_thermalTrip : evolvesOnly [.regs, .draws, .cells, .rack, .pwr] .thermalTrip :=
  of_run (exec_thermalTrip) fun _ => refl.step .dropRounds |>.step .noteCause |>.step .setPwr |>.step .emit

theorem evolves_pciePowerState {p} : evolvesOnly [.regs, .cnt, .hif, .mbx] (.pciePowerState p) :=
  of_run (exec_pciePowerState _) fun _ => refl.step .setPower

theorem evolves_ideIntegrityFail : evolvesOnly [.regs, .cnt, .sec] .ideIntegrityFail :=
  of_run (exec_ideIntegrityFail) fun _ => ite (refl.step .bump |>.step .loseIde) refl

theorem evolves_getVersion : evolvesOnly [.cnt, .sec] .getVersion :=
  of_run (exec_getVersion) fun _ => .spdmReq refl fun _ h => h.step .setSec |>.step .spdm

theorem evolves_getCapabilities {ver} : evolvesOnly [.cnt, .sec] (.getCapabilities ver) :=
  of_run (exec_getCapabilities _) fun _ => .spdmAt refl fun _ h => h.step .setSec |>.step .spdm

theorem evolves_negotiateAlgorithms {ver asym hash dhe aead} : evolvesOnly [.cnt, .sec] (.negotiateAlgorithms ver asym hash dhe aead) :=
  of_run (exec_negotiateAlgorithms _ _ _ _ _) fun _ => .spdmAt refl fun _ h => ite (h.step .spdmErr) (h.step .setSec |>.step .spdm)

theorem evolves_getDigests {ver} : evolvesOnly [.cnt] (.getDigests ver) :=
  of_run (exec_getDigests _) fun _ => .spdmAt refl fun _ h => h.step .spdm

theorem evolves_getCertificate {ver slot off len} : evolvesOnly [.cnt] (.getCertificate ver slot off len) :=
  of_run (exec_getCertificate _ _ _ _) fun _ => .spdmAt refl fun _ h => ite (h.step .spdmErr) (h.step .spdm)

theorem evolves_challenge {ver slot kind context} : evolvesOnly [.cnt, .draws] (.challenge ver slot kind context) :=
  of_run (exec_challenge _ _ _ _) fun _ => .spdmAt refl fun _ h => ite (h.step .spdmErr) (h.step .secretBytes |>.step .secretBytes |>.step .spdm)

theorem evolves_getMeasurements {ver attr op context} : evolvesOnly [.cnt, .draws] (.getMeasurements ver attr op context) :=
  of_run (exec_getMeasurements _ _ _ _) fun _ => .spdmAt refl fun _ h =>
    ite (h.step .spdmErr) (use (h.step .secretBytes) fun h => use (iteSnd (h.step .secretBytes) (pair h)) fun h => h.step .spdm)

theorem evolves_keyExchange {ver slot kind reqSession} : evolvesOnly [.regs, .cnt, .draws, .sec] (.keyExchange ver slot kind reqSession) :=
  of_run (exec_keyExchange _ _ _ _) fun _ => .spdmAt refl fun _ h =>
    ite (h.step .spdmErr) (ite (h.step .spdmErr) (h.step .setSessions |>.step .setSec |>.step .secretBytes |>.step .secretBytes |>.step .spdm))

theorem evolves_finish {session ok} : evolvesOnly [.regs, .cnt, .sec] (.finish session ok) :=
  of_run (exec_finish _ _) fun _ => .inSession refl fun _ _ h => ite (h.step .onSession |>.step .spdm) (h.step .endSession |>.step .spdmErr)

theorem evolves_heartbeat {session} : evolvesOnly [.cnt] (.heartbeat session) :=
  of_run (exec_heartbeat _) fun _ => .inSession refl fun _ _ h => h.step .spdm

theorem evolves_keyUpdate {session op tag} : evolvesOnly [.cnt, .sec] (.keyUpdate session op tag) :=
  of_run (exec_keyUpdate _ _ _) fun _ => .inSession refl fun _ _ h => ite (h.step .spdmErr) (h.step .onSession |>.step .spdm)

theorem evolves_endSession {session} : evolvesOnly [.regs, .cnt, .sec] (.endSession session) :=
  of_run (exec_endSession _) fun _ => .inSession refl fun _ _ h => h.step .endSession |>.step .spdm

theorem evolves_ideKmQuery {session} : evolvesOnly [.cnt] (.ideKmQuery session) :=
  of_run (exec_ideKmQuery _) fun _ => .ideReq refl (fun _ h => h.step .spdm) fun _ h => h.step .ideRsp

theorem evolves_keyProg {session stream set dir sub} : evolvesOnly [.regs, .cnt, .sec] (.keyProg session stream set dir sub) :=
  of_run (exec_keyProg _ _ _ _ _) fun _ => .ideReq refl (fun _ h => h.step .ideRsp) fun _ h =>
    ite (h.step .bump |>.step .ideRsp) (h.step .setSec |>.step .setIde |>.step .ideRsp)

theorem evolves_kSetGo {session set dir sub} : evolvesOnly [.regs, .cnt, .sec] (.kSetGo session set dir sub) :=
  of_run (exec_kSetGo _ _ _ _) fun _ => .ideReq refl (fun _ h => h.step .spdm) fun _ h =>
    use (ite (h.step .setSec |>.step .setIde) h) fun h => h.step .ideRsp

theorem evolves_kSetStop {session set dir sub} : evolvesOnly [.regs, .cnt, .sec] (.kSetStop session set dir sub) :=
  of_run (exec_kSetStop _ _ _ _) fun _ => .ideReq refl (fun _ h => h.step .spdm) fun _ h => h.step .setSec |>.step .setIde |>.step .ideRsp

theorem evolves_tpRefresh : evolvesOnly [.tp] .tpRefresh :=
  of_run (exec_tpRefresh) fun _ => ite (refl.step .put_tp) refl

theorem evolves_tpMbxTx {j w} : evolvesOnly [.regs, .cnt, .mem, .poison, .draws, .mbx] (.tpMbxTx j w) :=
  of_run (exec_tpMbxTx _ _) fun _ => refl.step .mbxTx

theorem evolves_tpMbxRx {j} : evolvesOnly [.regs, .cnt, .mem, .poison, .draws, .mbx] (.tpMbxRx j) :=
  of_run (exec_tpMbxRx _) fun _ => refl.step .mbxRx

theorem evolves_vddioRestored : evolvesOnly [.mbx] .vddioRestored :=
  of_always (exec_vddioRestored) fun _ => refl.step .put_mbx

theorem evolves_pcieLinkTraining {rate width} : evolvesOnly [.regs, .cnt] (.pcieLinkTraining rate width) :=
  of_run (exec_pcieLinkTraining _ _) fun _ => use (refl.step .setFld |>.step .setFld |>.step .setFld) fun h => ite h (h.step .bump)

theorem evolves_lowerHalfRead {off whole e bar2} :
    evolvesOnly [.regs, .cnt, .latch, .mem, .poison, .draws, .frm, .run, .rack, .kln, .red, .hif, .mbx, .flt, .pwr] (.lowerHalfRead off whole e bar2)
      :=
  of_run (exec_lowerHalfRead _ _ _ _) fun _ => ite (refl.step .bar2Read) (refl.step .barRead)

theorem evolves_spdmUnsupportedRequest {code} : evolvesOnly [.cnt] (.spdmUnsupportedRequest code) :=
  of_run (exec_spdmUnsupportedRequest _) fun _ => .spdmReq refl fun _ h => h.step .spdmErr

theorem evolves_bar4Write {off data} : evolvesOnly [.cnt, .mem, .poison] (.bar4Write off data) :=
  of_run (exec_bar4Write _ _) fun _ => .bar4Gate refl (fun _ h => h) (fun _ h => h) fun _ h => ite (h.step .write) (h.step .bump)

/-! The commands that fetch an image go on with what has arrived (R356). -/

theorem evolves_imageLoadBoot {n data env} :
    evolvesOnly [.regs, .cnt, .mem, .split, .poison, .draws, .frm, .run, .rack, .kln, .red, .fab, .hif, .mbx, .pwr, .sec] (.imageLoadBoot n data env) :=
  of_run (exec_imageLoadBoot _ _ _) fun _ => .command refl fun _ _ h => by
    split
    · next hx => exact fetched h hx
    · next hx => exact .judgeImage (fetched h hx) fun _ _ h => h.step .askCommit |>.step .setSt |>.step .setPwr |>.step .coldStages

theorem evolves_imageLoadUpdate {n data} :
    evolvesOnly [.regs, .cnt, .mem, .poison, .draws, .frm, .hif, .mbx, .sec] (.imageLoadUpdate n data) :=
  of_run (exec_imageLoadUpdate _ _) fun _ => .command refl fun _ _ h => by
    refine ite (h.step .complete) ?_
    split
    · next hx => exact fetched h hx
    · next hx => exact .judgeImage (fetched h hx) fun _ _ h => ite (h.step .complete) (h.step .askCommit |>.step .stageUpdate)

theorem evolves_imageLoadReload {n data env} :
    evolvesOnly [.regs, .cnt, .latch, .mem, .lsEpoch, .poison, .draws, .frm, .variants, .run, .late, .cells, .rmOpen, .rmStats, .spg, .rack, .kln,
      .mxc, .num, .red, .pnd, .fab, .hif, .mbx, .flt, .gau, .pwr, .sec] (.imageLoadReload n data env) :=
  of_run (exec_imageLoadReload _ _ _) fun _ => .command refl fun _ _ h => by
    dsimp only
    split
    · next hx => exact fetched h hx
    · next hx => exact .judgeImage (fetched h hx) fun _ _ h => h.step .beginWarm |>.step .setFld |>.step .warmStages

theorem evolves_fpLoad {n data e} : evolvesOnly [.regs, .cnt, .mem, .poison, .draws, .variants, .hif, .mbx] (.fpLoad n data e) :=
  of_run (exec_fpLoad _ _ _) fun _ => .opCommand refl fun _ _ h => by
    refine ite (h.step .complete) (ite (h.step .emit |>.step .emptySlot |>.step .place |>.step .bump |>.step .complete) ?_)
    dsimp only
    split
    · next hx =>
      exact (checked hx (foldl (h.step .emit |>.step .emptySlot |>.step .place |>.step .ecc) fun _ _ h => foldl h fun _ _ h => h.step .uncorrIdle)).step
        .loadFailed
    · next hx =>
      exact (checked hx (foldl (h.step .emit |>.step .emptySlot |>.step .place |>.step .ecc) fun _ _ h => foldl h fun _ _ h => h.step .uncorrIdle)).step
        .loadDone

theorem evolves_tpackLoad {n data} : evolvesOnly [.regs, .cnt, .mem, .poison, .draws, .hif, .mbx, .flt] (.tpackLoad n data) :=
  of_run (exec_tpackLoad _ _) fun _ => .opCommand refl fun _ _ h => by
    refine ite (h.step .complete) ?_
    dsimp only
    split
    · next hx => exact fetched h hx
    · next hx =>
      exact use ((fetched h hx).step .noteSig) fun h => ite (h.step .complete) (ite (h.step .complete) (h.step .stagePack |>.step .complete))

end Sys2Proof.Machine
end

