-- ==== Sys2Proof/Proofs/HostFrame.lean ====
section
/-!
PROOF. The parts that the memory controllers, the host interface, the registers and the mailboxes change (O16).
-/

set_option Elab.async false

namespace Sys2Proof.Machine

/-- COUNTER_CLEAR lowers counters, so it evolves only up to its act; that one changes the counters and completes the command. -/
theorem counterClear_touches {n} : touchesOnly [.regs, .cnt, .mem, .poison, .draws, .hif, .mbx] (.counterClear n) := by
  refine State.run_touches _ _ _ (exec_counterClear n) fun d =>
    Evolves.command_induction (P := d.keepsBut _) (fun e he => he.keeps) fun c e he => ?_
  have hclear : e.keepsBut [.cnt] (e.clearCounters ((countersOf (c.par 0)).getD [])) := by
    intro p hp
    cases p <;> first | rfl | simp at hp
  exact Dev.keepsBut_trans _ _ _ _ he.keeps
    (Dev.keepsBut_trans _ _ _ _ (Dev.keepsBut_mono _ _ _ _ hclear (by decide)) Evolves.complete.keeps)

/-- Settles O16: each command evolves with parts of its list alone. -/
theorem hostAndMailboxesTouchOnly : Obligations.HostAndMailboxesTouchOnly :=
  ⟨fun _ => evolves_hbmRefresh.touches, fun _ => evolves_msixCoalTimeout.touches, ⟨fun _ _ => evolves_hbmTempReport.touches,
   fun _ => evolves_mbxLock.touches⟩, evolves_tpRefresh.touches, fun _ _ _ => evolves_sqTailDoorbell.touches,
   fun _ _ => evolves_mbxMsgTimeout.touches, fun _ => evolves_memCfgWrite.touches, fun _ _ => evolves_bar4Write.touches,
   fun _ => evolves_domainDown.touches, ⟨fun _ _ _ => evolves_mbxTx.touches, fun _ _ => evolves_mbxRx.touches, fun _ => evolves_ping.touches,
   fun _ => ⟨evolves_srDoorbell.touches, evolves_srEcho.touches, evolves_srVersion.touches, evolves_logLevel.touches, evolves_caskInfo.touches⟩,
   fun _ _ => evolves_tpMbxTx.touches, fun _ => evolves_tpMbxRx.touches⟩, ⟨fun _ _ => evolves_mgmtSend.touches, fun _ _ => evolves_mgmtMsg.touches⟩,
   ⟨fun _ _ _ => evolves_cqHeadDoorbell.touches, fun _ _ => evolves_descriptorFetch.touches,
   fun _ _ => ⟨evolves_adminRingsEnable.touches, evolves_adminRingsDisable.touches⟩,
   fun _ => ⟨evolves_nop.touches, evolves_createSq.touches, evolves_createCq.touches, evolves_deleteSq.touches, evolves_deleteCq.touches,
    evolves_query.touches, counterClear_touches, evolves_fpArm.touches⟩,
   fun _ _ => evolves_dmaH2d.touches⟩, fun _ => evolves_quiesce.touches, fun _ _ _ => evolves_bar4Read.touches,
   fun _ _ => evolves_tpackLoad.touches, ⟨fun _ _ _ => evolves_fpLoad.touches, fun _ => evolves_fpDiscard.touches⟩,
   ⟨fun _ _ => evolves_imageLoadUpdate.touches, evolves_updateStaged.touches⟩, fun _ _ _ => evolves_dmaD2h.touches,
   fun _ _ => evolves_permute.touches, fun _ => evolves_run.touches, fun _ => evolves_resume.touches, fun _ => evolves_stop.touches,
   fun _ _ _ _ => evolves_lowerHalfRead.touches, fun _ _ _ _ _ _ => evolves_program.touches, fun _ => evolves_hello.touches,
   fun _ _ _ => evolves_imageLoadBoot.touches, fun _ _ _ => evolves_registerWrite.touches, fun _ _ _ => evolves_caskRead.touches⟩

end Sys2Proof.Machine
end

