-- ==== Sys2Proof/Proofs/Counters.lean ====
section
/-!
PROOF. Counters saturate and never fall (O11).
-/

set_option Elab.async false

namespace Sys2Proof.Machine

/-- Every command but COUNTER_CLEAR and the loss and the return of power evolves. -/
theorem exists_evolvesOnly (c : Instr) (hc : ∀ n, c ≠ .counterClear n) (hp : ∀ ok, c ≠ .powerOn ok) (hl : c ≠ .powerLoss) : ∃ l, evolvesOnly l c := by
  cases c with
  | tickEmit => exact ⟨_, evolves_tickEmit⟩
  | tickInEdge => exact ⟨_, evolves_tickInEdge⟩
  | tickWindowEnd => exact ⟨_, evolves_tickWindowEnd⟩
  | tickMsg => exact ⟨_, evolves_tickMsg⟩
  | flywheelStart => exact ⟨_, evolves_flywheelStart⟩
  | tickMissHold => exact ⟨_, evolves_tickMissHold⟩
  | frameStart => exact ⟨_, evolves_frameStart⟩
  | slotStart => exact ⟨_, evolves_slotStart⟩
  | slotEnd => exact ⟨_, evolves_slotEnd⟩
  | taskComplete => exact ⟨_, evolves_taskComplete⟩
  | fwd => exact ⟨_, evolves_fwd⟩
  | cover => exact ⟨_, evolves_cover⟩
  | spargePeriod => exact ⟨_, evolves_spargePeriod⟩
  | rmWindowClose => exact ⟨_, evolves_rmWindowClose⟩
  | pulseRound => exact ⟨_, evolves_pulseRound⟩
  | pulsePeriod => exact ⟨_, evolves_pulsePeriod⟩
  | pulseRoundEnd => exact ⟨_, evolves_pulseRoundEnd⟩
  | foldComplete => exact ⟨_, evolves_foldComplete⟩
  | kilnUnit => exact ⟨_, evolves_kilnUnit⟩
  | kilnRestore => exact ⟨_, evolves_kilnRestore⟩
  | matmul => exact ⟨_, evolves_matmul⟩
  | move => exact ⟨_, evolves_move⟩
  | gather => exact ⟨_, evolves_gather⟩
  | vprog => exact ⟨_, evolves_vprog⟩
  | assemble => exact ⟨_, evolves_assemble⟩
  | bwdWot => exact ⟨_, evolves_bwdWot⟩
  | attnFwd => exact ⟨_, evolves_attnFwd⟩
  | attnBwd => exact ⟨_, evolves_attnBwd⟩
  | normBwd => exact ⟨_, evolves_normBwd⟩
  | tiesum => exact ⟨_, evolves_tiesum⟩
  | compare => exact ⟨_, evolves_compare⟩
  | lrFit => exact ⟨_, evolves_lrFit⟩
  | rs => exact ⟨_, evolves_rs⟩
  | ag => exact ⟨_, evolves_ag⟩
  | preX => exact ⟨_, evolves_preX⟩
  | notice => exact ⟨_, evolves_notice⟩
  | replay => exact ⟨_, evolves_replay⟩
  | fetch => exact ⟨_, evolves_fetch⟩
  | send => exact ⟨_, evolves_send⟩
  | hostPut => exact ⟨_, evolves_hostPut⟩
  | hostGet => exact ⟨_, evolves_hostGet⟩
  | hostXferCompletion => exact ⟨_, evolves_hostXferCompletion⟩
  | mxcCheck => exact ⟨_, evolves_mxcCheck⟩
  | tunCheck => exact ⟨_, evolves_tunCheck⟩
  | vFma => exact ⟨_, evolves_vFma⟩
  | vAdd => exact ⟨_, evolves_vAdd⟩
  | vMul => exact ⟨_, evolves_vMul⟩
  | vMax => exact ⟨_, evolves_vMax⟩
  | vMin => exact ⟨_, evolves_vMin⟩
  | vSel => exact ⟨_, evolves_vSel⟩
  | vCmplt => exact ⟨_, evolves_vCmplt⟩
  | vExp2 => exact ⟨_, evolves_vExp2⟩
  | vRcp => exact ⟨_, evolves_vRcp⟩
  | vRsq => exact ⟨_, evolves_vRsq⟩
  | vLog2 => exact ⟨_, evolves_vLog2⟩
  | vTwosum => exact ⟨_, evolves_vTwosum⟩
  | vFast2sum => exact ⟨_, evolves_vFast2sum⟩
  | vTwoprod => exact ⟨_, evolves_vTwoprod⟩
  | vCvt => exact ⟨_, evolves_vCvt⟩
  | vCvtTunin => exact ⟨_, evolves_vCvtTunin⟩
  | vRedSum => exact ⟨_, evolves_vRedSum⟩
  | vRedMax => exact ⟨_, evolves_vRedMax⟩
  | vRedMin => exact ⟨_, evolves_vRedMin⟩
  | vKth => exact ⟨_, evolves_vKth⟩
  | vRng => exact ⟨_, evolves_vRng⟩
  | vLd => exact ⟨_, evolves_vLd⟩
  | vSt => exact ⟨_, evolves_vSt⟩
  | vGld => exact ⟨_, evolves_vGld⟩
  | vLoop => exact ⟨_, evolves_vLoop⟩
  | vEnd => exact ⟨_, evolves_vEnd⟩
  | tokenForm => exact ⟨_, evolves_tokenForm⟩
  | tokenMsg => exact ⟨_, evolves_tokenMsg⟩
  | tokenForwardDeadline => exact ⟨_, evolves_tokenForwardDeadline⟩
  | tokenDecideDeadline => exact ⟨_, evolves_tokenDecideDeadline⟩
  | resultMsg => exact ⟨_, evolves_resultMsg⟩
  | reduceMsg => exact ⟨_, evolves_reduceMsg⟩
  | agRx => exact ⟨_, evolves_agRx⟩
  | fetchRx => exact ⟨_, evolves_fetchRx⟩
  | preXRx => exact ⟨_, evolves_preXRx⟩
  | noticeRx => exact ⟨_, evolves_noticeRx⟩
  | packetDeadline => exact ⟨_, evolves_packetDeadline⟩
  | bargeMsg => exact ⟨_, evolves_bargeMsg⟩
  | poundRelease => exact ⟨_, evolves_poundRelease⟩
  | creditMsg => exact ⟨_, evolves_creditMsg⟩
  | permAck => exact ⟨_, evolves_permAck⟩
  | permuteTimeout => exact ⟨_, evolves_permuteTimeout⟩
  | flitRxData => exact ⟨_, evolves_flitRxData⟩
  | flitRxCtrl => exact ⟨_, evolves_flitRxCtrl⟩
  | flitRxIdle => exact ⟨_, evolves_flitRxIdle⟩
  | ackTimeout => exact ⟨_, evolves_ackTimeout⟩
  | flitIdleTimeout => exact ⟨_, evolves_flitIdleTimeout⟩
  | linkLost => exact ⟨_, evolves_linkLost⟩
  | retrainTimer => exact ⟨_, evolves_retrainTimer⟩
  | portTrained => exact ⟨_, evolves_portTrained⟩
  | guardProbe => exact ⟨_, evolves_guardProbe⟩
  | probeMsg => exact ⟨_, evolves_probeMsg⟩
  | echoMsg => exact ⟨_, evolves_echoMsg⟩
  | parentMsg => exact ⟨_, evolves_parentMsg⟩
  | mgmtMsg => exact ⟨_, evolves_mgmtMsg⟩
  | ringMsg => exact ⟨_, evolves_ringMsg⟩
  | assignMsg => exact ⟨_, evolves_assignMsg⟩
  | censusMsg => exact ⟨_, evolves_censusMsg⟩
  | doneMsg => exact ⟨_, evolves_doneMsg⟩
  | confirmMsg => exact ⟨_, evolves_confirmMsg⟩
  | discTestTick => exact ⟨_, evolves_discTestTick⟩
  | discoveryTimeout => exact ⟨_, evolves_discoveryTimeout⟩
  | hbmRefresh => exact ⟨_, evolves_hbmRefresh⟩
  | hbmTempReport => exact ⟨_, evolves_hbmTempReport⟩
  | bar4Read => exact ⟨_, evolves_bar4Read⟩
  | bar4Write => exact ⟨_, evolves_bar4Write⟩
  | sqTailDoorbell => exact ⟨_, evolves_sqTailDoorbell⟩
  | cqHeadDoorbell => exact ⟨_, evolves_cqHeadDoorbell⟩
  | descriptorFetch => exact ⟨_, evolves_descriptorFetch⟩
  | msixCoalTimeout => exact ⟨_, evolves_msixCoalTimeout⟩
  | nop => exact ⟨_, evolves_nop⟩
  | createSq => exact ⟨_, evolves_createSq⟩
  | createCq => exact ⟨_, evolves_createCq⟩
  | deleteSq => exact ⟨_, evolves_deleteSq⟩
  | deleteCq => exact ⟨_, evolves_deleteCq⟩
  | hello => exact ⟨_, evolves_hello⟩
  | query => exact ⟨_, evolves_query⟩
  | counterClear n => exact absurd rfl (hc n)
  | imageLoadBoot => exact ⟨_, evolves_imageLoadBoot⟩
  | imageLoadUpdate => exact ⟨_, evolves_imageLoadUpdate⟩
  | imageLoadReload => exact ⟨_, evolves_imageLoadReload⟩
  | updateStaged => exact ⟨_, evolves_updateStaged⟩
  | caskRead => exact ⟨_, evolves_caskRead⟩
  | updateResume => exact ⟨_, evolves_updateResume⟩
  | startWarm => exact ⟨_, evolves_startWarm⟩
  | startCold => exact ⟨_, evolves_startCold⟩
  | discover => exact ⟨_, evolves_discover⟩
  | fpLoad => exact ⟨_, evolves_fpLoad⟩
  | fpDiscard => exact ⟨_, evolves_fpDiscard⟩
  | fpArm => exact ⟨_, evolves_fpArm⟩
  | run => exact ⟨_, evolves_run⟩
  | resume => exact ⟨_, evolves_resume⟩
  | startTickReached => exact ⟨_, evolves_startTickReached⟩
  | quiesce => exact ⟨_, evolves_quiesce⟩
  | stop => exact ⟨_, evolves_stop⟩
  | permute => exact ⟨_, evolves_permute⟩
  | dmaH2d => exact ⟨_, evolves_dmaH2d⟩
  | dmaD2h => exact ⟨_, evolves_dmaD2h⟩
  | program => exact ⟨_, evolves_program⟩
  | tpackLoad => exact ⟨_, evolves_tpackLoad⟩
  | mbxTx => exact ⟨_, evolves_mbxTx⟩
  | mbxRx => exact ⟨_, evolves_mbxRx⟩
  | mbxLock => exact ⟨_, evolves_mbxLock⟩
  | mbxMsgTimeout => exact ⟨_, evolves_mbxMsgTimeout⟩
  | domainDown => exact ⟨_, evolves_domainDown⟩
  | ping => exact ⟨_, evolves_ping⟩
  | srDoorbell => exact ⟨_, evolves_srDoorbell⟩
  | srEcho => exact ⟨_, evolves_srEcho⟩
  | srVersion => exact ⟨_, evolves_srVersion⟩
  | logLevel => exact ⟨_, evolves_logLevel⟩
  | mgmtSend => exact ⟨_, evolves_mgmtSend⟩
  | caskInfo => exact ⟨_, evolves_caskInfo⟩
  | stickyClear => exact ⟨_, evolves_stickyClear⟩
  | wdogKick => exact ⟨_, evolves_wdogKick⟩
  | wdogExpire => exact ⟨_, evolves_wdogExpire⟩
  | klnReqInterp => exact ⟨_, evolves_klnReqInterp⟩
  | klnReqMeasured => exact ⟨_, evolves_klnReqMeasured⟩
  | portRetrain => exact ⟨_, evolves_portRetrain⟩
  | portDisable => exact ⟨_, evolves_portDisable⟩
  | memCfgWrite => exact ⟨_, evolves_memCfgWrite⟩
  | adminRingsEnable => exact ⟨_, evolves_adminRingsEnable⟩
  | adminRingsDisable => exact ⟨_, evolves_adminRingsDisable⟩
  | secLock => exact ⟨_, evolves_secLock⟩
  | gauUrg => exact ⟨_, evolves_gauUrg⟩
  | urgentDone => exact ⟨_, evolves_urgentDone⟩
  | gauPwr => exact ⟨_, evolves_gauPwr⟩
  | gauRefChange => exact ⟨_, evolves_gauRefChange⟩
  | refSettled => exact ⟨_, evolves_refSettled⟩
  | scanPassDue => exact ⟨_, evolves_scanPassDue⟩
  | scanEntryDone => exact ⟨_, evolves_scanEntryDone⟩
  | gauMonSel => exact ⟨_, evolves_gauMonSel⟩
  | gauMonClr => exact ⟨_, evolves_gauMonClr⟩
  | gauMonClrAll => exact ⟨_, evolves_gauMonClrAll⟩
  | gauMonCfg => exact ⟨_, evolves_gauMonCfg⟩
  | registerWrite => exact ⟨_, evolves_registerWrite⟩
  | powerOn ok => exact absurd rfl (hp ok)
  | perst => exact ⟨_, evolves_perst⟩
  | hotReset => exact ⟨_, evolves_hotReset⟩
  | flr => exact ⟨_, evolves_flr⟩
  | railFault => exact ⟨_, evolves_railFault⟩
  | thermalHold => exact ⟨_, evolves_thermalHold⟩
  | thermalRelease => exact ⟨_, evolves_thermalRelease⟩
  | thermalTrip => exact ⟨_, evolves_thermalTrip⟩
  | pciePowerState => exact ⟨_, evolves_pciePowerState⟩
  | ideIntegrityFail => exact ⟨_, evolves_ideIntegrityFail⟩
  | getVersion => exact ⟨_, evolves_getVersion⟩
  | getCapabilities => exact ⟨_, evolves_getCapabilities⟩
  | negotiateAlgorithms => exact ⟨_, evolves_negotiateAlgorithms⟩
  | getDigests => exact ⟨_, evolves_getDigests⟩
  | getCertificate => exact ⟨_, evolves_getCertificate⟩
  | challenge => exact ⟨_, evolves_challenge⟩
  | getMeasurements => exact ⟨_, evolves_getMeasurements⟩
  | keyExchange => exact ⟨_, evolves_keyExchange⟩
  | finish => exact ⟨_, evolves_finish⟩
  | heartbeat => exact ⟨_, evolves_heartbeat⟩
  | keyUpdate => exact ⟨_, evolves_keyUpdate⟩
  | endSession => exact ⟨_, evolves_endSession⟩
  | ideKmQuery => exact ⟨_, evolves_ideKmQuery⟩
  | keyProg => exact ⟨_, evolves_keyProg⟩
  | kSetGo => exact ⟨_, evolves_kSetGo⟩
  | kSetStop => exact ⟨_, evolves_kSetStop⟩
  | tpRefresh => exact ⟨_, evolves_tpRefresh⟩
  | tpMbxTx => exact ⟨_, evolves_tpMbxTx⟩
  | tpMbxRx => exact ⟨_, evolves_tpMbxRx⟩
  | powerLoss => exact absurd rfl hl
  | vddioRestored => exact ⟨_, evolves_vddioRestored⟩
  | pcieLinkTraining => exact ⟨_, evolves_pcieLinkTraining⟩
  | lowerHalfRead => exact ⟨_, evolves_lowerHalfRead⟩
  | spdmUnsupportedRequest => exact ⟨_, evolves_spdmUnsupportedRequest⟩

theorem Dev.count_bumpBy_other (d : Dev) (c n e : Nat) (h : e ≠ c) : (d.bumpBy c n).count e = d.count e :=
  SMap.get_set_other _ _ _ _ _ h

/-- Settles O11: counting saturates by definition, and the relation that every other command keeps lowers no counter. -/
theorem countersSaturateAndNeverFall : Obligations.CountersSaturateAndNeverFall := by
  refine ⟨fun d c n => ⟨Dev.count_bumpBy_same d c n, Dev.count_bumpBy_other d c n⟩, fun c s hc hp hl => ?_⟩
  obtain ⟨l, h⟩ := exists_evolvesOnly c hc hp hl
  exact h.counts s

end Sys2Proof.Machine
end

