-- ==== Sys2Proof/Proofs/TicksAndArraysFrame.lean ====
section
/-!
PROOF. The parts that ticks, slots, forward products, corrections, pulse rounds and calibration change (O14).
-/

set_option Elab.async false

namespace Sys2Proof.Machine

/-- Settles O14: each command evolves with parts of its list alone. -/
theorem ticksArraysTouchOnly : Obligations.TicksArraysTouchOnly :=
  ⟨fun _ _ => evolves_kilnRestore.touches, fun _ => evolves_spargePeriod.touches, fun _ _ _ => evolves_pulsePeriod.touches,
   evolves_flywheelStart.touches, fun _ => ⟨evolves_klnReqInterp.touches, evolves_klnReqMeasured.touches⟩, evolves_tickMissHold.touches,
   fun _ _ _ => evolves_pulseRoundEnd.touches, fun _ => evolves_rmWindowClose.touches,
   ⟨fun _ => ⟨evolves_tickEmit.touches, evolves_tickInEdge.touches, evolves_tickWindowEnd.touches⟩, fun _ _ _ _ => evolves_tickMsg.touches⟩,
   fun _ _ _ _ => evolves_pulseRound.touches, fun _ _ _ _ _ => evolves_kilnUnit.touches, fun _ _ => evolves_foldComplete.touches,
   fun _ _ _ => evolves_cover.touches, fun _ _ _ _ => evolves_taskComplete.touches, fun _ _ _ _ => evolves_fwd.touches,
   fun _ _ _ _ => evolves_slotStart.touches, fun _ _ _ => evolves_slotEnd.touches,
   ⟨fun _ => evolves_frameStart.touches, evolves_startTickReached.touches, evolves_updateResume.touches⟩⟩

end Sys2Proof.Machine
end

