-- ==== Sys2Proof/Proofs/Keeps.lean ====
section
/-!
PROOF. A second relation beside `Evolves`, finer than its parts: single fields of the frame engine, of the registers and of the slots in progress
that a function of the model leaves as they were. A function that leaves a whole part alone keeps what lies in it (`Keeps.via`), so rules are needed
only for those functions that change a part and keep some of it. The rules have the shape of those of `Evolves`.
-/

set_option Elab.async false

namespace Sys2Proof.Machine

/-- What a run of the model's functions may leave as it was. -/
inductive Aspect where
  /-- STRAP_ORIGIN (R30) and TP_MODE (R492). -/
  | origin | tpMode
  /-- The ticks passed on (R31), the slots begun (R27), the awaited ticks (R360, R396), the step in flight, the frame's start and overruns. -/
  | forwarded | begun | startTick | resumeTick | stepOpen | frameStart | overran
  /-- HIF_STATE.STATE and FRM_STEP_POS.FRAME. -/
  | st | stepFrame
  /-- FRM_TICK_MISS_CNT. -/
  | tickMisses
  /-- The slot of each unit in progress. -/
  | slots
  deriving DecidableEq

namespace Aspect

/-- The part of the device in which an aspect lies. -/
def part : Aspect → Part
  | .tpMode => .tpMode
  | .st | .stepFrame => .regs
  | .tickMisses => .cnt
  | .slots => .run
  | _ => .frm

/-- The aspect is as it was. -/
def same : Aspect → Dev → Dev → Prop
  | .origin, d, e => e.frm.origin = d.frm.origin
  | .tpMode, d, e => e.tpMode = d.tpMode
  | .forwarded, d, e => e.frm.forwarded = d.frm.forwarded
  | .begun, d, e => e.frm.begun = d.frm.begun
  | .startTick, d, e => e.frm.startTick = d.frm.startTick
  | .resumeTick, d, e => e.frm.resumeTick = d.frm.resumeTick
  | .stepOpen, d, e => e.frm.stepOpen = d.frm.stepOpen
  | .frameStart, d, e => e.frm.frameStart = d.frm.frameStart
  | .overran, d, e => e.frm.overran = d.frm.overran
  | .st, d, e => e.st = d.st
  | .stepFrame, d, e => e.fld Reg.FRM_STEP_POS_FRAME = d.fld Reg.FRM_STEP_POS_FRAME
  | .tickMisses, d, e => e.count Cnt.FRM_TICK_MISS_CNT = d.count Cnt.FRM_TICK_MISS_CNT
  | .slots, d, e => ∀ k, (e.running? k).map (·.slot) = (d.running? k).map (·.slot)

/-- A write of the field at `key` does not touch the aspect. -/
def clear (key : Nat) : Aspect → Bool
  | .st => key != Reg.HIF_STATE_STATE.key
  | .stepFrame => key != Reg.FRM_STEP_POS_FRAME.key
  | _ => true

variable {a : Aspect} {d e f : Dev}

theorem same_refl : a.same d d := by
  cases a
  case slots => exact fun _ => rfl
  all_goals rfl

theorem same_trans (h : a.same d e) (k : a.same e f) : a.same d f := by
  cases a
  case slots => exact fun j => (k j).trans (h j)
  all_goals exact Eq.trans k h

theorem same_of_part (h : Part.same a.part d e) : a.same d e := by
  cases a
  case st | stepFrame => exact Dev.fld_congr d e _ h
  case tickMisses => exact Dev.count_congr d e _ h
  case slots => exact fun k => by unfold Dev.running?; rw [show e.run = d.run from h]
  case tpMode => exact h
  all_goals exact congrArg _ (show e.frm = d.frm from h)

theorem same_setFld {g : Field} {v : Nat} (h : a.clear g.key = true) : a.same d (d.setFld g v) := by
  cases a
  case st | stepFrame => exact Dev.fld_setFld_other d g _ v (Ne.symm (by simpa [clear] using h))
  case slots => exact fun _ => rfl
  all_goals rfl

/-- The registers beyond FRM_STEP_POS touch no aspect. -/
theorem clear_of_le {key : Nat} (h : 0x20028 * 64 ≤ key) : a.clear key = true := by
  cases a
  case st => simp only [clear, bne_iff_ne]; exact (show Reg.HIF_STATE_STATE.key < key from lt_of_lt_of_le (by decide) h).ne'
  case stepFrame => simp only [clear, bne_iff_ne]; exact (show Reg.FRM_STEP_POS_FRAME.key < key from lt_of_lt_of_le (by decide) h).ne'
  all_goals rfl

end Aspect

/-- The straps. -/
abbrev straps : List Aspect := [.origin, .tpMode]

/-- What trouble in a step, traces and completions leave alone. -/
abbrev calm : List Aspect :=
  [.origin, .tpMode, .forwarded, .begun, .startTick, .resumeTick, .stepOpen, .frameStart, .overran, .st, .stepFrame, .slots]

/-- From `d` the device comes to `e`, and the aspects of `l` are as they were. -/
def Keeps (l : List Aspect) (d e : Dev) : Prop := ∀ a ∈ l, a.same d e

namespace Keeps

variable {l m : List Aspect} {p : List Part} {d e f : Dev}

theorem refl : Keeps l d d := fun _ _ => Aspect.same_refl

/-- A further step, which keeps all that is asked for. -/
theorem step (h : Keeps l d e) (k : Keeps m e f) (hm : ∀ a ∈ l, a ∈ m := by decide) : Keeps l d f :=
  fun a ha => Aspect.same_trans (h a ha) (k a (hm a ha))

/-- A further step that changes only parts in which nothing that is asked for lies. -/
theorem via (h : Keeps l d e) (k : Evolves p e f) (hp : ∀ a ∈ l, a.part ∉ p := by decide) : Keeps l d f :=
  fun a ha => Aspect.same_trans (h a ha) (Aspect.same_of_part (k.keeps _ (hp a ha)))

/-- A change that plainly leaves alone what is asked for. -/
theorem put (h : Keeps l d e)
    (k : ∀ a ∈ l, a.same e f := by intro a ha; cases a <;> first | contradiction | rfl | exact fun _ => rfl) : Keeps l d f :=
  fun a ha => Aspect.same_trans (h a ha) (k a ha)

/-- A change of the frame engine. -/
theorem setFrm {g : Frm → Frm} (h : Keeps l d e)
    (k : ∀ a ∈ l, ∀ e, a.same e (e.setFrm g) := by intro a ha _; cases a <;> first | contradiction | rfl | exact fun _ => rfl) :
    Keeps l d (e.setFrm g) := h.put fun a ha => k a ha e

/-- A write of a field that is not asked for. -/
theorem setFld {g : Field} {v : Nat} (h : Keeps l d e) (hg : ∀ a ∈ l, a.clear g.key = true := by decide) : Keeps l d (e.setFld g v) :=
  fun a ha => Aspect.same_trans (h a ha) (Aspect.same_setFld (hg a ha))

/-- A write of an element of a register array: they all lie beyond FRM_STEP_POS. -/
theorem setElem {g : Field} {v : Nat} (h : Keeps l d e) (hg : 0x20028 ≤ g.off := by exact Nat.le_add_right_of_le (by decide)) :
    Keeps l d (e.setFld g v) :=
  h.setFld fun _ _ => Aspect.clear_of_le ((Nat.mul_le_mul_right 64 hg).trans (Nat.le_add_right _ _))

/-! ### The shapes of the model's functions -/

theorem use (h : Keeps l d e) (k : Keeps l d e → Keeps l d f) : Keeps l d f := k h

theorem pair {α : Type} {x : α} (h : Keeps l d e) : Keeps l d (x, e).2 := h

theorem ite {c : Prop} [Decidable c] (h : Keeps l d e) (k : Keeps l d f) : Keeps l d (if c then e else f) :=
  iteInduction (fun _ => h) fun _ => k

theorem iteSnd {β : Type} {c : Prop} [Decidable c] {x y : β × Dev} (h : Keeps l d x.2) (k : Keeps l d y.2) : Keeps l d (if c then x else y).2 :=
  iteInduction (motive := fun z : β × Dev => Keeps l d z.2) (fun _ => h) fun _ => k

theorem when {c : Prop} [Decidable c] (h : Keeps l d e) (k : Keeps l d e → Keeps l d f) : Keeps l d (if c then f else e) := ite (k h) h

theorem foldl {α : Type} {g : Dev → α → Dev} {xs : List α} (h : Keeps l d e) (k : ∀ e x, Keeps l d e → Keeps l d (g e x)) :
    Keeps l d (xs.foldl g e) :=
  List.foldlRecOn xs g h fun e he x _ => k e x he

theorem foldlSnd {α β : Type} {g : β × Dev → α → β × Dev} {xs : List α} {s : β × Dev} (h : Keeps l d s.2)
    (k : ∀ s x, Keeps l d s.2 → Keeps l d (g s x).2) : Keeps l d (xs.foldl g s).2 :=
  List.foldlRecOn (motive := fun s => Keeps l d s.2) xs g h fun s hs x _ => k s x hs

end Keeps

end Sys2Proof.Machine
end

