-- ==== Sys2Proof/Proofs/KeepsCalm.lean ====
section
/-!
PROOF. What trouble in a step, traces, completions of commands, the bring-up of ports, the frames of a step and the judgement of ticks leave alone.
-/

set_option Elab.async false

namespace Sys2Proof.Machine

/-- The device as steps start, before its frame engine is made ready for them. -/
def Dev.stepsReady (d : Dev) : Dev :=
  let d := ((d.setSt DS.running).portsUp).takeSpg.takeFlt
  { d with num := { d.num with now := emptyGather, next := emptyGather, uwrSat := [] }
           spg := { d.spg with stats := [], nextStats := [], request := [], work := [] } }

namespace Keeps

variable {l : List Aspect} {d e : Dev}

/-! ### Ops -/

theorem trace {point src arg0 arg1} : Keeps calm d (d.trace point src arg0 arg1) := by
  unfold Dev.trace
  exact ite (when (refl.via .write |>.setFld |>.via .put_draws_mbx) fun h => h.via .bump) refl

/-- A sticky bit is no field that is asked for. -/
theorem sticky {g} (hg : ∀ a ∈ calm, a.clear g.key = true := by decide) : Keeps calm d (d.sticky g) := by
  unfold Dev.sticky
  exact ite refl (refl.setFld hg |>.step .trace)

theorem onRunning {k g} (hg : ∀ r : Running, (g r).slot = r.slot := by intro _; rfl) : Keeps calm d (d.onRunning k g) := by
  have hslots : Aspect.slots.same d (d.onRunning k g) := by
    intro j
    unfold Dev.onRunning
    split
    case h_1 r hr =>
      by_cases h : j = k
      · subst h; rw [Dev.running_set_same, hr]; exact congrArg some (hg r)
      · rw [Dev.running_set_other _ _ _ _ h]
    case h_2 => rfl
  intro a ha
  by_cases h : a = .slots
  · exact h ▸ hslots
  · exact (refl (l := [a])).via (p := [.run]) .onRunning (by simpa using by cases a <;> simp_all [Aspect.part]) a (by simp)

theorem trouble {reason} : Keeps calm d (d.trouble reason) := by
  unfold Dev.trouble
  exact ite refl.put refl.put

theorem freeze {cause} : Keeps calm d (d.freeze cause) := by
  unfold Dev.freeze
  split
  · exact ite refl.put refl
  · exact refl.put

theorem noteUncorr {a cls} : Keeps calm d (d.noteUncorr a cls) := by
  unfold Dev.noteUncorr
  exact refl.setFld |>.setFld |>.setFld |>.setFld

theorem uncorrIdle {a} : Keeps calm d (d.uncorrIdle a) := by
  unfold Dev.uncorrIdle
  exact refl.step .noteUncorr |>.via .bump

theorem uncorr {task a} : Keeps calm d (d.uncorr task a) := by
  unfold Dev.uncorr
  refine ite (refl.step .noteUncorr |>.step .sticky |>.via .bump |>.step .freeze) ?_
  split
  · exact refl.step .noteUncorr |>.step .sticky |>.via .bump |>.setElem |>.via .put_variants
  · exact ite (refl.step .noteUncorr |>.via .bump |>.step .trouble) (refl.step .uncorrIdle)

theorem consume {k ranges} : Keeps calm d (d.consume k ranges) := by
  unfold Dev.consume
  exact when (foldl (ite (refl.via .bump |>.step .trouble) refl) fun _ _ h => h.step .uncorr) fun h => h.step .onRunning

theorem readStep {ranges} : Keeps calm d (d.readStep ranges) := by
  unfold Dev.readStep
  exact foldl refl fun _ _ h => h.step .uncorr

theorem poundCheck {k ranges} : Keeps calm d (d.poundCheck k ranges) := by
  unfold Dev.poundCheck
  exact ite refl (use (refl.via .bump |>.step (.onRunning (k := k) (g := fun r => { r with late := true }))) fun h => ite h.put h.put)

theorem readProgram {parts} : Keeps calm d (d.readProgram parts) := by
  unfold Dev.readProgram
  split
  · split
    · exact refl.step .readStep
    · exact refl
  · exact refl

/-! ### Completions of commands (R352, R353) -/

theorem finish {c st i0 i1 i2} : Keeps calm d (d.finish c st i0 i1 i2) := by
  unfold Dev.finish
  refine use ?_ fun h => h.via .postHeld
  split
  · exact use (ite (refl.via .setHif |>.step .trace |>.via .bump) (refl.via .setHif |>.step .trace)) fun h => h.via .bump
  · exact use (ite (refl.via .setHif |>.step .trace |>.via .bump) (refl.via .setHif |>.step .trace)) fun h => h.via .bump
  · exact ite (refl.via .setHif |>.step .trace |>.via .bump) (refl.via .setHif |>.step .trace)

theorem take {c} : Keeps calm d (d.take c) := by
  unfold Dev.take
  refine use ?_ fun h => h.step .trace
  split
  · exact refl.via .setHif |>.via .setCq
  · exact refl.via .setHif

theorem sweepN {n} : Keeps calm d (Dev.sweepN n d) := by
  induction n generalizing d with
  | zero => exact refl
  | succ n ih =>
    unfold Dev.sweepN
    split
    · exact refl.step .take |>.step .finish |>.step ih
    · split
      · exact refl.via .setSq |>.step .finish |>.step ih
      · exact refl

theorem complete {c st i0 i1 i2} : Keeps calm d (d.complete c st i0 i1 i2) := by
  unfold Dev.complete Dev.sweep
  exact refl.step .finish |>.step .sweepN

theorem abortCmds {q} : Keeps calm d (d.abortCmds q) := by
  unfold Dev.abortCmds
  exact foldl refl fun _ _ h => h.step .complete

/-! ### Ports that become UP (R316, R324, R325) -/

theorem writeRoles {c sz} : Keeps calm d (d.writeRoles c sz) := by
  unfold Dev.writeRoles
  exact foldl refl.setFld fun _ _ h => h.setElem

theorem deriveUp {c sz force} : Keeps calm d (d.deriveUp c sz force) := by
  unfold Dev.deriveUp
  exact when (foldl (refl.step .writeRoles |>.setFld) fun _ _ h => h.setElem) fun h => h.via .txLocal

theorem partition : Keeps calm d d.partition := by
  unfold Dev.partition
  exact ite (refl.via .put_fab |>.step .sticky |>.via .bump) refl

theorem checkPartition : Keeps calm d d.checkPartition := by
  unfold Dev.checkPartition
  exact ite (refl.step .partition) refl

theorem setPort {p v} : Keeps calm d (d.setPort p v) := by
  unfold Dev.setPort
  exact ite refl
    (use (refl.setElem |>.step .trace) fun h =>
      use (ite h.setFld h) fun h => use (ite (h.step .deriveUp) h) fun h => h.step .checkPartition)

theorem setLat {p v} : Keeps calm d (d.setLat p v) := by
  unfold Dev.setLat
  exact refl.setElem |>.setElem

theorem bringUp {p} : Keeps calm d (d.bringUp p) := by
  unfold Dev.bringUp
  split
  · exact refl
  · exact use (refl.step .setLat) fun h => use (ite (h.via .bump |>.via .put_fab) h) fun h => h.step .setPort

theorem portsUp : Keeps calm d d.portsUp := by
  unfold Dev.portsUp
  exact use (foldl refl fun _ _ h => ite (h.step .bringUp) h) fun h => h.via .put_fab

/-! ### Frames and steps -/

theorem overrun : Keeps (calm.erase .overran) d d.overrun := by
  unfold Dev.overrun
  exact use (ite refl (refl.via .bump |>.step .sticky)) fun h => h.setFrm |>.step .trouble

theorem slotSlack {slack u} : Keeps calm d (d.slotSlack slack u) := by
  unfold Dev.slotSlack
  split
  · exact ite refl.setFrm refl
  · exact refl.setFrm

theorem writeParams : Keeps calm d d.writeParams := by
  unfold Dev.writeParams
  exact ite refl (use (ite refl (refl.step .readStep)) fun h => h.via .write |>.via .zeroFill)

theorem writeStale : Keeps calm d d.writeStale := by
  unfold Dev.writeStale
  exact ite refl (foldl refl fun _ _ h => h.step .readStep |>.via .write)

theorem takePolicy : Keeps calm d d.takePolicy := by
  unfold Dev.takePolicy
  exact refl.setFld

theorem setGrants {new denied} : Keeps calm d (d.setGrants new denied) := by
  unfold Dev.setGrants
  exact use (foldl refl fun _ _ h => h.setElem) fun h => h.setFld |>.setFld

theorem digitalGrants : Keeps calm d d.digitalGrants := by
  unfold Dev.digitalGrants
  exact refl.via .put_num |>.via .bumpBy |>.step .setGrants

theorem noteStepMin {x} : Keeps calm d (d.noteStepMin x) := by
  unfold Dev.noteStepMin
  split
  · exact ite refl.setFrm refl
  · exact refl.setFrm

theorem nextRun : Keeps (calm.erase .overran) d d.nextRun := by
  unfold Dev.nextRun
  exact refl.put |>.via .resetPounds

/-- The frame of a step, once its state in the frame engine is cleared. -/
theorem runFrame_rest : Keeps (calm.erase .overran)
    ((d.setRed fun r => { r with past := false }).setFrm fun f => { f with slack := none, frameOver := false, begun := [] }) d.runFrame := by
  unfold Dev.runFrame
  exact use (refl.via .releaseDue |>.via .samplePounds) fun h => when (ite (h.via .formRequest) h) fun h => h.step .overrun

theorem runFrame : Keeps ((calm.erase .overran).erase .begun) d d.runFrame :=
  refl.via .setRed |>.setFrm |>.step .runFrame_rest

/-- Frame 0 of a step, once it is open. -/
theorem beginStep_rest :
    Keeps calm ((d.setFrm fun f => { f with stepOpen := true, frozen := false }).setFld Reg.FRM_STEP_POS_FRAME 0) d.beginStep := by
  unfold Dev.beginStep
  exact use (refl.step .writeStale |>.setFld |>.step .takePolicy) fun h => use (ite (h.step .digitalGrants) h) fun h => h.setFrm |>.step .writeParams

theorem beginStep : Keeps ((calm.erase .stepOpen).erase .stepFrame) d d.beginStep :=
  refl.setFrm |>.setFld |>.step .beginStep_rest

theorem setSt {v} : Keeps (calm.erase .st) d (d.setSt v) := by
  unfold Dev.setSt
  exact ite refl (refl.setFld |>.step .trace)

theorem stepsReady : Keeps calm (d.setSt DS.running) d.stepsReady := by
  unfold Dev.stepsReady
  exact refl.step .portsUp |>.via .takeSpg |>.via .takeFlt |>.via .put_spg_num

theorem startSteps_rest : Keeps (calm.erase .overran)
    (d.stepsReady.setFrm fun f => { f with startTick := none, nextOk := true, nextReasons := 0, freezeDue := none }) d.startSteps := by
  unfold Dev.startSteps
  exact foldl (refl.via .setRed |>.via .setPnd |>.step .nextRun) fun _ _ h => h.step .complete

theorem startSteps : Keeps (((calm.erase .overran).erase .st).erase .startTick) d d.startSteps :=
  refl.step .setSt |>.step .stepsReady |>.setFrm |>.step .startSteps_rest

/-! ### Ticks -/

theorem openFrame {f} : Keeps calm d (d.openFrame f) := by
  unfold Dev.openFrame Dev.setFrm
  dsimp only
  split
  · exact refl.put
  · exact refl.put

theorem abortStart : Keeps (calm.erase .startTick) d d.abortStart := by
  unfold Dev.abortStart
  exact refl.setFrm |>.step .abortCmds

theorem missedStart {num} : Keeps (calm.erase .startTick) d (d.missedStart num) := by
  unfold Dev.missedStart
  split
  · exact ite (refl.step .abortStart |>.via .bump) refl
  · exact refl

theorem acceptTick {f} : Keeps calm d (d.acceptTick f) := by
  unfold Dev.acceptTick
  exact use (refl.setFrm) fun h => use (ite (h.via .bump) h) fun h => h.step .openFrame

theorem judgeWindow {f} : Keeps calm d (d.judgeWindow f) := by
  unfold Dev.judgeWindow
  exact ite refl (ite refl.setFrm (ite (refl.step .acceptTick) (ite refl.setFrm refl)))

theorem judgeRound : Keeps calm d d.judgeRound := by
  unfold Dev.judgeRound
  exact foldl refl.setFrm fun _ _ h => h.step .judgeWindow

theorem judgeLater : Keeps calm d d.judgeLater := by
  unfold Dev.judgeLater
  exact foldl refl fun _ _ h => h.step .judgeRound

theorem judgeTick {p num acc now} : Keeps (calm.erase .startTick) d (d.judgeTick p num acc now) := by
  unfold Dev.judgeTick
  exact ite (ite (refl.setFrm |>.setFld |>.step .acceptTick |>.step .missedStart) refl)
    (ite (refl.step .judgeWindow |>.step .judgeLater) (ite (refl.step .judgeWindow |>.step .judgeLater) refl))

end Keeps

end Sys2Proof.Machine
end

