-- ==== Sys2Proof/Proofs/StrapsCompute.lean ====
section
/-!
PROOF. The straps STRAP_ORIGIN and TP_MODE through each function of the model that changes the frame engine: vectors, tasks, messages. The proofs have
the shape of those of `Evolves`, which say only that the frame engine may change.
-/

set_option Elab.async false

namespace Sys2Proof.Machine.Keeps

variable {d e d₀ : Dev}

/-! ### Changes of several parts at once -/

theorem put_all {f : Dev} (h : Keeps straps d e) (ho : f.frm.origin = e.frm.origin) (ht : f.tpMode = e.tpMode) : Keeps straps d f :=
  h.put fun a ha => by
    cases a
    case origin => exact ho
    case tpMode => exact ht
    all_goals exact absurd ha (by decide)

theorem put_frm_red {x y} (h : Keeps straps d e) (hx : x.origin = e.frm.origin) : Keeps straps d { e with frm := x, red := y } := h.put_all hx rfl

theorem put_warm {x0 x1 x2 x3 x4 x5 x6 x7 x8 x9 x10 x11 x12 x13 x14 x15 x16 x17 x18 x19} (h : Keeps straps d e) (ho : x2.origin = e.frm.origin) :
    Keeps straps d { e with
      regs := x0, latch := x1, frm := x2, run := x3, late := x4, rmOpen := x5, rmStats := x6, spg := x7, rack := x8, kln := x9, mxc := x10
      num := x11, red := x12, pnd := x13, fab := x14, hif := x15, mbx := x16, flt := x17, pwr := x18, sec := x19 } :=
  h.put_all ho rfl

/-! ### Cvt -/

theorem histWrite {c a base add stopped h} : Keeps straps d (d.histWrite c a base add stopped h) := by
  unfold Dev.histWrite
  exact use (ite (refl.step .consume) refl) fun h =>
    ite (h.via .write)
      (ite (h.via .wr |>.via .bump)
        (when (use (foldl (foldl h fun _ _ h => h.via .wr) fun _ _ h => h.via .wr) fun h => h.via .wr) fun h => h.via .wr))

/-! ### Operands -/

theorem readChecks {k rs} : Keeps straps d (d.readChecks k rs) := by
  unfold Dev.readChecks
  exact refl.step .consume |>.via .foldLate |>.via .paramLate |>.via .agreedLate

/-! ### Vector -/

theorem loadLanes {c w addr} : Keeps straps d (d.loadLanes c w addr) := by
  unfold Dev.loadLanes
  exact refl.step .readChecks |>.via .dst |>.via .put_draws

theorem vLd {c w} : Keeps straps d (Machine.vLd c w d) := by
  unfold Machine.vLd
  exact refl.step .loadLanes

theorem vGld {c w} : Keeps straps d (Machine.vGld c w d) := by
  unfold Machine.vGld
  exact refl.step .loadLanes

theorem vCvt {c w m} : Keeps straps d (Machine.vCvt c w m d) := by
  unfold Machine.vCvt
  exact use (refl.step .readChecks |>.via .cvtPut) fun h =>
    use (ite (h.via .cvtVote) h) fun h => use (ite (h.via .countInto) h) fun h => h.via .countIssue |>.via .put_draws

theorem vCvtTunin {c w m} (h : Machine.vCvtTunin c w m d = some e) : Keeps straps d e := by
  unfold Machine.vCvtTunin at h
  dsimp only at h
  split at h
  · contradiction
  · cases h
    exact use (ite (refl.step .readChecks) refl) fun h => use (ite (h.via .write |>.via .write |>.via .produce) h) fun h =>
      use (ite (h.via .countInto) h) fun h => h.via .put_draws

theorem insn {c op w} : Keeps straps d (d.insn c op w) := by
  unfold Dev.insn
  split
  · next g hg => exact ite (use (refl.via (Evolves.plainOp hg)) fun h => h.via .nextInsn) (refl.via .badInsn)
  · split
    · split
      · exact refl.via .badInsn
      · refine ite ?_ (refl.step .vCvt |>.via .nextInsn)
        split
        · next _ he => exact refl.step (vCvtTunin he) |>.via .nextInsn
        · exact refl.via .badInsn
    · refine ite (refl.via .badInsn) ?_
      split
      · exact refl.via .vRedSum |>.via .nextInsn
      · exact refl.via .vRedMax |>.via .nextInsn
      · exact refl.via .vRedMin |>.via .nextInsn
      · exact refl.via .badInsn
    · exact refl.step .vLd |>.via .nextInsn
    · exact refl.via .vSt |>.via .nextInsn
    · exact refl.step .vGld |>.via .nextInsn
    · exact ite (refl.via .vLoop) (refl.via .badInsn)
    · exact ite (refl.via .vEnd) (refl.via .badInsn)
    · exact refl.via .badInsn

theorem fetchRun {c prog} : Keeps straps d (d.fetchRun c prog) := by
  unfold Dev.fetchRun
  exact ite (refl.via .badInsn) (use (refl.step .readChecks) fun h => ite (h.via .nextInsn) (h.step .insn))

theorem vecRun {c prog n} : Keeps straps d (Dev.vecRun c prog n d) := by
  induction n generalizing d with
  | zero => exact refl
  | succ n ih => exact ite refl (refl.step .fetchRun |>.step ih)

/-! ### Matrix -/

theorem endProg {c stopped} : Keeps straps d (d.endProg c stopped) := by
  unfold Dev.endProg
  refine foldl refl fun _ _ h => ?_
  dsimp only
  split
  · exact h.via .setHist
  · exact use (h.via .setHist |>.step .consume) fun h => use (ite h (h.step .histWrite)) fun h => h.via .judge

theorem runProg {c x passes} : Keeps straps d (d.runProg c x passes) := by
  unfold Dev.runProg
  exact refl.via .resetProg |>.step .vecRun

theorem matPatch {c x p} : Keeps straps d (d.matPatch c x p) := by
  unfold Dev.matPatch
  refine ite refl ?_
  dsimp only
  split
  · exact refl.via .writePatch |>.via .countPatch
  · exact ite (refl.via .writePatch |>.via .countPatch)
      (use (refl.via .writePatch |>.step .runProg) fun h => ite (h.via .writePatch) (h.via .countPatch))

theorem matHist {c x stopped} : Keeps straps d (d.matHist c x stopped) := by
  unfold Dev.matHist
  exact refl.step .histWrite |>.via .setTaskHist

theorem freeProg {c x} : Keeps straps d (d.freeProg c x) := by
  unfold Dev.freeProg
  split
  · exact ite (refl.step .runProg) refl
  · exact refl

theorem matEnd {c x} : Keeps straps d (d.matEnd c x) := by
  unfold Dev.matEnd
  refine use ?_ fun h => h.step .matHist
  split
  · exact refl
  · exact ite (refl.via .wotEntriesBack |>.via .produce)
      (ite (use (foldl refl fun _ _ h => h.via .normToken) fun h => h.via .produce) (refl.step .endProg))

theorem matmul {c n} : Keeps straps d (d.matmul c n) := by
  unfold Dev.matmul
  split
  · exact refl
  · exact use (refl.step .readChecks) fun h =>
      when (use (foldl (ite (h.step .freeProg) h) fun _ _ h => h.step .matPatch) fun h => h.via .produce) fun h => h.step .matEnd

theorem move {c n} : Keeps straps d (d.move c n) := by
  unfold Dev.move
  split
  · exact refl
  · exact refl.step .readChecks |>.via .write |>.via .mxcDone |>.via .produce

theorem gatherRows {c n} : Keeps straps d (d.gatherRows c n) := by
  unfold Dev.gatherRows
  split
  · exact refl
  · exact use (foldl (refl.step .readChecks) fun _ _ h => h.via .write) fun h => h.via .mxcDone |>.via .produce

theorem vprog {c} : Keeps straps d (d.vprog c) := by
  unfold Dev.vprog
  split
  · exact refl
  · exact use (refl.step .readChecks |>.step .runProg) fun h => ite h (h.step .endProg |>.via .mxcDone)

theorem asmHist {c x stopped} : Keeps straps d (d.asmHist c x stopped) := by
  unfold Dev.asmHist
  exact refl.step .histWrite |>.via .setTaskHist

theorem assemble {c n} : Keeps straps d (d.assemble c n) := by
  unfold Dev.assemble
  split
  · exact refl
  · exact when
        (use (foldl (refl.step .readChecks) fun _ _ h => h.step .readChecks |>.via .setTaskHist |>.via .write |>.via .produce) fun h =>
          h.via .mxcDone) fun h =>
      h.step .asmHist

theorem bwdWot {c n} : Keeps straps d (d.bwdWot c n) := by
  unfold Dev.bwdWot
  split
  · exact refl
  · exact refl.step .readChecks |>.via .wotEntriesBack |>.via .mxcDone |>.via .produce

theorem normBwd {c n} : Keeps straps d (d.normBwd c n) := by
  unfold Dev.normBwd
  split
  · exact refl
  · exact use (foldl (refl.step .readChecks) fun _ _ h => h.via .normToken) fun h => h.via .mxcDone |>.via .produce

theorem tiesum {c n} : Keeps straps d (d.tiesum c n) := by
  unfold Dev.tiesum
  split
  · exact refl
  · exact use (foldl (refl.step .readChecks) fun _ _ h => h.via .wr) fun h => h.via .mxcDone |>.via .produce

/-! ### Attention -/

theorem attn {c op n block} (h : Keeps straps d₀ d)
    (act' : ∀ x0 x1 e x3, Keeps straps d₀ e → Keeps straps d₀ (block x0 x1 e x3)) :
    Keeps straps d₀ (d.attn c op n block) := by
  unfold Dev.attn
  split
  · exact h
  · exact use (foldl (h.step .readChecks) fun _ _ h => act' _ _ _ _ h) fun h => h.via .mxcDone |>.via .produce

/-! ### Tun -/

theorem readRecords {b sub v r} : Keeps straps d (d.readRecords b sub v r).2.2 := by
  unfold Dev.readRecords
  exact foldlSnd (use (iteSnd (refl.via .coverCheck) refl) fun h => h.step .consume) fun _ _ h => h.via .readVector

theorem fwdAct {b sub r} : Keeps straps d (d.fwdAct b sub r) := by
  unfold Dev.fwdAct
  dsimp only
  split
  · exact ite (refl.step .readRecords |>.via .onRunning) (refl.via .stopTask |>.via .bump)
  · exact ite (refl.step .readRecords |>.via .onRunning) (refl.via .convertPhase)

theorem fwd {b sub n} : Keeps straps d (d.fwd b sub n) := by
  induction n generalizing d with
  | zero => exact refl
  | succ n ih =>
    unfold Dev.fwd
    split
    · exact refl
    · exact ite refl (refl.step .fwdAct |>.step ih)

theorem coverItem {b it} : Keeps straps d (d.coverItem b it) := by
  unfold Dev.coverItem
  exact when
      (use (foldl (foldl (refl.step .consume |>.via .bumpBy) fun _ _ h => h.via .rewriteSum) fun _ _ h => h.via .applyPending) fun h =>
        h.via .write |>.via .write |>.via .produce) fun h =>
    h.via .markLate |>.via .markLate

theorem cover {b n} : Keeps straps d (d.cover b n) := by
  induction n generalizing d with
  | zero => exact refl
  | succ n ih =>
    unfold Dev.cover
    refine ite refl ?_
    split
    · exact refl
    · exact use (foldl refl fun _ _ h => h.step .coverItem) fun h => h.via .setWork |>.via .onRunning |>.step ih

/-! ### Rack -/

theorem startRound {b i now} : Keeps straps d (d.startRound b i now) := by
  unfold Dev.startRound
  dsimp only
  split
  · exact refl
  · exact ite refl
      (ite (refl.via .put_rack |>.via .bump) (use (refl.step .readStep |>.via .setCursor |>.via .bumpBy) fun h => ite h (h.via .setRound)))

theorem foldTun {t} : Keeps straps d (d.foldTun t) := by
  unfold Dev.foldTun
  exact refl.step .readStep |>.via .writeFold |>.via .put_rack

theorem installWot {t} : Keeps straps d (d.installWot t) := by
  unfold Dev.installWot
  exact ite (use (foldl (refl.step .readStep) fun _ _ h => h.via .write) fun h => h.via .put_rack) refl

theorem foldComplete {b} : Keeps straps d (d.foldComplete b) := by
  unfold Dev.foldComplete
  exact ite (use (foldl refl fun _ _ h => h.step .foldTun |>.step .installWot |>.via .installFit) fun h => h.via .put_rack) refl

/-! ### Compare -/

theorem compare {c n} : Keeps straps d (d.compare c n) := by
  unfold Dev.compare
  split
  · exact refl
  · exact when (use (ite (refl.via .takeRackSettings) refl) fun h => h.step .readChecks |>.via .mxcDone) fun h =>
      h.via .compareEnd |>.via .produce

theorem lrFit {c} : Keeps straps d (d.lrFit c) := by
  unfold Dev.lrFit
  split
  · exact refl
  · exact use (refl.step .readChecks |>.via .mxcDone) fun h => ite h (h.via .put_draws_rack |>.via .produce)

/-! ### Kiln -/

theorem kilnUnit {b i now m} : Keeps straps d (d.kilnUnit b i now m) := by
  unfold Dev.kilnUnit
  split
  · exact ite refl (ite (use (foldl refl fun _ _ h => h.step .uncorr) fun h => h.via .put_kln) (refl.via .unitWork |>.via .afterUnit))
  · exact refl

/-! ### Fabric -/

theorem routed {p mt lenOk m deliver} (h : Keeps straps d₀ d) (k : ∀ e, Keeps straps d₀ e → Keeps straps d₀ (deliver e)) :
    Keeps straps d₀ (d.routed p mt lenOk m deliver) := by
  refine ite h ?_
  have hc := h.via (.checkMsg (lenOk := lenOk) (routed := true) (m := m) (mt := mt))
  rcases hx : d.checkMsg mt lenOk true m with ⟨_ | _, e⟩ <;> rw [hx] at hc
  · exact hc
  · exact ite (k e hc) (hc.via .forward)

theorem localMsg {p mt lenOk m deliver} (h : Keeps straps d₀ d) (k : ∀ e, Keeps straps d₀ e → Keeps straps d₀ (deliver e)) :
    Keeps straps d₀ (d.localMsg p mt lenOk m deliver) := by
  refine ite h ?_
  have hc := h.via (.checkMsg (lenOk := lenOk) (routed := false) (m := m) (mt := mt))
  rcases hx : d.checkMsg mt lenOk false m with ⟨_ | _, e⟩ <;> rw [hx] at hc
  · exact hc
  · exact k e hc

theorem flitRx {p x body} (h : Keeps straps d₀ d) (k : ∀ e, Keeps straps d₀ e → Keeps straps d₀ (body e)) :
    Keeps straps d₀ (d.flitRx p x body) := by
  unfold Dev.flitRx
  split
  · exact h
  · have hb := h.via (.bumpBy (c := Cnt.FAB_FEC_CORR_CNT p) (n := x.corr))
      |>.via (.bumpBy (c := Cnt.FAB_FEC_UNCORR_CNT p) (n := x.uncorr))
    refine ite (use (when hb fun h => h.via .bump) fun h => h.via .nak) ?_
    have hc := hb.via (.flitHead (p := p) (x := x))
    generalize Dev.flitHead _ p x = y at hc ⊢
    obtain ⟨_ | _, e⟩ := y
    · exact hc
    · exact k e hc

theorem bringUpMsg {p mt m deliver} (h : Keeps straps d₀ d) (k : ∀ e, Keeps straps d₀ e → Keeps straps d₀ (deliver e)) :
    Keeps straps d₀ (d.bringUpMsg p mt m deliver) := by
  refine ite h ?_
  have hc := h.via (.checkMsg (lenOk := m.len.toNat == 8) (routed := false) (m := m) (mt := mt))
  rcases hx : d.checkMsg mt (m.len.toNat == 8) false m with ⟨_ | _, e⟩ <;> rw [hx] at hc
  · exact hc
  · exact k e hc

theorem discMsg {p mt m deliver} (h : Keeps straps d₀ d)
    (act' : ∀ e, Keeps straps d₀ e → Keeps straps d₀ (deliver e)) :
    Keeps straps d₀ (d.discMsg p mt m deliver) := by
  unfold Dev.discMsg
  exact .localMsg h (fun _ h => ite (act' _ h) (h.via .bump))

end Sys2Proof.Machine.Keeps
end

