-- ==== Sys2Proof/Proofs/StrapsEngines.lean ====
section
/-!
PROOF. The straps through the functions of reductions, pounds, commands, boundaries, slots and frames.
-/

set_option Elab.async false

namespace Sys2Proof.Machine.Keeps

variable {d e d₀ : Dev}

/-! ### Reduction -/

theorem missing {tag bucket packet} : Keeps straps d (d.missing tag bucket packet) := by
  unfold Dev.missing
  exact use (refl.via .bump |>.via .onRunning) fun h => ite h.put h.put

theorem incoming {tag bucket packet kind hop which a p} (h : d.incoming tag bucket packet kind hop which = some (a, p, e)) : Keeps straps d e := by
  unfold Dev.incoming at h
  split at h
  · next ht => cases h; exact refl.via (Evolves.takePkt ht) |>.via .arrival
  · split at h
    · cases h; exact refl.step .missing
    · contradiction

/-- A packet that the first of a chain makes itself, or that is awaited (R255, R261). -/
theorem firstOrIncoming {c : Bool} {p₀ tag bucket packet kind hop which a p}
    (h : (if c then some (true, p₀, d) else d.incoming tag bucket packet kind hop which) = some (a, p, e)) :
    Keeps straps d e := by
  split at h
  · cases h; exact refl
  · exact incoming h

theorem rs : Keeps straps d d.rs := by
  unfold Dev.rs
  split
  · exact refl
  · dsimp only
    split
    · exact refl
    · next hi =>
      exact use (refl.step (firstOrIncoming hi) |>.step .readChecks |>.via .countFaults) fun h =>
        use (when h fun h => h.via .onRunning) fun h => use (ite (h.via .ownerResult) (h.via .sendPkt)) fun h => h.via .redDone

theorem shardVer : Keeps straps d d.shardVer := by
  unfold Dev.shardVer
  exact refl.via .bump |>.via .sticky |>.step .trouble

theorem ag : Keeps straps d d.ag := by
  unfold Dev.ag
  split
  · exact refl
  · refine ite (refl.step .readChecks |>.via .sendPkt |>.via .redDone) ?_
    split
    · exact refl
    · next hi =>
      exact use (refl.step (incoming hi)) fun h =>
        ite (h.via .markLate |>.via .redDone) (ite (h.step .shardVer |>.via .redDone)
        (use (h.via .write |>.via .write) fun h => use (when h fun h => h.via .markLate) fun h =>
          use (ite h (h.via .sendPkt)) fun h => h.via .redDone))

theorem fetch : Keeps straps d d.fetch := by
  unfold Dev.fetch
  split
  · exact refl
  · refine ite (refl.step .readChecks |>.via .sendPkt |>.via .redDone) ?_
    split
    · exact refl
    · next hi =>
      exact use (refl.step (incoming hi)) fun h =>
        ite (h.via .markLate |>.via .redDone) (ite (h.via .recordEpoch |>.step .shardVer |>.via .redDone)
        (use (h.via .recordEpoch |>.via .write) fun h => use (when h fun h => h.via .markLate) fun h =>
          use (ite h (h.via .sendPkt)) fun h => h.via .redDone))

theorem preX : Keeps straps d d.preX := by
  unfold Dev.preX
  split
  · exact refl
  · refine ite ?_ ?_
    · split
      · exact refl
      · next hi =>
        exact use (refl.step (incoming hi)) fun h => use (ite (h.via .writeAgreed) h) fun h => use (when h fun h => h.via .markLate) fun h =>
          use (ite h (h.via .sendPkt)) fun h => h.via .redDone
    · dsimp only
      split
      · exact refl
      · next _ inc e hgot =>
        have hin : Keeps straps d e := by
          split at hgot
          · cases hgot; exact refl
          · split at hgot
            · next ht =>
              obtain ⟨_, _, hp⟩ := List.exists_of_findSome?_eq_some ht
              cases hgot
              exact refl.via (Evolves.takePkt hp) |>.via .arrival
            · split at hgot
              · cases hgot; exact refl.step .missing
              · contradiction
        exact use (refl.step hin |>.step .readChecks) fun h =>
          ite (use (h.via .writeAgreed |>.via .sendPkt) fun h => use (when h fun h => h.via .markLate) fun h => h.via .redDone)
            (h.via .setRed |>.via .sendPkt)

theorem sendNotice {axis} : Keeps straps d (d.sendNotice axis) := by
  unfold Dev.sendNotice
  exact use (ite (refl.via .setRed) (refl.step .readChecks)) fun h =>
    use (ite h (h.via .setNeed)) fun h => h.via .sendPkt |>.via .setRed |>.via .noticeItem

theorem notice : Keeps straps d d.notice := by
  unfold Dev.notice
  split
  · exact refl
  · refine ite (refl.step .sendNotice) ?_
    dsimp only
    split
    · exact refl.via .setRed |>.via .arrival |>.via .takeNotice |>.via .noticeItem
    · split
      · exact refl.step .missing |>.via .setRed |>.via .noticeItem
      · exact refl

theorem replayRed : Keeps straps d d.replayRed := by
  unfold Dev.replayRed
  split
  · exact refl
  · dsimp only
    split
    · exact refl.via .onRunning
    · split
      · exact refl
      · next hi =>
        exact use (refl.step (firstOrIncoming hi) |>.step .readChecks) fun h => use (foldl h fun _ _ h => ite h (h.via .w32Count)) fun h =>
          use (h.via .write |>.via .write |>.via .countFaults) fun h => use (when h fun h => h.via .onRunning) fun h =>
          use (h.via .produce) fun h =>
          use (ite (use (foldl h fun _ _ h => ite h (h.via .write |>.via .wr)) fun h => use (h.via .produce) fun h =>
            when h fun h => h.step .trouble)
            (h.via .sendPkt)) fun h =>
          use (h.via .setRed) fun h => ite h (use (h.via .setRed) fun h => use (when h fun h => h.via .bump) fun h => h.via .redDone)

theorem redStep : Keeps straps d d.redStep := by
  unfold Dev.redStep
  exact refl.step .rs |>.step .ag |>.step .fetch |>.step .preX |>.step .notice |>.step .replayRed

theorem redArrive {tag m t} : Keeps straps d (d.redArrive tag m t) := by
  unfold Dev.redArrive
  exact ite (refl.via .bump)
    (ite (refl.via .bump |>.via .setRed) (ite (refl.via .bump) (ite (refl.via .bump |>.via .setRed) (refl.via .setRed |>.step .redStep))))

theorem reduceIn {p tag m t} : Keeps straps d (d.reduceIn p tag m t) := by
  unfold Dev.reduceIn
  exact .routed refl fun _ h => h.step .redArrive

theorem formToken : Keeps straps d d.formToken := by
  unfold Dev.formToken
  exact use (refl.via .uwrLanes) fun h => use (ite (h.via .bump) h) fun h => use (ite h.put h) fun h => h.put_frm_red rfl

/-! ### Pounds -/

theorem poundHalt {cause pound} : Keeps straps d (d.poundHalt cause pound) := by
  unfold Dev.poundHalt
  exact refl.via .bump |>.via .sticky |>.via .setFld |>.via .setFld |>.put |>.step .freeze

theorem sendItem {p} : Keeps straps d (d.sendItem p) := by
  unfold Dev.sendItem
  split
  · exact refl
  · refine ite refl ?_
    dsimp only
    split
    · exact refl
    · split
      · exact refl
      · exact ite (refl.via .setSend)
          (use (ite (use (ite (refl.via .bump) refl) fun h => h.via .setTx) refl) fun h =>
            use (h.step .readChecks) fun h =>
            use (ite (use (h.via .txRouted) fun h => ite h (h.via .setTx)) h) fun h =>
            use (ite (h.via .bump |>.via .setSend) (h.via .setSend)) fun h => h.via .onRunning)

theorem sendStop {p r} : Keeps straps d (d.sendStop p r) := by
  unfold Dev.sendStop
  refine use ?_ fun h => h.via .setSend
  split
  · exact refl
  · split
    · exact refl
    · exact ite (refl.via .setTx) (ite (refl.step .poundHalt) refl)

theorem bargeFirst {src late h data} : Keeps straps d (d.bargeFirst src late h data) := by
  unfold Dev.bargeFirst
  dsimp only
  split
  · exact refl.via .refuse |>.via .bump
  · exact ite (refl.via .refuse |>.via .bump)
      (ite (refl.via .refuse |>.step .poundHalt) (use (ite refl (refl.via .setRx)) fun h => h.via .bargeWrite))

theorem bargeIn {src late h data} : Keeps straps d (d.bargeIn src late h data) := by
  unfold Dev.bargeIn
  refine ite (ite (refl.via .bump) refl) (ite (refl.step .bargeFirst) (ite refl ?_))
  dsimp only
  split
  · exact ite (refl.via .refuse |>.via .bump) (ite (refl.via .setRx |>.via .refuse |>.via .bump) (refl.via .bargeWrite))
  · exact refl.via .refuse |>.via .bump

theorem hostPut : Keeps straps d d.hostPut := by
  unfold Dev.hostPut
  split
  · exact refl
  · exact ite refl (refl.step .readChecks |>.via .emit |>.via .onRunning)

theorem hostError : Keeps straps d d.hostError := by
  unfold Dev.hostError
  split
  · exact refl
  · exact ite (use (refl.via .bump |>.via .onRunning) fun h => use (ite (h.via .produce) h) fun h => h.step .trouble) refl

theorem bargeMsg {p m} : Keeps straps d (d.bargeMsg p m) := by
  unfold Dev.bargeMsg
  exact .routed refl fun _ h => ite (h.via .permIn) (h.step .bargeIn)

/-! ### Host -/

theorem command {n kind act} (h : Keeps straps d₀ d) (act' : ∀ c e, Keeps straps d₀ e → Keeps straps d₀ (act c e)) :
    Keeps straps d₀ (d.command n kind act) :=
  Evolves.command_induction (fun _ he => h.via he) fun c e he => act' c e (h.via he)

theorem opCommand {n op act} (h : Keeps straps d₀ d)
    (act' : ∀ x0 e, Keeps straps d₀ e → Keeps straps d₀ (act x0 e)) :
    Keeps straps d₀ (d.opCommand n op act) := by
  unfold Dev.opCommand
  exact .command h (fun _ _ h => act' _ _ h)

theorem idleRead {a n} : Keeps straps d (d.idleRead a n) := by
  unfold Dev.idleRead
  exact foldl refl fun _ _ h => h.step .uncorr

theorem bar4Gate {refused blocked act} (h : Keeps straps d₀ d)
    (act'0 : ∀ e, Keeps straps d₀ e → Keeps straps d₀ (refused e))
    (act'1 : ∀ e, Keeps straps d₀ e → Keeps straps d₀ (blocked e))
    (act'2 : ∀ e, Keeps straps d₀ e → Keeps straps d₀ (act e)) :
    Keeps straps d₀ (d.bar4Gate refused blocked act) := by
  unfold Dev.bar4Gate
  exact ite (act'0 _ h) (ite (act'1 _ (h.via .bump)) (act'2 _ h))

/-! ### Faults -/

theorem wholeTask {c r b} : Keeps straps d (d.wholeTask c r b) := by
  unfold Dev.wholeTask
  dsimp only
  split
  · exact refl.via .setRunning |>.step .matmul
  · exact refl.via .setRunning |>.step .move
  · exact refl.via .setRunning |>.step .gatherRows
  · exact refl.via .setRunning |>.step .vprog
  · exact refl.via .setRunning |>.step .assemble
  · exact refl.via .setRunning |>.step .bwdWot
  · exact .attn (refl.via .setRunning) fun _ _ _ _ h => h.via .attnFwdBlock
  · exact .attn (refl.via .setRunning) fun _ _ _ _ h => h.via .attnBwdBlock
  · exact refl.via .setRunning |>.step .normBwd
  · exact refl.via .setRunning |>.step .tiesum
  · exact refl.via .setRunning |>.step .compare
  · exact refl.via .setRunning |>.step .lrFit
  · exact refl.via .setRunning

theorem mxcSentinel {c} : Keeps straps d (d.mxcSentinel c) := by
  unfold Dev.mxcSentinel
  dsimp only
  split
  · exact use (refl.via .chooseCheck) fun h => ite (h.via .packDiscard |>.via .setRunning)
      (use (foldl h fun _ _ h => h.step .uncorr) fun h => use (h.via .write) fun h =>
        ite (h.via .setRunning |>.via .sentOutcome) (use (h.step .wholeTask |>.via .setRunning) fun h =>
          ite (h.via .sentOutcome) (ite (h.via .sentOutcome) (h.via .sentOutcome))))
  · exact refl

theorem tunSentinel {b sub} : Keeps straps d (d.tunSentinel b sub) := by
  unfold Dev.tunSentinel
  dsimp only
  split
  · exact use (refl.via .chooseCheck) fun h => ite (h.via .packDiscard |>.via .setRunning)
      (use (foldl h fun _ _ h => h.step .uncorr) fun h => use (h.via .write) fun h =>
        use (foldlSnd h fun _ _ h => h.via .tunVector) fun h => use (h.via .setRunning) fun h =>
        ite h (use (h.via .put_flt) fun h => use (h.via .sentOutcome) fun h => when h fun h => h.via .setSentUnit))
  · exact refl

theorem wdogExpire : Keeps straps d d.wdogExpire := by
  unfold Dev.wdogExpire
  exact ite refl
    (refl.via .sticky |>.via .setFld |>.via .setFld |>.via .setFld |>.via .bump |>.via .setFld |>.via .mgmtDown |>.via .fire |>.step .freeze)

/-! ### Boundary -/

theorem abortUpdate : Keeps straps d d.abortUpdate := by
  unfold Dev.abortUpdate
  exact refl.setFrm |>.via .dropStaged |>.via .abortCmds

theorem abortEpochs : Keeps straps d d.abortEpochs := by
  unfold Dev.abortEpochs
  exact when (refl.setFrm |>.via .abortCmds) fun h => h.step .abortUpdate

theorem stopSteps : Keeps straps d d.stopSteps := by
  unfold Dev.stopSteps
  exact refl.put

theorem holdStep {cause reason mask} : Keeps straps d (d.holdStep cause reason mask) := by
  unfold Dev.holdStep
  exact use (refl.step .stopSteps) fun h =>
    use (ite (h.via .setFld) h) fun h =>
    ite (ite (h.via .writeLedger) h)
      (use (h.via .stepState) fun h =>
        use (ite (h.via .partition) h) fun h =>
        use (ite (h.via .setFld) h) fun h =>
        use (h.via .stepCompletion |>.via .trace |>.via .setSt) fun h =>
        use (ite h (h.via .fire)) fun h =>
        use (h.via .writeLedger) fun h => ite (h.setFrm |>.via .abortCmds) (h.via .activatePack |>.step .abortStart |>.step .abortEpochs))

theorem holdNow {cause} : Keeps straps d (d.holdNow cause) := by
  unfold Dev.holdNow
  exact use (ite (refl.via .setFld) refl) fun h => h.step .holdStep

theorem activate {v} : Keeps straps d (d.activate v) := by
  unfold Dev.activate
  split
  · exact refl
  · exact use
        (refl.via .setFld |>.via .setFld |>.via .setFld |>.via .setFpDigest |>.via .takePolicy |>.via .countDescErrs |>.via .setNum
          |>.step .writeParams) fun h =>
      ite h (h.via .trace)

theorem changeTo {v} : Keeps straps d (d.changeTo v) := by
  unfold Dev.changeTo
  exact refl.step .activate |>.via .bump |>.via .setFld |>.setFrm

theorem switchTo {v} : Keeps straps d (d.switchTo v) := by
  unfold Dev.switchTo
  exact refl.step .changeTo |>.via .setFld

theorem handover : Keeps straps d d.handover := by
  unfold Dev.handover
  exact refl.setFrm |>.via .abortCmds |>.via .writeCask |>.via .setFld |>.via .setFld |>.via .put_mbx |>.via .enterImage

theorem atCommit : Keeps straps d d.atCommit := by
  unfold Dev.atCommit
  refine ite (foldl (refl.via .setSt |>.setFrm |>.via .put_run) fun _ _ h => h.via .complete) ?_
  split
  · exact ite refl (when (refl.via .setSt |>.setFrm |>.via .put_run) fun h => h.step .handover)
  · exact refl

theorem fold {epoch} : Keeps straps d (d.fold epoch) := by
  unfold Dev.fold
  exact ite (use (foldl refl fun _ _ h => h.step .foldComplete) fun h => h.via .foldStart) refl

theorem storeScales : Keeps straps d d.storeScales := by
  unfold Dev.storeScales
  exact foldl (refl.step .readStep) fun _ _ h => ite h (h.via .setByte |>.via .setByte)

theorem voteSwitch {t} : Keeps straps d (d.voteSwitch t) := by
  unfold Dev.voteSwitch
  split
  · exact refl.step .switchTo
  · exact refl

theorem applyResult {t} : Keeps straps d (d.applyResult t) := by
  unfold Dev.applyResult
  exact use (iteSnd refl (refl.via .lpApply)) fun h =>
    use (ite h (h.via .lossScale)) fun h =>
    use (ite (h.via .bump |>.via .sticky) h) fun h =>
    use (h.via .writeRing |>.via .countSplit) fun h =>
    use (ite h (h.step .voteSwitch)) fun h =>
    use (h.via .boundaryGrants |>.via .takeExps |>.via .writeLayerStats |>.via .shiftStats |>.via .shiftNum) fun h =>
    ite (h.via .markFits |>.via .sticky |>.via .bump |>.step .holdStep)
      (use (h.step .storeScales) fun h =>
        use (ite (h.via .setFld |>.via .bump) (h.via .setFld |>.via .setNum |>.via .setPnd |>.step .fold)) fun h =>
        use (ite (h.via .setFld |>.via .bump) h) fun h =>
        use (h.via .markFits |>.via .stepState |>.via .activatePack |>.via .stepCompletion |>.via .trace) fun h =>
        use (ite (h.step .atCommit) h) fun h => h.step .nextRun |>.via .writeLedger)

theorem boundary {m} : Keeps straps d (d.boundary m) := by
  unfold Dev.boundary
  dsimp only
  split
  · exact refl.via .takeSpg |>.via .takeFlt |>.via .stageOverrun |>.via .portsUp |>.via .setFld |>.via .measure |>.via .writeStepMin
      |>.via .bump |>.step .holdStep
  · exact ite
      (refl.via .takeSpg |>.via .takeFlt |>.via .stageOverrun |>.via .portsUp |>.via .setFld |>.via .measure |>.via .writeStepMin
        |>.via .countSplit |>.via .bump |>.step .holdStep)
      (refl.via .takeSpg |>.via .takeFlt |>.via .stageOverrun |>.via .portsUp |>.via .setFld |>.via .measure |>.via .writeStepMin
        |>.step .applyResult)

/-! ### Slots -/

theorem beginTask {cls idx key count r} : Keeps straps d (d.beginTask cls idx key count r) := by
  unfold Dev.beginTask
  exact refl.via .setRunning |>.step .consume |>.step .poundCheck

theorem startBasin {b key s} : Keeps straps d (d.startBasin b key s) := by
  unfold Dev.startBasin
  exact ite (refl.via .setRunning) (ite (refl.step .beginTask) (refl.via .failSlot))

theorem startMxc {c key s task digital} : Keeps straps d (d.startMxc c key s task digital) := by
  unfold Dev.startMxc
  refine ite (refl.via .setRunning |>.via .bump)
    (ite (refl.via .failSlot |>.via .mxcError) (ite (use (iteSnd (refl.via .fitCount) refl) fun h => h.step .beginTask |>.via .startProg) ?_))
  split
  · exact ite (use (iteSnd (refl.via .fitCount) refl) fun h => h.step .beginTask |>.via .startProg)
      (use (iteSnd (refl.via .fitCount) refl) fun h => h.step .beginTask)
  · exact use (iteSnd (refl.via .fitCount) refl) fun h => h.step .beginTask

theorem startFallback {c key s} : Keeps straps d (d.startFallback c key s) := by
  unfold Dev.startFallback
  split
  · exact refl.step .startMxc
  · exact refl.via .setRunning

theorem startRed {key s} : Keeps straps d (d.startRed key s) := by
  unfold Dev.startRed
  exact use (refl.via .setRed) fun h => ite (h.via .failSlot) (h.step .beginTask)

theorem startSend {p key s} : Keeps straps d (d.startSend p key s) := by
  unfold Dev.startSend
  exact ite (refl.via .failSlot) (refl.via .setSend |>.step .beginTask)

theorem startHost {key s} : Keeps straps d (d.startHost key s) := by
  unfold Dev.startHost
  exact ite (refl.via .failSlot) (refl.step .beginTask)

theorem openSlot {cls idx s} : Keeps straps d (d.openSlot cls idx s) := by
  unfold Dev.openSlot
  dsimp only
  split
  · exact refl.via .startRack
  · exact refl.via .startKiln
  · exact refl.via .setRunning
  · exact refl.step .startFallback
  · split
    · exact refl.step .startBasin
    · exact refl.step .startMxc
    · exact refl.via .startSparge
    · exact refl.step .startRed
    · exact refl.step .startSend
    · exact refl.step .startHost

theorem slotStart {cls idx k} : Keeps straps d (d.slotStart cls idx k) := by
  unfold Dev.slotStart
  refine ite refl ?_
  split
  · exact refl
  · exact ite refl (refl.setFrm |>.step .readProgram |>.step .openSlot)

theorem taskEnds {cls idx key q r} : Keeps straps d (d.taskEnds cls idx key q r) := by
  unfold Dev.taskEnds
  exact use (ite (refl.step .endProg) refl) fun h => use (ite (h.via .lateOutputs) h) fun h => h.via .setRunning |>.step .slotSlack

theorem taskComplete {cls idx sub q} : Keeps straps d (d.taskComplete cls idx sub q) := by
  unfold Dev.taskComplete
  dsimp only
  split
  · exact refl
  · exact ite refl (refl.step .taskEnds)

theorem stopUnit {cls idx r} : Keeps straps d (d.stopUnit cls idx r) := by
  unfold Dev.stopUnit
  split
  · refine ite refl (ite (use ?_ fun h => h.step .matHist) (ite (refl.step .endProg) (ite (refl.step .asmHist) refl)))
    split
    · exact ite (refl.step .endProg) refl
    · exact refl
  · exact foldl (refl.via .setWork |>.via .bumpBy) fun _ _ h => h.via .markLate |>.via .markLate
  · exact ite (refl.via .writeCounts) refl
  · exact ite refl (refl.step .sendStop)
  · exact refl

theorem stopSlot {cls idx r} : Keeps straps d (d.stopSlot cls idx r) := by
  unfold Dev.stopSlot
  exact use (ite (refl.via .setRed) refl) fun h => h.step .stopUnit |>.via .lateOutputs |>.step .slotSlack |>.step .overrun

theorem endSlot {cls idx sub} : Keeps straps d (d.endSlot cls idx sub) := by
  unfold Dev.endSlot
  dsimp only
  split
  · exact refl
  · refine use ?_ fun h => h.via .setRunning
    split
    · exact refl.via .put_kln
    · exact ite refl (refl.via .sentTimeout)
    · exact ite refl (ite (refl.step .taskEnds) (refl.step .stopSlot))

theorem endSlots : Keeps straps d d.endSlots := by
  unfold Dev.endSlots
  exact foldl refl fun _ _ h => h.step .endSlot

/-! ### Frame -/

theorem emitTick {stamp wait} : Keeps straps d (d.emitTick stamp wait) := by
  unfold Dev.emitTick
  exact use (ite refl (refl.step .missedStart)) fun h =>
    h.via .floodTick |>.via .emit |>.via .setFld |>.via .setFld |>.setFrm |>.step .openFrame

theorem timerTick {now} : Keeps straps d (d.timerTick now) := by
  unfold Dev.timerTick
  exact ite refl (ite (refl.step .emitTick) (ite refl (refl.step .emitTick)))

theorem tickEdge {now} : Keeps straps d (d.tickEdge now) := by
  unfold Dev.tickEdge
  exact ite refl (ite (refl.step .emitTick) (refl.via .bump))

theorem windowEnd {now} : Keeps straps d (d.windowEnd now) := by
  unfold Dev.windowEnd
  exact ite refl (refl.via .bump |>.step .emitTick)

theorem tickIn {p m now delay} : Keeps straps d (d.tickIn p m now delay) := by
  unfold Dev.tickIn
  exact ite (refl.via .testTick) (ite refl (when (ite refl (refl.setFrm |>.via .floodTick)) fun h => h.step .judgeTick))

theorem flywheel : Keeps straps d d.flywheel := by
  unfold Dev.flywheel
  refine ite refl ?_
  split
  · exact refl.via .bump |>.step .acceptTick |>.step .judgeLater
  · exact refl.via .bump |>.step .openFrame |>.step .judgeLater

theorem missHold : Keeps straps d d.missHold := by
  unfold Dev.missHold
  exact ite refl (use (refl.via .setFld) fun h => ite (h.step .freeze) (h.via .setFld))

theorem closeFrame : Keeps straps d d.closeFrame := by
  unfold Dev.closeFrame
  exact ite refl (when (use (ite (refl.step .endSlots) refl) fun h => h.via .setFld |>.via .monSample |>.setFrm) fun h => h.step .noteStepMin)

theorem startDue {num} : Keeps straps d (d.startDue num) := by
  unfold Dev.startDue
  split
  · exact refl
  · exact ite refl
      (ite (use (ite (refl.step .startSteps |>.step .abortUpdate) (refl.step .startSteps)) fun h => h.step .beginStep |>.step .runFrame)
        (refl.step .abortStart |>.via .bump))

theorem resumeDue {num} : Keeps straps d (d.resumeDue num) := by
  unfold Dev.resumeDue
  split
  · exact refl
  · exact ite refl
      (use refl.setFrm fun h =>
        ite (use (foldl (h.step .abortStart |>.step .startSteps) fun _ _ h => h.via .complete) fun h => h.step .beginStep |>.step .runFrame)
          (foldl h fun _ _ h => h.via .complete))

theorem freezeIdle : Keeps straps d d.freezeIdle := by
  unfold Dev.freezeIdle
  split
  · exact refl
  · exact ite (refl.step .holdNow) refl.setFrm

theorem frameRunning {m} : Keeps straps d (d.frameRunning m) := by
  unfold Dev.frameRunning
  exact ite (refl.via .stageOverrun |>.step .holdNow)
    (use (ite (refl.step .boundary) (refl.via .setFld)) fun h =>
      ite (use (ite (h.step .writeParams) h) fun h => h.step .freezeIdle)
        (ite (use (ite (h.step .writeParams) (h.via .stageOverrun)) fun h => h.step .holdNow)
          (ite (h.step .beginStep |>.step .runFrame) (h.step .runFrame))))

theorem frameStart {m} : Keeps straps d (d.frameStart m) := by
  unfold Dev.frameStart
  split
  · exact refl
  · exact ite refl
      (use (refl.setFrm |>.step .closeFrame |>.via .setFld |>.via .setFld |>.via .setFld |>.setFrm) fun h =>
        when (ite (h.step .frameRunning) (h.step .freezeIdle |>.step .startDue |>.step .resumeDue)) fun h => h.via .setFld)

end Sys2Proof.Machine.Keeps
end

