-- ==== Sys2Proof/Proofs/StrapsStarts.lean ====
section
/-!
PROOF. The straps through the functions of resets, starts, programs and registers.
-/

set_option Elab.async false

namespace Sys2Proof.Machine.Keeps

variable {d e d₀ : Dev}

/-! ### Reset -/

theorem enterFault : Keeps straps d d.enterFault := by
  unfold Dev.enterFault
  refine use ?_ fun h => h.step .stopSteps |>.setFrm |>.via .setPwr |>.via .setFld |>.via .setSt |>.via .dropStaged |>.via .abortCmds
  split
  · exact refl.via .noteFailed
  · exact refl

theorem railFault {rail} : Keeps straps d (d.railFault rail) := by
  unfold Dev.railFault
  exact use (refl.via .dropRounds) fun h =>
    use (foldl (use (ite (h.via .stepCompletion) h) fun h => h.via .put_run) fun _ _ h => h.via .loseLink) fun h =>
    h.via .setFld |>.via .bump |>.via .noteCause |>.step .enterFault

theorem thermalHold {i} : Keeps straps d (d.thermalHold i) := by
  unfold Dev.thermalHold
  exact when (refl.via .setFld |>.via .setFld |>.via .bump |>.via .setFld |>.via .setPwr) fun h => h.step .freeze

/-! ### Start -/

theorem coldState {pcie power} : Keeps straps d (d.coldState pcie power) := by
  unfold Dev.coldState
  exact use (refl.via .dropRounds) fun h => use (ite h (h.via .mgmtDown)) fun h => h.via .loseLs |>.put_all rfl rfl

theorem beginCold {cause pcie power} : Keeps straps d (d.beginCold cause pcie power) := by
  unfold Dev.beginCold
  exact refl.via .setSt |>.step .coldState |>.via .setFld |>.via .noteCause |>.via .setFld |>.via .startSettling |>.via .startSettling |>.via .bump

theorem judgeImage {c b act} (h : Keeps straps d₀ d)
    (act' : ∀ x0 e, Keeps straps d₀ e → Keeps straps d₀ (act x0 e)) :
    Keeps straps d₀ (d.judgeImage c b act) := by
  unfold Dev.judgeImage
  exact ite (h.via .complete) (use (h.via .noteSig) fun h => ite (h.via .complete) (act' _ _ h))

theorem coldStages {c b env} : Keeps straps d (d.coldStages c b env) := by
  unfold Dev.coldStages
  exact use (refl.via .stage |>.via .trainHbm) fun h =>
    ite (h.step .enterFault)
      (use (h.via .stage |>.via .initHbm |>.via .setFld |>.via .write |>.via .startImage |>.via .bindDefaults |>.via .stage) fun h =>
        ite (h.step .enterFault) (h.via .stage |>.via .trainPorts))

/-! ### Warm -/

theorem ledgerRead {e} : Keeps straps d (d.ledgerRead e) := by
  unfold Dev.ledgerRead
  dsimp only
  split
  · exact refl.via .bumpBy
  · exact use (refl.via .bumpBy |>.via .setFld |>.via .setFld |>.via .setFld |>.via .setFld |>.via .sticky |>.via .bumpBy) fun h =>
      ite (h.via .put_flt |>.step .freeze) (h.step .enterFault)

theorem warmState {pcie reload} : Keeps straps d (d.warmState pcie reload) := by
  unfold Dev.warmState
  have h : Keeps straps d d.dropRounds.mgmtDown.loseLs := refl.via .dropRounds |>.via .mgmtDown |>.via .loseLs
  generalize d.dropRounds.mgmtDown.loseLs = e at h ⊢
  exact h.put_warm (by rfl) |>.via .setFld |>.via .setFld |>.via .setFld

theorem beginWarm {cause cmd pcie reload} : Keeps straps d (d.beginWarm cause cmd pcie reload) := by
  unfold Dev.beginWarm
  exact use (ite (refl.via .abortCmds) (refl.via .resetFunction)) fun h =>
    h.via .setSt |>.step .warmState |>.via .noteCause |>.via .bump |>.via .setPwr

theorem escalate {cause} : Keeps straps d (d.escalate cause) := by
  unfold Dev.escalate
  exact refl.step .beginCold |>.via .setFld |>.via .bump |>.via .noteFailed |>.via .romDone

theorem foldJournals : Keeps straps d d.foldJournals := by
  unfold Dev.foldJournals
  exact use (foldl refl fun _ _ h => h.step .idleRead |>.step .idleRead |>.via .foldJournal |>.via .foldJournal) fun h => h.via .put_rack

theorem resumeHeld : Keeps straps d d.resumeHeld := by
  unfold Dev.resumeHeld
  exact use (ite refl (refl.via .setFld)) fun h =>
    h.via .setFld |>.via .setFld |>.via .setFpDigest |>.via .setFld |>.via .setFld |>.setFrm |>.via .setSt

theorem warmEnd : Keeps straps d d.warmEnd := by
  unfold Dev.warmEnd
  dsimp only
  split
  · exact use
        (ite
          (use (foldl (refl.via .confirmResult) fun _ _ h => h.via .revalidate) fun h =>
            h.via .noteStart |>.via .setPwr |>.via .setFld |>.step .resumeHeld |>.via .fire |>.via .writeLedger)
          (use (foldl (refl.via .confirmResult) fun _ _ h => h.via .revalidate) fun h =>
            h.via .noteStart |>.via .setPwr |>.via .setFld |>.via .resumeReady)) fun h =>
      h.via .complete
  · exact ite
      (use (foldl (refl.via .confirmResult) fun _ _ h => h.via .revalidate) fun h =>
        h.via .noteStart |>.via .setPwr |>.via .setFld |>.step .resumeHeld |>.via .fire |>.via .writeLedger)
      (use (foldl (refl.via .confirmResult) fun _ _ h => h.via .revalidate) fun h =>
        h.via .noteStart |>.via .setPwr |>.via .setFld |>.via .resumeReady)

theorem advance : Keeps straps d d.advance := by
  unfold Dev.advance
  split
  · exact refl.via .endDiscover
  · exact ite refl (ite (when (ite (refl.via .startSize) refl) fun h => h.via .afterFabric) (ite (refl.step .warmEnd) refl))

theorem warmRest {reload env} : Keeps straps d (d.warmRest reload env) := by
  unfold Dev.warmRest
  exact use (refl.via .stage |>.step .foldJournals |>.via .bumpBy) fun h =>
    ite (h.step .escalate) (h.via .stage |>.via .kilnInterp |>.via .warmFabric |>.step .advance)

theorem warmLedger {reload env} : Keeps straps d (d.warmLedger reload env) := by
  unfold Dev.warmLedger
  refine ite (refl.via .stage |>.step .ledgerRead) ?_
  dsimp only
  split
  · exact refl.via .stage |>.step .ledgerRead |>.via .judgeCopies |>.step .escalate
  · exact refl.via .stage |>.step .ledgerRead |>.via .judgeCopies |>.via .restoreCopy |>.via .takeFlt |>.via .takeSpg
      |>.via .restartRackSettings |>.step .warmRest

theorem warmStages {b reload env} : Keeps straps d (d.warmStages b reload env) := by
  unfold Dev.warmStages
  split
  · exact refl.step .escalate
  · exact ite (refl.via .startImage |>.step .warmLedger)
      (use (refl.via .stage) fun h =>
        ite (h.step .escalate) (use (h.via .setFld |>.via .startImage |>.via .stage) fun h => ite (h.step .warmLedger) (h.step .enterFault)))

theorem warmStart {cause cmd pcie env} : Keeps straps d (d.warmStart cause cmd pcie env) := by
  unfold Dev.warmStart
  exact refl.step .beginWarm |>.step .idleRead |>.step .warmStages

theorem functionReset {cause env} : Keeps straps d (d.functionReset cause env) := by
  unfold Dev.functionReset
  exact ite (refl.via .resetFunction) (refl.step .warmStart)

theorem answerHello {c} : Keeps straps d (d.answerHello c) := by
  unfold Dev.answerHello
  exact use (refl.via .setFld |>.via .setFld) fun h =>
    ite (h.via .setFld |>.via .complete |>.via .setPwr |>.step .advance)
      (use (h.via .sticky |>.via .setFld) fun h => use (ite (h.via .refuseStart) h) fun h => h.via .complete)

/-! ### Program -/

theorem awaitStart {c} : Keeps straps d (d.awaitStart c) := by
  unfold Dev.awaitStart
  exact refl.via .setFld |>.via .setFld |>.setFrm |>.via .setHif

theorem loseTick : Keeps straps d d.loseTick := by
  unfold Dev.loseTick
  exact refl.via .setFld |>.via .setFld |>.via .setFld |>.setFrm

theorem runSlot {c} : Keeps straps d (d.runSlot c) := by
  unfold Dev.runSlot
  exact refl.via .setFld |>.step .activate |>.via .resetPounds |>.step .loseTick |>.setFrm |>.via .setFld |>.step .awaitStart |>.via .setSt
    |>.step .writeParams |>.via .writeLedger

theorem resumeSlot : Keeps straps d d.resumeSlot := by
  unfold Dev.resumeSlot
  exact ite (use (refl.step .changeTo |>.setFrm) fun h => use (ite (h.via .carryGrants) h) fun h => h.via .resetPounds |>.via .writeLedger)
    refl

theorem resumeTicks : Keeps straps d d.resumeTicks := by
  unfold Dev.resumeTicks
  exact ite refl.setFrm (ite (refl.step .loseTick) refl)

theorem resume {c} : Keeps straps d (d.resume c) := by
  unfold Dev.resume
  exact refl.step .resumeSlot |>.via .portsUp |>.step .resumeTicks |>.via .setFld |>.via .setFld |>.setFrm |>.step .awaitStart
    |>.step .writeParams

theorem frameOf {tick} : Keeps straps d (d.frameOf tick) := by
  unfold Dev.frameOf
  split
  · exact ite (refl.step .missHold |>.step .frameStart) refl
  · exact refl

theorem stop : Keeps straps d d.stop := by
  unfold Dev.stop
  exact use (refl.step .abortStart) fun h =>
    use (ite (h.step .abortUpdate) h) fun h =>
    h.via .portsUp |>.step .stopSteps |>.via .resetPounds |>.via .setPnd |>.via .setFld |>.via .setFld |>.step .loseTick |>.setFrm
      |>.via .setHif |>.via .setFpDigest |>.via .setSt

theorem stageUpdate {c} : Keeps straps d (d.stageUpdate c) := by
  unfold Dev.stageUpdate
  exact ite (refl.via .complete) (when (refl.via .setFld) fun h => h.setFrm)

theorem endHandover : Keeps straps d d.endHandover := by
  unfold Dev.endHandover
  dsimp only
  split
  · exact foldl refl fun _ _ h => h.via .complete
  · exact ite (foldl refl.setFrm fun _ _ h => h.via .complete) refl

theorem caskRead {fwBad certBad e} : Keeps straps d (d.caskRead fwBad certBad e) := by
  unfold Dev.caskRead
  exact ite refl
    (use (refl.via .ecc |>.step .idleRead) fun h =>
      use
          (foldl
              (use (ite (h.via .setFld) (h.via .bump |>.via .ledgerRebuild |>.via .setFld)) fun h =>
                h.via .setFld |>.via .put_mbx |>.via .setFld |>.via .bump |>.via .burnFloors) fun _ _ h =>
            h.step .answerHello) fun h =>
      h.via .deliverMgmt |>.step .endHandover)

/-! ### Registers -/

theorem gated {ok c act} (h : Keeps straps d₀ d)
    (act' : ∀ e, Keeps straps d₀ e → Keeps straps d₀ (act e).2) :
    Keeps straps d₀ (d.gated ok c act).2 := by
  unfold Dev.gated
  exact iteSnd (act' _ h) (h.via .bump)

theorem putNum {slot lo w new r} : Keeps straps d (d.putNum slot lo w new r).2 := by
  unfold Dev.putNum
  exact iteSnd (refl.via .putLossScale) (use (refl.via .putFields) fun h => iteSnd (pair h.setFrm) h)

theorem putPort {p act} : Keeps straps d (d.putPort p act) := by
  unfold Dev.putPort
  exact ite (ite (refl.via .disablePort |>.step .advance) refl)
    (when (ite refl (refl.via .setFld |>.via .trainPort)) fun h => h.via .retrain |>.step .advance)

theorem putLow {slot lo w new act r} : Keeps straps d (d.putLow slot lo w new act r).2 := by
  unfold Dev.putLow
  exact iteSnd (iteSnd refl (refl.via .putFields))
    (iteSnd (refl.via .writeAdmin)
      (iteSnd (refl.via .putKilnReq)
        (iteSnd (.gated refl fun _ h => h.step .putNum)
          (iteSnd (.gated refl fun _ h => h.via .putFields) (iteSnd (.gated refl fun _ h => h.via .putFields) (refl.via .putFields))))))

theorem putHigh {slot lo w new act r} : Keeps straps d (d.putHigh slot lo w new act r).2 := by
  unfold Dev.putHigh
  exact iteSnd (refl.step .putPort)
    (iteSnd (refl.via .putMemCfg)
      (iteSnd (ite (refl.via .lockMbx) refl)
        (iteSnd (.gated refl fun _ h => h.via .putFields)
          (iteSnd refl
            (iteSnd (refl.via .mbxTx)
              (iteSnd (refl.via .clearSticky)
                (iteSnd (refl.via .bump)
                  (iteSnd (refl.via .gaugePower)
                    (iteSnd (refl.via .putConv)
                      (iteSnd (refl.via .putUrgent)
                        (iteSnd (refl.via .putMonSel)
                          (iteSnd (refl.via .monConfig)
                            (iteSnd (.gated refl fun _ h => h.via .putFields)
                              (iteSnd (ite (refl.via .lockSec) refl) (refl.via .putFields)))))))))))))))

theorem writeReg {slot lo w v} : Keeps straps d (d.writeReg slot lo w v) := by
  unfold Dev.writeReg
  split
  · exact refl
  · exact ite (refl.via .mbxIdle) (ite refl (when (iteSnd (refl.step .putLow) (refl.step .putHigh)) fun h => h.via .configWritten))

theorem barWrite {off whole v} : Keeps straps d (d.barWrite off whole v) := by
  unfold Dev.barWrite
  split
  · exact refl
  · exact ite refl (ite (when (refl.via .msixWrite) fun h => h.via .msixWrite) (refl.step .writeReg))

theorem barRead {off whole e} : Keeps straps d (d.barRead off whole e) := by
  unfold Dev.barRead
  refine ite (refl.via .emit) ?_
  split
  · exact refl.via .emit
  · exact ite (refl.via .mbxRx) (ite (refl.via .mbxIdle) (ite (refl.step .ledgerRead |>.via .readSlot) (refl.via .readSlot)))

end Sys2Proof.Machine.Keeps
end

