-- ==== Sys2Proof/Proofs/StrapsKept.lean ====
section
/-!
PROOF. The straps are sampled by PERST alone (O41).
-/

set_option Elab.async false

namespace Sys2Proof.Machine

open Keeps

/-- A command that keeps the straps, from every state. -/
def strapsKept (c : Instr) : Prop := ∀ s, answers c s fun e => Keeps straps s.dev e

variable {c : Instr} {l : List Part} {f : Dev → Dev} {d d₀ e : Dev}

theorem strapsKept.run (hc : ∀ s, exec c s = s.run f) (h : ∀ d, Keeps straps d (f d)) : strapsKept c := fun s =>
  ⟨_, hc s, rfl, when (refl.via .quiet) fun hq => hq.step (h s.dev.quiet)⟩

theorem strapsKept.always (hc : ∀ s, exec c s = s.always f) (h : ∀ d, Keeps straps d (f d)) : strapsKept c := fun s =>
  ⟨_, hc s, rfl, (refl.via .quiet).step (h s.dev.quiet)⟩

/-- A command that changes no part in which a strap lies. -/
theorem evolvesOnly.straps (h : evolvesOnly l c) (hl : ∀ a ∈ straps, a.part ∉ l := by decide) : strapsKept c := fun s => by
  obtain ⟨t, hx, hq, he⟩ := h s
  exact ⟨t, hx, hq, refl.via he hl⟩

theorem Keeps.fetched {c data addr o} (h : Keeps straps d₀ d) (hx : d.fetchImage c data addr = (o, e)) : Keeps straps d₀ e := by
  have hf := h.via (.fetchImage (c := c) (data := data) (addr := addr))
  rwa [hx] at hf

theorem strapsKept_of_ne_perst (c : Instr) (hc : ∀ origin mode ok, c ≠ .perst origin mode ok) : strapsKept c := by
  cases c with
  | tickEmit => exact .run (exec_tickEmit _) fun _ => refl.step .timerTick
  | tickInEdge => exact .run (exec_tickInEdge _) fun _ => refl.step .tickEdge
  | tickWindowEnd => exact .run (exec_tickWindowEnd _) fun _ => refl.step .windowEnd
  | tickMsg => exact .run (exec_tickMsg _ _ _ _) fun _ => .localMsg refl fun _ h => h.step .tickIn
  | flywheelStart => exact .run exec_flywheelStart fun _ => refl.step .flywheel
  | tickMissHold => exact .run exec_tickMissHold fun _ => refl.step .missHold
  | frameStart => exact .run (exec_frameStart _) fun _ => refl.step .missHold |>.step .frameStart
  | slotStart => exact .run (exec_slotStart _ _ _ _) fun _ => refl.via .ecc |>.step .slotStart
  | slotEnd => exact .run (exec_slotEnd _ _ _) fun _ => refl.step .endSlot
  | taskComplete => exact .run (exec_taskComplete _ _ _ _) fun _ => refl.step .taskComplete
  | fwd => exact .run (exec_fwd _ _ _ _) fun _ => refl.via .ecc |>.step .fwd
  | cover => exact .run (exec_cover _ _ _) fun _ => refl.via .ecc |>.step .cover
  | spargePeriod => exact evolves_spargePeriod.straps
  | rmWindowClose => exact evolves_rmWindowClose.straps
  | pulseRound => exact .run (exec_pulseRound _ _ _ _) fun _ => refl.via .ecc |>.step .startRound
  | pulsePeriod => exact evolves_pulsePeriod.straps
  | pulseRoundEnd => exact evolves_pulseRoundEnd.straps
  | foldComplete => exact .run (exec_foldComplete _ _) fun _ => refl.via .ecc |>.step .foldComplete
  | kilnUnit => exact .run (exec_kilnUnit _ _ _ _ _) fun _ => refl.via .ecc |>.step .kilnUnit
  | kilnRestore => exact evolves_kilnRestore.straps
  | matmul => exact .run (exec_matmul _ _ _) fun _ => refl.via .ecc |>.step .matmul
  | move => exact .run (exec_move _ _ _) fun _ => refl.via .ecc |>.step .move
  | gather => exact .run (exec_gather _ _ _) fun _ => refl.via .ecc |>.step .gatherRows
  | vprog => exact .run (exec_vprog _ _) fun _ => refl.via .ecc |>.step .vprog
  | assemble => exact .run (exec_assemble _ _ _) fun _ => refl.via .ecc |>.step .assemble
  | bwdWot => exact .run (exec_bwdWot _ _ _) fun _ => refl.via .ecc |>.step .bwdWot
  | attnFwd => exact .run (exec_attnFwd _ _ _) fun _ => .attn (refl.via .ecc) fun _ _ _ _ h => h.via .attnFwdBlock
  | attnBwd => exact .run (exec_attnBwd _ _ _) fun _ => .attn (refl.via .ecc) fun _ _ _ _ h => h.via .attnBwdBlock
  | normBwd => exact .run (exec_normBwd _ _ _) fun _ => refl.via .ecc |>.step .normBwd
  | tiesum => exact .run (exec_tiesum _ _ _) fun _ => refl.via .ecc |>.step .tiesum
  | compare => exact .run (exec_compare _ _ _) fun _ => refl.via .ecc |>.step .compare
  | lrFit => exact .run (exec_lrFit _ _) fun _ => refl.via .ecc |>.step .lrFit
  | rs => exact .run (exec_rs _) fun _ => refl.via .ecc |>.step .rs
  | ag => exact .run (exec_ag _) fun _ => refl.via .ecc |>.step .ag
  | preX => exact .run (exec_preX _) fun _ => refl.via .ecc |>.step .preX
  | notice => exact .run (exec_notice _) fun _ => refl.via .ecc |>.step .notice
  | replay => exact .run (exec_replay _) fun _ => refl.via .ecc |>.step .replayRed
  | fetch => exact .run (exec_fetch _) fun _ => refl.via .ecc |>.step .fetch
  | send => exact .run (exec_send _ _ _) fun _ => foldl (refl.via .ecc) fun _ _ h => h.step .sendItem
  | hostPut => exact .run (exec_hostPut _) fun _ => refl.via .ecc |>.step .hostPut
  | hostGet => exact evolves_hostGet.straps
  | hostXferCompletion => exact .run exec_hostXferCompletion fun _ => refl.step .hostError
  | mxcCheck => exact .run (exec_mxcCheck _ _) fun _ => refl.via .ecc |>.step .mxcSentinel
  | tunCheck => exact .run (exec_tunCheck _ _ _) fun _ => refl.via .ecc |>.step .tunSentinel
  | vFma => exact .run (exec_vFma _ _) fun _ => refl.step .insn
  | vAdd => exact .run (exec_vAdd _ _) fun _ => refl.step .insn
  | vMul => exact .run (exec_vMul _ _) fun _ => refl.step .insn
  | vMax => exact .run (exec_vMax _ _) fun _ => refl.step .insn
  | vMin => exact .run (exec_vMin _ _) fun _ => refl.step .insn
  | vSel => exact .run (exec_vSel _ _) fun _ => refl.step .insn
  | vCmplt => exact .run (exec_vCmplt _ _) fun _ => refl.step .insn
  | vExp2 => exact .run (exec_vExp2 _ _) fun _ => refl.step .insn
  | vRcp => exact .run (exec_vRcp _ _) fun _ => refl.step .insn
  | vRsq => exact .run (exec_vRsq _ _) fun _ => refl.step .insn
  | vLog2 => exact .run (exec_vLog2 _ _) fun _ => refl.step .insn
  | vTwosum => exact .run (exec_vTwosum _ _) fun _ => refl.step .insn
  | vFast2sum => exact .run (exec_vFast2sum _ _) fun _ => refl.step .insn
  | vTwoprod => exact .run (exec_vTwoprod _ _) fun _ => refl.step .insn
  | vCvt => exact .run (exec_vCvt _ _ _) fun _ => refl.via .ecc |>.step .insn
  | vCvtTunin => exact .run (exec_vCvtTunin _ _ _) fun _ => refl.via .ecc |>.step .insn
  | vRedSum => exact .run (exec_vRedSum _ _) fun _ => refl.step .insn
  | vRedMax => exact .run (exec_vRedMax _ _) fun _ => refl.step .insn
  | vRedMin => exact .run (exec_vRedMin _ _) fun _ => refl.step .insn
  | vKth => exact .run (exec_vKth _ _) fun _ => refl.step .insn
  | vRng => exact .run (exec_vRng _ _) fun _ => refl.step .insn
  | vLd => exact .run (exec_vLd _ _ _) fun _ => refl.via .ecc |>.step .insn
  | vSt => exact .run (exec_vSt _ _ _) fun _ => refl.via .ecc |>.step .insn
  | vGld => exact .run (exec_vGld _ _ _) fun _ => refl.via .ecc |>.step .insn
  | vLoop => exact .run (exec_vLoop _ _) fun _ => refl.step .insn
  | vEnd => exact .run (exec_vEnd _ _) fun _ => refl.step .insn
  | tokenForm => exact .run (exec_tokenForm _) fun _ => when (refl.via .ecc) fun h => h.step .readStep |>.step .formToken |>.via .tryToken
  | tokenMsg => exact evolves_tokenMsg.straps
  | tokenForwardDeadline => exact evolves_tokenForwardDeadline.straps
  | tokenDecideDeadline => exact evolves_tokenDecideDeadline.straps
  | resultMsg => exact evolves_resultMsg.straps
  | reduceMsg => exact .run (exec_reduceMsg _ _ _) fun _ => refl.step .reduceIn
  | agRx => exact .run (exec_agRx _ _ _) fun _ => refl.step .reduceIn
  | fetchRx => exact .run (exec_fetchRx _ _ _) fun _ => refl.step .reduceIn
  | preXRx => exact .run (exec_preXRx _ _ _) fun _ => refl.step .reduceIn
  | noticeRx => exact .run (exec_noticeRx _ _ _) fun _ => refl.step .reduceIn
  | packetDeadline => exact .run exec_packetDeadline fun _ => refl.via .setRed |>.step .redStep
  | bargeMsg => exact .run (exec_bargeMsg _ _) fun _ => refl.step .bargeMsg |>.via .endPermute
  | poundRelease => exact evolves_poundRelease.straps
  | creditMsg => exact evolves_creditMsg.straps
  | permAck => exact evolves_permAck.straps
  | permuteTimeout => exact evolves_permuteTimeout.straps
  | flitRxData => exact .run (exec_flitRxData _ _) fun _ => use (.flitRx refl fun _ h => h.via .dataFlit) fun h => h.step .advance
  | flitRxCtrl => exact .run (exec_flitRxCtrl _ _ _ _ _) fun _ => use (.flitRx refl fun _ h => h.via .ctrlFlit) fun h => h.step .advance
  | flitRxIdle => exact .run (exec_flitRxIdle _ _) fun _ => use (.flitRx refl fun _ h => ite (h.via .protoError) h) fun h => h.step .advance
  | ackTimeout => exact .run (exec_ackTimeout _) fun _ => refl.via .replay |>.step .advance
  | flitIdleTimeout => exact .run (exec_flitIdleTimeout _) fun _ => refl.via .loseLink |>.step .advance
  | linkLost => exact .run (exec_linkLost _) fun _ => refl.via .loseLink |>.step .advance
  | retrainTimer => exact .run (exec_retrainTimer _) fun _ => refl.via .retrainDue |>.step .advance
  | portTrained => exact evolves_portTrained.straps
  | guardProbe => exact evolves_guardProbe.straps
  | probeMsg => exact evolves_probeMsg.straps
  | echoMsg => exact .run (exec_echoMsg _ _ _ _) fun _ => use (.bringUpMsg refl fun _ h => h.via .echo) fun h => h.step .advance
  | parentMsg => exact evolves_parentMsg.straps
  | mgmtMsg => exact evolves_mgmtMsg.straps
  | ringMsg => exact .run (exec_ringMsg _ _) fun _ => use (.discMsg refl fun _ h => h.via .ringIn) fun h => h.step .advance
  | assignMsg => exact .run (exec_assignMsg _ _) fun _ => use (.discMsg refl fun _ h => h.via .assignIn) fun h => h.step .advance
  | censusMsg => exact .run (exec_censusMsg _ _) fun _ => use (.discMsg refl fun _ h => h.via .censusIn) fun h => h.step .advance
  | doneMsg => exact .run (exec_doneMsg _ _) fun _ => use (.discMsg refl fun _ h => h.via .doneIn) fun h => h.step .advance
  | confirmMsg => exact .run (exec_confirmMsg _ _) fun _ => use (.bringUpMsg refl fun _ h => h.via .confirmIn) fun h => h.step .advance
  | discTestTick => exact evolves_discTestTick.straps
  | discoveryTimeout => exact .run exec_discoveryTimeout fun _ => refl.via .discTimeout |>.step .advance
  | hbmRefresh => exact evolves_hbmRefresh.straps
  | hbmTempReport => exact evolves_hbmTempReport.straps
  | bar4Read =>
    exact .run (exec_bar4Read _ _ _) fun _ => .bar4Gate refl (fun _ h => h.via .emit) (fun _ h => h.via .emit) fun _ h =>
        ite (h.via .bump |>.via .emit) (when (h.via .ecc |>.step .idleRead |>.via .emit) fun h => h.via .emit)
  | bar4Write => exact evolves_bar4Write.straps
  | sqTailDoorbell => exact evolves_sqTailDoorbell.straps
  | cqHeadDoorbell => exact evolves_cqHeadDoorbell.straps
  | descriptorFetch => exact evolves_descriptorFetch.straps
  | msixCoalTimeout => exact evolves_msixCoalTimeout.straps
  | nop => exact evolves_nop.straps
  | createSq => exact evolves_createSq.straps
  | createCq => exact evolves_createCq.straps
  | deleteSq => exact evolves_deleteSq.straps
  | deleteCq => exact evolves_deleteCq.straps
  | hello => exact .run (exec_hello _) fun _ => .opCommand refl fun _ _ h => h.step .answerHello
  | query => exact evolves_query.straps
  | counterClear => exact .run (exec_counterClear _) fun _ => .command refl fun _ _ h => h.put |>.step .complete
  | imageLoadBoot =>
    exact .run (exec_imageLoadBoot _ _ _) fun _ => .command refl fun _ _ h => by
        split
        · next hx => exact fetched h hx
        · next hx => exact .judgeImage (fetched h hx) fun _ _ h => h.via .askCommit |>.via .setSt |>.via .setPwr |>.step .coldStages
  | imageLoadUpdate =>
    exact .run (exec_imageLoadUpdate _ _) fun _ => .command refl fun _ _ h => by
        refine ite (h.via .complete) ?_
        split
        · next hx => exact fetched h hx
        · next hx => exact .judgeImage (fetched h hx) fun _ _ h => ite (h.via .complete) (h.via .askCommit |>.step .stageUpdate)
  | imageLoadReload =>
    exact .run (exec_imageLoadReload _ _ _) fun _ => .command refl fun _ _ h => by
        dsimp only
        split
        · next hx => exact fetched h hx
        · next hx => exact .judgeImage (fetched h hx) fun _ _ h => h.step .beginWarm |>.via .setFld |>.step .warmStages
  | updateStaged => exact .run exec_updateStaged fun _ => ite refl (use (refl.via .setFld |>.via .put_mbx) fun h => ite h (h.step .handover))
  | caskRead => exact .run (exec_caskRead _ _ _) fun _ => refl.step .caskRead
  | updateResume => exact .run exec_updateResume fun _ => refl.step .frameOf
  | startWarm => exact .run (exec_startWarm _ _) fun _ => .command refl fun _ _ h => h.step .warmStart
  | startCold => exact .run (exec_startCold _ _) fun _ => .command refl fun _ _ h => h.step .beginCold |>.via .romDone
  | discover =>
    exact .run (exec_discover _) fun _ => .opCommand refl fun _ _ h =>
        ite (h.via .complete) (use (ite (h.via .startSize) (h.via .joinDisc)) fun h => h.step .advance)
  | fpLoad => exact evolves_fpLoad.straps
  | fpDiscard => exact evolves_fpDiscard.straps
  | fpArm => exact evolves_fpArm.straps
  | run => exact .run (exec_run _) fun _ => .opCommand refl fun _ _ h => ite (h.step .runSlot) (h.via .complete)
  | resume => exact .run (exec_resume _) fun _ => .opCommand refl fun _ _ h => ite (h.via .complete) (h.step .resume)
  | startTickReached => exact .run exec_startTickReached fun _ => refl.step .frameOf
  | quiesce => exact .run (exec_quiesce _) fun _ => .opCommand refl fun _ _ h => ite (h.via .complete) h.setFrm
  | stop => exact .run (exec_stop _) fun _ => .opCommand refl fun _ _ h => h.step .stop |>.via .complete
  | permute =>
    exact .run (exec_permute _ _) fun _ => .opCommand refl fun _ _ h =>
        ite (h.via .complete)
          (use (h.via .ecc) fun h =>
            ite (h.via .complete)
              (use (foldl (h.step .idleRead) fun _ _ h => h.step .idleRead) fun h => h.via .setHif |>.via .permStart |>.via .endPermute))
  | dmaH2d => exact evolves_dmaH2d.straps
  | dmaD2h =>
    exact .run (exec_dmaD2h _ _ _) fun _ => .opCommand refl fun _ _ h =>
        use (h.via .ecc |>.step .idleRead |>.via .emit) fun h => ite (h.via .bump |>.via .complete) (h.via .complete)
  | program =>
    exact .run (exec_program _ _ _ _ _ _) fun _ => .opCommand refl fun _ _ h =>
      use
        (foldl
          (use (foldl (h.via .ecc |>.step .idleRead |>.via .stage) fun _ _ h => h.via .programTun) fun h => h.via .complete |>.via .stage)
          fun _ _ h => h.via .kilnUnits |>.via .kilnFinish) fun h =>
      h.via .coldEnd
  | tpackLoad => exact evolves_tpackLoad.straps
  | mbxTx => exact evolves_mbxTx.straps
  | mbxRx => exact evolves_mbxRx.straps
  | mbxLock => exact evolves_mbxLock.straps
  | mbxMsgTimeout => exact evolves_mbxMsgTimeout.straps
  | domainDown => exact evolves_domainDown.straps
  | ping => exact evolves_ping.straps
  | srDoorbell => exact evolves_srDoorbell.straps
  | srEcho => exact evolves_srEcho.straps
  | srVersion => exact evolves_srVersion.straps
  | logLevel => exact evolves_logLevel.straps
  | mgmtSend => exact evolves_mgmtSend.straps
  | caskInfo => exact evolves_caskInfo.straps
  | stickyClear => exact evolves_stickyClear.straps
  | wdogKick => exact evolves_wdogKick.straps
  | wdogExpire => exact .run exec_wdogExpire fun _ => ite (refl.step .wdogExpire |>.step .abortUpdate) refl
  | klnReqInterp => exact evolves_klnReqInterp.straps
  | klnReqMeasured => exact evolves_klnReqMeasured.straps
  | portRetrain => exact .run (exec_portRetrain _) fun _ => refl.via .retrain |>.step .advance
  | portDisable => exact .run (exec_portDisable _) fun _ => refl.via .disablePort |>.step .advance
  | memCfgWrite => exact evolves_memCfgWrite.straps
  | adminRingsEnable => exact evolves_adminRingsEnable.straps
  | adminRingsDisable => exact evolves_adminRingsDisable.straps
  | secLock => exact evolves_secLock.straps
  | gauUrg => exact evolves_gauUrg.straps
  | urgentDone => exact evolves_urgentDone.straps
  | gauPwr => exact evolves_gauPwr.straps
  | gauRefChange => exact evolves_gauRefChange.straps
  | refSettled => exact evolves_refSettled.straps
  | scanPassDue => exact evolves_scanPassDue.straps
  | scanEntryDone => exact evolves_scanEntryDone.straps
  | gauMonSel => exact evolves_gauMonSel.straps
  | gauMonClr => exact evolves_gauMonClr.straps
  | gauMonClrAll => exact evolves_gauMonClrAll.straps
  | gauMonCfg => exact evolves_gauMonCfg.straps
  | registerWrite => exact .run (exec_registerWrite _ _ _) fun _ => refl.step .barWrite
  | powerOn => exact .always (exec_powerOn _) fun _ => refl.step .beginCold |>.via .romDone
  | perst origin mode ok => exact absurd rfl (hc origin mode ok)
  | hotReset => exact .run (exec_hotReset _) fun _ => refl.step .functionReset
  | flr => exact .run (exec_flr _) fun _ => refl.step .functionReset
  | railFault => exact .run (exec_railFault _) fun _ => refl.step .railFault
  | thermalHold => exact .run (exec_thermalHold _) fun _ => refl.step .thermalHold
  | thermalRelease => exact evolves_thermalRelease.straps
  | thermalTrip => exact evolves_thermalTrip.straps
  | pciePowerState => exact evolves_pciePowerState.straps
  | ideIntegrityFail => exact evolves_ideIntegrityFail.straps
  | getVersion => exact evolves_getVersion.straps
  | getCapabilities => exact evolves_getCapabilities.straps
  | negotiateAlgorithms => exact evolves_negotiateAlgorithms.straps
  | getDigests => exact evolves_getDigests.straps
  | getCertificate => exact evolves_getCertificate.straps
  | challenge => exact evolves_challenge.straps
  | getMeasurements => exact evolves_getMeasurements.straps
  | keyExchange => exact evolves_keyExchange.straps
  | finish => exact evolves_finish.straps
  | heartbeat => exact evolves_heartbeat.straps
  | keyUpdate => exact evolves_keyUpdate.straps
  | endSession => exact evolves_endSession.straps
  | ideKmQuery => exact evolves_ideKmQuery.straps
  | keyProg => exact evolves_keyProg.straps
  | kSetGo => exact evolves_kSetGo.straps
  | kSetStop => exact evolves_kSetStop.straps
  | tpRefresh => exact evolves_tpRefresh.straps
  | tpMbxTx => exact evolves_tpMbxTx.straps
  | tpMbxRx => exact evolves_tpMbxRx.straps
  | powerLoss => exact .always exec_powerLoss fun _ => refl.step .coldState |>.via .setFld
  | vddioRestored => exact evolves_vddioRestored.straps
  | pcieLinkTraining => exact evolves_pcieLinkTraining.straps
  | lowerHalfRead => exact .run (exec_lowerHalfRead _ _ _ _) fun _ => ite (refl.via .bar2Read) (refl.step .barRead)
  | spdmUnsupportedRequest => exact evolves_spdmUnsupportedRequest.straps

/-- Settles O41: each command but PERST keeps the straps, function by function. -/
theorem strapsSampledOnlyAtPerst : Obligations.StrapsSampledOnlyAtPerst := fun c s hc => by
  obtain ⟨t, hx, hq, h⟩ := strapsKept_of_ne_perst c hc s
  exact ⟨t, hx, hq, h .origin (by decide), h .tpMode (by decide)⟩

end Sys2Proof.Machine
end

