-- ==== Sys2Proof/Proofs/TicksAndFlywheel.lean ====
section
/-!
PROOF. Slots that do not start (O27), missed ticks (O28) and the flywheel (O29).
-/

set_option Elab.async false

namespace Sys2Proof.Machine

/-! ### Slots that do not start (O27) -/

theorem Dev.slotStart_stopped (d : Dev) (cls idx k : Nat) (h : d.st ≠ DS.running ∨ d.frm.frozen = true) : d.slotStart cls idx k = d := by
  unfold Dev.slotStart
  exact if_pos h

/-- What the memories report changes neither the device's state nor the frame engine. -/
theorem Dev.ecc_st (d : Dev) (x : Ecc) : (d.ecc x).st = d.st := Dev.fld_congr _ _ _ ((Evolves.ecc (d := d) (e := x)).keeps .regs (by decide))
theorem Dev.ecc_frm (d : Dev) (x : Ecc) : (d.ecc x).frm = d.frm := (Evolves.ecc (d := d) (e := x)).keeps .frm (by decide)

/-- Settles O27: with power the first test of a slot's start fails on the device that has heard from its memories. -/
theorem slotsStartOnlyRunning : Obligations.SlotsStartOnlyRunning := by
  intro u i k x s h
  rw [exec_slotStart, execSlotStart]
  cases hp : s.dev.powered with
  | false => rw [State.run_unpowered _ _ hp]; rfl
  | true => rw [State.run_powered _ _ hp, Dev.slotStart_stopped _ _ _ _ (by rwa [Dev.ecc_st, Dev.ecc_frm])]; rfl

/-! ### Missed ticks (O28) -/

/-- MISS_MAX ticks missed by a device that is not held for them yet. -/
theorem Dev.missHold_due (d : Dev) (ho : d.frm.origin = false) (ht : d.ticking = true) (hh : d.flag Reg.FRM_STATUS_HOLD_TICK = false)
    (hm : d.tickCfg.missMax ≤ d.frm.misses) :
    d.missHold = if d.st = DS.running ∨ d.st = DS.loaded then (d.setFld Reg.FRM_STATUS_HOLD_TICK 1).freeze 6
      else (d.setFld Reg.FRM_STATUS_HOLD_TICK 1).setFld Reg.FRM_STATUS_TICK_STATE 0 := by
  have hst : (d.setFld Reg.FRM_STATUS_HOLD_TICK 1).st = d.st := Dev.fld_setFld_other _ _ _ _ (by decide)
  unfold Dev.missHold
  rw [if_neg (by simp [ho, ht, hh, hm])]
  simp only [hst]

/-- A freeze where none is due. -/
theorem Dev.freeze_none (d : Dev) (c : Nat) (h : d.frm.freezeDue = none) : (d.freeze c).frm.freezeDue = some c := by
  unfold Dev.freeze
  rw [h]

theorem Dev.freeze_regs (d : Dev) (c : Nat) : (d.freeze c).regs = d.regs := (Evolves.freeze (d := d) (cause := c)).keeps .regs (by decide)

/-- A write to a field leaves the registers alone at every other key. -/
theorem Dev.get_setFld_other (d : Dev) (f : Field) (v key : Nat) (h : key ≠ f.key) :
    SMap.get fieldReset (d.setFld f v).regs key = SMap.get fieldReset d.regs key := SMap.get_set_other _ _ _ _ _ h

/-- Settles O28: HOLD_TICK is written in both cases; RUNNING and LOADED then freeze, the other states lose the tick. -/
theorem missedTicksHold : Obligations.MissedTicksHold := by
  intro s hp ho ht hh hm
  refine answers_run _ _ _ _ (exec_tickMissHold s) hp ?_
  rw [Dev.missHold_due s.dev.quiet ho ht hh hm]
  have hold : (s.dev.quiet.setFld Reg.FRM_STATUS_HOLD_TICK 1).fld Reg.FRM_STATUS_HOLD_TICK = 1 := Dev.fld_setFld_same _ _ _
  have hkeep : Evolves [.regs, .frm] s.dev (s.dev.quiet.setFld Reg.FRM_STATUS_HOLD_TICK 1) := Evolves.refl.step .quiet |>.step .setFld
  have hother (key : Nat) (hk : key ≠ Reg.FRM_STATUS_HOLD_TICK.key) :
      SMap.get fieldReset (s.dev.quiet.setFld Reg.FRM_STATUS_HOLD_TICK 1).regs key = SMap.get fieldReset s.dev.regs key :=
    Dev.get_setFld_other _ _ _ _ hk
  split
  case isTrue hst =>
    refine ⟨?_, fun _ hn => Dev.freeze_none _ _ hn, fun key hkey => ?_, (hkeep.step .freeze).keeps⟩
    · rw [Dev.flag, Dev.fld_congr _ _ _ (Dev.freeze_regs _ _), hold]; rfl
    · rw [Dev.freeze_regs]
      exact hother key (List.ne_of_not_mem_cons hkey)
  case isFalse hst =>
    refine ⟨?_, fun hs => absurd hs hst, fun key hkey => ?_, (hkeep.step .setFld).keeps⟩
    · rw [Dev.flag, Dev.fld_setFld_other _ _ _ _ (by decide), hold]; rfl
    · exact (Dev.get_setFld_other _ _ _ _ (List.ne_of_not_mem_cons (List.not_mem_of_not_mem_cons hkey))).trans
        (hother key (List.ne_of_not_mem_cons hkey))

/-! ### The flywheel (O29) -/

/-- From `d` ticks that wait for their turn are judged: the frame that is open stays so, and only late ticks are counted. -/
structure Dev.judged (d e : Dev) : Prop where
  stays : ∀ f, d.frm.pending = some f → e.frm.pending = some f
  counts : ∀ c, c ≠ Cnt.FRM_TICK_LATE_CNT → e.count c = d.count c

theorem Dev.judged_refl (d : Dev) : d.judged d := ⟨fun _ h => h, fun _ _ => rfl⟩

theorem Dev.judged_trans (d e f : Dev) (h : d.judged e) (k : e.judged f) : d.judged f :=
  ⟨fun x hx => k.stays x (h.stays x hx), fun c hc => (k.counts c hc).trans (h.counts c hc)⟩

/-- A frame opened behind an open one waits in the queue. -/
theorem Dev.openFrame_judged (d : Dev) (f : PendingFrame) : d.judged (d.openFrame f) :=
  ⟨fun x hx => by simp [Dev.openFrame, hx], fun _ _ => rfl⟩

/-- The device with `f` as its open frame. -/
def Dev.withOpen (d : Dev) (f : PendingFrame) : Dev := d.setFrm fun x => { x with pending := some f }

theorem Dev.openFrame_first (d : Dev) (f : PendingFrame) (h : d.frm.pending = none) : d.openFrame f = d.withOpen f := by
  simp [Dev.openFrame, Dev.withOpen, Dev.setFrm, h]

theorem Dev.acceptTick_judged (d : Dev) (f : PendingFrame) : d.judged (d.acceptTick f) := by
  have hlate : d.judged (if f.late then (d.setFrm fun x => { x with backup := none }).bump Cnt.FRM_TICK_LATE_CNT
      else d.setFrm fun x => { x with backup := none }) := by
    split
    · exact ⟨fun _ h => h, fun c hc => Dev.count_bump_other _ _ _ hc⟩
    · exact ⟨fun _ h => h, fun _ _ => rfl⟩
  exact Dev.judged_trans _ _ _ hlate (Dev.openFrame_judged _ _)

theorem Dev.judgeWindow_judged (d : Dev) (f : PendingFrame) : d.judged (d.judgeWindow f) := by
  unfold Dev.judgeWindow
  have hsame (g : Frm → Frm) (h : ∀ x, (g x).pending = x.pending) : d.judged (d.setFrm g) := ⟨fun x hx => (h _).trans hx, fun _ _ => rfl⟩
  dsimp only
  split_ifs
  · exact d.judged_refl
  · exact hsame _ fun _ => rfl
  · exact d.acceptTick_judged f
  · exact hsame _ fun _ => rfl
  · exact d.judged_refl

theorem Dev.judged_foldl {α : Type} (g : Dev → α → Dev) (h : ∀ (d : Dev) x, d.judged (g d x)) (xs : List α) (d : Dev) :
    d.judged (xs.foldl g d) :=
  List.foldlRecOn xs g d.judged_refl fun e he x _ => Dev.judged_trans _ _ _ he (h e x)

theorem Dev.judgeRound_judged (d : Dev) : d.judged d.judgeRound :=
  Dev.judged_trans _ (d.setFrm fun x => { x with early := [] }) _ ⟨fun _ h => h, fun _ _ => rfl⟩ (Dev.judged_foldl _ Dev.judgeWindow_judged _ _)

theorem Dev.judgeLater_judged (d : Dev) : d.judged d.judgeLater := Dev.judged_foldl _ (fun e _ => e.judgeRound_judged) _ _

/-- Without a tick that waits there is nothing to judge. -/
theorem Dev.judgeLater_nil (d : Dev) (h : d.frm.early = []) : d.judgeLater = d := by simp [Dev.judgeLater, h]

/-- The frame that opens without a tick. -/
def Dev.flywheelFrame (d : Dev) : PendingFrame := ⟨(d.lastOpened.1 + 1) % 2 ^ 48, d.prediction, 3, false⟩

theorem Dev.flywheel_opens (d : Dev) (ho : d.frm.origin = false) (ht : d.ticking = true) (ha : d.frm.acquired = true) (hp : d.frm.pending = none)
    (hb : d.frm.backup = none) : d.flywheel = ((d.bump Cnt.FRM_TICK_MISS_CNT).withOpen d.flywheelFrame).judgeLater := by
  unfold Dev.flywheel
  rw [if_neg (by simp [ho, ht, ha, hp]), hb]
  exact congrArg Dev.judgeLater (Dev.openFrame_first _ _ hp)

/-- Settles O29: the opened frame and its count stand before the waiting ticks are judged, and the judgement leaves them. -/
theorem flywheelOpensFrame : Obligations.FlywheelOpensFrame := by
  intro s hp ho ht ha hn hb
  refine answers_run _ _ _ _ (exec_flywheelStart s) hp ?_
  have hall : s.dev.keepsBut [.cnt, .frm] s.dev.quiet.flywheel := (Evolves.refl.step .quiet |>.step .flywheel).keeps
  rw [Dev.flywheel_opens s.dev.quiet ho ht ha hn hb] at hall ⊢
  obtain ⟨hopen, hcount⟩ := ((s.dev.quiet.bump Cnt.FRM_TICK_MISS_CNT).withOpen s.dev.quiet.flywheelFrame).judgeLater_judged
  have hcnt (c : Nat) (hc : c ≠ Cnt.FRM_TICK_MISS_CNT) : (s.dev.bump Cnt.FRM_TICK_MISS_CNT).count c = s.dev.count c :=
    Dev.count_bump_other _ _ _ hc
  refine ⟨hopen _ rfl, (hcount _ (by decide)).trans (Dev.count_bump_same _ _), fun c hc => ?_, hall, fun he => ?_⟩
  · simp only [List.mem_cons, List.not_mem_nil, or_false, not_or] at hc
    exact (hcount c hc.2).trans (hcnt c hc.1)
  · rw [Dev.judgeLater_nil ((s.dev.quiet.bump Cnt.FRM_TICK_MISS_CNT).withOpen s.dev.quiet.flywheelFrame) he]
    refine ⟨fun c hc => hcnt c (by simpa using hc), ?_⟩
    show ({ s.dev.frm with pending := none } : Frm) = s.dev.frm
    rw [← hn]

end Sys2Proof.Machine
end

