-- ==== Sys2Proof/Proofs/PowerStarts.lean ====
section
/-!
PROOF. Where POWER_ON, PERST and POWER_LOSS leave the device (O39).
-/

set_option Elab.async false

namespace Sys2Proof.Machine

/-- A change of the state leaves it there, traced or not. -/
theorem Dev.st_setSt (d : Dev) (v : Nat) (hv : v < 16) : (d.setSt v).st = v := by
  unfold Dev.setSt
  split
  · assumption
  · rw [show ((d.setFld Reg.HIF_STATE_STATE v).trace 131 0 d.st v).st = (d.setFld Reg.HIF_STATE_STATE v).st from Keeps.trace .st (by decide)]
    exact (Dev.fld_setFld_same _ _ _).trans (Nat.mod_eq_of_lt hv)

/-- R442: the ROM's checks end in AWAIT_IMAGE or in FAULT. -/
def romState (ok : Bool) : Nat := if ok then DS.awaitImage else DS.fault

theorem romState_pos (ok : Bool) : romState ok ≠ 0 := by cases ok <;> decide

theorem Dev.romDone_st (d : Dev) (ok : Bool) (starter : Option Cmd) : (d.romDone ok starter).st = romState ok := by
  unfold Dev.romDone
  have hset : (if ok then d.setSt DS.awaitImage else (d.noteFailed 0 1).setSt DS.fault).st = romState ok := by
    cases ok
    · exact Dev.st_setSt _ _ (by decide)
    · exact Dev.st_setSt _ _ (by decide)
  refine (Keeps.abortCmds .st (by decide)).trans ?_
  split
  · exact (Keeps.complete .st (by decide)).trans hset
  · exact hset

theorem Dev.powered_eq (d : Dev) : d.powered = (d.st != 0 && !d.pwr.tripped) := rfl

/-- A device that has ended its ROM stage has power, unless it has tripped. -/
theorem Dev.romDone_powered (d : Dev) (ok : Bool) (h : d.pwr.tripped = false) : (d.romDone ok none).powered = true := by
  have hpwr : (d.romDone ok none).pwr = d.pwr := Evolves.romDone.keeps .pwr (by decide)
  simp [Dev.powered_eq, Dev.romDone_st, romState_pos, hpwr, h]

/-- What a cold start does after the state has been reset. -/
theorem Evolves.beginCold_rest {d : Dev} {cause pcie power} :
    Evolves [.regs, .cnt, .gau] ((d.setSt DS.rom).coldState pcie power) (d.beginCold cause pcie power) := by
  unfold Dev.beginCold
  exact refl.step .setFld |>.step .noteCause |>.step .setFld |>.step .startSettling |>.step .startSettling |>.step .bump

theorem Dev.beginCold_tripped (d : Dev) (cause : Nat) (pcie power : Bool) : (d.beginCold cause pcie power).pwr.tripped = false := by
  rw [show (d.beginCold cause pcie power).pwr = ((d.setSt DS.rom).coldState pcie power).pwr from Evolves.beginCold_rest.keeps .pwr (by decide)]
  rfl

/-! ### A start with new power -/

/-- With no conversion in progress, a reference that settles is a write of its field. -/
theorem Dev.startSettling_idle (d : Dev) (g : Nat) (h : d.gau.conv = []) :
    d.startSettling g = d.setFld (Reg.GAU_STATUS_REF_SETTLING g) 1 := by
  have hc : (d.setFld (Reg.GAU_STATUS_REF_SETTLING g) 1).conv g = none := by
    unfold Dev.conv
    rw [Dev.setFld_gau, h]
    rfl
  unfold Dev.startSettling
  dsimp only
  rw [hc]

/-- New power leaves no register, no byte, no count and no command. -/
theorem Dev.coldState_new (d : Dev) : (d.coldState false true).regs = [] ∧ (d.coldState false true).mem = [] ∧
    (d.coldState false true).cnt = [] ∧ (d.coldState false true).hif = Dev.reset.hif :=
  ⟨List.filter_eq_nil_iff.mpr (by simp), rfl, rfl, rfl⟩

/-- A cold start, field by field: nothing converts yet, so that both references settle by a write. -/
theorem Dev.beginCold_eq (d : Dev) (cause : Nat) (pcie power : Bool) :
    ∃ hot, d.beginCold cause pcie power = ((((((((d.setSt DS.rom).coldState pcie power).setFld Reg.HIF_STATE_STATE DS.rom).noteCause cause).setFld
      Reg.PWR_STATUS_HOT hot).setFld (Reg.GAU_STATUS_REF_SETTLING 0) 1).setFld (Reg.GAU_STATUS_REF_SETTLING 1) 1).bump Cnt.PWR_START_COLD_CNT) := by
  unfold Dev.beginCold
  exact ⟨_, by dsimp only; rw [Dev.startSettling_idle _ 0 rfl, Dev.startSettling_idle _ 1 rfl]⟩

/-- The mask bits of the trace points of the state and of the commands. -/
def traceMask2 : Field := Reg.MBX_TRACE_MASK_EN 2

theorem Dev.beginCold_new (d : Dev) (cause : Nat) :
    (d.beginCold cause false true).fld traceMask2 = 0 ∧ (d.beginCold cause false true).mem = [] ∧
      (d.beginCold cause false true).count Cnt.PWR_START_COLD_CNT = 1 ∧ (d.beginCold cause false true).hif.prog = [] := by
  obtain ⟨hregs, hmem, hcnt, hhif⟩ := (d.setSt DS.rom).coldState_new
  obtain ⟨hot, hb⟩ := d.beginCold_eq cause false true
  refine ⟨?_, (Evolves.beginCold_rest.keeps .mem (by decide)).trans hmem, ?_,
    congrArg Hif.prog ((Evolves.beginCold_rest.keeps .hif (by decide)).trans hhif)⟩
  · rw [hb, Dev.bump_fld, Dev.fld_setFld_other _ _ _ _ (by decide), Dev.fld_setFld_other _ _ _ _ (by decide),
      Dev.fld_setFld_other _ _ _ _ (by decide), Dev.noteCause, Dev.fld_setFld_other _ _ _ _ (by decide),
      Dev.fld_setFld_other _ _ _ _ (by decide), Dev.fld_setFld_other _ _ _ _ (by decide), Dev.fld, hregs]
    decide
  · rw [hb, Dev.count_bump_same]
    simp only [Dev.setFld_count, Dev.noteCause]
    rw [Dev.count, hcnt]
    decide

/-- Untraced, a change of the state is a write of its field. -/
theorem Dev.setSt_untraced (d : Dev) (v : Nat) (h : d.fld traceMask2 = 0) : d.setSt v = d ∨ d.setSt v = d.setFld Reg.HIF_STATE_STATE v := by
  unfold Dev.setSt
  split
  · exact .inl rfl
  · refine .inr ?_
    unfold Dev.trace
    exact if_neg (by rw [show Reg.MBX_TRACE_MASK_EN (131 / 64) = traceMask2 from rfl, Dev.fld_setFld_other _ _ _ _ (by decide), h]; decide)

theorem Dev.abortCmds_nil (d : Dev) (q : Cmd → Bool) (h : d.hif.prog = []) : d.abortCmds q = d := by simp [Dev.abortCmds, h]

/-- Untraced and with no command in progress, the end of the ROM stage changes registers alone. -/
theorem Dev.romDone_quiet (d : Dev) (ok : Bool) (hm : d.fld traceMask2 = 0) (hp : d.hif.prog = []) : d.keepsBut [.regs] (d.romDone ok none) := by
  have hset (e : Dev) (v : Nat) (he : e.fld traceMask2 = 0) : Evolves [.regs] e (e.setSt v) := by
    rcases e.setSt_untraced v he with h | h <;> rw [h]
    · exact .refl
    · exact .setFld
  have hfail : (d.noteFailed 0 1).fld traceMask2 = 0 := by
    unfold Dev.noteFailed
    rw [Dev.fld_setFld_other _ _ _ _ (by decide), Dev.fld_setFld_other _ _ _ _ (by decide), hm]
  have hrom : Evolves [.regs] d (if ok then d.setSt DS.awaitImage else (d.noteFailed 0 1).setSt DS.fault) :=
    .ite (hset _ _ hm) (Evolves.refl.step .noteFailed |>.step (hset _ _ hfail))
  unfold Dev.romDone
  dsimp only
  rw [Dev.abortCmds_nil _ _ ((congrArg Hif.prog (hrom.keeps .hif (by decide))).trans hp)]
  exact hrom.keeps

/-- PERST in the ROM stage, with the straps sampled. -/
def Dev.sampled (d : Dev) (origin mode : Bool) : Dev :=
  { (d.beginCold Cause.perst false false).setFrm fun f => { f with origin := origin } with tpMode := mode }

theorem exec_perst_on (origin mode ok : Bool) (s : State) (h : s.dev.st ≠ DS.off) :
    exec (.perst origin mode ok) s = .next ⟨(s.dev.quiet.sampled origin mode).romDone ok none, s.pending⟩ := by
  rw [exec_perst, execPerst, State.always_eq, Dev.quiet_st, if_neg h]
  rfl

theorem exec_perst_off (origin mode ok : Bool) (s : State) (h : s.dev.st = DS.off) :
    exec (.perst origin mode ok) s = .next ⟨s.dev.quiet, s.pending⟩ := by
  rw [exec_perst, execPerst, State.always_eq, Dev.quiet_st, if_pos h]

/-- Settles O39: the ROM stage ends in its state whatever came before it; what new power clears, the rest of the start leaves alone. -/
theorem powerStarts : Obligations.PowerStarts := by
  refine ⟨fun ok s => ?_, fun origin mode ok s hs => ?_, exec_perst_off, fun s => ?_⟩
  · obtain ⟨hmask, hmem, hcold, hprog⟩ := s.dev.quiet.beginCold_new Cause.powerOn
    have hrest := Dev.romDone_quiet _ ok hmask hprog
    exact ⟨_, (exec_powerOn ok s).trans (State.always_eq _ _), rfl, Dev.romDone_st _ _ _, (hrest .mem (by decide)).trans hmem,
      (Dev.count_congr _ _ _ (hrest .cnt (by decide))).trans hcold, Dev.romDone_powered _ _ (Dev.beginCold_tripped _ _ _ _)⟩
  · have hrest : Evolves [.regs, .cnt, .mem, .poison, .draws, .hif, .mbx] (s.dev.quiet.sampled origin mode) _ :=
      .romDone (ok := ok) (starter := none)
    exact ⟨_, exec_perst_on origin mode ok s hs, rfl, Dev.romDone_st _ _ _, congrArg Frm.origin (hrest.keeps .frm (by decide)),
      hrest.keeps .tpMode (by decide), Dev.romDone_powered _ _ (s.dev.quiet.beginCold_tripped Cause.perst false false)⟩
  · obtain ⟨-, hmem, hcnt, -⟩ := s.dev.quiet.coldState_new
    have hst : ((s.dev.quiet.coldState false true).setFld Reg.HIF_STATE_STATE DS.off).st = DS.off := Dev.fld_setFld_same _ _ _
    exact ⟨_, (exec_powerLoss s).trans (State.always_eq _ _), rfl, hst, by rw [Dev.powered_eq, hst]; rfl, hmem,
      fun c => by rw [Dev.setFld_count, Dev.count, hcnt]; rfl⟩

end Sys2Proof.Machine
end

