-- ==== Sys2Proof/Proofs/OriginTicks.lean ====
section
/-!
PROOF. The origin's ticks (O45).
-/

set_option Elab.async false

namespace Sys2Proof.Machine

/-! ### What sending a tick leaves alone -/

namespace Keeps

variable {d e : Dev}

/-- Counting an event of another block than the frame engine's. -/
theorem count {l : List Aspect} {c n : Nat} (h : Keeps l d e) (hc : Cnt.FRM_TICK_MISS_CNT < c) : Keeps l d (e.bumpBy c n) := by
  refine h.put fun a _ => ?_
  cases a
  case tickMisses => exact SMap.get_set_other _ _ _ _ _ hc.ne
  case slots => exact fun _ => rfl
  all_goals rfl

theorem drain {p} : Keeps [.tickMisses] d (d.drain p) := by
  unfold Dev.drain
  split
  · exact refl
  · exact use (foldl (refl.via .setLink |>.count (Nat.lt_add_right _ (by decide))) fun _ _ h => h.via .dataOut) fun h =>
      h.count (Nat.lt_add_right _ (by decide))

theorem txRaw {p mt bytes} : Keeps [.tickMisses] d (d.txRaw p mt bytes) := by
  unfold Dev.txRaw
  split
  · exact refl.count (by decide)
  · exact refl.via .setLink |>.via .put_fab |>.via .emit |>.step .drain

theorem txLocal {p mt body} : Keeps [.tickMisses] d (d.txLocal p mt body) := by
  unfold Dev.txLocal Dev.tx
  exact ite (refl.step .txRaw) (refl.count (by decide))

theorem floodTick {num test acc skip} : Keeps [.tickMisses] d (d.floodTick num test acc skip) := by
  unfold Dev.floodTick
  exact foldl refl fun _ _ h => ite (h.step .txLocal) h

end Keeps

theorem Dev.floodTick_frm (d : Dev) (num : Nat) (test : Bool) (acc : Nat) (skip : Option Nat) : (d.floodTick num test acc skip).frm = d.frm :=
  Evolves.floodTick.keeps .frm (by decide)

theorem Dev.floodTick_fld (d : Dev) (num : Nat) (test : Bool) (acc : Nat) (skip : Option Nat) (f : Field) :
    (d.floodTick num test acc skip).fld f = d.fld f :=
  Dev.fld_congr _ _ _ (Evolves.floodTick.keeps .regs (by decide))

/-! ### An emission -/

/-- The device once its tick is on the wire. -/
def Dev.tickSent (d : Dev) (wait : Nat) : Dev :=
  (((d.floodTick d.frm.nextTick false wait none).emit .tickOut).setFld Reg.FRM_STATUS_TICK_STATE 1).setFld Reg.FRM_STATUS_TICK_SRC 1

theorem Dev.tickSent_frm (d : Dev) (wait : Nat) : (d.tickSent wait).frm = d.frm := by
  rw [Dev.tickSent, Dev.setFld_frm, Dev.setFld_frm, Dev.emit_frm, Dev.floodTick_frm]

theorem Dev.tickSent_period (d : Dev) (wait : Nat) : (d.tickSent wait).period = d.period := by
  unfold Dev.period Dev.tickSent
  rw [Dev.fld_setFld_other _ _ _ _ (by decide), Dev.fld_setFld_other _ _ _ _ (by decide), Dev.emit_fld, Dev.floodTick_fld]

theorem Dev.tickSent_out (d : Dev) (wait : Nat) : Out.tickOut ∈ (d.tickSent wait).out := by
  simp [Dev.tickSent]

theorem Dev.tickSent_status (d : Dev) (wait : Nat) :
    (d.tickSent wait).fld Reg.FRM_STATUS_TICK_STATE = 1 ∧ (d.tickSent wait).fld Reg.FRM_STATUS_TICK_SRC = 1 :=
  ⟨(Dev.fld_setFld_other _ _ _ _ (by decide)).trans (Dev.fld_setFld_same _ _ _), Dev.fld_setFld_same _ _ _⟩

theorem Dev.tickSent_misses (d : Dev) (wait : Nat) : (d.tickSent wait).count Cnt.FRM_TICK_MISS_CNT = d.count Cnt.FRM_TICK_MISS_CNT := by
  rw [Dev.tickSent, Dev.setFld_count, Dev.setFld_count, Dev.emit_count]
  exact Keeps.floodTick .tickMisses (by decide)

/-- An emission of an origin that has acquired its ticks and has no frame open. -/
theorem Dev.emitTick_acquired (d : Dev) (stamp wait : Nat) (ha : d.frm.acquired = true) (hp : d.frm.pending = none) :
    d.emitTick stamp wait = ((d.tickSent wait).setFrm fun f =>
      { f with cfg := d.tickCfg, acquired := true, emitting := true, nextTick := (d.frm.nextTick + 1) % 2 ^ 48, lastEmit := stamp
               nextEmit := stamp + (d.tickSent wait).period }).withOpen ⟨d.frm.nextTick, stamp + d.tickCfg.leadTime, 1, false⟩ := by
  unfold Dev.emitTick
  dsimp only
  rw [if_pos ha, ← Dev.tickSent]
  have hfrm := d.tickSent_frm wait
  generalize d.tickSent wait = e at hfrm ⊢
  exact Dev.openFrame_first _ _ ((congrArg Frm.pending hfrm).trans hp)

/-- What the origin has done with its tick of the time `stamp`. -/
structure Dev.emitted (d : Dev) (stamp : Nat) (e : Dev) : Prop where
  out : Out.tickOut ∈ e.out
  opens : e.frm.pending = some ⟨d.frm.nextTick, stamp + d.tickCfg.leadTime, 1, false⟩
  next : e.frm.nextTick = (d.frm.nextTick + 1) % 2 ^ 48
  last : e.frm.lastEmit = stamp
  due : e.frm.nextEmit = stamp + d.period
  state : e.fld Reg.FRM_STATUS_TICK_STATE = 1
  src : e.fld Reg.FRM_STATUS_TICK_SRC = 1

theorem Dev.emitTick_emitted (d : Dev) (stamp wait : Nat) (ha : d.frm.acquired = true) (hp : d.frm.pending = none) :
    d.emitted stamp (d.emitTick stamp wait) := by
  obtain ⟨hstate, hsrc⟩ := d.tickSent_status wait
  have hout := d.tickSent_out wait
  have hper := d.tickSent_period wait
  rw [Dev.emitTick_acquired d stamp wait ha hp]
  generalize d.tickSent wait = e at hstate hsrc hout hper ⊢
  exact ⟨hout, rfl, rfl, rfl, congrArg (stamp + ·) hper, hstate, hsrc⟩

theorem Dev.emitTick_misses (d : Dev) (stamp wait : Nat) (ha : d.frm.acquired = true) (hp : d.frm.pending = none) :
    (d.emitTick stamp wait).count Cnt.FRM_TICK_MISS_CNT = d.count Cnt.FRM_TICK_MISS_CNT := by
  have hmiss := d.tickSent_misses wait
  rw [Dev.emitTick_acquired d stamp wait ha hp]
  generalize d.tickSent wait = e at hmiss ⊢
  exact hmiss

/-! ### The three sources -/

section

variable {d : Dev} {now : Nat} (ho : d.frm.origin = true) (ht : d.ticking = true) (he : d.frm.emitting = true)
include ho ht

theorem Dev.emits_of_src {ext : Bool} (hx : d.tickCfg.extSrc = ext) : d.emits ext = true := by simp [Dev.emits, ho, ht, hx]

include he

theorem Dev.timerTick_due (hx : d.tickCfg.extSrc = false) (hn : d.frm.nextEmit ≤ now) :
    d.timerTick now = d.emitTick d.frm.nextEmit (now - d.frm.nextEmit) := by
  simp [Dev.timerTick, Dev.emits_of_src ho ht hx, he, Nat.not_lt.mpr hn]

theorem Dev.timerTick_early (hx : d.tickCfg.extSrc = false) (hn : now < d.frm.nextEmit) : d.timerTick now = d := by
  simp [Dev.timerTick, Dev.emits_of_src ho ht hx, he, hn]

theorem Dev.tickEdge_within (hx : d.tickCfg.extSrc = true) (h₁ : d.frm.nextEmit ≤ now + d.tickCfg.window)
    (h₂ : now ≤ d.frm.nextEmit + d.tickCfg.window) : d.tickEdge now = d.emitTick now 0 := by
  simp [Dev.tickEdge, Dev.emits_of_src ho ht hx, he, h₁, h₂]

theorem Dev.windowEnd_passed (hx : d.tickCfg.extSrc = true) (hn : d.frm.nextEmit + d.tickCfg.window ≤ now) :
    d.windowEnd now = (d.bump Cnt.FRM_TICK_MISS_CNT).emitTick d.frm.nextEmit (now - d.frm.nextEmit) := by
  simp [Dev.windowEnd, Dev.emits_of_src ho ht hx, he, Nat.not_lt.mpr hn]

end

/-- Settles O45: each source comes to one emission, and the emission to what the statement lists. -/
theorem originEmitsTicks : Obligations.OriginEmitsTicks := by
  intro now s hp ho ht ha he hn _
  have hsent (stamp wait : Nat) := s.dev.quiet.emitTick_emitted stamp wait ha hn
  refine ⟨fun hx hdue => answers_run _ _ _ _ (exec_tickEmit now s) hp ?_, fun hx hdue => ?_,
    fun hx h₁ h₂ => answers_run _ _ _ _ (exec_tickInEdge now s) hp ?_, fun hx hdue => answers_run _ _ _ _ (exec_tickWindowEnd now s) hp ?_⟩
  · rw [Dev.timerTick_due (d := s.dev.quiet) ho ht he hx hdue]
    obtain ⟨hout, hopen, hnext, hlast, htime, hst, hsrc⟩ := hsent s.dev.quiet.frm.nextEmit (now - s.dev.quiet.frm.nextEmit)
    exact ⟨hout, hopen, hnext, hlast, htime, hst, hsrc⟩
  · rw [exec_tickEmit, execTickEmit, State.run_powered _ _ hp, Dev.timerTick_early (d := s.dev.quiet) ho ht he hx hdue]
  · rw [Dev.tickEdge_within (d := s.dev.quiet) ho ht he hx h₁ h₂]
    obtain ⟨hout, hopen, hnext, hlast, htime, hst, hsrc⟩ := hsent now 0
    exact ⟨hout, hopen, hnext, hlast, htime, hst, hsrc⟩
  · rw [Dev.windowEnd_passed (d := s.dev.quiet) ho ht he hx hdue]
    obtain ⟨hout, hopen, hnext, hlast, htime, hst, hsrc⟩ :=
      (s.dev.quiet.bump Cnt.FRM_TICK_MISS_CNT).emitTick_emitted s.dev.quiet.frm.nextEmit (now - s.dev.quiet.frm.nextEmit) ha hn
    have hmiss := (Dev.emitTick_misses (s.dev.quiet.bump Cnt.FRM_TICK_MISS_CNT) s.dev.quiet.frm.nextEmit (now - s.dev.quiet.frm.nextEmit) ha hn).trans
      (Dev.count_bump_same s.dev.quiet _)
    exact ⟨⟨hout, hopen, hnext, hlast, htime, hst, hsrc⟩, hmiss⟩

end Sys2Proof.Machine
end

