-- ==== Sys2Proof/Proofs/SlotsRun.lean ====
section
/-!
PROOF. The start of a slot, the completion of its task and its end (O47).
-/

set_option Elab.async false

namespace Sys2Proof.Machine

/-! ### The start of a slot (R46) -/

/-- From `d` the unit at `key` runs slot `s`, and the frame's list of begun slots is as it was. -/
structure Dev.starts (d : Dev) (key : Nat) (s : Slot) (e : Dev) : Prop where
  slot : (e.running? key).map (·.slot) = some s
  begun : e.frm.begun = d.frm.begun

namespace Dev.starts

variable {d e f : Dev} {key : Nat} {s : Slot}

/-- A running record of the slot is set. -/
theorem set {r : Running} (h : r.slot = s := by rfl) : d.starts key s (d.setRunning key (some r)) :=
  ⟨by rw [Dev.running_set_same]; exact congrArg some h, rfl⟩

/-- A step before it. -/
theorem after (k : Keeps [.begun] d e) (h : e.starts key s f) : d.starts key s f := ⟨h.slot, h.begun.trans (k .begun (by decide))⟩

/-- A step after it. -/
theorem keep {l : List Aspect} (h : d.starts key s e) (k : Keeps l e f) (hl : ∀ a ∈ [Aspect.begun, .slots], a ∈ l := by decide) :
    d.starts key s f :=
  ⟨(k .slots (hl _ (by decide)) key).trans h.slot, (k .begun (hl _ (by decide))).trans h.begun⟩

/-- A step after it that changes neither the frame engine nor the slots in progress. -/
theorem via {p : List Part} (h : d.starts key s e) (k : Evolves p e f) (hp : ∀ a ∈ [Aspect.begun, .slots], a.part ∉ p := by decide) :
    d.starts key s f :=
  h.keep (Keeps.refl.via k hp)

theorem ite {c : Prop} [Decidable c] (h : d.starts key s e) (k : d.starts key s f) : d.starts key s (if c then e else f) :=
  iteInduction (fun _ => h) fun _ => k

theorem failSlot {r : Running} {c : Nat} (h : r.slot = s := by rfl) : d.starts key s (d.failSlot key r c) := by
  unfold Dev.failSlot
  exact via (set (by exact h)) .bump

theorem beginTask {cls idx count} {r : Running} (h : r.slot = s := by rfl) : d.starts key s (d.beginTask cls idx key count r) := by
  unfold Dev.beginTask
  exact keep (set (by exact h)) .consume |>.keep .poundCheck

theorem startBasin {b} : d.starts key s (d.startBasin b key s) := by
  unfold Dev.startBasin
  exact ite set (ite beginTask failSlot)

/-- An MXC task begins, whatever its count. -/
theorem beginMxc {c count} {n : Nat × Dev} {r : Running} (hn : Keeps [.begun] d n.2) (h : r.slot = s := by rfl) :
    d.starts key s (n.2.beginTask 2 c key count { r with total := n.1 }) :=
  after hn (beginTask (by exact h))

theorem startMxc {c task digital} : d.starts key s (d.startMxc c key s task digital) := by
  unfold Dev.startMxc
  dsimp only
  have hcount (b : List Byte) (op : Nat) (addr : Nat) :
      Keeps [.begun] d (if op = 0x61 then d.fitCount ((parseKer b).par 4) s else (d.countWord s addr (d.mxcItems b s.items), d)).2 :=
    .iteSnd (Keeps.refl.via .fitCount) .refl
  refine ite (via set .bump) (ite (via failSlot .mxcError) (ite ((beginMxc (hcount _ _ _)).via .startProg) ?_))
  split
  · exact ite ((beginMxc (hcount _ _ _)).via .startProg) (beginMxc (hcount _ _ _))
  · exact beginMxc (hcount _ _ _)

theorem startFallback {c} : d.starts key s (d.startFallback c key s) := by
  unfold Dev.startFallback
  split
  · exact startMxc
  · exact set

theorem startRed : d.starts key s (d.startRed key s) := by
  unfold Dev.startRed
  exact after (Keeps.refl.via .setRed) (ite failSlot beginTask)

theorem startSend {p} : d.starts key s (d.startSend p key s) := by
  unfold Dev.startSend
  exact ite failSlot (after (Keeps.refl.via .setSend) beginTask)

theorem startHost : d.starts key s (d.startHost key s) := by
  unfold Dev.startHost
  exact ite failSlot beginTask

theorem startRack {b} : d.starts key s (d.startRack b key s) := by
  unfold Dev.startRack
  exact keep (l := [.begun, .slots]) set (.foldl .refl fun _ _ h => h.via .installQueue)

theorem startKiln {b} : d.starts key s (d.startKiln b key s) := by
  unfold Dev.startKiln
  exact ite (via set .startRun |>.via .bump) (ite (via set .startRun |>.keep .onRunning |>.via .kilnOverlaps) (via set .startRun))

theorem openSlot {cls idx} : d.starts (unitKey cls idx (if cls = 1 then s.sub else 0)) s (d.openSlot cls idx s) := by
  unfold Dev.openSlot
  dsimp only
  generalize unitKey cls idx (if cls = 1 then s.sub else 0) = key
  split
  · exact startRack
  · exact startKiln
  · exact set
  · exact startFallback
  · split
    · exact startBasin
    · exact startMxc
    · exact set
    · exact startRed
    · exact startSend
    · exact startHost

end Dev.starts

/-! ### What a slot's start is judged by -/

theorem Dev.slots_congr {d e : Dev} (hr : e.regs = d.regs) (hv : e.variants = d.variants) (cls idx : Nat) : e.slots cls idx = d.slots cls idx := by
  simp only [Dev.slots, Dev.template, Dev.program, Dev.variant, Dev.active, Dev.fld, hr, hv]

theorem Dev.slotBusy_congr {d e : Dev} (h : e.run = d.run) (cls idx : Nat) (s : Slot) : e.slotBusy cls idx s = d.slotBusy cls idx s := by
  simp only [Dev.slotBusy, Dev.running?, h]

theorem Dev.inOrder_congr {d e : Dev} (hr : e.regs = d.regs) (hv : e.variants = d.variants) (hf : e.frm = d.frm) (cls idx k : Nat) (s : Slot) :
    e.inOrder cls idx k s = d.inOrder cls idx k s := by
  simp only [Dev.inOrder, Dev.begun, Dev.slots_congr hr hv, hf]

/-- A slot that may begin does so. -/
theorem Dev.slotStart_opens (d : Dev) (cls idx k : Nat) (s : Slot) (hs : d.st = DS.running) (hf : d.frm.frozen = false)
    (hk : (d.slots cls idx)[k]? = some s) (hb : d.slotBusy cls idx s = false) (ho : d.inOrder cls idx k s = true) :
    d.slotStart cls idx k =
      ((d.setFrm fun f => { f with begun := (cls * 256 + idx, k) :: f.begun }).readProgram (d.slotReads cls idx k s)).openSlot cls idx s := by
  unfold Dev.slotStart
  rw [if_neg (by simp [hs, hf]), hk]
  simp [hb, ho]

theorem classCode_eq_one (u : UClass) : classCode u = 1 ↔ u = .basin := by cases u <;> decide

/-- The slot stands as begun, and its unit runs it. -/
theorem Dev.slotStart_begins (d : Dev) (u : UClass) (idx k : Nat) (s : Slot) (hs : d.st = DS.running) (hf : d.frm.frozen = false)
    (hk : (d.slots (classCode u) idx)[k]? = some s) (hb : d.slotBusy (classCode u) idx s = false) (ho : d.inOrder (classCode u) idx k s = true) :
    (∃ r, (d.slotStart (classCode u) idx k).running? (unitKey (classCode u) idx (if u = .basin then s.sub else 0)) = some r ∧ r.slot = s) ∧
      (classCode u * 256 + idx, k) ∈ (d.slotStart (classCode u) idx k).frm.begun := by
  rw [Dev.slotStart_opens d _ _ _ _ hs hf hk hb ho]
  have hread : Keeps calm (d.setFrm fun f => { f with begun := (classCode u * 256 + idx, k) :: f.begun }) _ :=
    .readProgram (parts := d.slotReads (classCode u) idx k s)
  obtain ⟨hslot, hbegun⟩ := Dev.starts.after (Keeps.refl.step hread) (Dev.starts.openSlot (s := s) (cls := classCode u) (idx := idx))
  simp only [classCode_eq_one] at hslot
  refine ⟨Option.map_eq_some_iff.mp hslot, ?_⟩
  rw [hbegun]
  exact List.mem_cons_self

/-! ### The completion of a task and the end of a slot (R48, R50) -/

theorem Dev.running_congr {d e : Dev} (h : e.run = d.run) (k : Nat) : e.running? k = d.running? k := by unfold Dev.running?; rw [h]

/-- A task that is done inside its slot completes. -/
theorem Dev.taskComplete_ends (d : Dev) (cls idx sub q : Nat) (r : Running) (hr : d.running? (unitKey cls idx sub) = some r) (hc : r.complete = false)
    (he : r.eligible cls = true) (hd : d.taskDone cls idx r = true) (h₁ : r.slot.start ≤ q) (h₂ : q ≤ r.slot.stop) :
    d.taskComplete cls idx sub q = d.taskEnds cls idx (unitKey cls idx sub) q r := by
  unfold Dev.taskComplete
  dsimp only
  rw [hr]
  simp [hc, he, hd, Nat.not_lt.mpr h₁, Nat.not_lt.mpr h₂]

theorem Dev.taskEnds_running (d : Dev) (cls idx key q : Nat) (r : Running) :
    (d.taskEnds cls idx key q r).running? key = some { r with complete := true, done := r.total } := by
  unfold Dev.taskEnds
  dsimp only
  rw [Dev.running_congr (Evolves.slotSlack.keeps .run (by decide)), Dev.running_set_same]

/-- The end of a slot frees its unit, whatever came before. -/
theorem Dev.endSlot_frees (d : Dev) (cls idx sub : Nat) (r : Running) (hr : d.running? (unitKey cls idx sub) = some r) :
    (d.endSlot cls idx sub).running? (unitKey cls idx sub) = none := by
  unfold Dev.endSlot
  dsimp only
  rw [hr]
  exact Dev.running_set_same _ _ _

/-- The end of the slot of a completed task. -/
theorem Dev.endSlot_complete (d : Dev) (cls idx sub : Nat) (r : Running) (hr : d.running? (unitKey cls idx sub) = some r) (hc : r.complete = true)
    (h4 : r.slot.kind ≠ 4) (h5 : r.slot.kind ≠ 5) : d.endSlot cls idx sub = d.setRunning (unitKey cls idx sub) none := by
  unfold Dev.endSlot
  dsimp only
  rw [hr]
  dsimp only
  split
  · exact absurd ‹_› h4
  · exact absurd ‹_› h5
  · simp [hc]

/-- The end of the slot of a task with items left. -/
theorem Dev.endSlot_stops (d : Dev) (cls idx sub : Nat) (r : Running) (hr : d.running? (unitKey cls idx sub) = some r) (hc : r.complete = false)
    (hk : r.slot.kind = 1 ∨ r.slot.kind = 2) (he : r.eligible cls = true) (hd : d.taskDone cls idx r = false) :
    d.endSlot cls idx sub = (d.stopSlot cls idx r).setRunning (unitKey cls idx sub) none := by
  unfold Dev.endSlot
  dsimp only
  rw [hr]
  dsimp only
  split
  · omega
  · omega
  · simp [hc, he, hd]

theorem Dev.overrun_overran (d : Dev) : d.overrun.frm.overran = true := by
  unfold Dev.overrun
  exact (Keeps.trouble .overran (by decide)).trans rfl

theorem Dev.stopSlot_overran (d : Dev) (cls idx : Nat) (r : Running) : (d.stopSlot cls idx r).frm.overran = true := Dev.overrun_overran _

/-- Settles O47: a slot's start, a task's completion and a slot's end, each through what it does on the unit's running record. -/
theorem slotsRunTasks : Obligations.SlotsRunTasks := by
  intro s hp
  refine ⟨fun u i k x sl hs hf hk hb ho => ?_, fun u i sub r hr => ⟨fun q hc he hd h₁ h₂ => ?_, ?_⟩⟩
  · have hecc : Evolves [.cnt, .poison] s.dev (s.dev.quiet.ecc x) := Evolves.refl.step .quiet |>.step .ecc
    have hregs := hecc.keeps .regs (by decide)
    have hvar := hecc.keeps .variants (by decide)
    have hfrm := hecc.keeps .frm (by decide)
    refine answers_run _ _ _ _ (exec_slotStart u i k x s) hp (Dev.slotStart_begins _ u i k sl ?_ ?_ ?_ ?_ ?_)
    · exact (Dev.fld_congr _ _ _ hregs).trans hs
    · exact (congrArg Frm.frozen hfrm).trans hf
    · rw [Dev.slots_congr hregs hvar]; exact hk
    · rw [Dev.slotBusy_congr (hecc.keeps .run (by decide))]; exact hb
    · rw [Dev.inOrder_congr hregs hvar hfrm]; exact ho
  · refine answers_run _ _ _ _ (exec_taskComplete u i sub q s) hp ?_
    rw [Dev.taskComplete_ends s.dev.quiet _ _ _ _ r hr hc he hd h₁ h₂]
    exact Dev.taskEnds_running _ _ _ _ _ _
  · refine answers_run _ _ _ _ (exec_slotEnd u i sub s) hp ⟨Dev.endSlot_frees s.dev.quiet _ _ _ r hr, fun hc h4 h5 => ?_, fun hc hk he hd => ?_⟩
    · rw [Dev.endSlot_complete s.dev.quiet _ _ _ r hr hc h4 h5]
      exact (Evolves.refl.step .quiet |>.step .setRunning).keeps
    · rw [Dev.endSlot_stops s.dev.quiet _ _ _ r hr hc hk he hd, Dev.setRunning_frm]
      exact Dev.stopSlot_overran _ _ _ _

end Sys2Proof.Machine
end

