-- ==== Sys2Proof/Proofs/FramesStart.lean ====
section
/-!
PROOF. Ticks that reach a receiver, and frames that start (O46).
-/

set_option Elab.async false

namespace Sys2Proof.Machine

/-! ### A tick at a receiver (R31, R34) -/

/-- A link-local message that reaches the device whole is delivered. -/
theorem Dev.localMsg_heard (d : Dev) (p mt : Nat) (lenOk : Bool) (m : Msg) (deliver : Dev → Dev) (h : d.hears p mt lenOk m) :
    d.localMsg p mt lenOk m deliver = deliver d := by
  obtain ⟨hc, hm⟩ := h
  have hcheck : d.checkMsg mt lenOk false m = (true, d) := by
    unfold Dev.checkMsg at hm ⊢
    split_ifs at hm ⊢
    rfl
  unfold Dev.localMsg
  rw [hcheck]
  simp [hc]

/-- What reaches a device does not depend on what it has sent. -/
theorem Dev.hears_quiet (d : Dev) (p mt : Nat) (lenOk : Bool) (m : Msg) (h : d.hears p mt lenOk m) : d.quiet.hears p mt lenOk m := by
  obtain ⟨hc, hm⟩ := h
  have hshape : d.quiet.shape = d.shape := rfl
  refine ⟨hc, ?_⟩
  unfold Dev.checkMsg at hm ⊢
  rw [hshape]
  split_ifs at hm ⊢
  rfl

/-- The device once it has passed a tick on: nothing that a tick is judged by has changed. -/
structure Dev.passedOn (d : Dev) (num : Nat) (e : Dev) : Prop where
  regs : e.regs = d.regs
  frm : ∃ xs, e.frm = { d.frm with forwarded := xs } ∧ num ∈ xs

/-- R31: the first copy of a tick is passed on, a later one is not. -/
def Dev.passOn (d : Dev) (num acc : Nat) (p : Nat) : Dev :=
  if d.frm.forwarded.contains num then d else (d.setFrm fun f => { f with forwarded := num :: f.forwarded }).floodTick num false acc (some p)

theorem Dev.passOn_passedOn (d : Dev) (num acc p : Nat) : d.passedOn num (d.passOn num acc p) := by
  unfold Dev.passOn
  split
  case isTrue h => exact ⟨rfl, d.frm.forwarded, rfl, by simpa using h⟩
  case isFalse =>
    exact ⟨Evolves.floodTick.keeps .regs (by decide), num :: d.frm.forwarded, Evolves.floodTick.keeps .frm (by decide), List.mem_cons_self⟩

theorem Dev.tickIn_receiver (d : Dev) (p : Nat) (m : Msg) (now delay : Nat) (ho : d.frm.origin = false) (ht : bit (rdLe m.body 6 1) 0 = false) :
    d.tickIn p m now delay =
      if (d.passOn (rdLe m.body 0 6) (rdLe m.body 8 4 + delay) p).ticking then
        (d.passOn (rdLe m.body 0 6) (rdLe m.body 8 4 + delay) p).judgeTick p (rdLe m.body 0 6) (rdLe m.body 8 4) now
      else d.passOn (rdLe m.body 0 6) (rdLe m.body 8 4 + delay) p := by
  unfold Dev.tickIn
  dsimp only
  rw [if_neg (by simp [ht]), if_neg (by simp [ho])]
  rfl

/-- The frame that a tick of the primary port opens (R34, R35). -/
def Dev.tickFrame (d : Dev) (num acc now : Nat) : PendingFrame :=
  ⟨num, now + d.tickCfg.leadTime - acc, 1, decide (now + d.tickCfg.leadTime < now + acc)⟩

/-- A tick of the primary port within the window opens its frame, where none is open and none waits for its turn. -/
theorem Dev.judgeTick_opens (d : Dev) (p num acc now : Nat) (ha : d.frm.acquired = true) (hu : d.upstream p 1 = true) (hp : d.frm.pending = none)
    (he : d.frm.early = []) (hn : d.lastOpened.1 < num) (h₁ : d.prediction ≤ (d.tickFrame num acc now).start + d.tickCfg.window)
    (h₂ : (d.tickFrame num acc now).start ≤ d.prediction + d.tickCfg.window) :
    (d.judgeTick p num acc now).frm.pending = some (d.tickFrame num acc now) := by
  have hjudge : d.judgeTick p num acc now = (d.judgeWindow (d.tickFrame num acc now)).judgeLater := by
    unfold Dev.judgeTick
    dsimp only
    rw [if_neg (by simp [ha]), if_pos hu]
    rfl
  have haccept : d.judgeWindow (d.tickFrame num acc now) = d.acceptTick (d.tickFrame num acc now) := by
    unfold Dev.judgeWindow
    dsimp only
    rw [if_neg (by simp only [Bool.or_eq_true, decide_eq_true_eq, not_or, not_le, not_lt]; exact ⟨hn, h₁⟩), if_neg (not_lt.mpr h₂),
      if_pos (show (d.tickFrame num acc now).src = 1 from rfl)]
  generalize d.tickFrame num acc now = f at *
  have hopen : ∃ e : Dev, e.frm = { d.frm with backup := none } ∧ d.acceptTick f = e.withOpen f := by
    unfold Dev.acceptTick
    dsimp only
    split
    · exact ⟨_, rfl, Dev.openFrame_first _ _ hp⟩
    · exact ⟨_, rfl, Dev.openFrame_first _ _ hp⟩
  obtain ⟨e, hfrm, hacc⟩ := hopen
  have hearly : (e.withOpen f).frm.early = [] := (congrArg Frm.early hfrm).trans he
  rw [hjudge, haccept, hacc, Dev.judgeLater_nil _ hearly]
  rfl

/-- What a tick is judged by, at a device that has passed it on. -/
theorem Dev.passedOn.judged_alike {d e : Dev} {num : Nat} (h : d.passedOn num e) :
    e.ticking = d.ticking ∧ e.tickCfg = d.tickCfg ∧ e.lastOpened = d.lastOpened ∧ e.prediction = d.prediction ∧
      ∀ p role, e.upstream p role = d.upstream p role := by
  obtain ⟨hr, xs, hf, -⟩ := h
  have hfld (f : Field) : e.fld f = d.fld f := Dev.fld_congr _ _ _ hr
  have hcfg : e.tickCfg = d.tickCfg := by simp only [Dev.tickCfg, Dev.flag, hfld, hf]
  have hlast : e.lastOpened = d.lastOpened := by simp only [Dev.lastOpened, hfld, hf]
  refine ⟨by simp only [Dev.ticking, Dev.st, hfld], hcfg, hlast, ?_, fun p role => ?_⟩
  · simp only [Dev.prediction, Dev.period, hcfg, hlast, hfld, hf]
  · simp only [Dev.upstream, Dev.portUp, Dev.portState, hfld]

/-- A tick that reaches a receiver stands among those passed on, and one that is due opens its frame. -/
theorem Dev.tickIn_opens (d : Dev) (p : Nat) (m : Msg) (now delay : Nat) (ho : d.frm.origin = false) (ht : bit (rdLe m.body 6 1) 0 = false) :
    rdLe m.body 0 6 ∈ (d.tickIn p m now delay).frm.forwarded ∧
      (d.ticking = true → d.frm.acquired = true → d.upstream p 1 = true → d.frm.pending = none → d.frm.early = [] →
        d.lastOpened.1 < rdLe m.body 0 6 →
        d.prediction ≤ (d.tickFrame (rdLe m.body 0 6) (rdLe m.body 8 4) now).start + d.tickCfg.window →
        (d.tickFrame (rdLe m.body 0 6) (rdLe m.body 8 4) now).start ≤ d.prediction + d.tickCfg.window →
        (d.tickIn p m now delay).frm.pending = some (d.tickFrame (rdLe m.body 0 6) (rdLe m.body 8 4) now)) := by
  rw [Dev.tickIn_receiver d p m now delay ho ht]
  have hpass := d.passOn_passedOn (rdLe m.body 0 6) (rdLe m.body 8 4 + delay) p
  generalize d.passOn (rdLe m.body 0 6) (rdLe m.body 8 4 + delay) p = e at hpass ⊢
  obtain ⟨htick, hcfg, hlast, hpred, hup⟩ := hpass.judged_alike
  obtain ⟨-, xs, hf, hxs⟩ := hpass
  have hfwd : rdLe m.body 0 6 ∈ e.frm.forwarded := by rw [hf]; exact hxs
  have hframe : ∀ num acc, d.tickFrame num acc now = e.tickFrame num acc now := fun _ _ => by simp only [Dev.tickFrame, hcfg]
  refine ⟨?_, fun hd ha hu hp he hn h₁ h₂ => ?_⟩
  · split
    · rw [show (e.judgeTick p _ _ now).frm.forwarded = e.frm.forwarded from Keeps.judgeTick .forwarded (by decide)]
      exact hfwd
    · exact hfwd
  · rw [if_pos (htick.trans hd), hframe]
    rw [hframe] at h₁ h₂
    exact Dev.judgeTick_opens e p _ _ now (by rw [hf]; exact ha) (by rw [hup]; exact hu) (by rw [hf]; exact hp) (by rw [hf]; exact he)
      (by rw [hlast]; exact hn) (by rw [hpred, hcfg]; exact h₁) (by rw [hpred, hcfg]; exact h₂)

/-! ### The close of a frame, and the next one as it opens (R46, R50) -/

/-- The ended frame is closed where no slot is left in it: its slack is recorded. -/
structure Dev.closed (d e : Dev) : Prop where
  fields : d.fieldsBut [Reg.FRM_SLACK_LAST] e
  frm : ∃ x y, e.frm = { d.frm with slack := x, stepMin := y }
  parts : d.keepsBut [.regs, .frm, .gau] e

theorem Dev.closed_refl (d : Dev) : d.closed d := ⟨fun _ _ => rfl, ⟨d.frm.slack, d.frm.stepMin, rfl⟩, Dev.keepsBut_refl _ _⟩

/-- The slack of a frame is recorded, and with it the least of its step. -/
theorem Dev.noteStepMin_closed (d : Dev) (x : Int × SlackUnit) : d.closed (d.noteStepMin x) := by
  have hset : d.closed (d.setFrm fun f => { f with stepMin := some x }) := ⟨fun _ _ => rfl, ⟨_, _, rfl⟩, (Evolves.refl.step .setFrm).keeps⟩
  unfold Dev.noteStepMin
  split
  · split
    · exact hset
    · exact d.closed_refl
  · exact hset

theorem Dev.closed_trans {d e f : Dev} (h : d.closed e) (k : e.closed f) : d.closed f := by
  obtain ⟨x, y, hf⟩ := h.frm
  obtain ⟨x', y', hk⟩ := k.frm
  exact ⟨fun key hkey => (k.fields key hkey).trans (h.fields key hkey), ⟨x', y', by rw [hk, hf]⟩, Dev.keepsBut_trans _ _ _ _ h.parts k.parts⟩

theorem Dev.endSlots_nil (d : Dev) (h : d.run = []) : d.endSlots = d := by simp [Dev.endSlots, h]

theorem Dev.closeFrame_closed (d : Dev) (h : d.st ≠ DS.running ∨ d.run = []) : d.closed d.closeFrame := by
  have hslack (v : Nat) (x : Int) : d.closed (((d.setFld Reg.FRM_SLACK_LAST v).monSample 128 x).setFrm fun f => { f with slack := none }) := by
    have hmon := (Evolves.monSample (d := d.setFld Reg.FRM_SLACK_LAST v) (i := 128) (x := x)).keeps
    refine ⟨fun key hkey => ?_, ⟨none, d.frm.stepMin, ?_⟩, (Evolves.refl.step .setFld |>.step .monSample |>.step .setFrm).keeps⟩
    · exact (congrArg (SMap.get fieldReset · key) (hmon .regs (by decide))).trans (Dev.get_setFld_other _ _ _ _ (by simpa using hkey))
    · rw [Dev.setFrm_frm, show Dev.frm _ = _ from hmon .frm (by decide)]
      rfl
  have hends : (if d.st == DS.running && !d.frm.frozen && d.frm.stepOpen then d.endSlots else d) = d := by
    split
    case isTrue hs => exact d.endSlots_nil (h.resolve_left (by simp at hs; simp [hs]))
    case isFalse => rfl
  unfold Dev.closeFrame
  dsimp only
  rw [hends]
  split
  · exact d.closed_refl
  · split
    · exact Dev.closed_trans (hslack _ _) (Dev.noteStepMin_closed _ _)
    · exact hslack _ _

/-- The device as frame `f` opens, where no slot is left in the ended one. -/
structure Dev.opensAs (d : Dev) (f : PendingFrame) (e : Dev) : Prop where
  fields : d.fieldsBut [Reg.FRM_SLACK_LAST, Reg.FRM_TICK_NUM_NUM, Reg.FRM_STATUS_TICK_SRC, Reg.FRM_STATUS_TICK_STATE] e
  num : e.fld Reg.FRM_TICK_NUM_NUM = f.num % 2 ^ 48
  src : e.fld Reg.FRM_STATUS_TICK_SRC = f.src % 4
  frm : ∃ x y n, e.frm = { d.frm with
    pending := d.frm.queued.head?, queued := d.frm.queued.drop 1, slack := x, stepMin := y, frameStart := f.start, inFrame := true
    frameLate := f.late, misses := n }
  parts : d.keepsBut [.regs, .frm, .gau] e

theorem Dev.opened_opensAs (d : Dev) (f : PendingFrame) (h : d.st ≠ DS.running ∨ d.run = []) : d.opensAs f (d.opened f) := by
  have hclose := (d.setFrm fun x => { x with pending := x.queued.head?, queued := x.queued.drop 1 }).closeFrame_closed h
  unfold Dev.opened
  dsimp only
  generalize (d.setFrm fun x => { x with pending := x.queued.head?, queued := x.queued.drop 1 }).closeFrame = e at hclose ⊢
  obtain ⟨hfields, ⟨x, y, hfrm⟩, hparts⟩ := hclose
  have hall : d.keepsBut [.regs, .frm, .gau] e := Dev.keepsBut_trans _ _ _ _ (Evolves.refl.step .setFrm).keeps hparts
  constructor
  case fields =>
    intro key hkey
    simp only [List.map_cons, List.map_nil, List.mem_cons, List.not_mem_nil, or_false, not_or] at hkey
    obtain ⟨hslack, hnum, hsrc, hstate⟩ := hkey
    exact (Dev.get_setFld_other _ _ _ _ hstate).trans ((Dev.get_setFld_other _ _ _ _ hsrc).trans ((Dev.get_setFld_other _ _ _ _ hnum).trans
      (hfields key (by simpa using hslack))))
  case num =>
    rw [Dev.setFrm_fld, Dev.fld_setFld_other _ _ _ _ (by decide), Dev.fld_setFld_other _ _ _ _ (by decide)]
    exact Dev.fld_setFld_same _ _ _
  case src =>
    rw [Dev.setFrm_fld, Dev.fld_setFld_other _ _ _ _ (by decide)]
    exact Dev.fld_setFld_same _ _ _
  case frm =>
    refine ⟨x, y, if f.src = 3 then d.frm.misses + 1 else 0, ?_⟩
    simp only [Dev.setFrm_frm, Dev.setFld_frm, hfrm]
  case parts =>
    exact Dev.keepsBut_trans _ _ _ _ hall (Evolves.refl.step .setFld |>.step .setFld |>.step .setFld |>.step .setFrm).keeps

section

variable {d e : Dev} {f : PendingFrame} (h : d.opensAs f e)
include h

theorem Dev.opensAs.fld_other (g : Field)
    (hg : g.key ∉ [Reg.FRM_SLACK_LAST, Reg.FRM_TICK_NUM_NUM, Reg.FRM_STATUS_TICK_SRC, Reg.FRM_STATUS_TICK_STATE].map Field.key) :
    e.fld g = d.fld g := h.fields _ hg

theorem Dev.opensAs.st_eq : e.st = d.st := h.fld_other _ (by decide)

theorem Dev.opensAs.lastFrame_eq : e.lastFrame = d.lastFrame := by
  rw [Dev.lastFrame, Dev.lastFrame, h.fld_other Reg.FRM_STEP_POS_FRAME (by decide), h.fld_other Reg.FRM_STEP_POS_STEP_FRAMES (by decide)]

theorem Dev.opensAs.frozen_eq : e.flag Reg.FLT_WDOG_STATUS_FROZEN = d.flag Reg.FLT_WDOG_STATUS_FROZEN := by
  rw [Dev.flag, Dev.flag, h.fld_other _ (by decide)]

/-- What the opened frame leaves of the frame engine. -/
theorem Dev.opensAs.frm_eq : e.frm.pending = d.frm.queued.head? ∧ e.frm.frameStart = f.start ∧ e.frm.inFrame = true ∧
    e.frm.freezeDue = d.frm.freezeDue ∧ e.frm.startTick = d.frm.startTick ∧ e.frm.resumeTick = d.frm.resumeTick := by
  obtain ⟨x, y, n, hf⟩ := h.frm
  rw [hf]
  exact ⟨rfl, rfl, rfl, rfl, rfl, rfl⟩

end

/-! ### A frame_start (R46) -/

/-- R412: the program of a device whose watchdog has expired is frozen from a frame_start on. -/
def Dev.expiryFrozen (d : Dev) : Dev := if d.flag Reg.FLT_WDOG_STATUS_EXPIRED then d.setFld Reg.FLT_WDOG_STATUS_FROZEN 1 else d

theorem Dev.expiryFrozen_fld (d : Dev) (g : Field) (h : g.key ≠ Reg.FLT_WDOG_STATUS_FROZEN.key) : d.expiryFrozen.fld g = d.fld g := by
  unfold Dev.expiryFrozen
  split
  · exact Dev.fld_setFld_other _ _ _ _ h
  · rfl

theorem Dev.expiryFrozen_frm (d : Dev) : d.expiryFrozen.frm = d.frm := by
  unfold Dev.expiryFrozen
  split <;> rfl

theorem Dev.expiryFrozen_st (d : Dev) : d.expiryFrozen.st = d.st := d.expiryFrozen_fld _ (by decide)

theorem Dev.frameStart_opened (d : Dev) (m : StepMeas) (f : PendingFrame) (hf : d.frm.pending = some f) (ht : d.ticking = true) :
    d.frameStart m = (if (d.opened f).st = DS.running then (d.opened f).frameRunning m
      else ((d.opened f).freezeIdle.startDue f.num).resumeDue f.num).expiryFrozen := by
  rw [Dev.frameStart, hf]
  simp only [ht, Bool.not_true, Bool.false_eq_true, if_false]
  rfl

theorem Dev.missHold_early (d : Dev) (h : d.frm.misses < d.tickCfg.missMax) : d.missHold = d := by
  unfold Dev.missHold
  exact if_pos (by simp [h])

theorem Dev.freezeIdle_none (d : Dev) (h : d.frm.freezeDue = none) : d.freezeIdle = d := by simp [Dev.freezeIdle, h]
theorem Dev.startDue_none (d : Dev) (num : Nat) (h : d.frm.startTick = none) : d.startDue num = d := by simp [Dev.startDue, h]
theorem Dev.resumeDue_none (d : Dev) (num : Nat) (h : d.frm.resumeTick = none) : d.resumeDue num = d := by simp [Dev.resumeDue, h]

/-- A frame_start outside RUNNING, with no freeze due. -/
theorem Dev.frameStart_idle (d : Dev) (m : StepMeas) (f : PendingFrame) (hf : d.frm.pending = some f) (ht : d.ticking = true)
    (hs : d.st ≠ DS.running) (hd : d.frm.freezeDue = none) :
    d.frameStart m = (((d.opened f).startDue f.num).resumeDue f.num).expiryFrozen := by
  have ho := d.opened_opensAs f (.inl hs)
  obtain ⟨-, -, -, hdue, -, -⟩ := ho.frm_eq
  rw [Dev.frameStart_opened d m f hf ht, if_neg (by rw [ho.st_eq]; exact hs), Dev.freezeIdle_none _ (hdue.trans hd)]

/-- A frame_start within a step. -/
theorem Dev.frameRunning_within (d : Dev) (m : StepMeas) (hd : d.frm.freezeDue = none) (hf : d.flt.ledgerFault = false) (hl : d.lastFrame = false)
    (hs : d.st = DS.running) : d.frameRunning m = (d.setFld Reg.FRM_STEP_POS_FRAME (d.fld Reg.FRM_STEP_POS_FRAME + 1)).runFrame := by
  have hst : (d.setFld Reg.FRM_STEP_POS_FRAME (d.fld Reg.FRM_STEP_POS_FRAME + 1)).st = DS.running :=
    (Dev.fld_setFld_other _ _ _ _ (by decide)).trans hs
  simp [Dev.frameRunning, hd, hf, hl, hst]

/-! ### Frame 0 of a step (R58, R360, R396) -/

theorem Dev.startSteps_st (d : Dev) : d.startSteps.st = DS.running :=
  calc d.startSteps.st
      = (d.stepsReady.setFrm _).st := Keeps.startSteps_rest .st (by decide)
    _ = d.stepsReady.st := Dev.setFrm_fld _ _ _
    _ = (d.setSt DS.running).st := Keeps.stepsReady .st (by decide)
    _ = DS.running := Dev.st_setSt d _ (by decide)

theorem Dev.startSteps_startTick (d : Dev) : d.startSteps.frm.startTick = none := Keeps.startSteps_rest .startTick (by decide)

/-- Frame 0 of a step is open. -/
structure Dev.stepBegun (e : Dev) : Prop where
  st : e.st = DS.running
  isOpen : e.frm.stepOpen = true
  frame : e.fld Reg.FRM_STEP_POS_FRAME = 0

theorem Dev.beginStep_open (d : Dev) : d.beginStep.frm.stepOpen = true := (Keeps.beginStep_rest (d := d) .stepOpen (by decide)).trans rfl

theorem Dev.beginStep_frame (d : Dev) : d.beginStep.fld Reg.FRM_STEP_POS_FRAME = 0 :=
  (Keeps.beginStep_rest (d := d) .stepFrame (by decide)).trans (Dev.fld_setFld_same _ _ _)

theorem Dev.beginStep_runFrame (d : Dev) (h : d.st = DS.running) : d.beginStep.runFrame.stepBegun where
  st := (Keeps.runFrame .st (by decide)).trans ((Keeps.beginStep .st (by decide)).trans h)
  isOpen := (Keeps.runFrame .stepOpen (by decide)).trans d.beginStep_open
  frame := (Keeps.runFrame .stepFrame (by decide)).trans d.beginStep_frame

theorem Dev.stepBegun.expiryFrozen {e : Dev} (h : e.stepBegun) : e.expiryFrozen.stepBegun where
  st := (e.expiryFrozen_st).trans h.st
  isOpen := (congrArg Frm.stepOpen e.expiryFrozen_frm).trans h.isOpen
  frame := (e.expiryFrozen_fld _ (by decide)).trans h.frame

/-- What the frames of RUN and of RESUME leave of the awaited ticks. -/
theorem Dev.beginStep_runFrame_ticks (d : Dev) :
    d.beginStep.runFrame.frm.startTick = d.frm.startTick ∧ d.beginStep.runFrame.frm.resumeTick = d.frm.resumeTick :=
  ⟨(Keeps.runFrame .startTick (by decide)).trans (Keeps.beginStep .startTick (by decide)),
    (Keeps.runFrame .resumeTick (by decide)).trans (Keeps.beginStep .resumeTick (by decide))⟩

/-- The frame of START_TICK, with no RESUME_TICK awaited. -/
theorem Dev.startDue_now (d : Dev) (num : Nat) (h : d.frm.startTick = some num) (hr : d.frm.resumeTick = none)
    (hw : d.flag Reg.FLT_WDOG_STATUS_FROZEN = false) : d.startDue num = d.startSteps.beginStep.runFrame := by
  simp [Dev.startDue, h, hr, hw]

/-- The UPDATE that has waited for its frame completes. -/
def Dev.updateDone (d : Dev) : Dev := (d.hif.prog.filter Cmd.isUpdate).foldl (fun d c => d.complete c .done 0 0 0) d

theorem Dev.updateDone_calm (d : Dev) : Keeps calm d d.updateDone := .foldl .refl fun _ _ h => h.step .complete

/-- The frame of RESUME_TICK. -/
theorem Dev.resumeDue_now (d : Dev) (num : Nat) (h : d.frm.resumeTick = some num) (hs : d.st = DS.quiesced) (hf : d.fld Reg.MBX_STATUS_FW = 1)
    (hw : d.flag Reg.FLT_WDOG_STATUS_FROZEN = false) :
    d.resumeDue num = (d.setFrm fun f => { f with resumeTick := none }).abortStart.startSteps.updateDone.beginStep.runFrame := by
  unfold Dev.resumeDue
  rw [h]
  dsimp only
  rw [if_neg (by simp [hs, hf, hw]), if_pos rfl]
  rfl

theorem Dev.frameOf_reached (d : Dev) (f : PendingFrame) (hf : d.frm.pending = some f) (hs : d.st ≠ DS.running)
    (hm : d.frm.misses < d.tickCfg.missMax) : d.frameOf (some f.num) = d.frameStart noMeas := by
  unfold Dev.frameOf
  rw [hf]
  dsimp only
  rw [if_pos (by simp [hs]), Dev.missHold_early d hm]

/-! ### The statement -/

section

variable {d : Dev} {f : PendingFrame} (hf : d.frm.pending = some f) (ht : d.ticking = true) (hd : d.frm.freezeDue = none)
include hf ht hd

theorem Dev.frameStart_takes (m : StepMeas) (hs : d.st ≠ DS.running) (h₁ : d.frm.startTick = none) (h₂ : d.frm.resumeTick = none) :
    (d.frameStart m).frm.pending = d.frm.queued.head? ∧ (d.frameStart m).frm.frameStart = f.start ∧ (d.frameStart m).frm.inFrame = true ∧
      (d.frameStart m).st = d.st ∧ (d.frameStart m).fld Reg.FRM_TICK_NUM_NUM = f.num % 2 ^ 48 ∧
      (d.frameStart m).fld Reg.FRM_STATUS_TICK_SRC = f.src % 4 := by
  have ho := d.opened_opensAs f (.inl hs)
  obtain ⟨hpend, hstart, hin, -, hst, hrt⟩ := ho.frm_eq
  rw [Dev.frameStart_idle d m f hf ht hs hd, Dev.startDue_none _ _ (hst.trans h₁), Dev.resumeDue_none _ _ (hrt.trans h₂), Dev.expiryFrozen_frm,
    Dev.expiryFrozen_st, Dev.expiryFrozen_fld _ _ (by decide), Dev.expiryFrozen_fld _ _ (by decide)]
  exact ⟨hpend, hstart, hin, ho.st_eq, ho.num, ho.src⟩

theorem Dev.frameStart_within (m : StepMeas) (hs : d.st = DS.running) (hl : d.lastFrame = false) (hr : d.run = []) (hw : d.flt.ledgerFault = false) :
    (d.frameStart m).fld Reg.FRM_STEP_POS_FRAME = (d.fld Reg.FRM_STEP_POS_FRAME + 1) % 2 ^ Reg.FRM_STEP_POS_FRAME.w ∧
      (d.frameStart m).frm.begun = [] ∧ (d.frameStart m).frm.frameStart = f.start ∧ (d.frameStart m).st = DS.running := by
  have ho := d.opened_opensAs f (.inr hr)
  obtain ⟨-, hstart, -, hdue, -, -⟩ := ho.frm_eq
  have hst := ho.st_eq.trans hs
  rw [Dev.frameStart_opened d m f hf ht, if_pos hst, Dev.frameRunning_within _ _ (hdue.trans hd)
    ((congrArg Flt.ledgerFault (ho.parts .flt (by decide))).trans hw) (ho.lastFrame_eq.trans hl) hst, ho.fld_other _ (by decide),
    Dev.expiryFrozen_frm, Dev.expiryFrozen_st, Dev.expiryFrozen_fld _ _ (by decide)]
  exact ⟨(Keeps.runFrame .stepFrame (by decide)).trans (Dev.fld_setFld_same _ _ _), Keeps.runFrame_rest .begun (by decide),
    (Keeps.runFrame .frameStart (by decide)).trans hstart,
    (Keeps.runFrame .st (by decide)).trans ((Dev.fld_setFld_other _ _ _ _ (by decide)).trans hst)⟩

theorem Dev.frameStart_starts (m : StepMeas) (hs : d.st ≠ DS.running) (h₁ : d.frm.startTick = some f.num) (h₂ : d.frm.resumeTick = none)
    (hw : d.flag Reg.FLT_WDOG_STATUS_FROZEN = false) : (d.frameStart m).stepBegun ∧ (d.frameStart m).frm.startTick = none := by
  have ho := d.opened_opensAs f (.inl hs)
  obtain ⟨-, -, -, -, hst, hrt⟩ := ho.frm_eq
  obtain ⟨hstart, hresume⟩ := (d.opened f).startSteps.beginStep_runFrame_ticks
  have hnone : (d.opened f).startSteps.beginStep.runFrame.frm.resumeTick = none :=
    hresume.trans ((Keeps.startSteps .resumeTick (by decide)).trans (hrt.trans h₂))
  rw [Dev.frameStart_idle d m f hf ht hs hd, Dev.startDue_now _ _ (hst.trans h₁) (hrt.trans h₂) (ho.frozen_eq.trans hw),
    Dev.resumeDue_none _ _ hnone, Dev.expiryFrozen_frm]
  exact ⟨(Dev.beginStep_runFrame _ (Dev.startSteps_st _)).expiryFrozen, hstart.trans (Dev.startSteps_startTick _)⟩

theorem Dev.frameStart_resumes (m : StepMeas) (hs : d.st = DS.quiesced) (h₁ : d.frm.startTick = none) (h₂ : d.frm.resumeTick = some f.num)
    (hfw : d.fld Reg.MBX_STATUS_FW = 1) (hw : d.flag Reg.FLT_WDOG_STATUS_FROZEN = false) :
    (d.frameStart m).stepBegun ∧ (d.frameStart m).frm.resumeTick = none := by
  have hrun : d.st ≠ DS.running := by rw [hs]; decide
  have ho := d.opened_opensAs f (.inl hrun)
  obtain ⟨-, -, -, -, hst, hrt⟩ := ho.frm_eq
  rw [Dev.frameStart_idle d m f hf ht hrun hd, Dev.startDue_none _ _ (hst.trans h₁), Dev.resumeDue_now _ _ (hrt.trans h₂) (ho.st_eq.trans hs)
    ((ho.fld_other _ (by decide)).trans hfw) (ho.frozen_eq.trans hw), Dev.expiryFrozen_frm]
  generalize d.opened f = o
  have hsteps : (o.setFrm fun f => { f with resumeTick := none }).abortStart.startSteps.updateDone.st = DS.running :=
    (Dev.updateDone_calm _ .st (by decide)).trans (Dev.startSteps_st _)
  have hnone : (o.setFrm fun f => { f with resumeTick := none }).abortStart.startSteps.updateDone.frm.resumeTick = none :=
    (Dev.updateDone_calm _ .resumeTick (by decide)).trans
      ((Keeps.startSteps .resumeTick (by decide)).trans (Keeps.abortStart .resumeTick (by decide)))
  obtain ⟨-, hresume⟩ := Dev.beginStep_runFrame_ticks (o.setFrm fun f => { f with resumeTick := none }).abortStart.startSteps.updateDone
  exact ⟨(Dev.beginStep_runFrame _ hsteps).expiryFrozen, hresume.trans hnone⟩

end

/-- Settles O46: a tick through what it is judged by, a frame_start through the device as its frame opens. -/
theorem framesOpenAndStart : Obligations.FramesOpenAndStart := by
  intro s hp
  refine ⟨fun p m now delay hh ho ht => answers_run _ _ _ _ (exec_tickMsg p m now delay s) hp ?_, fun f hf ht hm hd => ⟨fun m hs h₁ h₂ => ?_,
    fun m hs hl hr hw => ?_, fun h₁ hs h₂ hw => ?_, fun h₂ h₁ hs hfw hw => ?_⟩⟩
  · rw [Dev.localMsg_heard _ _ _ _ _ _ (s.dev.hears_quiet _ _ _ _ hh)]
    obtain ⟨hfwd, hopens⟩ := s.dev.quiet.tickIn_opens p m now delay ho ht
    exact ⟨hfwd, fun hd ha hu hn _ he hlast hw₁ hw₂ => hopens hd ha hu hn he hlast hw₁ hw₂⟩
  · refine answers_run _ _ _ _ (exec_frameStart m s) hp ?_
    rw [Dev.missHold_early s.dev.quiet hm]
    exact Dev.frameStart_takes (d := s.dev.quiet) hf ht hd m hs h₁ h₂
  · refine answers_run _ _ _ _ (exec_frameStart m s) hp ?_
    rw [Dev.missHold_early s.dev.quiet hm]
    exact Dev.frameStart_within (d := s.dev.quiet) hf ht hd m hs hl hr hw
  · have hrun : s.dev.st ≠ DS.running := by rw [hs]; decide
    have hreach : s.dev.quiet.frameOf s.dev.quiet.frm.startTick = s.dev.quiet.frameStart noMeas := by
      rw [Dev.quiet_frm, h₁]
      exact Dev.frameOf_reached s.dev.quiet f hf hrun hm
    refine answers_run _ _ _ _ (exec_startTickReached s) hp ?_
    rw [hreach]
    obtain ⟨⟨hst, hopen, hframe⟩, htick⟩ := Dev.frameStart_starts (d := s.dev.quiet) hf ht hd noMeas hrun h₁ h₂ hw
    exact ⟨hst, hopen, htick, hframe⟩
  · have hrun : s.dev.st ≠ DS.running := by rw [hs]; decide
    have hreach : s.dev.quiet.frameOf s.dev.quiet.frm.resumeTick = s.dev.quiet.frameStart noMeas := by
      rw [Dev.quiet_frm, h₂]
      exact Dev.frameOf_reached s.dev.quiet f hf hrun hm
    refine answers_run _ _ _ _ (exec_updateResume s) hp ?_
    rw [hreach]
    obtain ⟨⟨hst, hopen, hframe⟩, htick⟩ := Dev.frameStart_resumes (d := s.dev.quiet) hf ht hd noMeas hs h₁ h₂ hfw hw
    exact ⟨hst, hopen, htick, hframe⟩

end Sys2Proof.Machine
end

