-- ==== Sys2Proof/Proofs/TunsConvert.lean ====
section
/-!
PROOF. The actions of a Tun sequencer, the corrections of a sparge unit and the close of a monitor window (O48).
-/

set_option Elab.async false

namespace Sys2Proof.Machine

/-! ### Memory reads -/

/-- A read depends on the memory alone. -/
theorem Dev.rd_congr {d e : Dev} (hm : e.mem = d.mem) (hl : e.lsEpoch = d.lsEpoch) (a n : Nat) : e.rd a n = d.rd a n := by
  simp only [Dev.rd, Dev.read, Dev.byte, hm, hl]

/-- Bytes below a write stay. -/
theorem memWrite_get_below (epoch : Nat) (bs : List Byte) (m : List Host.Cell) (a k : Nat) (h : k < a) :
    SMap.get (memDefault epoch) (memWrite epoch m a bs) k = SMap.get (memDefault epoch) m k := by
  induction bs generalizing m a with
  | nil => rfl
  | cons b bs ih => exact (ih _ _ (by omega)).trans (SMap.get_set_other _ _ _ _ _ (by omega))

/-- A written byte reads as written. -/
theorem memWrite_get_inside (epoch : Nat) (bs : List Byte) (m : List Host.Cell) (a i : Nat) (h : i < bs.length) :
    SMap.get (memDefault epoch) (memWrite epoch m a bs) (a + i) = bs[i] := by
  induction bs generalizing m a i with
  | nil => simp at h
  | cons b bs ih =>
    cases i with
    | zero => exact (memWrite_get_below _ _ _ _ _ (Nat.lt_succ_self a)).trans (SMap.get_set_same _ _ _ _)
    | succ i =>
      rw [← Nat.add_assoc, Nat.add_right_comm]
      exact ih _ _ _ (by simpa using h)

/-- A number read within a written byte string is the one that stands there. -/
theorem Dev.rd_write (d : Dev) (a k n : Nat) (bs : List Byte) (h : k + n ≤ bs.length) : (d.write a bs).rd (a + k) n = rdLe bs k n := by
  have hread : (d.write a bs).read (a + k) n = (bs.drop k).take n := by
    refine List.ext_getElem (by simp [Dev.read]; omega) fun i hi _ => ?_
    have hin : i < n := by simpa [Dev.read] using hi
    simp only [Dev.read, List.getElem_map, List.getElem_range, List.getElem_take, List.getElem_drop, Nat.add_assoc]
    exact memWrite_get_inside _ _ _ _ _ (by omega)
  rw [Dev.rd, hread, rdLe]

/-- A 16-bit number's bytes spell its low 16 bits. -/
theorem leNat_natLe_two (v : Nat) : leNat (natLe 2 v) = v % 2 ^ 16 := by
  simp only [natLe, leNat, BitVec.toNat_ofNat]
  omega

/-! ### The items done of a slot in progress -/

theorem Dev.running_onRunning_same (d : Dev) (k : Nat) (g : Running → Running) : (d.onRunning k g).running? k = (d.running? k).map g := by
  unfold Dev.onRunning
  split
  case h_1 r hr => rw [Dev.running_set_same, hr]; rfl
  case h_2 hr => rw [hr]; rfl

theorem Dev.running_onRunning_other (d : Dev) (k j : Nat) (g : Running → Running) (h : j ≠ k) : (d.onRunning k g).running? j = d.running? j := by
  unfold Dev.onRunning
  split
  · exact Dev.running_set_other _ _ _ _ h
  · rfl

/-- The unit at `k` is in a slot, and `n` of its items are done. -/
def Dev.hasDone (d : Dev) (k n : Nat) : Prop := ∃ q, d.running? k = some q ∧ q.done = n

namespace Dev.hasDone

variable {d e : Dev} {k n : Nat}

/-- A step that leaves the slots in progress alone. -/
theorem via {p : List Part} (h : d.hasDone k n) (he : Evolves p d e) (hp : .run ∉ p := by decide) : e.hasDone k n := by
  obtain ⟨q, hq, hn⟩ := h
  exact ⟨q, (Dev.running_congr (he.keeps .run hp) k).trans hq, hn⟩

/-- A change of some unit's running record that counts no item. -/
theorem onRunning {j : Nat} {g : Running → Running} (h : d.hasDone k n) (hg : ∀ r : Running, (g r).done = r.done := by intro _; rfl) :
    (d.onRunning j g).hasDone k n := by
  obtain ⟨q, hq, hn⟩ := h
  by_cases hk : k = j
  · subst hk
    exact ⟨g q, by rw [Dev.running_onRunning_same, hq]; rfl, (hg q).trans hn⟩
  · exact ⟨q, (Dev.running_onRunning_other _ _ _ _ hk).trans hq, hn⟩

/-- What the unit's own record reads as after a change. -/
theorem changed (h : d.hasDone k n) (g : Running → Running) : ∃ q, (d.onRunning k g).running? k = some (g q) ∧ q.done = n := by
  obtain ⟨q, hq, hn⟩ := h
  exact ⟨q, by rw [Dev.running_onRunning_same, hq]; rfl, hn⟩

theorem ite {c : Prop} [Decidable c] (h : d.hasDone k n) (h' : e.hasDone k n) : (if c then d else e).hasDone k n :=
  iteInduction (motive := fun z : Dev => z.hasDone k n) (fun _ => h) fun _ => h'

theorem iteSnd {β : Type} {c : Prop} [Decidable c] {x y : β × Dev} (h : x.2.hasDone k n) (h' : y.2.hasDone k n) :
    (if c then x else y).2.hasDone k n :=
  iteInduction (motive := fun z : β × Dev => z.2.hasDone k n) (fun _ => h) fun _ => h'

/-- A step taken on a condition. -/
theorem when {c : Prop} [Decidable c] (h : d.hasDone k n) (h' : d.hasDone k n → e.hasDone k n) : (if c then e else d).hasDone k n :=
  ite (h' h) h

theorem consume {j ranges} (h : d.hasDone k n) : (d.consume j ranges).hasDone k n := by
  unfold Dev.consume
  refine when (via (p := [.regs, .cnt, .mem, .poison, .draws, .frm, .variants, .mbx]) h ?_) fun h => h.onRunning
  exact .foldl (.ite (Evolves.refl.step .bump |>.step .trouble) .refl) fun _ _ h => h.step .uncorr

theorem coverCheck {b sub j r sdesc} (h : d.hasDone k n) : (d.coverCheck b sub j r sdesc).2.hasDone k n := by
  unfold Dev.coverCheck
  exact iteSnd h (iteSnd h (iteSnd h.onRunning (h.onRunning.via .bump)))

theorem readRecords {b sub v r} (h : d.hasDone k n) : (d.readRecords b sub v r).2.2.hasDone k n := by
  unfold Dev.readRecords
  exact via (p := [.cnt, .spg]) (consume (iteSnd h.coverCheck h)) (.foldlSnd .refl fun _ _ h => h.step .readVector)

end Dev.hasDone

/-! ### One action of a Tun sequencer (Table 3.3) -/

/-- Whether a vector's records lie in the window depends on the memory alone. -/
theorem Dev.vectorOk_congr {d e : Dev} (hm : e.mem = d.mem) (hl : e.lsEpoch = d.lsEpoch) (b sub v : Nat) (r : Running) :
    e.vectorOk b sub v r = d.vectorOk b sub v r := by
  simp only [Dev.vectorOk, FwdDesc.recordsOk, FwdDesc.recordBytes, Dev.rd_congr hm hl]

section

variable {d : Dev} {b sub n : Nat} {r : Running} {y : Flight}

/-- A task under way takes one action. -/
theorem Dev.fwd_one (hr : d.running? (unitKey 1 b sub) = some r) (hk : r.slot.kind = 1) (hf : r.failed = false) (hc : r.complete = false)
    (hi : r.idle = false) (hd : r.done < r.total) : d.fwd b sub 1 = d.fwdAct b sub r := by
  unfold Dev.fwd
  rw [hr]
  simp [hk, hf, hc, hi, hd, Dev.fwd]

/-- R65: the first action reads the records of the task's first vector. -/
theorem Dev.fwdAct_reads_first (h : d.hasDone (unitKey 1 b sub) n) (hy : r.fly = none) (hv : d.vectorOk b sub r.done r = true) :
    ∃ q y, (d.fwdAct b sub r).running? (unitKey 1 b sub) = some q ∧ q.fly = some y ∧ y.vec = r.done ∧ y.phases = 0 ∧ q.done = n := by
  have hact : d.fwdAct b sub r = (d.readRecords b sub r.done r).2.2.onRunning (unitKey 1 b sub) fun q =>
      { q with fly := some (newFlight (parseFwd r.desc) r.done ((d.readRecords b sub r.done r).1, (d.readRecords b sub r.done r).2.1)) } := by
    unfold Dev.fwdAct
    rw [hy]
    exact if_pos hv
  obtain ⟨q, hq, hn⟩ := h.readRecords.changed _
  rw [hact]
  exact ⟨_, _, hq, rfl, rfl, rfl, hn⟩

/-- R67: before a vector's first phase the records of the next one are read. -/
theorem Dev.fwdAct_reads_next (h : d.hasDone (unitKey 1 b sub) n) (hy : r.fly = some y) (h0 : y.phases = 0) (hn : y.next = none)
    (ht : y.vec + 1 < r.total) (hv : d.vectorOk b sub (y.vec + 1) r = true) :
    ∃ q z, (d.fwdAct b sub r).running? (unitKey 1 b sub) = some q ∧ q.fly = some { y with next := some z } ∧ q.done = n := by
  have hact : d.fwdAct b sub r = (d.readRecords b sub (y.vec + 1) r).2.2.onRunning (unitKey 1 b sub) fun q =>
      { q with fly := some { y with next := some ((d.readRecords b sub (y.vec + 1) r).1, (d.readRecords b sub (y.vec + 1) r).2.1) } } := by
    unfold Dev.fwdAct
    rw [hy]
    exact if_pos (by simp [h0, hn, ht, hv])
  obtain ⟨q, hq, hn⟩ := h.readRecords.changed _
  rw [hact]
  exact ⟨_, _, hq, rfl, hn⟩

/-- With the next vector's records read, or none to read, the action converts a phase. -/
theorem Dev.fwdAct_converts (hy : r.fly = some y) (h : 0 < y.phases ∨ y.next.isSome = true ∨ r.total ≤ y.vec + 1) :
    d.fwdAct b sub r = d.convertPhase b sub r y := by
  unfold Dev.fwdAct
  rw [hy]
  refine if_neg fun hread => ?_
  simp only [Bool.and_eq_true, decide_eq_true_eq, Option.isNone_iff_eq_none] at hread
  obtain ⟨⟨⟨h0, hnext⟩, ht⟩, -⟩ := hread
  rcases h with h | h | h
  · omega
  · simp [hnext] at h
  · omega

/-- R75: the end of a vector counts it, and the next one, where its records have been read, is in flight. -/
theorem Dev.landVector_counts {f : FwdDesc} (h : d.hasDone (unitKey 1 b sub) n) :
    ∃ q, (d.landVector b sub r f y).running? (unitKey 1 b sub) = some q ∧ q.done = y.vec + 1 ∧ q.fly.isSome = y.next.isSome := by
  have hset : ∃ e : Dev, e.hasDone (unitKey 1 b sub) n ∧ d.landVector b sub r f y = e.onRunning (unitKey 1 b sub) fun q =>
      { q with done := y.vec + 1, fly := y.next.map (newFlight f (y.vec + 1)) } := by
    unfold Dev.landVector
    refine ⟨_, ?_, rfl⟩
    refine .ite (.via (.onRunning ?_) .setWork) (.via ?_ .bump)
    all_goals
      refine h.via (p := [.regs, .cnt, .mem, .poison, .draws, .late, .rmOpen, .spg, .mbx]) ?_
      exact .foldlSnd .refl fun _ _ h => h.step .finishVector
  obtain ⟨e, he, hland⟩ := hset
  obtain ⟨q, hq, -⟩ := he.changed _
  rw [hland]
  exact ⟨_, hq, rfl, by simp⟩

/-- What a phase does to a vector in flight: the slots in progress stay until its own record is written, which lands it after its last row group. -/
theorem Dev.convertPhase_cases (d : Dev) (b sub : Nat) (r : Running) (y : Flight) :
    ∃ e z, Evolves [.regs, .cnt, .mem, .poison, .draws, .rmOpen, .spg, .mbx] d e ∧ z.vec = y.vec ∧ z.phases = y.phases + 1 ∧ z.next = y.next ∧
      d.convertPhase b sub r y = if z.phases < (parseFwd r.desc).groups.length then
        e.onRunning (unitKey 1 b sub) fun q => { q with fly := some z } else e.landVector b sub r (parseFwd r.desc) z := by
  unfold Dev.convertPhase
  refine ⟨_, _, ?_, ?_, ?_, ?_, rfl⟩
  · exact .foldlSnd (.ite (.step .refl .applyInputs) .refl) fun _ _ h => h.step .phase
  all_goals dsimp only; split <;> rfl

/-- R66, R69: a phase before the last leaves its vector in flight, and the last one ends it. -/
theorem Dev.convertPhase_advances (h : d.hasDone (unitKey 1 b sub) n) :
    ∃ q, (d.convertPhase b sub r y).running? (unitKey 1 b sub) = some q ∧
      (y.phases + 1 < (parseFwd r.desc).groups.length → q.done = n ∧ ∃ z, q.fly = some z ∧ z.vec = y.vec ∧ z.phases = y.phases + 1) ∧
      ((parseFwd r.desc).groups.length ≤ y.phases + 1 → q.done = y.vec + 1 ∧ q.fly.isSome = y.next.isSome) := by
  obtain ⟨e, z, he, hvec, hphases, hnext, hconv⟩ := d.convertPhase_cases b sub r y
  rw [hconv, ← hphases, ← hvec, ← hnext]
  by_cases hlast : z.phases < (parseFwd r.desc).groups.length
  · obtain ⟨q, hq, hn⟩ := (h.via he).changed fun q => { q with fly := some z }
    rw [if_pos hlast]
    exact ⟨_, hq, fun _ => ⟨hn, z, rfl, rfl, rfl⟩, fun hge => absurd hlast (Nat.not_lt.mpr hge)⟩
  · obtain ⟨q, hq, hland⟩ := Dev.landVector_counts (r := r) (y := z) (f := parseFwd r.desc) (h.via he)
    rw [if_neg hlast]
    exact ⟨q, hq, fun hlt => absurd hlt hlast, fun _ => hland⟩

end

/-! ### The corrections of a vector (R87) -/

theorem Dev.work_congr {d e : Dev} (h : e.spg = d.spg) (b : Nat) : e.work b = d.work b := by unfold Dev.work; rw [h]

theorem Dev.work_setWork_same (d : Dev) (b : Nat) (l : List (List CoverItem)) : (d.setWork b l).work b = l := SMap.get_set_same _ _ _ _

/-- The counts of a correction record and its reserved bytes (Table 4.5). -/
def CoverItem.counts (it : CoverItem) : List Byte :=
  natLe 2 it.outliers.length ++ natLe 2 it.clipped ++ natLe 2 it.sats.length ++ natLe 2 it.declined ++ List.replicate 56 0

theorem CoverItem.counts_length (it : CoverItem) : it.counts.length = 64 := rfl

theorem CoverItem.counts_outliers (it : CoverItem) : rdLe it.counts 0 2 = it.outliers.length % 2 ^ 16 := leNat_natLe_two _

theorem CoverItem.counts_sats (it : CoverItem) : rdLe it.counts 4 2 = it.sats.length % 2 ^ 16 := leNat_natLe_two _

/-- After the counts a correction only marks buffers late. -/
theorem Dev.coverItem_counts (b : Nat) (d : Dev) (it : CoverItem) :
    ∃ e : Dev, Evolves [.late] (e.write (it.corrAddr + 0x800) it.counts) (Dev.coverItem b d it) := by
  unfold Dev.coverItem
  exact ⟨_, .when (.step .refl .produce) fun h => h.step .markLate |>.step .markLate⟩

theorem Dev.coverItem_rd (b : Nat) (d : Dev) (it : CoverItem) {k n : Nat} (h : k + n ≤ 64) :
    (Dev.coverItem b d it).rd (it.corrAddr + 0x800 + k) n = rdLe it.counts k n := by
  obtain ⟨e, he⟩ := Dev.coverItem_counts b d it
  exact (Dev.rd_congr (he.keeps .mem (by decide)) (he.keeps .lsEpoch (by decide)) _ _).trans (Dev.rd_write _ _ _ _ _ (h.trans_eq it.counts_length.symm))

/-- The sparge unit in its slot takes the oldest vector. -/
theorem Dev.cover_one {d : Dev} {b : Nat} {v : List CoverItem} {rest : List (List CoverItem)} (hs : (d.spargeSlot b).isSome = true)
    (hw : d.work b = v :: rest) :
    d.cover b 1 = ((v.foldl (Dev.coverItem b) d).setWork b rest).onRunning (unitKey 3 b 0) fun q => { q with done := q.done + 1 } := by
  unfold Dev.cover
  rw [if_neg (by simpa [Option.isSome_iff_ne_none] using hs), hw]
  rfl

theorem Dev.cover_corrects {d : Dev} {b : Nat} {v : List CoverItem} {rest : List (List CoverItem)} (hs : (d.spargeSlot b).isSome = true)
    (hw : d.work b = v :: rest) : (d.cover b 1).work b = rest ∧
      ∀ it, v = [it] → (d.cover b 1).rd (it.corrAddr + 0x800) 2 = it.outliers.length % 2 ^ 16 ∧
        (d.cover b 1).rd (it.corrAddr + 0x804) 2 = it.sats.length % 2 ^ 16 := by
  rw [Dev.cover_one hs hw]
  refine ⟨(Dev.work_congr (Evolves.onRunning.keeps .spg (by decide)) b).trans (Dev.work_setWork_same _ _ _), ?_⟩
  rintro it rfl
  have hafter : Evolves [.run, .spg] (Dev.coverItem b d it) (((Dev.coverItem b d it).setWork b rest).onRunning (unitKey 3 b 0)
      fun q => { q with done := q.done + 1 }) := .step (.step .refl .setWork) .onRunning
  have hrd := Dev.rd_congr (hafter.keeps .mem (by decide)) (hafter.keeps .lsEpoch (by decide))
  exact ⟨(hrd _ _).trans ((Dev.coverItem_rd b d it (k := 0) (by decide)).trans it.counts_outliers),
    (hrd _ _).trans ((Dev.coverItem_rd b d it (k := 4) (by decide)).trans it.counts_sats)⟩

/-! ### The close of a monitor window (R77, R78) -/

theorem Dev.monitor_congr {d e : Dev} (h : e.rmOpen = d.rmOpen) (t : Nat) : e.monitor t = d.monitor t := by unfold Dev.monitor; rw [h]

theorem Dev.monitor_setMonitor_same (d : Dev) (t : Nat) (m : RmTun) : (d.setMonitor t m).monitor t = m := SMap.get_set_same _ _ _ _

/-- A closed window's statistics are published with SEQ counted on; what follows is the report of a value out of its band. -/
theorem Dev.closeWindow_publishes (d : Dev) (t : Nat) (w : RmWindow) :
    ∃ seq free, SMap.get (fun _ => none) (d.closeWindow t w).rmStats t = some (w.stats seq free) ∧
      ∀ old, SMap.get (fun _ => none) d.rmStats t = some old → seq = old.seq := by
  have hset : ∃ seq, Evolves [.regs, .cnt] { d.draw.2 with rmStats := SMap.set (fun _ => none) d.rmStats t (some (w.stats seq d.draw.1)) }
      (d.closeWindow t w) ∧ ∀ old, SMap.get (fun _ => none) d.rmStats t = some old → seq = old.seq := by
    unfold Dev.closeWindow
    refine ⟨_, .when .refl fun h => ?_, fun old hold => ?_⟩
    · exact h.step .bump |>.step .setFld |>.step .setFld |>.step .setFld |>.step .setFld |>.step .setFld |>.step .kilnRequest
    · rw [hold]
  obtain ⟨seq, hreport, hseq⟩ := hset
  refine ⟨seq, d.draw.1, ?_, hseq⟩
  rw [hreport.keeps .rmStats (by decide)]
  exact SMap.get_set_same (fun _ => none) d.rmStats t (some (w.stats seq d.draw.1))

/-- Under calibration a full window stays. -/
theorem Dev.windowClose_stale {d : Dev} {t : Nat} (h : d.stale t = true) : d.windowClose t = d := by
  unfold Dev.windowClose
  split
  · rfl
  · exact if_pos h

theorem Dev.windowClose_closes {d : Dev} {t : Nat} {w : RmWindow} {rest : List RmWindow} (hw : (d.monitor t).full = w :: rest)
    (hs : d.stale t = false) : d.windowClose t = (d.setMonitor t { d.monitor t with full := rest }).closeWindow t w := by
  unfold Dev.windowClose
  rw [hw]
  exact if_neg (by simp [hs])

/-! ### The statement -/

/-- What the memories report as a command begins. -/
theorem Evolves.quietEcc {d : Dev} {x : Ecc} : Evolves [.cnt, .poison] d (d.quiet.ecc x) := Evolves.refl.step .quiet |>.step .ecc

/-- Settles O48: an action of the sequencer through what it leaves of the unit's running record, a correction through the counts that it writes last,
the close of a window through the statistics that it publishes. -/
theorem tunsConvertAndCorrect : Obligations.TunsConvertAndCorrect := by
  intro s hp
  refine ⟨?fwd, ?cover, ?window⟩
  case fwd =>
    intro b sub x r sc key hr hk hf hc hi hd
    have hecc := Evolves.quietEcc (d := s.dev) (x := x)
    have hrun := (Dev.running_congr (hecc.keeps .run (by decide)) key).trans hr
    have hdone : (s.dev.quiet.ecc x).hasDone key r.done := ⟨r, hrun, rfl⟩
    have hok := Dev.vectorOk_congr (hecc.keeps .mem (by decide)) (hecc.keeps .lsEpoch (by decide)) b sc
    have hfwd : (s.dev.quiet.ecc x).fwd b sc 1 = (s.dev.quiet.ecc x).fwdAct b sc r := Dev.fwd_one hrun hk hf hc hi hd
    have hans {P : Dev → Prop} (h : P ((s.dev.quiet.ecc x).fwdAct b sc r)) : answers (.fwd b sub 1 x) s P :=
      answers_run _ _ (fun d => (d.ecc x).fwd b sc 1) P (exec_fwd b sub 1 x s) hp (hfwd ▸ h)
    refine ⟨fun hy hv => hans ?_, fun y hy h0 hn ht hv => hans ?_, fun y hy h => hans ?_⟩
    · exact Dev.fwdAct_reads_first hdone hy ((hok _ _).trans hv)
    · exact Dev.fwdAct_reads_next hdone hy h0 hn ht ((hok _ _).trans hv)
    · rw [Dev.fwdAct_converts hy h]
      exact Dev.convertPhase_advances hdone
  case cover =>
    intro b x v rest hw hs
    have hecc := Evolves.quietEcc (d := s.dev) (x := x)
    refine answers_run _ _ _ _ (exec_cover b 1 x s) hp (Dev.cover_corrects ?_ ((Dev.work_congr (hecc.keeps .spg (by decide)) _).trans hw))
    simpa only [Dev.spargeSlot, Dev.running_congr (hecc.keeps .run (by decide))] using hs
  case window =>
    refine fun t w rest hw => ⟨fun hs => ?_, fun hs => answers_run _ _ _ _ (exec_rmWindowClose t s) hp ?_⟩
    · rw [exec_rmWindowClose, execRmWindowClose, State.run_powered _ _ hp, Dev.windowClose_stale (d := s.dev.quiet) hs]
    · rw [Dev.windowClose_closes (d := s.dev.quiet) hw hs]
      obtain ⟨seq, free, hstats, hseq⟩ := (s.dev.quiet.setMonitor t { s.dev.quiet.monitor t with full := rest }).closeWindow_publishes t w
      refine ⟨?_, _, hstats, rfl, rfl, rfl, fun old hold => congrArg (fun n => (n + 1) % 2 ^ 16) (hseq old hold)⟩
      rw [Dev.monitor_congr (Evolves.closeWindow.keeps .rmOpen (by decide)), Dev.monitor_setMonitor_same]

end Sys2Proof.Machine
end

section
/-!
SUPPORT and the settling of O24: the pools of correction units that the sparge units of the basins draw on (R100).
-/

namespace Sys2Proof.Machine

/-! ### A basin's pool after one is set -/

@[simp] theorem Dev.pool_setPool_same (d : Dev) (b n : Nat) : (d.setPool b n).pool b = n := SMap.get_set_same _ _ _ _

theorem Dev.pool_setPool_other (d : Dev) (b k n : Nat) (h : k ≠ b) : (d.setPool b n).pool k = d.pool k := SMap.get_set_other _ _ _ _ _ h

@[simp] theorem Dev.setPool_work (d : Dev) (b n : Nat) : (d.setPool b n).spg.work = d.spg.work := rfl

@[simp] theorem Dev.setPool_stats (d : Dev) (b n : Nat) : (d.setPool b n).spg.stats = d.spg.stats := rfl

/-! ### The statement -/

/-- Settles O24: the command is one write to the basin's pool, and pools are kept under different keys. -/
theorem spargePeriodFillsPool : Obligations.SpargePeriodFillsPool := by
  intro b s hp
  refine answers_run _ _ (fun d => d.setPool b poolFull) _ (exec_spargePeriod b s) hp ⟨?full, ?others, ?work, ?stats, ?parts⟩
  case full => exact Dev.pool_setPool_same _ _ _
  case others => exact fun k hk => Dev.pool_setPool_other _ _ _ _ hk
  case work => exact Dev.setPool_work _ _ _
  case stats => exact Dev.setPool_stats _ _ _
  case parts => exact (Evolves.refl.step .quiet |>.step .setPool).keeps

end Sys2Proof.Machine
end

section
/-!
SUPPORT. What a loop over the device leaves behind, where each of its steps writes one place.
-/

namespace Sys2Proof.Machine

section
variable {α β : Type} {g : Dev → α → Dev} {key : α → Nat} {read : Dev → Nat → β}

/-- A place that no step writes reads as before the loop. -/
theorem foldl_read_other (hother : ∀ d x k, k ≠ key x → read (g d x) k = read d k) {xs : List α} {k : Nat} (hk : k ∉ xs.map key) (d : Dev) :
    read (xs.foldl g d) k = read d k := by
  induction xs generalizing d with
  | nil => rfl
  | cons x xs ih =>
    rw [List.map_cons, List.mem_cons, not_or] at hk
    exact (ih hk.2 _).trans (hother d x k hk.1)

/-- Where the places are distinct, each reads as its own step makes it from what stood there before the loop. -/
theorem foldl_read_same {upd : α → β → β} (hsame : ∀ d x, read (g d x) (key x) = upd x (read d (key x)))
    (hother : ∀ d x k, k ≠ key x → read (g d x) k = read d k) {xs : List α} (hn : (xs.map key).Nodup) {x : α} (hx : x ∈ xs) (d : Dev) :
    read (xs.foldl g d) (key x) = upd x (read d (key x)) := by
  induction xs generalizing d with
  | nil => exact absurd hx List.not_mem_nil
  | cons y xs ih =>
    rw [List.map_cons, List.nodup_cons] at hn
    rcases List.mem_cons.mp hx with rfl | hx
    · exact (foldl_read_other hother hn.1 _).trans (hsame d x)
    · have hkey : key x ≠ key y := fun h => hn.1 (h ▸ List.mem_map_of_mem hx)
      rw [List.foldl_cons, ih hn.2 hx, hother d y _ hkey]

end

end Sys2Proof.Machine
end

section
/-!
PROOF. The pulse rounds of the rack controllers: their start, their periods (O25) and their end.
-/

namespace Sys2Proof.Machine

/-! ### The round in progress and the place in the queue -/

@[simp] theorem Dev.round_setRound_same (d : Dev) (t : Nat) (r : PulseRound) : (d.setRound t r).round t = some r := SMap.find?_insert_same _ _ _

@[simp] theorem Dev.round_endRound_same (d : Dev) (t : Nat) : (d.endRound t).round t = none := SMap.find?_erase_same _ _

@[simp] theorem Dev.queueCursor_setCursor_same (d : Dev) (t n : Nat) : (d.setCursor t n).queueCursor t = n := SMap.get_set_same _ _ _ _

/-- The rounds stand in the racks' part of the device. -/
theorem Dev.round_congr {d e : Dev} (h : e.rack = d.rack) (t : Nat) : e.round t = d.round t := by rw [Dev.round, Dev.round, h]

/-! ### A period of a round (R125) -/

theorem Dev.pulsePeriod_idle {d : Dev} {t : Nat} (h : d.round t = none) (mask : Nat) : d.pulsePeriod t mask = d := by
  unfold Dev.pulsePeriod
  rw [h]

theorem Dev.pulsePeriod_over {d : Dev} {t : Nat} {r : PulseRound} (h : d.round t = some r)
    (ho : r.period = 6 ∨ r.entries.all (·.verified) = true) (mask : Nat) : d.pulsePeriod t mask = d := by
  unfold Dev.pulsePeriod
  rw [h]
  exact if_pos ho

/-- The cells that have verified are written after the period is counted, and no write of a cell reaches the round. -/
theorem Dev.round_pulsePeriod {d : Dev} {t : Nat} {r : PulseRound} (h : d.round t = some r)
    (ho : ¬ (r.period = 6 ∨ r.entries.all (·.verified) = true)) (mask : Nat) :
    (d.pulsePeriod t mask).round t = some ⟨verifyMarks mask 0 r.entries, r.period + 1⟩ := by
  unfold Dev.pulsePeriod
  rw [h]
  dsimp only
  rw [if_neg ho]
  have hcells := Evolves.foldl (g := fun d (e : RoundEntry) => if e.verified then d.setCell t e.row e.col e.target else d)
    (xs := verifyMarks mask 0 r.entries) (Evolves.refl (l := [.cells]) (d := d.setRound t ⟨verifyMarks mask 0 r.entries, r.period + 1⟩))
    fun _ _ h => .ite (h.step .setCell) h
  rw [Dev.round_congr (hcells.keeps .rack (by decide)), Dev.round_setRound_same]

/-- Settles O25: by the round of the Tun, none, over or going on. -/
theorem pulsePeriodVerifies : Obligations.PulsePeriodVerifies := by
  intro b i v s hp
  refine ⟨fun hidle => ?_, fun r hr => ?_⟩
  · rw [exec_pulsePeriod, execPulsePeriod, State.run_powered _ _ hp, Dev.pulsePeriod_idle (d := s.dev.quiet) hidle]
  · split
    next hover =>
      rw [exec_pulsePeriod, execPulsePeriod, State.run_powered _ _ hp, Dev.pulsePeriod_over (d := s.dev.quiet) hr hover]
    next hgoes =>
      exact answers_run _ _ _ _ (exec_pulsePeriod b i v s) hp
        ⟨Dev.round_pulsePeriod (d := s.dev.quiet) hr hgoes _, (Evolves.refl.step .quiet |>.step .pulsePeriod).keeps⟩

/-! ### The start of a round (R123, R125) -/

section
variable {d e : Dev} (h : d.keepsBut [.cnt, .poison] e)
include h

theorem Dev.queueLen_congr (t : Nat) : e.queueLen t = d.queueLen t := by
  have hrack : e.rack = d.rack := h .rack (by decide)
  simp only [Dev.queueLen, hrack, Dev.rd_congr (h .mem (by decide)) (h .lsEpoch (by decide)), Dev.queueCountAddr, Dev.rackBase,
    Dev.fld_congr d e _ (h .regs (by decide))]

theorem Dev.queueEntry_congr (t k : Nat) : e.queueEntry t k = d.queueEntry t k := by
  have hrack : e.rack = d.rack := h .rack (by decide)
  simp only [Dev.queueEntry, hrack, Dev.rd_congr (h .mem (by decide)) (h .lsEpoch (by decide)), Dev.queueAddr, Dev.rackBase,
    Dev.fld_congr d e _ (h .regs (by decide))]

theorem Dev.pendEntries_congr (t bank n : Nat) : e.pendEntries t bank n = d.pendEntries t bank n := by
  simp only [Dev.pendEntries, Dev.pendAddr, Dev.rd_congr (h .mem (by decide)) (h .lsEpoch (by decide)), Dev.fld_congr d e _ (h .regs (by decide))]

theorem Dev.eligible_congr (t row col : Nat) : e.eligible t row col = d.eligible t row col := by
  have hrack : e.rack = d.rack := h .rack (by decide)
  have hstamp : e.stampAddr t row col = d.stampAddr t row col := congrArg (· * 2 ^ 32 + _ + _) (Dev.fld_congr d e _ (h .regs (by decide)))
  have hepoch : e.epoch = d.epoch := Dev.fld_congr d e _ (h .regs (by decide))
  unfold Dev.eligible Dev.pendCount
  rw [Dev.pendEntries_congr h, hstamp, hepoch, hrack, Dev.rd_congr (h .mem (by decide)) (h .lsEpoch (by decide))]

theorem Dev.cell_congr (t r c : Nat) : e.cell t r c = d.cell t r c := by
  have hcells : e.cells = d.cells := h .cells (by decide)
  rw [Dev.cell, Dev.cell, hcells]

/-- What the memories report changes nothing of what the controller reads from its queue. -/
theorem Dev.pickEntries_congr (t fuel n k : Nat) : e.pickEntries t fuel n k = d.pickEntries t fuel n k := by
  induction fuel generalizing n k with
  | zero => simp only [Dev.pickEntries]
  | succ fuel ih =>
    cases n with
    | zero => simp only [Dev.pickEntries]
    | succ n =>
      simp only [Dev.pickEntries, Dev.queueLen_congr h, Dev.queueEntry_congr h, Dev.eligible_congr h, Dev.cell_congr h, ih]

theorem Dev.slotFor_congr (b i kind : Nat) : e.slotFor b i kind = d.slotFor b i kind := by
  simp only [Dev.slotFor, Dev.running_congr (h .run (by decide))]

theorem Dev.roundAllowed_congr (r : Running) (t now : Nat) : e.roundAllowed r t now = d.roundAllowed r t now := by
  have hrack : e.rack = d.rack := h .rack (by decide)
  have hfrm : e.frm = d.frm := h .frm (by decide)
  simp only [Dev.roundAllowed, Dev.round, hrack, hfrm]

end

/-- Where a round may start and some entry is eligible, the round stands last and the place in the queue before it. -/
theorem Dev.startRound_starts {d : Dev} {b i now : Nat} {r : Running} (hs : d.slotFor b i 3 = some r)
    (ha : d.roundAllowed r (64 * b + i) now = true) (hc : d.pendCount (64 * b + i) + 16 ≤ 1024) {p : List RoundEntry × Nat × Nat}
    (hp : d.pickEntries (64 * b + i) 65552 16 (d.queueCursor (64 * b + i)) = p) (hne : p.1 ≠ []) :
    (d.startRound b i now).round (64 * b + i) = some ⟨p.1, 0⟩ ∧ (d.startRound b i now).queueCursor (64 * b + i) = p.2.2 := by
  unfold Dev.startRound
  simp only [hs, ha, hp, Bool.not_true, Bool.false_eq_true, if_false, if_neg (Nat.not_lt.mpr hc), List.isEmpty_iff, hne]
  exact ⟨Dev.round_setRound_same _ _ _, Dev.queueCursor_setCursor_same _ _ _⟩

/-! ### The end of a round (R125, R128) -/

theorem finalLevels_map_fst (es : List RoundEntry) (levels : List Int) : (finalLevels es levels).map Prod.fst = es := by
  induction es generalizing levels with
  | nil => rfl
  | cons e es ih =>
    unfold finalLevels
    split <;> simp [ih]

/-- At the end of a round a weight of it takes its final level; a weight that has changed is entered as pending (R129). -/
def Dev.settleWeight (t : Nat) (d : Dev) (p : RoundEntry × Int) : Dev :=
  let d := d.setCell t p.1.row p.1.col p.2
  if p.2 = p.1.start then d
  else (d.addPending t ⟨p.1.start, p.2, p.1.row, p.1.col⟩).bump Cnt.TUN_RACK_WRITE_CNT

/-- A round that is over is counted with its failures, and then its weights settle one by one. -/
theorem Dev.roundEnd_over {d : Dev} {t : Nat} {r : PulseRound} (h : d.round t = some r)
    (ho : r.period = 6 ∨ r.entries.all (·.verified) = true) (levels : List Int) :
    d.roundEnd t levels = (finalLevels r.entries levels).foldl (Dev.settleWeight t)
      (((d.endRound t).bump Cnt.TUN_RACK_ROUND_CNT).bumpBy Cnt.TUN_RACK_VFAIL_CNT (r.entries.filter fun e => !e.verified).length) := by
  unfold Dev.roundEnd
  rw [h]
  exact if_neg (by rcases ho with ho | ho <;> simp [ho])

@[simp] theorem Dev.round_setPendCount (d : Dev) (t n k : Nat) : (d.setPendCount t n).round k = d.round k := rfl

theorem Dev.addPending_round (d : Dev) (t k : Nat) (p : PendEntry) : (d.addPending t p).round k = d.round k := by
  unfold Dev.addPending
  rw [Dev.round_setPendCount, Dev.round_congr (Dev.wr_rack _ _ _ _), Dev.round_congr (Dev.wr_rack _ _ _ _)]

theorem Dev.settleWeight_round (d : Dev) (t : Nat) (p : RoundEntry × Int) : (d.settleWeight t p).round t = d.round t := by
  unfold Dev.settleWeight
  split
  · rfl
  · rw [Dev.round_congr (Dev.bump_rack _ _), Dev.addPending_round]
    rfl

theorem Dev.settleWeight_count (d : Dev) (t : Nat) (p : RoundEntry × Int) {c : Nat} (hc : c ≠ Cnt.TUN_RACK_WRITE_CNT) :
    (d.settleWeight t p).count c = d.count c := by
  unfold Dev.settleWeight
  split
  · rfl
  · rw [Dev.count_bump_other _ _ _ hc, Dev.count_congr _ _ _ (Evolves.addPending.keeps .cnt (by decide))]
    rfl

theorem Dev.settleWeight_cells (d : Dev) (t : Nat) (p : RoundEntry × Int) :
    (d.settleWeight t p).cells = (d.setCell t p.1.row p.1.col p.2).cells := by
  unfold Dev.settleWeight
  split
  · rfl
  · rw [Dev.bump_cells]
    exact Evolves.addPending.keeps .cells (by decide)

/-- Cells of one Tun lie under different keys. -/
theorem cellKey_inj {t r c r' c' : Nat} (hc : c < 512) (hc' : c' < 512) (h : cellKey t r c = cellKey t r' c') : r = r' ∧ c = c' := by
  unfold cellKey at h
  omega

/-- At the end of a round that is over no round is in progress, and the round is counted. -/
theorem Dev.roundEnd_counts {d : Dev} {t : Nat} {r : PulseRound} (h : d.round t = some r) (ho : r.period = 6 ∨ r.entries.all (·.verified) = true)
    (levels : List Int) : (d.roundEnd t levels).round t = none ∧
      (d.roundEnd t levels).count Cnt.TUN_RACK_ROUND_CNT = min cntMax (d.count Cnt.TUN_RACK_ROUND_CNT + 1) := by
  rw [Dev.roundEnd_over h ho]
  refine List.foldlRecOn
    (motive := fun e : Dev => e.round t = none ∧ e.count Cnt.TUN_RACK_ROUND_CNT = min cntMax (d.count Cnt.TUN_RACK_ROUND_CNT + 1)) _ _ ⟨?_, ?_⟩ fun e he p _ => ⟨(e.settleWeight_round t p).trans he.1, (e.settleWeight_count t p (by decide)).trans he.2⟩
  · exact Dev.round_endRound_same d t
  · exact (Dev.count_bumpBy_other _ _ _ _ (by decide)).trans (Dev.count_bump_same _ _)

/-- The weights of a round of distinct cells keep their keys when they take their final levels. -/
theorem finalLevels_cellKeys_nodup (t : Nat) {es : List RoundEntry} (hn : (es.map fun x => (x.row, x.col)).Nodup)
    (hin : ∀ x ∈ es, x.row < 512 ∧ x.col < 512) (levels : List Int) :
    ((finalLevels es levels).map fun p => cellKey t p.1.row p.1.col).Nodup := by
  have hkeys : (finalLevels es levels).map (fun p => cellKey t p.1.row p.1.col) = es.map fun x => cellKey t x.row x.col := by
    conv_rhs => rw [← finalLevels_map_fst es levels, List.map_map]
    rfl
  rw [hkeys]
  refine List.Nodup.map_on (fun x hx y hy hxy => ?_) hn.of_map
  exact List.inj_on_of_nodup_map hn hx hy (Prod.ext_iff.mpr (cellKey_inj (hin x hx).2 (hin y hy).2 hxy))

/-- Each weight of a round of distinct cells holds its final level (R128). -/
theorem Dev.roundEnd_cells {d : Dev} {t : Nat} {r : PulseRound} (h : d.round t = some r) (ho : r.period = 6 ∨ r.entries.all (·.verified) = true)
    {levels : List Int} (hn : (r.entries.map fun x => (x.row, x.col)).Nodup) (hin : ∀ x ∈ r.entries, x.row < 512 ∧ x.col < 512)
    {p : RoundEntry × Int} (hp : p ∈ finalLevels r.entries levels) : (d.roundEnd t levels).cell t p.1.row p.1.col = p.2 := by
  rw [Dev.roundEnd_over h ho]
  refine foldl_read_same (g := Dev.settleWeight t) (read := fun e k => SMap.get (fun _ => 0) e.cells k) (key := fun p => cellKey t p.1.row p.1.col)
    (upd := fun p _ => p.2) (fun e q => ?_) (fun e q k hk => ?_) (finalLevels_cellKeys_nodup t hn hin levels) hp _
  · rw [Dev.settleWeight_cells]
    exact SMap.get_set_same _ _ _ _
  · rw [Dev.settleWeight_cells]
    exact SMap.get_set_other _ _ _ _ _ hk

end Sys2Proof.Machine
end

section
/-!
PROOF. Folds, calibrations and Tun checks, and what pulse rounds, folds and calibrations come to (O49).
-/

namespace Sys2Proof.Machine

/-! ### The fold of a basin (R131) -/

/-- The fold of one Tun of a basin: its bank, its staged table and its fit. -/
def Dev.foldStep (b : Nat) (d : Dev) (i : Nat) : Dev := ((d.foldTun (64 * b + i)).installWot (64 * b + i)).installFit (64 * b + i)

/-- A basin's fold folds its Tuns in rising order and then ends. -/
theorem Dev.foldComplete_folding {d : Dev} {b : Nat} (h : b ∈ d.rack.folding) :
    d.foldComplete b = { (List.range 64).foldl (Dev.foldStep b) d with
      rack := { ((List.range 64).foldl (Dev.foldStep b) d).rack with
        folding := ((List.range 64).foldl (Dev.foldStep b) d).rack.folding.filter (· ≠ b) } } := by
  unfold Dev.foldComplete
  rw [if_pos (List.contains_iff_mem.mpr h)]
  generalize List.range 64 = l
  rfl

theorem Dev.foldComplete_idle {d : Dev} {b : Nat} (h : b ∉ d.rack.folding) : d.foldComplete b = d := by
  unfold Dev.foldComplete
  exact if_neg (mt List.contains_iff_mem.mp h)

theorem Dev.foldTun_foldPend (d : Dev) (t : Nat) : (d.foldTun t).rack.foldPend = SMap.set (fun _ => 0) d.rack.foldPend t 0 := by
  unfold Dev.foldTun
  dsimp only
  rw [Evolves.writeFold.keeps .rack (by decide), Evolves.readStep.keeps .rack (by decide)]

theorem Dev.installWot_foldPend (d : Dev) (t : Nat) : (d.installWot t).rack.foldPend = d.rack.foldPend := by
  unfold Dev.installWot
  split
  · have hwrites (e : Dev) (src n : Nat) (l : List Nat) : Evolves [.mem, .poison] e (l.foldl (fun d a => d.write a (d.read src n)) e) :=
      .foldl .refl fun _ _ h => h.step .write
    dsimp only
    rw [(hwrites _ _ _ _).keeps .rack (by decide), Evolves.readStep.keeps .rack (by decide)]
  · rfl

theorem Dev.installFit_foldPend (d : Dev) (t : Nat) : (d.installFit t).rack.foldPend = d.rack.foldPend := by
  unfold Dev.installFit
  split <;> rfl

theorem Dev.foldStep_foldPend (d : Dev) (b i : Nat) :
    (d.foldStep b i).rack.foldPend = SMap.set (fun _ => 0) d.rack.foldPend (64 * b + i) 0 := by
  rw [Dev.foldStep, Dev.installFit_foldPend, Dev.installWot_foldPend, Dev.foldTun_foldPend]

/-- The fold of a Tun empties its bank, and that of another leaves it empty. -/
theorem Dev.foldSteps_foldPend (d : Dev) (b : Nat) {l : List Nat} (hn : l.Nodup) {i : Nat} (hi : i ∈ l) :
    SMap.get (fun _ => 0) (l.foldl (Dev.foldStep b) d).rack.foldPend (64 * b + i) = 0 := by
  refine foldl_read_same (g := Dev.foldStep b) (read := fun e k => SMap.get (fun _ => 0) e.rack.foldPend k) (key := fun i => 64 * b + i)
    (upd := fun _ _ => 0) (fun e j => ?_) (fun e j k hk => ?_) (hn.map fun x y hxy => Nat.add_left_cancel hxy) hi d
  · rw [Dev.foldStep_foldPend]
    exact SMap.get_set_same _ _ _ _
  · rw [Dev.foldStep_foldPend]
    exact SMap.get_set_other _ _ _ _ _ hk

/-- After its fold a basin folds no more, and the banks of its Tuns are empty. -/
theorem Dev.foldComplete_empties {d : Dev} {b : Nat} (h : b ∈ d.rack.folding) :
    b ∉ (d.foldComplete b).rack.folding ∧ ∀ i < 64, SMap.get (fun _ => 0) (d.foldComplete b).rack.foldPend (64 * b + i) = 0 := by
  have hbanks (i : Nat) (hi : i < 64) := Dev.foldSteps_foldPend d b List.nodup_range (List.mem_range.mpr hi)
  rw [Dev.foldComplete_folding h]
  generalize (List.range 64).foldl (Dev.foldStep b) d = e at hbanks ⊢
  exact ⟨by simp, hbanks⟩

/-! ### Requests for runs (R147) -/

theorem pendingKey_ne {b k : Nat} (h : k ≠ b) : (Reg.KLN_STATUS_PENDING k).key ≠ (Reg.KLN_STATUS_PENDING b).key := by
  simp only [Reg.KLN_STATUS_PENDING, Field.key]
  omega

theorem Dev.kilnRequest_pending (d : Dev) (b : Nat) (measured : Bool) : (d.kilnRequest b measured).fld (Reg.KLN_STATUS_PENDING b) =
    max (d.fld (Reg.KLN_STATUS_PENDING b)) (if measured then 2 else 1) := by
  have hwidth : (if measured then 2 else 1) % 2 ^ (Reg.KLN_STATUS_PENDING b).w = if measured then 2 else 1 := by cases measured <;> rfl
  unfold Dev.kilnRequest
  dsimp only
  generalize (if measured = true then 2 else 1) = want at hwidth ⊢
  by_cases hnone : d.fld (Reg.KLN_STATUS_PENDING b) = 0
  · rw [if_pos hnone, Dev.fld_setFld_same, hwidth, hnone, Nat.zero_max]
  · rw [if_neg hnone]
    split
    next hless => rw [Dev.fld_setFld_same, hwidth, max_eq_right hless.le]
    next hmerge => exact (max_eq_left (Nat.not_lt.mp hmerge)).symm

theorem Dev.kilnRequest_pending_other (d : Dev) (measured : Bool) {b k : Nat} (h : k ≠ b) :
    (d.kilnRequest b measured).fld (Reg.KLN_STATUS_PENDING k) = d.fld (Reg.KLN_STATUS_PENDING k) := by
  have hset (v : Nat) := Dev.fld_setFld_other d _ _ v (pendingKey_ne h)
  unfold Dev.kilnRequest
  exact iteInduction (motive := fun e : Dev => e.fld _ = _) (fun _ => hset _) fun _ =>
    iteInduction (motive := fun e : Dev => e.fld _ = _) (fun _ => hset _) fun _ => rfl

/-- A basin that is named waits for the greater of the two kinds, and any other for what it did. -/
theorem Dev.kilnRequests_pending (d : Dev) (basins : Nat) (measured : Bool) {b : Nat} (hb : b < 32) :
    (d.kilnRequests basins measured).fld (Reg.KLN_STATUS_PENDING b) =
      if bit basins b then max (d.fld (Reg.KLN_STATUS_PENDING b)) (if measured then 2 else 1) else d.fld (Reg.KLN_STATUS_PENDING b) := by
  unfold Dev.kilnRequests
  refine foldl_read_same (read := fun e k => e.fld (Reg.KLN_STATUS_PENDING k)) (key := fun k => k)
    (upd := fun b v => if bit basins b then max v (if measured then 2 else 1) else v) (fun e k => ?_) (fun e k j hj => ?_)
    (by rw [List.map_id']; exact List.nodup_range) (List.mem_range.mpr hb) d
  · split
    · exact Dev.kilnRequest_pending e k measured
    · rfl
  · split
    · exact Dev.kilnRequest_pending_other e measured hj
    · rfl

/-! ### A unit of a calibration (Table 6.3) -/

theorem Dev.working_congr {d e : Dev} (h : e.kln.working = d.kln.working) (t k : Nat) : e.working t k = d.working t k := by
  rw [Dev.working, Dev.working, h]

@[simp] theorem Dev.working_setWorking_same (d : Dev) (t k v : Nat) : (d.setWorking t k v).working t k = v := SMap.get_set_same _ _ _ _

theorem Dev.working_setWorking_other (d : Dev) (t v : Nat) {k j : Nat} (h : j ≠ k) : (d.setWorking t k v).working t j = d.working t j :=
  SMap.get_set_other _ _ _ _ _ (by unfold trimKey; omega)

@[simp] theorem Dev.kilnRun_setKilnRun_same (d : Dev) (b : Nat) (r : Option KilnRun) : (d.setKilnRun b r).kilnRun b = r :=
  SMap.get_set_same _ _ _ _

/-- Each column of a list takes its measured gain, where one was measured. -/
theorem Dev.takeGains_working (d : Dev) (t : Nat) (m : KilnMeas) {l : List Nat} (hn : l.Nodup) {c : Nat} (hc : c ∈ l) :
    (l.foldl (fun d c => d.setWorking t c (m.gains.getD c (d.working t c))) d).working t c = m.gains.getD c (d.working t c) :=
  foldl_read_same (g := fun d c => d.setWorking t c (m.gains.getD c (d.working t c))) (read := fun e k => e.working t k) (key := fun c => c)
    (upd := fun c v => m.gains.getD c v) (fun _ _ => Dev.working_setWorking_same _ _ _ _) (fun _ _ _ h => Dev.working_setWorking_other _ _ _ h)
    (by rwa [List.map_id']) hc d

/-- Units 1 to 16 take the measured gains and one reference code. -/
theorem Dev.unitWork_working {d : Dev} {b i u : Nat} (r : KilnRun) (m : KilnMeas) (h₁ : 1 ≤ u) (h₁₆ : u ≤ 16) :
    (∀ c < 512, (d.unitWork b i u r m).working (64 * b + i) c = m.gains.getD c (d.working (64 * b + i) c)) ∧
      (d.unitWork b i u r m).working (64 * b + i) (1040 + (u - 1)) = min 63 m.reference := by
  unfold Dev.unitWork
  rw [if_neg (by omega), if_pos h₁₆]
  refine ⟨fun c hc => ?_, Dev.working_setWorking_same _ _ _ _⟩
  rw [Dev.working_setWorking_other _ _ _ (by omega)]
  exact Dev.takeGains_working d _ m List.nodup_range (List.mem_range.mpr hc)

/-- After a unit of a MEASURED calibration but the last the run goes on with the next one. -/
theorem Dev.afterUnit_goesOn (d : Dev) {b i u : Nat} (r : KilnRun) (m : KilnMeas) (hu : u ≠ 17) :
    d.afterUnit b i u true r m =
      (Dev.setKilnRun { d with kln := { d.kln with applied := (64 * b + i) :: d.kln.applied.filter (· ≠ 64 * b + i) } } b
        (some { r with part := (i, u + 1, true) :: r.part.filter fun p => p.1 ≠ i })).showRun b := by
  unfold Dev.afterUnit
  simp [hu]

theorem Dev.kilnRun_congr {d e : Dev} (h : e.kln = d.kln) (b : Nat) : e.kilnRun b = d.kilnRun b := by rw [Dev.kilnRun, Dev.kilnRun, h]

theorem Dev.tunUnit_congr {d e : Dev} (h : e.kln = d.kln) (b i : Nat) (r : KilnRun) : e.tunUnit b i r = d.tunUnit b i r := by
  simp only [Dev.tunUnit, Dev.validSets, Dev.setBad, Dev.storeBytes, Dev.storeCode, h]

theorem Dev.unitReads_congr {d e : Dev} (hregs : e.regs = d.regs) (hrack : e.rack = d.rack) (hpoison : e.poison = d.poison) (t : Nat) :
    e.unitReads t = d.unitReads t := by
  simp only [Dev.unitReads, Dev.poisoned, Dev.tunImage, Dev.pendAddr, Dev.pendCount, Dev.fld_congr d e _ hregs, hrack, hpoison]

/-- The words that the memories report as failed join those that stood as poisoned. -/
theorem Dev.ecc_poison (d : Dev) (x : Ecc) :
    (d.ecc x).poison = x.failed.foldl (fun p a => if p.contains (a / 8) then p else (a / 8) :: p) d.poison := by
  have hcounts := Evolves.foldl (l := [.cnt]) (d := d) (xs := x.corrected)
    (g := fun e a => if e.hbm a 1 then e.bump (Cnt.MEM_HBM_CORR_CNT (stackOf a)) else e.bump Cnt.MEM_LS_CORR_CNT)
    .refl fun _ _ h => .ite (h.step .bump) (h.step .bump)
  exact congrArg (fun p => x.failed.foldl _ p) (hcounts.keeps .poison (by decide))

/-- What a unit finds uncorrectable does not depend on what the device has sent. -/
theorem Dev.unitReads_quiet (d : Dev) (x : Ecc) (t : Nat) : (d.quiet.ecc x).unitReads t = (d.ecc x).unitReads t := by
  have hquiet : d.keepsBut [.cnt, .poison] (d.quiet.ecc x) := Evolves.quietEcc.keeps
  have hecc : d.keepsBut [.cnt, .poison] (d.ecc x) := Evolves.ecc.keeps
  refine Dev.unitReads_congr ?_ ?_ ?_ t
  · exact (hquiet .regs (by decide)).trans (hecc .regs (by decide)).symm
  · exact (hquiet .rack (by decide)).trans (hecc .rack (by decide)).symm
  · rw [Dev.ecc_poison, Dev.ecc_poison, Dev.quiet_poison]

/-- Where the slot, the order, the time and the memories allow it, the Tun's next unit is done. -/
theorem Dev.kilnUnit_works {d : Dev} {b i now u : Nat} {sl : Running} {r : KilnRun} (m : KilnMeas) (hs : d.slotFor b i 4 = some sl)
    (hr : d.kilnRun b = some r) (hu : d.tunUnit b i r = (u, true)) (h₁ : 1 ≤ u) (h₁₆ : u ≤ 16) (hd : i ∉ r.done)
    (hb : i ∉ (d.kln.blocked.filter fun t => t / 64 == b).map fun t => t % 64)
    (hn : sl.slot.sub ≠ 0xFF ∨ r.next ((d.kln.blocked.filter fun t => t / 64 == b).map fun t => t % 64) = some i)
    (hf : d.frm.frozen = false) (ht : now + 250 ≤ sl.slot.stop) (hm : d.unitReads (64 * b + i) = []) :
    d.kilnUnit b i now m = (d.unitWork b i u r m).afterUnit b i u true r m := by
  unfold Dev.kilnUnit
  rw [hs, hr]
  dsimp only
  rw [hu, if_neg, if_neg]
  · simp [hm]
  · have hlast : (u == 17 || (u == 0 && !true)) = false := by simp; omega
    have horder : (sl.slot.sub == 0xFF && r.next ((d.kln.blocked.filter fun t => t / 64 == b).map fun t => t % 64) != some i) = false := by
      rcases hn with hn | hn <;> simp [hn]
    simp only [List.contains_eq_mem, hd, hb, horder, hf, hlast]
    simpa using ht

/-- A unit from 1 to 16 of a MEASURED calibration leaves the measured codes and the next unit. -/
theorem Dev.measuredUnit_leaves (d : Dev) {b i u : Nat} (r : KilnRun) (m : KilnMeas) (h₁ : 1 ≤ u) (h₁₆ : u ≤ 16) :
    (∀ c < 512, ((d.unitWork b i u r m).afterUnit b i u true r m).working (64 * b + i) c = m.gains.getD c (d.working (64 * b + i) c)) ∧
    ((d.unitWork b i u r m).afterUnit b i u true r m).working (64 * b + i) (1040 + (u - 1)) = min 63 m.reference ∧
    ∃ q, ((d.unitWork b i u r m).afterUnit b i u true r m).kilnRun b = some q ∧ (i, u + 1, true) ∈ q.part ∧ q.done = r.done := by
  obtain ⟨hgains, href⟩ := Dev.unitWork_working (d := d) (b := b) (i := i) r m h₁ h₁₆
  rw [Dev.afterUnit_goesOn _ r m (by omega)]
  have hshow (e : Dev) : (e.showRun b).kln = e.kln := Evolves.showRun.keeps .kln (by decide)
  refine ⟨fun c hc => ?_, ?_, ?_⟩
  · rw [Dev.working_congr (congrArg Kln.working (hshow _))]
    exact hgains c hc
  · rw [Dev.working_congr (congrArg Kln.working (hshow _))]
    exact href
  · rw [Dev.kilnRun_congr (hshow _), Dev.kilnRun_setKilnRun_same]
    exact ⟨_, rfl, List.mem_cons_self, rfl⟩

/-! ### A Tun check (R402) -/

theorem Dev.sentSlot_congr {d e : Dev} (h : d.keepsBut [.cnt, .poison] e) (key : Nat) : e.sentSlot key = d.sentSlot key := by
  have hfrm : e.frm = d.frm := h .frm (by decide)
  simp only [Dev.sentSlot, Dev.running_congr (h .run (by decide)), hfrm]

theorem Dev.sentEntry_congr {d e : Dev} (h : d.keepsBut [.cnt, .poison] e) (cls unit : Nat) : e.sentEntry cls unit = d.sentEntry cls unit := by
  have hvariants : e.variants = d.variants := h .variants (by decide)
  simp only [Dev.sentEntry, Dev.program, Dev.variant, Dev.active, hvariants, Dev.fld_congr d e _ (h .regs (by decide))]

/-- Whatever a check finds, its slot is complete before its outcome is reported. -/
theorem Dev.tunSentinel_completes {d : Dev} {b sub : Nat} {r : Running} {y : SentEntry} (hs : d.sentSlot (unitKey 1 b sub) = some r)
    (hy : d.sentEntry 1 b = some y) : (d.tunSentinel b sub).running? (unitKey 1 b sub) = some { r with complete := true, done := r.total } := by
  unfold Dev.tunSentinel
  dsimp only
  rw [hs, hy]
  dsimp only
  refine iteInduction (motive := fun e : Dev => e.running? (unitKey 1 b sub) = some { r with complete := true, done := r.total })
    (fun _ => Dev.running_set_same _ _ _) fun _ => ?_
  have hafter {e f : Dev} (h : Evolves [.regs, .cnt, .mem, .poison, .draws, .red, .mbx, .flt] e f) (k : Nat) : f.running? k = e.running? k :=
    Dev.running_congr (h.keeps .run (by decide)) k
  exact (hafter (.ite .refl (.when (Evolves.refl.step .put_flt |>.step .sentOutcome) fun h => h.step .setSentUnit)) _).trans
    (Dev.running_set_same _ _ _)

/-! ### The statement -/

/-- Settles O49: rounds and folds through the Tuns and cells that they write one by one, a unit through the codes and the place that it leaves,
requests basin by basin, a Tun check through the record of its slot. -/
theorem arraysRackAndCalibrate : Obligations.ArraysRackAndCalibrate := by
  intro s hp
  have hecc (x : Ecc) : s.dev.keepsBut [.cnt, .poison] (s.dev.quiet.ecc x) := Evolves.quietEcc.keeps
  have hrack (x : Ecc) : (s.dev.quiet.ecc x).rack = s.dev.rack := hecc x .rack (by decide)
  refine ⟨fun b i => ⟨?start, ?finish, ?unit⟩, ?fold, ?requests, ?check⟩
  case start =>
    intro now x r hs ha hc picked hne
    have hcursor : (s.dev.quiet.ecc x).queueCursor (64 * b + i) = s.dev.queueCursor (64 * b + i) := by rw [Dev.queueCursor, hrack, Dev.queueCursor]
    have hpend : (s.dev.quiet.ecc x).pendCount (64 * b + i) = s.dev.pendCount (64 * b + i) := by rw [Dev.pendCount, hrack, Dev.pendCount]
    refine answers_run _ _ _ _ (exec_pulseRound b i now x s) hp (Dev.startRound_starts (r := r) ?_ ?_ ?_ ?_ hne)
    · exact (Dev.slotFor_congr (hecc x) _ _ _).trans hs
    · exact (Dev.roundAllowed_congr (hecc x) _ _ _).trans ha
    · exact hpend ▸ hc
    · rw [hcursor, Dev.pickEntries_congr (hecc x)]
  case finish =>
    intro levels r hr ho
    obtain ⟨hround, hcount⟩ := Dev.roundEnd_counts (d := s.dev.quiet) hr ho levels
    exact answers_run _ _ _ _ (exec_pulseRoundEnd b i levels s) hp
      ⟨hround, hcount, fun hn hin p hmem => Dev.roundEnd_cells (d := s.dev.quiet) hr ho hn hin hmem⟩
  case unit =>
    intro now m x sl r u stopped hs hr hu h₁ h₁₆ hd hb hn hf ht hm
    have hkln : (s.dev.quiet.ecc x).kln = s.dev.kln := hecc x .kln (by decide)
    have hfrm : (s.dev.quiet.ecc x).frm = s.dev.frm := hecc x .frm (by decide)
    have hworks : (s.dev.quiet.ecc x).kilnUnit b i now m = ((s.dev.quiet.ecc x).unitWork b i u r m).afterUnit b i u true r m :=
      Dev.kilnUnit_works m ((Dev.slotFor_congr (hecc x) _ _ _).trans hs) ((Dev.kilnRun_congr hkln _).trans hr)
        ((Dev.tunUnit_congr hkln _ _ _).trans hu) h₁ h₁₆ hd (hkln ▸ hb) (hkln ▸ hn) (hfrm ▸ hf) ht ((Dev.unitReads_quiet _ _ _).trans hm)
    obtain ⟨hgains, hleaves⟩ := Dev.measuredUnit_leaves (s.dev.quiet.ecc x) (b := b) (i := i) r m h₁ h₁₆
    refine answers_run _ _ _ _ (exec_kilnUnit b i now m x s) hp ?_
    rw [hworks]
    exact ⟨fun c hc => (hgains c hc).trans (congrArg _ (Dev.working_congr (congrArg Kln.working hkln) _ _)), hleaves⟩
  case fold =>
    intro b x
    split
    next hfolds => exact answers_run _ _ _ _ (exec_foldComplete b x s) hp (Dev.foldComplete_empties (by rwa [hrack]))
    next hidle => rw [exec_foldComplete, execFoldComplete, State.run_powered _ _ hp, Dev.foldComplete_idle (by rwa [hrack])]
  case requests =>
    exact fun v => ⟨answers_run _ _ _ _ (exec_klnReqInterp v s) hp fun b hb => Dev.kilnRequests_pending s.dev.quiet v.toNat false hb,
      answers_run _ _ _ _ (exec_klnReqMeasured v s) hp fun b hb => Dev.kilnRequests_pending s.dev.quiet v.toNat true hb⟩
  case check =>
    intro b sub x r y key hs hy
    refine answers_run _ _ _ _ (exec_tunCheck b sub x s) hp ?_
    exact Dev.tunSentinel_completes ((Dev.sentSlot_congr (hecc x) _).trans hs) ((Dev.sentEntry_congr (hecc x) _ _).trans hy)

end Sys2Proof.Machine
end

section
/-!
The settling of O26: the working copies that stand applied, less the one of the Tun whose KILN slot ends (R149).
-/

namespace Sys2Proof.Machine

/-- Settles O26: the Tuns whose working copy is applied are filtered by being another Tun, which is one write to the Kiln controller's state. -/
theorem kilnRestoreReleasesTrims : Obligations.KilnRestoreReleasesTrims := by
  intro b i s hp
  refine answers_run _ _ _ _ (exec_kilnRestore b i s) hp ⟨fun t => ?applied, ?others, ?parts⟩
  case applied => exact List.mem_filter.trans (and_congr_right fun _ => decide_eq_true_iff)
  case others => rfl
  case parts => exact (Evolves.refl.step .quiet |>.step .put_kln).keeps

end Sys2Proof.Machine
end

section
/-!
SUPPORT. The registers of the vector units: what a code reads as after a destination is written, and what the writes of an instruction leave of
the program's place (R207).
-/

namespace Sys2Proof.Machine

/-! ### What the registers are read from -/

theorem Dev.vecPos_congr {d e : Dev} (h : e.mxc.pos = d.mxc.pos) (c : Nat) : e.vecPos c = d.vecPos c := by rw [Dev.vecPos, Dev.vecPos, h]

theorem vregKey_eq_iff {c r j k q i : Nat} (hr : r < 0xF0) (hj : j < 64) (hq : q < 0xF0) (hi : i < 64) :
    vregKey k q i = vregKey c r j ↔ k = c ∧ q = r ∧ i = j := by
  unfold vregKey
  omega

/-! ### A destination that is written -/

/-- Lanes `js` of vector register `r`, written one by one. -/
def Dev.setLanes (d : Dev) (c r : Nat) (vals : Nat → Nat) (js : List Nat) : Dev := js.foldl (fun d j => d.setLane c r j (vals j)) d

theorem Dev.dst_vector {r : Nat} (h : r % 256 < 0xF0) (d : Dev) (c : Nat) (vals : Nat → Nat) :
    d.dst c r vals = d.setLanes c (r % 256) vals (List.range 64) := if_pos h

theorem Dev.dst_scalar {r : Nat} (h : ¬ r % 256 < 0xF0) (d : Dev) (c : Nat) (vals : Nat → Nat) :
    d.dst c r vals = d.setScalar c (r % 256 - 0xF0) (vals 0) := if_neg h

/-- The lanes of vector registers stand in one map of the vector units' state, and a write of lanes changes that map alone. -/
theorem Dev.setLanes_mxc (d : Dev) (c r : Nat) (vals : Nat → Nat) (js : List Nat) :
    (d.setLanes c r vals js).mxc = { d.mxc with vreg := (d.setLanes c r vals js).mxc.vreg } := by
  refine List.foldlRecOn (motive := fun e : Dev => e.mxc = { d.mxc with vreg := e.mxc.vreg }) js _ rfl fun e he j _ => ?_
  simp only [Dev.setLane]
  rw [he]

theorem Dev.dst_mxc (d : Dev) (c r : Nat) (vals : Nat → Nat) :
    (d.dst c r vals).mxc = { d.mxc with vreg := (d.dst c r vals).mxc.vreg, sreg := (d.dst c r vals).mxc.sreg } := by
  by_cases hr : r % 256 < 0xF0
  · rw [Dev.dst_vector hr, Dev.setLanes_mxc]
  · rw [Dev.dst_scalar hr]
    rfl

@[simp] theorem Dev.dst_pos (d : Dev) (c r : Nat) (vals : Nat → Nat) : (d.dst c r vals).mxc.pos = d.mxc.pos := by rw [Dev.dst_mxc]

/-- R207: a vector register holds the value of each lane, a scalar that of lane 0. -/
@[simp] theorem Dev.src_dst_same (d : Dev) (c r : Nat) (vals : Nat → Nat) {j : Nat} (hj : j < 64) :
    (d.dst c r vals).src c r j = vals (if r % 256 < 0xF0 then j else 0) % m32 := by
  unfold Dev.src
  by_cases hr : r % 256 < 0xF0
  · rw [if_pos hr, if_pos hr, Dev.dst_vector hr]
    refine foldl_read_same (read := fun e k => SMap.get (fun _ => 0) e.mxc.vreg k) (key := vregKey c (r % 256))
      (upd := fun j _ => vals j % m32) (fun e i => SMap.get_set_same _ _ _ _) (fun e i k hk => SMap.get_set_other _ _ _ _ _ hk) ?_
      (List.mem_range.mpr hj) d
    exact List.nodup_range.map fun x y hxy => Nat.add_left_cancel hxy
  · rw [if_neg hr, if_neg hr, Dev.dst_scalar hr]
    exact SMap.get_set_same _ _ _ _

/-- Every other register, of this cluster and of others, reads as before. -/
theorem Dev.src_dst_other (d : Dev) (vals : Nat → Nat) {c r k q i : Nat} (h : k ≠ c ∨ q % 256 ≠ r % 256) (hi : i < 64) :
    (d.dst c r vals).src k q i = d.src k q i := by
  unfold Dev.src
  by_cases hr : r % 256 < 0xF0
  · rw [Dev.dst_vector hr]
    split
    next hq =>
      refine foldl_read_other (read := fun e k => SMap.get (fun _ => 0) e.mxc.vreg k) (key := vregKey c (r % 256))
        (fun e j k hk => SMap.get_set_other _ _ _ _ _ hk) ?_ d
      simp only [List.mem_map, List.mem_range, not_exists, not_and]
      intro j hj hkey
      obtain ⟨hc, hreg, -⟩ := (vregKey_eq_iff hq hi hr hj).mp hkey
      omega
    next => rw [Dev.setLanes_mxc]
  · rw [Dev.dst_scalar hr]
    split
    next => rfl
    next => exact SMap.get_set_other _ _ _ _ _ (by omega)

/-! ### The end of an instruction -/

theorem Dev.nextInsn_src (d : Dev) (c k r j : Nat) : (d.nextInsn c).src k r j = d.src k r j := rfl

/-- The program goes on from where it stood before the instruction. -/
theorem Dev.nextInsn_pc {d e : Dev} (h : e.mxc.pos = d.mxc.pos) (c : Nat) : ((e.nextInsn c).vecPos c).pc = (d.vecPos c).pc + 1 := by
  rw [Dev.nextInsn, Dev.vecPos, Dev.setPos, SMap.get_set_same, Dev.vecPos_congr h]

/-- An instruction whose MODE must be 0, with MODE 0. -/
theorem Dev.insn_plain {op : Nat} {c : Nat} {w : VWord} {f : Dev → Dev} (h : plainOp c w op = some f) (hm : w.mode = 0) (d : Dev) :
    d.insn c op w = (f d).nextInsn c := by
  unfold Dev.insn
  rw [h]
  exact if_pos hm

end Sys2Proof.Machine
end

section
/-!
PROOF. The instructions of the vector unit with two results (O20).
-/

namespace Sys2Proof.Machine

/-- R169: the pair lies in DST and DST + 1, both taken from the sources as they stood before. -/
theorem Dev.lanePairs_src (d : Dev) (c : Nat) (w : VWord) (f : Nat → Nat → Nat × Nat) {j : Nat} (hj : j < 64) :
    (let r := w.dst.toNat
    let pair := fun i => f (d.src c w.sa.toNat i) (d.src c w.sb.toNat i)
    (d.lanePairs c w f).src c r j = (pair (if r < 0xF0 then j else 0)).1 % m32 ∧
      (d.lanePairs c w f).src c (r + 1) j = (pair (if (r + 1) % 256 < 0xF0 then j else 0)).2 % m32) := by
  have hcode : w.dst.toNat % 256 = w.dst.toNat := Nat.mod_eq_of_lt w.dst.isLt
  refine ⟨?_, Dev.src_dst_same _ _ _ _ hj⟩
  rw [Dev.lanePairs, Dev.src_dst_other _ _ (.inr (by omega)) hj, Dev.src_dst_same _ _ _ _ hj, hcode]

/-- A two-result instruction in a powered device writes its pairs, and changes nothing but the vector unit. -/
theorem answers_lanePairs {i : Instr} {c : Fin 128} {w : VWord} {s : State} {op : Nat} {f : Nat → Nat → Nat × Nat}
    (hexec : exec i s = s.issue c op w) (hop : plainOp c w op = some fun d => d.lanePairs c w f) (hp : s.dev.powered = true) (hm : w.mode = 0) :
    answers i s fun e =>
      (let r := w.dst.toNat
      let pair := fun i => f (s.dev.src c w.sa.toNat i) (s.dev.src c w.sb.toNat i)
      ∀ j < 64, e.src c r j = (pair (if r < 0xF0 then j else 0)).1 % 2 ^ 32 ∧
        e.src c (r + 1) j = (pair (if (r + 1) % 256 < 0xF0 then j else 0)).2 % 2 ^ 32) ∧ s.dev.keepsBut [.mxc] e := by
  refine answers_run _ _ _ _ hexec hp ?_
  rw [Dev.insn_plain hop hm]
  simp only [Dev.nextInsn_src]
  exact ⟨fun j hj => Dev.lanePairs_src s.dev.quiet c w f hj, (Evolves.refl.step .quiet |>.step .lanePairs |>.step .nextInsn).keeps⟩

/-- The pair of FAST2SUM: TWOSUM's, but for a low part that is not stated where |a| < |b| and a is not 0. -/
def fast2Sum (a b : Nat) : Nat × Nat :=
  if (f32 a).isZero || !(f32 a).abs.lt (f32 b).abs then twoSum a b else ((twoSum a b).1, openResult 0x19 (a * m32 + b))

theorem vFast2Sum_eq (c : Nat) (w : VWord) (d : Dev) : vFast2Sum c w d = d.lanePairs c w fast2Sum := rfl

theorem fast2Sum_sum (a b : Nat) : (fast2Sum a b).1 = (twoSum a b).1 := by
  unfold fast2Sum
  split <;> rfl

/-- R169: FAST2SUM's precondition. -/
theorem fast2Sum_eq_twoSum {a b : Nat} (h : ((f32 a).isZero || !(f32 a).abs.lt (f32 b).abs) = true) : fast2Sum a b = twoSum a b := if_pos h

/-- Settles O20: the three are the same writes of pairs, and FAST2SUM's pairs are TWOSUM's as far as R169 says. -/
theorem vectorPairResults : Obligations.VectorPairResults := by
  intro c w s hp hm
  refine ⟨?twosum, ?twoprod, ?fast2sum⟩
  case twosum => exact answers_lanePairs (f := twoSum) (exec_vTwosum c w s) rfl hp hm
  case twoprod => exact answers_lanePairs (f := twoProd) (exec_vTwoprod c w s) rfl hp hm
  case fast2sum =>
    obtain ⟨t, ht, hpend, hpairs, hkeeps⟩ :=
      answers_lanePairs (exec_vFast2sum c w s) (congrArg some (funext (vFast2Sum_eq c w))) hp hm
    refine ⟨t, ht, hpend, fun j hj => ?_, hkeeps⟩
    obtain ⟨hsum, hlow⟩ := hpairs j hj
    exact ⟨fast2Sum_sum _ _ ▸ hsum, fun hpre => fast2Sum_eq_twoSum hpre ▸ hlow⟩

end Sys2Proof.Machine
end

section
/-!
SUPPORT. Reads of device memory after a write: the bytes beside it, numbers of any length, and numbers that are written and read whole (R8).
-/

namespace Sys2Proof.Machine

theorem leNat_natLe (n v : Nat) : leNat (natLe n v) = v % 256 ^ n := by
  induction n generalizing v with
  | zero => rw [pow_zero, Nat.mod_one]; rfl
  | succ n ih => rw [natLe, leNat, ih, pow_succ', Nat.mod_mul]; rfl

theorem length_natLe (n v : Nat) : (natLe n v).length = n := by
  induction n generalizing v with
  | zero => rfl
  | succ n ih => rw [natLe, List.length_cons, ih]

theorem leNat_lt (bs : List Byte) : leNat bs < 256 ^ bs.length := by
  induction bs with
  | nil => exact Nat.one_pos
  | cons b bs ih =>
    have hb : b.toNat < 256 := b.isLt
    rw [leNat, List.length_cons, pow_succ']
    omega

theorem Dev.rd_lt (d : Dev) (a n : Nat) : d.rd a n < 256 ^ n := by
  have hlength : (d.read a n).length = n := by rw [Dev.read, List.length_map, List.length_range]
  exact (leNat_lt _).trans_eq (congrArg _ hlength)

theorem Dev.byte_congr {d e : Dev} (hm : e.mem = d.mem) (hl : e.lsEpoch = d.lsEpoch) (a : Nat) : e.byte a = d.byte a := by
  rw [Dev.byte, Dev.byte, hm, hl]

/-- Bytes above a write stay. -/
theorem memWrite_get_above (epoch : Nat) (bs : List Byte) (m : List Host.Cell) (a k : Nat) (h : a + bs.length ≤ k) :
    SMap.get (memDefault epoch) (memWrite epoch m a bs) k = SMap.get (memDefault epoch) m k := by
  induction bs generalizing m a with
  | nil => rfl
  | cons b bs ih =>
    rw [List.length_cons] at h
    exact (ih _ _ (by omega)).trans (SMap.get_set_other _ _ _ _ _ (by omega))

theorem Dev.byte_write_outside (d : Dev) {a k : Nat} {bs : List Byte} (h : k < a ∨ a + bs.length ≤ k) : (d.write a bs).byte k = d.byte k :=
  h.elim (memWrite_get_below _ _ _ _ _) (memWrite_get_above _ _ _ _ _)

theorem Dev.byte_write_inside (d : Dev) (a : Nat) {i : Nat} {bs : List Byte} (h : i < bs.length) : (d.write a bs).byte (a + i) = bs[i] :=
  memWrite_get_inside _ _ _ _ _ h

theorem Dev.rd_write_outside (d : Dev) {a k n : Nat} {bs : List Byte} (h : k + n ≤ a ∨ a + bs.length ≤ k) : (d.write a bs).rd k n = d.rd k n := by
  have hread : (d.write a bs).read k n = d.read k n :=
    List.map_congr_left fun i hi => Dev.byte_write_outside d (by have := List.mem_range.mp hi; omega)
  rw [Dev.rd, hread, Dev.rd]

/-- A number that is written reads as its low bytes. -/
theorem Dev.rd_wr_same (d : Dev) (a n v : Nat) : (d.wr a n v).rd a n = v % 256 ^ n := by
  have hlength := length_natLe n v
  refine (Dev.rd_write d a 0 n (natLe n v) (by omega)).trans ?_
  rw [rdLe, List.drop_zero, List.take_of_length_le hlength.le, leNat_natLe]

end Sys2Proof.Machine
end

section
/-!
PROOF. The loads and stores of the vector unit and its generator of random numbers (Table 8.7, R207, R212).
-/

namespace Sys2Proof.Machine

/-! ### RNG -/

/-- R212: the generator's four words stand in DST to DST + 3. -/
theorem vRng_src (d : Dev) (c : Nat) (w : VWord) (hr : w.dst.toNat < 0xED) {j : Nat} (hj : j < 64) :
    (let g := philox (d.seed c) (d.src c w.sa.toNat j + 2 ^ 32 * d.src c w.sb.toNat j)
    let r := w.dst.toNat
    (vRng c w d).src c r j = g.1 % 2 ^ 32 ∧ (vRng c w d).src c (r + 1) j = g.2.1 % 2 ^ 32 ∧ (vRng c w d).src c (r + 2) j = g.2.2.1 % 2 ^ 32 ∧
      (vRng c w d).src c (r + 3) j = g.2.2.2 % 2 ^ 32) := by
  have hother (e : Dev) (vals : Nat → Nat) {r q : Nat} (h : q % 256 ≠ r % 256) : (e.dst c r vals).src c q j = e.src c q j :=
    Dev.src_dst_other e vals (.inr h) hj
  have hvector {k : Nat} (hk : k < 4) : (w.dst.toNat + k) % 256 < 0xF0 := by omega
  have hcode : w.dst.toNat % 256 < 0xF0 := by omega
  have hword : m32 = 2 ^ 32 := rfl
  unfold vRng
  refine ⟨?_, ?_, ?_, ?_⟩
  · rw [hother _ _ (by omega), hother _ _ (by omega), hother _ _ (by omega), Dev.src_dst_same _ _ _ _ hj, if_pos hcode, hword]
  · rw [hother _ _ (by omega), hother _ _ (by omega), Dev.src_dst_same _ _ _ _ hj, if_pos (hvector (by decide)), hword]
  · rw [hother _ _ (by omega), Dev.src_dst_same _ _ _ _ hj, if_pos (hvector (by decide)), hword]
  · rw [Dev.src_dst_same _ _ _ _ hj, if_pos (hvector (by decide)), hword]

theorem vRng_pos (d : Dev) (c : Nat) (w : VWord) : (vRng c w d).mxc.pos = d.mxc.pos := by
  unfold vRng
  simp only [Dev.dst_pos]

/-! ### LD and GLD -/

/-- A lane that reaches the window holds the word there, as it stood before the load. -/
theorem Dev.loadLanes_src (d : Dev) (c : Nat) (w : VWord) (addr : Nat → Option Nat) (hr : w.dst.toNat < 0xF0) {j a : Nat} (hj : j < 64)
    (ha : addr j = some a) : (d.loadLanes c w addr).src c w.dst.toNat j = d.rd a 4 := by
  have hcode : w.dst.toNat % 256 < 0xF0 := by omega
  refine (Dev.src_dst_same _ _ _ _ hj).trans ?_
  rw [if_pos hcode, ha]
  exact Nat.mod_eq_of_lt (d.rd_lt a 4)

theorem Dev.loadLanes_pos (d : Dev) (c : Nat) (w : VWord) (addr : Nat → Option Nat) : (d.loadLanes c w addr).mxc.pos = d.mxc.pos :=
  (Dev.dst_pos _ _ _ _).trans (congrArg Mxc.pos (Evolves.readChecks.keeps .mxc (by decide)))

/-! ### ST -/

/-- One lane stores its value where it reaches the window. -/
def Dev.storeLane (c : Nat) (lane : Nat → Option Nat) (v : Nat → Nat) (d : Dev) (j : Nat) : Dev :=
  match lane j with
  | some a => (d.wr a 4 (v j)).produce (unitKey 2 c 0) [(a, 4)]
  | none => d

/-- The lanes below `n` store in rising order. -/
def Dev.storeLanes (d : Dev) (c : Nat) (lane : Nat → Option Nat) (v : Nat → Nat) (n : Nat) : Dev := (List.range n).foldl (Dev.storeLane c lane v) d

section
variable {c : Nat} {lane : Nat → Option Nat} {v : Nat → Nat} (d : Dev)

theorem Dev.storeLanes_succ (n : Nat) : d.storeLanes c lane v (n + 1) = (d.storeLanes c lane v n).storeLane c lane v n := by
  rw [Dev.storeLanes, List.range_succ, List.foldl_append]
  rfl

theorem Dev.storeLane_none {j : Nat} (h : lane j = none) : d.storeLane c lane v j = d := by
  unfold Dev.storeLane
  rw [h]

/-- But for the late mark of its task's output, a lane that stores is a write. -/
theorem Dev.storeLane_some {j a : Nat} (h : lane j = some a) : Evolves [.late] (d.wr a 4 (v j)) (d.storeLane c lane v j) := by
  unfold Dev.storeLane
  rw [h]
  exact .produce

theorem Dev.storeLanes_evolves (n : Nat) : Evolves [.mem, .poison, .late] d (d.storeLanes c lane v n) := by
  refine .foldl .refl fun e j h => ?_
  match ha : lane j with
  | none => rwa [Dev.storeLane_none e ha]
  | some a => exact h.step .wr |>.step (Dev.storeLane_some e ha)

theorem Dev.byte_storeLane {j k : Nat} (h : ∀ a, lane j = some a → k < a ∨ a + 4 ≤ k) : (d.storeLane c lane v j).byte k = d.byte k := by
  match ha : lane j with
  | none => rw [Dev.storeLane_none d ha]
  | some a =>
    have hlate := Dev.storeLane_some (c := c) (v := v) d ha
    rw [Dev.byte_congr (hlate.keeps .mem (by decide)) (hlate.keeps .lsEpoch (by decide))]
    exact Dev.byte_write_outside d (h a ha)

theorem Dev.rd_storeLane_same {j a : Nat} (ha : lane j = some a) : (d.storeLane c lane v j).rd a 4 = v j % m32 := by
  have hlate := Dev.storeLane_some (c := c) (v := v) d ha
  rw [Dev.rd_congr (hlate.keeps .mem (by decide)) (hlate.keeps .lsEpoch (by decide))]
  exact Dev.rd_wr_same _ _ _ _

theorem Dev.rd_storeLane_other {j x : Nat} (h : ∀ a, lane j = some a → x + 4 ≤ a ∨ a + 4 ≤ x) : (d.storeLane c lane v j).rd x 4 = d.rd x 4 := by
  match ha : lane j with
  | none => rw [Dev.storeLane_none d ha]
  | some a =>
    have hlate := Dev.storeLane_some (c := c) (v := v) d ha
    rw [Dev.rd_congr (hlate.keeps .mem (by decide)) (hlate.keeps .lsEpoch (by decide))]
    exact Dev.rd_write_outside d (h a ha)

/-- A byte that no lane reaches stays. -/
theorem Dev.byte_storeLanes {n k : Nat} (h : ∀ j < n, ∀ a, lane j = some a → k < a ∨ a + 4 ≤ k) :
    (d.storeLanes c lane v n).byte k = d.byte k := by
  induction n with
  | zero => rfl
  | succ n ih =>
    rw [Dev.storeLanes_succ, Dev.byte_storeLane _ (h n (Nat.lt_succ_self n))]
    exact ih fun j hj => h j (by omega)

/-- A lane's word stands where no higher lane stores over it. -/
theorem Dev.rd_storeLanes {n j a : Nat} (hj : j < n) (ha : lane j = some a)
    (h : ∀ k < n, j < k → ∀ b, lane k = some b → a + 4 ≤ b ∨ b + 4 ≤ a) : (d.storeLanes c lane v n).rd a 4 = v j % m32 := by
  induction n with
  | zero => exact absurd hj (Nat.not_lt_zero j)
  | succ n ih =>
    rw [Dev.storeLanes_succ]
    rcases Nat.lt_succ_iff_lt_or_eq.mp hj with hlt | rfl
    · rw [Dev.rd_storeLane_other _ (h n (Nat.lt_succ_self n) hlt)]
      exact ih hlt fun k hk => h k (by omega)
    · exact Dev.rd_storeLane_same _ ha

end

/-- Where lane `j` of an ST stores (Table 8.7). -/
def Dev.stLane (d : Dev) (c : Nat) (w : VWord) (j : Nat) : Option Nat := laneAddr c (d.src c w.sa.toNat j) (d.src c w.sb.toNat j) j (modeOff w)

/-- The stores of an ST. -/
def Dev.stStores (d : Dev) (c : Nat) (w : VWord) : Dev := d.storeLanes c (d.stLane c w) (fun j => d.src c w.dst.toNat j) 64

/-- ST stores, and counts the lanes into a histogram where its MODE says so (R213). -/
theorem vSt_eq (c : Nat) (w : VWord) (d : Dev) : vSt c w d = if w.mode.toNat.testBit 20 then
    (d.stStores c w).countInto c (bits w.mode.toNat 23 21) 0 ((List.range 64).map fun j => (f32 (d.src c w.dst.toNat j), false, false))
    else d.stStores c w := rfl

/-- After the stores the memory stays. -/
theorem vSt_stores (c : Nat) (w : VWord) (d : Dev) : Evolves [.mxc] (d.stStores c w) (vSt c w d) :=
  vSt_eq c w d ▸ .ite (.step .refl .countInto) .refl

/-- ST leaves the registers and the program's place alone. -/
theorem vSt_mxc (c : Nat) (w : VWord) (d : Dev) : (vSt c w d).mxc.vreg = d.mxc.vreg ∧ (vSt c w d).mxc.pos = d.mxc.pos := by
  have hmxc : (d.stStores c w).mxc = d.mxc := (Dev.storeLanes_evolves d 64).keeps .mxc (by decide)
  rw [vSt_eq, ← hmxc]
  generalize d.stStores c w = e
  split <;> exact ⟨rfl, rfl⟩

theorem vSt_byte {c : Nat} {w : VWord} (d : Dev) {k : Nat} (h : ∀ j < 64, ∀ a, d.stLane c w j = some a → k < a ∨ a + 4 ≤ k) :
    (vSt c w d).byte k = d.byte k :=
  have hmem := (vSt_stores c w d).keeps
  (Dev.byte_congr (hmem .mem (by decide)) (hmem .lsEpoch (by decide)) k).trans (Dev.byte_storeLanes d h)

theorem vSt_rd {c : Nat} {w : VWord} (d : Dev) {j a : Nat} (hj : j < 64) (ha : d.stLane c w j = some a)
    (h : ∀ k < 64, j < k → ∀ b, d.stLane c w k = some b → a + 4 ≤ b ∨ b + 4 ≤ a) : (vSt c w d).rd a 4 = d.src c w.dst.toNat j % m32 :=
  have hmem := (vSt_stores c w d).keeps
  (Dev.rd_congr (hmem .mem (by decide)) (hmem .lsEpoch (by decide)) a 4).trans (Dev.rd_storeLanes d hj ha h)

end Sys2Proof.Machine
end

section
/-!
PROOF. CVT of a register of FP32 values into a 16-bit format (R171 to R173).
-/

namespace Sys2Proof.Machine

/-! ### The elements of an issue -/

theorem cvtShape_unsized {f : Fmt} (hf : f.tiled = false) (n : Nat) : cvtShape f 0 n = ⟨n + 1, 64⟩ := by
  unfold cvtShape
  rw [if_pos (Nat.zero_mod m32), hf]
  rfl

section
variable {f : Fmt} (ht : f.tiled = false) (hb : f.blocked = false) (n : Nat)
include ht hb

theorem Shape.padded_plain (s : Shape) : s.padded f = s := by
  rw [Shape.padded, ht, hb]
  rfl

theorem Shape.issues_rows : Shape.issues f ⟨n + 1, 64⟩ = n + 1 := by
  have hceil : ceilDiv ((n + 1) * 64) 64 = n + 1 := by unfold ceilDiv; omega
  rw [Shape.issues, Shape.padded_plain ht hb, ht]
  exact (congrArg (max 1) hceil).trans (by omega)

/-- Each issue is a row of 64 elements. -/
theorem cvtPos_rows (r : Nat) {j : Nat} (hj : j < 64) : cvtPos f ⟨n + 1, 64⟩ n r j = (n, j) := by
  rw [cvtPos, Shape.padded_plain ht hb, ht]
  exact Prod.ext (by change (64 * n + j) / 64 = n; omega) (by change (64 * n + j) % 64 = j; omega)

end

/-- An FP32 source lies in registers, whatever its code is. -/
theorem Dev.cvtIn_fp32 (d : Dev) (c : Nat) {w : VWord} {m : CvtMode} (hm : m.srcF = .fp32) (s : Shape) (q : Nat × Nat) (r j : Nat) :
    d.cvtIn c w m s q r j = decode .fp32 (d.src c (w.sa.toNat + r) j % 2 ^ 32) := by
  unfold Dev.cvtIn
  rw [hm]
  have hstored : storedOper w.sa.toNat .fp32 = false := Bool.and_false _
  simp only [hstored]
  rfl

/-! ### The results of an issue -/

section
variable {m : CvtMode} (ht : m.dstF.tiled = false) (hb : m.dstF.blocked = false) (he : m.dstF ≠ .ep32)
include ht hb he

theorem Dev.cvtOut_plain (d : Dev) (c : Nat) (w : VWord) (s : Shape) (p : Nat) (x : Nat → Nat → FVal) (rm : Nat → Nat → RMode) (r j : Nat) :
    (d.cvtOut c w m s p x rm r j).code = (roundInto m.dstF (rm r j) m.spec (x r j)).code := by
  unfold Dev.cvtOut
  simp [ht, hb, he]

theorem Dev.cvtPut_register {w : VWord} (hr : w.dst.toNat < 0xF0) (d : Dev) (c : Nat) (s : Shape) (p : Nat) (out : Nat → Nat → CvtOut) :
    d.cvtPut c w m s p out = d.dst c w.dst.toNat fun j => (out 0 j).code := by
  have hstored : storedOper w.dst.toNat m.dstF = false := by unfold storedOper; simp; omega
  unfold Dev.cvtPut Dev.cvtRegs
  simp [hstored, ht, hb, he, List.range_one]

end

/-- The shape that the next issue of a CVT converts in. -/
def Dev.cvtShapeOf (d : Dev) (c : Nat) (w : VWord) (m : CvtMode) : Shape := cvtShape m.dstF (d.src c w.sc.toNat 0) (d.issues c w.dst.toNat)

/-- The number of the next issue in its tensor. -/
def Dev.cvtIssueOf (d : Dev) (c : Nat) (w : VWord) (m : CvtMode) : Nat := d.issues c w.dst.toNat % (d.cvtShapeOf c w m).issues m.dstF

/-- What the next issue of a CVT stores for the element in lane `j` of source register `r`. -/
def Dev.cvtResult (d : Dev) (c : Nat) (w : VWord) (m : CvtMode) : Nat → Nat → CvtOut :=
  let s := d.cvtShapeOf c w m
  let q := cvtPos m.dstF s (d.cvtIssueOf c w m)
  d.cvtOut c w m s (d.cvtIssueOf c w m) (fun r j => if s.holds (q r j) then d.cvtIn c w m s (q r j) r j else .fin false 0 0) fun r j =>
    rmOf m.rm (d.seed c) ((q r j).1 * s.cols + (q r j).2)

/-- After its results are put a CVT into another format than W32 counts, and changes no register and not the program's place. -/
theorem vCvt_mxc {m : CvtMode} (hw : m.dstF ≠ .w32) (c : Nat) (w : VWord) (d : Dev) :
    ∃ e : Dev, e.mxc = d.mxc ∧ ∃ h i, (vCvt c w m d).mxc =
      { (e.cvtPut c w m (d.cvtShapeOf c w m) (d.cvtIssueOf c w m) (d.cvtResult c w m)).mxc with hist := h, elem := i } := by
  refine ⟨d.readChecks (unitKey 2 c 0) (d.cvtReads c w m (d.cvtShapeOf c w m)), Evolves.readChecks.keeps .mxc (by decide), ?_⟩
  unfold vCvt
  simp only [if_neg hw]
  split <;> exact ⟨_, _, rfl⟩

/-- R172: where no shape is given, the element is lane `j` of SA, and its index in the destination counts on from the issues before. -/
theorem Dev.cvtResult_code {m : CvtMode} (ht : m.dstF.tiled = false) (hb : m.dstF.blocked = false) (he : m.dstF ≠ .ep32) (hs : m.srcF = .fp32)
    {c : Nat} {w : VWord} {d : Dev} (h0 : d.src c w.sc.toNat 0 = 0) {j : Nat} (hj : j < 64) : (d.cvtResult c w m 0 j).code =
      (roundInto m.dstF (rmOf m.rm (d.seed c) (64 * d.issues c w.dst.toNat + j)) m.spec (decode .fp32 (d.src c w.sa.toNat j % 2 ^ 32))).code := by
  have hshape : d.cvtShapeOf c w m = ⟨d.issues c w.dst.toNat + 1, 64⟩ := by rw [Dev.cvtShapeOf, h0, cvtShape_unsized ht]
  have hissue : d.cvtIssueOf c w m = d.issues c w.dst.toNat := by
    rw [Dev.cvtIssueOf, hshape, Shape.issues_rows ht hb]
    exact Nat.mod_eq_of_lt (Nat.lt_succ_self _)
  have hholds : Shape.holds ⟨d.issues c w.dst.toNat + 1, 64⟩ (d.issues c w.dst.toNat, j) = true := by simp [Shape.holds, hj]
  simp only [Dev.cvtResult, hshape, hissue, Dev.cvtOut_plain ht hb he, cvtPos_rows ht hb _ _ hj, hholds, if_true, Dev.cvtIn_fp32 d c hs,
    Nat.add_zero, Nat.mul_comm]

/-- R172, R173: each lane of DST holds its rounded code, and the program's place is as it was. -/
theorem vCvt_register {m : CvtMode} (hf : m.dstF = .bf16 ∨ m.dstF = .fp16) (hs : m.srcF = .fp32) {w : VWord} (hr : w.dst.toNat < 0xF0) {c : Nat}
    {d : Dev} (h0 : d.src c w.sc.toNat 0 = 0) : (vCvt c w m d).mxc.pos = d.mxc.pos ∧
      ∀ j < 64, (vCvt c w m d).src c w.dst.toNat j = (roundInto m.dstF (rmOf m.rm (d.seed c) (64 * d.issues c w.dst.toNat + j)) m.spec
        (decode .fp32 (d.src c w.sa.toNat j % 2 ^ 32))).code % m32 := by
  have ht : m.dstF.tiled = false := by rcases hf with h | h <;> rw [h] <;> rfl
  have hb : m.dstF.blocked = false := by rcases hf with h | h <;> rw [h] <;> rfl
  have he : m.dstF ≠ .ep32 := by rcases hf with h | h <;> rw [h] <;> decide
  have hw : m.dstF ≠ .w32 := by rcases hf with h | h <;> rw [h] <;> decide
  have hcode : w.dst.toNat % 256 < 0xF0 := by omega
  obtain ⟨e, hmxc, h, i, hcvt⟩ := vCvt_mxc hw c w d
  rw [Dev.cvtPut_register ht hb he hr] at hcvt
  refine ⟨?_, fun j hj => ?_⟩
  · rw [hcvt, ← hmxc]
    exact Dev.dst_pos _ _ _ _
  · rw [Dev.src, hcvt]
    refine (Dev.src_dst_same e _ _ _ hj).trans ?_
    rw [if_pos hcode, Dev.cvtResult_code ht hb he hs h0 hj]

end Sys2Proof.Machine
end

section
/-!
PROOF. CVT.TUNIN: the Tun input record that it writes (R179, Table 3.2).
-/

namespace Sys2Proof.Machine

/-! ### The parts of a record -/

/-- The elements that a CVT.TUNIN of FP32 registers converts: each one's code and outlier residual. -/
def Dev.tunElems (d : Dev) (c : Nat) (w : VWord) (m : CvtMode) : List (Nat × Option Nat) :=
  let n := d.src c w.dst.toNat 0
  let sIn := d.src c w.sb.toNat 0
  ((List.range n).map fun i => d.cvtIn c w m ⟨1, n⟩ (0, i) (i / 64) (i % 64)).mapIdx fun i x =>
    if tunScaleOk sIn then tunInElem (rmOf m.rm (d.seed c) i) x sIn else (8, none)

/-- The outlier list of a record. -/
def tunOutliers (el : List (Nat × Option Nat)) : List (List Byte) :=
  (el.mapIdx fun i p => (i, p.2)).filterMap fun p => p.2.map fun r => natLe 8 (r * m32 + p.1)

/-- The codes of a record of `n` elements, two to a byte. -/
def tunCodes (el : List (Nat × Option Nat)) (n : Nat) : List Byte :=
  (List.range ((n + 1) / 2)).map fun i => BitVec.ofNat 8 ((el.getD (2 * i) (0, none)).1 + 16 * (el.getD (2 * i + 1) (0, none)).1)

/-- A record without its outlier list. -/
def tunRecord (sIn : Nat) (el : List (Nat × Option Nat)) (n : Nat) : List Byte :=
  natLe 4 sIn ++ natLe 2 (tunOutliers el).length ++ List.replicate 10 0 ++ tunCodes el n

theorem tunCodes_length (el : List (Nat × Option Nat)) (n : Nat) : (tunCodes el n).length = (n + 1) / 2 := by
  rw [tunCodes, List.length_map, List.length_range]

theorem tunRecord_length (sIn : Nat) (el : List (Nat × Option Nat)) (n : Nat) : (tunRecord sIn el n).length = 16 + (tunCodes el n).length := by
  simp only [tunRecord, List.length_append, length_natLe, List.length_replicate]

theorem tunOutliers_length_le (el : List (Nat × Option Nat)) : (tunOutliers el).length ≤ el.length :=
  (List.length_filterMap_le _ _).trans_eq (List.length_mapIdx)

theorem tunRecord_scale (sIn : Nat) (el : List (Nat × Option Nat)) (n : Nat) : rdLe (tunRecord sIn el n) 0 4 = sIn % m32 := leNat_natLe 4 sIn

theorem tunRecord_count (sIn : Nat) (el : List (Nat × Option Nat)) (n : Nat) : rdLe (tunRecord sIn el n) 4 2 = (tunOutliers el).length % 2 ^ 16 :=
  leNat_natLe 2 _

theorem tunRecord_code (sIn : Nat) (el : List (Nat × Option Nat)) {n k : Nat} (hk : k < (tunCodes el n).length)
    (h : 16 + k < (tunRecord sIn el n).length) : (tunRecord sIn el n)[16 + k] = (tunCodes el n)[k] := by
  have hhead : (natLe 4 sIn ++ natLe 2 (tunOutliers el).length ++ List.replicate 10 0).length = 16 := rfl
  simp only [tunRecord]
  rw [List.getElem_append_right (by omega)]
  simp only [hhead, Nat.add_sub_cancel_left]

theorem tunOutliers_none {el : List (Nat × Option Nat)} (h : ∀ p ∈ el, p.2 = none) : tunOutliers el = [] := by
  refine List.filterMap_eq_nil_iff.mpr fun p hp => ?_
  obtain ⟨i, hi, rfl⟩ := List.mem_mapIdx.mp hp
  rw [h _ (List.getElem_mem hi)]
  rfl

/-! ### Its elements -/

theorem tunInElem_code_lt (rm : RMode) (x : FVal) (sIn : Nat) : (tunInElem rm x sIn).1 < 16 := by
  have hsigned (k : Int) : unsgn 4 k < 16 := by unfold unsgn; omega
  unfold tunInElem
  dsimp only
  split
  · split
    · exact hsigned _
    · dsimp only; split <;> decide
  · decide

section
variable {m : CvtMode} (hs : m.srcF = .fp32) (d : Dev) (c : Nat) (w : VWord)

theorem Dev.tunElems_length : (d.tunElems c w m).length = d.src c w.dst.toNat 0 := by
  simp only [Dev.tunElems, List.length_mapIdx, List.length_map, List.length_range]

include hs

theorem Dev.tunElems_getElem {i : Nat} (hi : i < (d.tunElems c w m).length) : (d.tunElems c w m)[i] =
    if tunScaleOk (d.src c w.sb.toNat 0) then
      tunInElem (rmOf m.rm (d.seed c) i) (decode .fp32 (d.src c (w.sa.toNat + i / 64) (i % 64) % 2 ^ 32)) (d.src c w.sb.toNat 0)
    else (8, none) := by
  simp only [Dev.tunElems, List.getElem_mapIdx, List.getElem_map, List.getElem_range, Dev.cvtIn_fp32 d c hs]

theorem Dev.tunElems_code_lt (i : Nat) : ((d.tunElems c w m).getD i (0, none)).1 < 16 := by
  by_cases hi : i < (d.tunElems c w m).length
  · rw [List.getD_eq_getElem _ _ hi, Dev.tunElems_getElem hs]
    split
    · exact tunInElem_code_lt _ _ _
    · decide
  · rw [List.getD_eq_default _ _ (Nat.not_lt.mp hi)]
    decide

/-- R179: an element's code, 8 where s_in is not fit. -/
theorem Dev.tunElems_code {i : Nat} (hi : i < d.src c w.dst.toNat 0) : ((d.tunElems c w m).getD i (0, none)).1 =
    if tunScaleOk (d.src c w.sb.toNat 0) then
      (tunInElem (rmOf m.rm (d.seed c) i) (decode .fp32 (d.src c (w.sa.toNat + i / 64) (i % 64) % 2 ^ 32)) (d.src c w.sb.toNat 0)).1 % 16
    else 8 := by
  rw [← Dev.tunElems_length (m := m)] at hi
  rw [List.getD_eq_getElem _ _ hi, Dev.tunElems_getElem hs]
  split
  · exact (Nat.mod_eq_of_lt (tunInElem_code_lt _ _ _)).symm
  · rfl

/-- R179: an s_in that is not fit has no outliers. -/
theorem Dev.tunElems_unfit (h : tunScaleOk (d.src c w.sb.toNat 0) = false) : tunOutliers (d.tunElems c w m) = [] := by
  refine tunOutliers_none fun p hp => ?_
  obtain ⟨i, hi, rfl⟩ := List.mem_iff_getElem.mp hp
  rw [Dev.tunElems_getElem hs, h]
  rfl

end

/-- The code of an element lies in its nibble. -/
theorem tunCodes_nibble {el : List (Nat × Option Nat)} (hel : ∀ i, (el.getD i (0, none)).1 < 16) {n i : Nat}
    (h : i / 2 < (tunCodes el n).length) : (if i % 2 = 0 then (tunCodes el n)[i / 2].toNat % 16 else (tunCodes el n)[i / 2].toNat / 16) =
      (el.getD i (0, none)).1 := by
  have hlow := hel (2 * (i / 2))
  have hhigh := hel (2 * (i / 2) + 1)
  simp only [tunCodes, List.getElem_map, List.getElem_range, BitVec.toNat_ofNat]
  split
  next heven =>
    have hi : i = 2 * (i / 2) := by omega
    rw [← hi] at hlow ⊢
    omega
  next hodd =>
    have hi : i = 2 * (i / 2) + 1 := by omega
    rw [← hi] at hhigh ⊢
    omega

/-! ### The record in memory -/

theorem align64_bounds (a : Nat) : a ≤ align64 a ∧ align64 a ≤ a + 63 := by
  unfold align64
  omega

/-- The record of a CVT.TUNIN. -/
def Dev.tunBody (d : Dev) (c : Nat) (w : VWord) (m : CvtMode) : List Byte :=
  tunRecord (d.src c w.sb.toNat 0) (d.tunElems c w m) (d.src c w.dst.toNat 0)

/-- What a CVT.TUNIN stores: its record and, at the next 64-byte boundary, its outlier list, where both lie in the window. -/
def Dev.tunStore (d : Dev) (c : Nat) (w : VWord) (m : CvtMode) : Dev :=
  let a := mxcBase c + d.src c w.sc.toNat 0
  let codes := (tunCodes (d.tunElems c w m) (d.src c w.dst.toNat 0)).length
  let outs := tunOutliers (d.tunElems c w m)
  if inMxc c a (16 + codes) && (outs.isEmpty || inMxc c (align64 (a + 16 + codes)) (8 * outs.length)) then
    ((d.write a (d.tunBody c w m)).write (align64 (a + 16 + codes)) outs.flatten).produce (unitKey 2 c 0)
      [(a, 16 + codes), (align64 (a + 16 + codes), 8 * outs.length)]
  else d

/-- What a CVT.TUNIN leaves beside its stores: counts where MODE says so (R213), and the free values drawn. -/
def Dev.tunCount (d : Dev) (c : Nat) (m : CvtMode) (es : List (FVal × Bool × Bool)) (n : Nat) : Dev :=
  let e := if m.count then d.countInto c m.out Fmt.tunin.code es else d
  { e with draws := n }

theorem Dev.tunCount_evolves (d : Dev) (c : Nat) (m : CvtMode) (es : List (FVal × Bool × Bool)) (n : Nat) :
    Evolves [.draws, .mxc] d (d.tunCount c m es n) := by
  unfold Dev.tunCount
  exact .use (.when .refl fun h => h.step .countInto) fun h => h.step .put_draws

theorem Dev.tunCount_pos (d : Dev) (c : Nat) (m : CvtMode) (es : List (FVal × Bool × Bool)) (n : Nat) :
    (d.tunCount c m es n).mxc.pos = d.mxc.pos := by
  unfold Dev.tunCount
  cases m.count <;> rfl

section
variable {m : CvtMode} (hs : m.srcF = .fp32) {c : Nat} {w : VWord} {d : Dev} (hn : d.src c w.dst.toNat 0 ≤ 1024)
include hs hn

omit hs hn in
theorem Dev.tunStore_evolves : Evolves [.mem, .poison, .late] d (d.tunStore c w m) := by
  unfold Dev.tunStore
  exact .ite (Evolves.refl.step .write |>.step .write |>.step .produce) .refl

/-- A source of up to 1,024 elements is stored, and counted where MODE says so. -/
theorem vCvtTunin_eq : ∃ es n, vCvtTunin c w m d = some ((d.tunStore c w m).tunCount c m es n) := by
  have hstored : storedOper w.sa.toNat m.srcF = false := by rw [hs]; exact Bool.and_false _
  unfold vCvtTunin
  dsimp only
  rw [if_neg (Nat.not_lt.mpr hn), hstored]
  exact ⟨_, _, rfl⟩

/-- After the stores the memory stays, and the program's place is as it was. -/
theorem vCvtTunin_stores : ∃ f, vCvtTunin c w m d = some f ∧ Evolves [.draws, .mxc] (d.tunStore c w m) f ∧ f.mxc.pos = d.mxc.pos := by
  obtain ⟨es, n, hcvt⟩ := vCvtTunin_eq hs hn
  have hmxc : (d.tunStore c w m).mxc = d.mxc := Dev.tunStore_evolves.keeps .mxc (by decide)
  exact ⟨_, hcvt, Dev.tunCount_evolves .., (Dev.tunCount_pos ..).trans (congrArg Mxc.pos hmxc)⟩

omit hs in
/-- A record in the window is written, with its outlier list behind it. -/
theorem Dev.tunStore_writes (hwin : inMxc c (mxcBase c + d.src c w.sc.toNat 0) (16 + 512 + 8 * 1024 + 64) = true) :
    ∃ list outs, mxcBase c + d.src c w.sc.toNat 0 + (d.tunBody c w m).length ≤ list ∧
      Evolves [.late] ((d.write (mxcBase c + d.src c w.sc.toNat 0) (d.tunBody c w m)).write list outs) (d.tunStore c w m) := by
  have hcodes := tunCodes_length (d.tunElems c w m) (d.src c w.dst.toNat 0)
  have houts := (tunOutliers_length_le (d.tunElems c w m)).trans_eq (Dev.tunElems_length d c w)
  have hbody := tunRecord_length (d.src c w.sb.toNat 0) (d.tunElems c w m) (d.src c w.dst.toNat 0)
  have halign := align64_bounds (mxcBase c + d.src c w.sc.toNat 0 + 16 + (tunCodes (d.tunElems c w m) (d.src c w.dst.toNat 0)).length)
  refine ⟨align64 (mxcBase c + d.src c w.sc.toNat 0 + 16 + (tunCodes (d.tunElems c w m) (d.src c w.dst.toNat 0)).length),
    (tunOutliers (d.tunElems c w m)).flatten, ?behind, ?writes⟩
  case behind =>
    rw [Dev.tunBody, hbody]
    omega
  case writes =>
    unfold Dev.tunStore
    dsimp only
    rw [if_pos]
    · exact .produce
    · simp only [inMxc, inside, Bool.and_eq_true, Bool.or_eq_true, decide_eq_true_eq] at hwin ⊢
      omega

end

/-- R179: what a record of FP32 elements reads as after CVT.TUNIN. -/
theorem vCvtTunin_record {m : CvtMode} (hs : m.srcF = .fp32) {c : Nat} {w : VWord} {d : Dev} (hn : d.src c w.dst.toNat 0 ≤ 1024)
    (hwin : inMxc c (mxcBase c + d.src c w.sc.toNat 0) (16 + 512 + 8 * 1024 + 64) = true) :
    ∃ f, vCvtTunin c w m d = some f ∧ f.mxc.pos = d.mxc.pos ∧
      (let a := mxcBase c + d.src c w.sc.toNat 0
      f.rd a 4 = d.src c w.sb.toNat 0 % m32 ∧ f.rd (a + 4) 2 = (tunOutliers (d.tunElems c w m)).length % 2 ^ 16 ∧
        ∀ i < d.src c w.dst.toNat 0, f.inCode a i = ((d.tunElems c w m).getD i (0, none)).1) := by
  obtain ⟨f, hcvt, hf, hpos⟩ := vCvtTunin_stores hs hn
  obtain ⟨list, outs, hlist, hstore⟩ := Dev.tunStore_writes (m := m) hn hwin
  have hkeeps : Evolves [.draws, .late, .mxc] _ f := .step (.step .refl hstore) hf
  have hcodes := tunCodes_length (d.tunElems c w m) (d.src c w.dst.toNat 0)
  have hbody : (d.tunBody c w m).length = 16 + (tunCodes (d.tunElems c w m) (d.src c w.dst.toNat 0)).length := tunRecord_length _ _ _
  have hrd {k n : Nat} (h : k + n ≤ (d.tunBody c w m).length) : f.rd (mxcBase c + d.src c w.sc.toNat 0 + k) n = rdLe (d.tunBody c w m) k n := by
    rw [Dev.rd_congr (hkeeps.keeps .mem (by decide)) (hkeeps.keeps .lsEpoch (by decide)), Dev.rd_write_outside _ (.inl (by omega)),
      Dev.rd_write _ _ _ _ _ h]
  refine ⟨f, hcvt, hpos, ?scale, ?count, fun i hi => ?code⟩
  case scale => exact (hrd (k := 0) (by omega)).trans (tunRecord_scale _ _ _)
  case count => exact (hrd (k := 4) (by omega)).trans (tunRecord_count _ _ _)
  case code =>
    have hk : i / 2 < (tunCodes (d.tunElems c w m) (d.src c w.dst.toNat 0)).length := by omega
    have hbyte : f.byte (mxcBase c + d.src c w.sc.toNat 0 + 16 + i / 2) = (tunCodes (d.tunElems c w m) (d.src c w.dst.toNat 0))[i / 2] := by
      rw [Dev.byte_congr (hkeeps.keeps .mem (by decide)) (hkeeps.keeps .lsEpoch (by decide)), Dev.byte_write_outside _ (.inl (by omega)),
        Nat.add_assoc, Dev.byte_write_inside _ _ (by omega)]
      exact tunRecord_code _ _ hk _
    rw [Dev.inCode, hbyte]
    exact tunCodes_nibble (Dev.tunElems_code_lt hs d c w) hk

end Sys2Proof.Machine
end

section
/-!
PROOF. Conversions, random numbers and memory accesses of the vector unit as commands (O51).
-/

namespace Sys2Proof.Machine

/-! ### The instructions behind the commands -/

theorem Dev.insn_cvt {w : VWord} {m : CvtMode} (hm : cvtMode w = some m) (hf : m.dstF ≠ .tunin) (d : Dev) (c : Nat) :
    d.insn c 0x20 w = (vCvt c w m d).nextInsn c := by
  simp only [Dev.insn, plainOp, hm]
  exact if_neg hf

theorem Dev.insn_cvtTunin {w : VWord} {m : CvtMode} (hm : cvtMode w = some m) (hf : m.dstF = .tunin) {d e : Dev} {c : Nat}
    (he : vCvtTunin c w m d = some e) : d.insn c 0x20 w = e.nextInsn c := by
  simp only [Dev.insn, plainOp, hm, if_pos hf, he]

theorem cvtMode_dstF {w : VWord} {m : CvtMode} (h : cvtMode w = some m) : Fmt.ofCode (bits w.mode.toNat 23 20) = some m.dstF := by
  unfold cvtMode at h
  dsimp only at h
  split at h
  next df sf hd hs =>
    split at h
    · contradiction
    · cases h; exact hd
  next => contradiction

/-- The word that CVT_TUNIN issues, whose destination format is TUNIN. -/
def tuninWord (w : VWord) : VWord := { w with mode := (w.mode &&& 0x0FFFFF#24) ||| 0xB00000#24 }

theorem cvtMode_tuninWord {w : VWord} {m : CvtMode} (h : cvtMode (tuninWord w) = some m) : m.dstF = .tunin := by
  have hbits : bits ((w.mode &&& 0x0FFFFF#24) ||| 0xB00000#24).toNat 23 20 = 0xB := by
    rw [bits, BitVec.toNat_or, BitVec.toNat_and, ← Nat.shiftRight_eq_div_pow, Nat.shiftRight_or_distrib, Nat.shiftRight_and_distrib]
    exact congrArg (fun k => (k ||| 0xB) % 2 ^ 4) (Nat.and_zero (w.mode.toNat >>> 20))
  have hcode : Fmt.ofCode (bits ((w.mode &&& 0x0FFFFF#24) ||| 0xB00000#24).toNat 23 20) = some m.dstF := cvtMode_dstF h
  rw [hbits] at hcode
  exact (Option.some.inj hcode).symm

/-! ### What the memories report -/

theorem Dev.ecc_mxc (d : Dev) (x : Ecc) : (d.ecc x).mxc = d.mxc := Evolves.ecc.keeps .mxc (by decide)

theorem Dev.ecc_src (d : Dev) (x : Ecc) (c r j : Nat) : (d.ecc x).src c r j = d.src c r j := by rw [Dev.src, Dev.ecc_mxc, Dev.src]

theorem Dev.ecc_seed (d : Dev) (x : Ecc) (c : Nat) : (d.ecc x).seed c = d.seed c := by simp only [Dev.seed, Dev.ecc_src]

theorem Dev.ecc_issues (d : Dev) (x : Ecc) (c r : Nat) : (d.ecc x).issues c r = d.issues c r := by rw [Dev.issues, Dev.ecc_mxc, Dev.issues]

theorem Dev.ecc_rd (d : Dev) (x : Ecc) (a n : Nat) : (d.ecc x).rd a n = d.rd a n :=
  Dev.rd_congr (Evolves.ecc.keeps .mem (by decide)) (Evolves.ecc.keeps .lsEpoch (by decide)) a n

theorem Dev.ecc_byte (d : Dev) (x : Ecc) (a : Nat) : (d.ecc x).byte a = d.byte a :=
  Dev.byte_congr (Evolves.ecc.keeps .mem (by decide)) (Evolves.ecc.keeps .lsEpoch (by decide)) a

theorem Dev.ecc_stLane (d : Dev) (x : Ecc) (c : Nat) (w : VWord) : (d.ecc x).stLane c w = d.stLane c w := by
  funext j
  simp only [Dev.stLane, Dev.ecc_src]

/-- After an instruction that leaves the program's place alone the program goes on to the next one, whatever the memories reported before. -/
theorem Dev.nextInsn_pc_ecc {d e : Dev} {x : Ecc} (h : e.mxc.pos = (d.ecc x).mxc.pos) (c : Nat) :
    ((e.nextInsn c).vecPos c).pc = (d.vecPos c).pc + 1 := Dev.nextInsn_pc (h.trans (congrArg Mxc.pos (d.ecc_mxc x))) c

/-! ### The statement -/

/-- Settles O51: each command is its instruction on the device to which the memories have reported, and a report changes no register and no byte. -/
theorem vectorConvertsAndMemory : Obligations.VectorConvertsAndMemory := by
  intro c w s hp
  refine ⟨?cvt, ?tunin, ?rng, ?load, ?store⟩
  case cvt =>
    intro m x hm hs hf hr h0
    obtain ⟨hpos, hcodes⟩ := vCvt_register hf hs hr ((s.dev.quiet.ecc_src x _ _ _).trans h0)
    simp only [Dev.ecc_src, Dev.ecc_seed, Dev.ecc_issues] at hcodes
    refine answers_run _ _ _ _ (exec_vCvt c w x s) hp ?_
    rw [Dev.insn_cvt hm (by rcases hf with h | h <;> rw [h] <;> decide)]
    exact ⟨Dev.nextInsn_pc_ecc hpos c, hcodes⟩
  case tunin =>
    intro m x (hm : cvtMode (tuninWord w) = some m) hs hn hwin
    have hunfit := Dev.tunElems_unfit hs (s.dev.quiet.ecc x) c (tuninWord w)
    have hcodes {i : Nat} := Dev.tunElems_code hs (s.dev.quiet.ecc x) c (tuninWord w) (i := i)
    obtain ⟨f, hcvt, hpos, hscale, hcount, hcode⟩ :=
      vCvtTunin_record (w := tuninWord w) (d := s.dev.quiet.ecc x) hs (by rw [Dev.ecc_src]; exact hn) (by rw [Dev.ecc_src]; exact hwin)
    simp only [Dev.ecc_src, Dev.ecc_seed] at hunfit hcodes hscale hcount hcode
    refine answers_run _ _ (fun d => (d.ecc x).insn c 0x20 (tuninWord w)) _ (exec_vCvtTunin c w x s) hp ?_
    rw [Dev.insn_cvtTunin hm (cvtMode_tuninWord hm) hcvt]
    exact ⟨Dev.nextInsn_pc_ecc hpos c, hscale, fun h => hcount.trans (by rw [hunfit h]; rfl), fun i hi => (hcode i hi).trans (hcodes hi)⟩
  case rng =>
    intro hm hr
    refine answers_run _ _ (fun d => d.insn c 0x2A w) _ (exec_vRng c w s) hp ?_
    rw [Dev.insn_plain rfl hm]
    have hwords {j : Nat} (hj : j < 64) := vRng_src s.dev.quiet c w hr hj
    simp only [Dev.nextInsn_src]
    exact ⟨Dev.nextInsn_pc (d := s.dev.quiet) (vRng_pos _ _ _) c, fun j => hwords⟩
  case load =>
    intro hr x
    refine ⟨answers_run _ _ _ _ (exec_vLd c w x s) hp ⟨Dev.nextInsn_pc_ecc (Dev.loadLanes_pos _ _ _ _) c, fun j hj a ha => ?_⟩,
      answers_run _ _ _ _ (exec_vGld c w x s) hp ⟨Dev.nextInsn_pc_ecc (Dev.loadLanes_pos _ _ _ _) c, fun j hj a ha => ?_⟩⟩
    · exact (Dev.loadLanes_src _ _ _ _ hr hj (by simp only [Dev.ecc_src]; exact ha)).trans (Dev.ecc_rd _ _ _ _)
    · exact (Dev.loadLanes_src _ _ _ _ hr hj (by simp only [Dev.ecc_src]; exact ha)).trans (Dev.ecc_rd _ _ _ _)
  case store =>
    intro x
    obtain ⟨hvreg, hpos⟩ := vSt_mxc c w (s.dev.quiet.ecc x)
    have hlane := s.dev.quiet.ecc_stLane x c w
    refine answers_run _ _ _ _ (exec_vSt c w x s) hp ⟨Dev.nextInsn_pc_ecc hpos c, fun j hj a ha hover => ?_, fun y hy => ?_,
      hvreg.trans (congrArg Mxc.vreg (s.dev.quiet.ecc_mxc x))⟩
    · exact (vSt_rd _ hj (hlane ▸ ha) (hlane ▸ hover)).trans (congrArg (· % m32) (Dev.ecc_src _ _ _ _ _))
    · exact (vSt_byte _ (hlane ▸ hy)).trans (Dev.ecc_byte _ _ _)

end Sys2Proof.Machine
end

section
/-!
PROOF. The parts that the tasks of a matrix cluster, the vector instructions, the reduction engine, barges, links and discovery change (O15).
-/

set_option Elab.async false

namespace Sys2Proof.Machine

/-- Settles O15: each command evolves with parts of its list alone. -/
theorem enginesAndFabricTouchOnly : Obligations.EnginesAndFabricTouchOnly :=
  ⟨fun _ => evolves_portTrained.touches,
   ⟨fun _ => evolves_guardProbe.touches, fun _ _ _ => evolves_probeMsg.touches, evolves_discTestTick.touches⟩,
   fun _ _ => evolves_parentMsg.touches, ⟨evolves_poundRelease.touches, fun _ _ => evolves_creditMsg.touches⟩, fun _ _ => evolves_resultMsg.touches,
   evolves_hostXferCompletion.touches, fun _ _ => evolves_hostGet.touches, evolves_permuteTimeout.touches,
   ⟨fun _ _ => evolves_tokenMsg.touches, evolves_tokenForwardDeadline.touches, evolves_tokenDecideDeadline.touches⟩, fun _ => evolves_hostPut.touches,
   fun _ _ => evolves_permAck.touches,
   fun _ _ _ => ⟨evolves_move.touches, evolves_gather.touches, evolves_bwdWot.touches, evolves_attnFwd.touches, evolves_attnBwd.touches,
    evolves_normBwd.touches, evolves_tiesum.touches⟩,
   fun _ _ => evolves_bargeMsg.touches, fun _ => evolves_tokenForm.touches, fun _ _ _ => evolves_assemble.touches,
   ⟨fun _ _ _ => evolves_compare.touches, fun _ _ => evolves_lrFit.touches⟩, fun _ _ _ => evolves_send.touches,
   ⟨fun _ _ _ => evolves_matmul.touches, fun _ _ => evolves_vprog.touches,
    fun _ _ => ⟨evolves_vFma.touches, evolves_vAdd.touches, evolves_vMul.touches, evolves_vMax.touches, evolves_vMin.touches, evolves_vSel.touches,
     evolves_vCmplt.touches, evolves_vExp2.touches, evolves_vRcp.touches, evolves_vRsq.touches, evolves_vLog2.touches, evolves_vTwosum.touches,
     evolves_vFast2sum.touches, evolves_vTwoprod.touches, evolves_vRedSum.touches, evolves_vRedMax.touches, evolves_vRedMin.touches,
     evolves_vKth.touches, evolves_vRng.touches, evolves_vLoop.touches, evolves_vEnd.touches⟩,
    fun _ _ _ => ⟨evolves_vCvt.touches, evolves_vCvtTunin.touches, evolves_vLd.touches, evolves_vSt.touches, evolves_vGld.touches⟩⟩,
   fun _ => evolves_notice.touches,
   fun _ => ⟨evolves_rs.touches, evolves_ag.touches, evolves_preX.touches, evolves_fetch.touches⟩,
   ⟨fun _ => evolves_replay.touches,
    fun _ _ _ => ⟨evolves_reduceMsg.touches, evolves_agRx.touches, evolves_fetchRx.touches, evolves_preXRx.touches, evolves_noticeRx.touches⟩,
    evolves_packetDeadline.touches⟩,
   ⟨fun _ _ => ⟨evolves_flitRxData.touches, evolves_flitRxIdle.touches⟩, fun _ _ _ _ _ => evolves_flitRxCtrl.touches,
    fun _ => ⟨evolves_ackTimeout.touches, evolves_flitIdleTimeout.touches, evolves_linkLost.touches, evolves_retrainTimer.touches,
     evolves_portRetrain.touches, evolves_portDisable.touches⟩,
    fun _ _ => ⟨evolves_confirmMsg.touches, evolves_ringMsg.touches, evolves_assignMsg.touches, evolves_censusMsg.touches, evolves_doneMsg.touches⟩,
    evolves_discoveryTimeout.touches, fun _ => evolves_discover.touches⟩,
   fun _ _ _ _ => evolves_echoMsg.touches⟩

end Sys2Proof.Machine
end

section
/-!
PROOF. The instructions of the vector unit with one result, in each lane and across the lanes (O19, O21).
-/

set_option Elab.async false

namespace Sys2Proof.Machine

/-! ### One result a lane (O19) -/

/-- R207, R208: a one-result instruction writes its function of the sources to its destination alone, and the program goes on. -/
theorem answers_lanes {i : Instr} {c : Fin 128} {w : VWord} {s : State} {op : Nat} {f : Nat → Nat → Nat → Nat} (hexec : exec i s = s.issue c op w)
    (hop : plainOp c w op = some fun d => d.lanes c w f) (hp : s.dev.powered = true) (hm : w.mode = 0) :
    answers i s fun e =>
      (∀ j < 64, e.src c w.dst.toNat j =
        (let i := if w.dst.toNat < 0xF0 then j else 0
        f (s.dev.src c w.sa.toNat i) (s.dev.src c w.sb.toNat i) (s.dev.src c w.sc.toNat i) % 2 ^ 32)) ∧
      (∀ (k : Fin 128) (r j : Nat), r < 0x100 → j < 64 → (k ≠ c ∨ r ≠ w.dst.toNat) → e.src k r j = s.dev.src k r j) ∧
      (e.vecPos c).pc = (s.dev.vecPos c).pc + 1 ∧ s.dev.keepsBut [.mxc] e := by
  have hcode : w.dst.toNat % 256 = w.dst.toNat := Nat.mod_eq_of_lt w.dst.isLt
  refine answers_run _ _ _ _ hexec hp ?_
  rw [Dev.insn_plain hop hm]
  refine ⟨fun j hj => ?_, fun k r j hr hj hother => ?_, ?_, (Evolves.refl.step .quiet |>.step .lanes |>.step .nextInsn).keeps⟩
  · rw [Dev.nextInsn_src, Dev.lanes, Dev.src_dst_same _ _ _ _ hj, hcode]
    rfl
  · rw [Dev.nextInsn_src, Dev.lanes, Dev.src_dst_other _ _ (by rw [hcode, Nat.mod_eq_of_lt hr, Fin.val_ne_iff]; exact hother) hj]
    rfl
  · exact Dev.nextInsn_pc (d := s.dev.quiet) (Dev.dst_pos _ _ _ _) c

/-- Settles O19: each of the instructions is one function applied lane by lane. -/
theorem vectorLaneResults : Obligations.VectorLaneResults := by
  intro c w s hp hm p hmem
  simp only [List.mem_cons, List.not_mem_nil, or_false] at hmem
  rcases hmem with rfl | rfl | rfl | rfl | rfl | rfl | rfl | rfl | rfl | rfl | rfl
  · exact answers_lanes (exec_vFma c w s) rfl hp hm
  · exact answers_lanes (exec_vAdd c w s) rfl hp hm
  · exact answers_lanes (exec_vMul c w s) rfl hp hm
  · exact answers_lanes (exec_vMax c w s) rfl hp hm
  · exact answers_lanes (exec_vMin c w s) rfl hp hm
  · exact answers_lanes (exec_vSel c w s) rfl hp hm
  · exact answers_lanes (exec_vCmplt c w s) rfl hp hm
  · exact answers_lanes (exec_vExp2 c w s) rfl hp hm
  · exact answers_lanes (exec_vRcp c w s) rfl hp hm
  · exact answers_lanes (exec_vRsq c w s) rfl hp hm
  · exact answers_lanes (exec_vLog2 c w s) rfl hp hm

/-! ### One result across the lanes (O21) -/

/-- A value broadcast to a destination stands in all its lanes. -/
theorem Dev.src_dst_const (d : Dev) (c r v : Nat) {j : Nat} (hj : j < 64) : (d.dst c r fun _ => v).src c r j = v % m32 := Dev.src_dst_same _ _ _ _ hj

/-- R210: the lanes of a register combined by `f` in the order of the tree. -/
def Dev.foldLanes (d : Dev) (c r : Nat) (f : Nat → Nat → Nat) : Nat :=
  (laneTree (fun x y => (f x.1 y.1, 0)) 6 ((List.range 64).map fun i => (d.src c r i, 0))).1

/-- A reduction of FP32 values writes their combination to all lanes of DST. -/
theorem Dev.reduce_narrow (d : Dev) (c : Nat) (w : VWord) (f : Nat → Nat → Nat) :
    d.reduce c w false (fun x y => (f x.1 y.1, 0)) = d.dst c w.dst.toNat fun _ => d.foldLanes c w.sa.toNat f := rfl

/-- The word of a reduction whose MODE is the operation alone: the EP32 bit is clear. -/
def redWord (w : VWord) (op : BitVec 24) : VWord := { w with mode := op }

theorem wideBit_redWord (w : VWord) {op : BitVec 24} (h : op.toNat.testBit 2 = false) : wideBit (redWord w op) = false := h

/-- The bits of a reduction's MODE above the operation. -/
theorem mode_and_high {m : BitVec 24} (h : m.toNat < 4) : m &&& 0xFFFFFC#24 = 0#24 := by
  obtain rfl | rfl | rfl | rfl : m = 0#24 ∨ m = 1#24 ∨ m = 2#24 ∨ m = 3#24 := by bv_omega
  all_goals rfl

/-- An instruction that broadcasts one value to DST, in a powered device. -/
theorem answers_broadcast {i : Instr} {c : Fin 128} {w w' : VWord} {s : State} {op v : Nat} (hexec : exec i s = s.issue c op w')
    (hinsn : s.dev.quiet.insn c op w' = (s.dev.quiet.dst c w.dst.toNat fun _ => v).nextInsn c) (hp : s.dev.powered = true) :
    answers i s fun e => (∀ j < 64, e.src c w.dst.toNat j = v % 2 ^ 32) ∧ s.dev.keepsBut [.mxc] e := by
  refine answers_run _ _ _ _ hexec hp ?_
  rw [hinsn]
  exact ⟨fun j hj => Dev.src_dst_const s.dev.quiet c w.dst.toNat _ hj, (Evolves.refl.step .quiet |>.step .dst |>.step .nextInsn).keeps⟩

/-- R210: a reduction by `g`, which on FP32 values combines by `f`, broadcasts what the tree of the lanes comes to. -/
theorem answers_reduction {i : Instr} {c : Fin 128} {w : VWord} {s : State} {op : BitVec 24} {f : Nat → Nat → Nat}
    {g : Bool → Nat × Nat → Nat × Nat → Nat × Nat} (hexec : exec i s = s.issue c 0x28 (redWord w op))
    (hinsn : ∀ d : Dev, d.insn c 0x28 (redWord w op) = (d.reduce c (redWord w op) (wideBit (redWord w op)) (g (wideBit (redWord w op)))).nextInsn c)
    (hnarrow : op.toNat.testBit 2 = false) (hg : g false = fun x y => (f x.1 y.1, 0)) (hp : s.dev.powered = true) :
    answers i s fun e => (∀ j < 64, e.src c w.dst.toNat j = s.dev.foldLanes c w.sa.toNat f % 2 ^ 32) ∧ s.dev.keepsBut [.mxc] e := by
  refine answers_broadcast (v := s.dev.quiet.foldLanes c w.sa.toNat f) hexec ?_ hp
  rw [hinsn, wideBit_redWord w hnarrow, hg]
  exact congrArg (Dev.nextInsn · c) (Dev.reduce_narrow s.dev.quiet c (redWord w op) f)

/-- The combination of RED_SUM (R210). -/
def addPair (wide : Bool) (a b : Nat × Nat) : Nat × Nat := if wide then ep32Add a b else (f32Add a.1 b.1, 0)

/-- Table 8.7: with k in 1 to 64 KTH broadcasts the k-th largest magnitude. -/
theorem vKth_broadcasts {c : Nat} {w : VWord} {d : Dev} (h₁ : 1 ≤ d.src c w.sb.toNat 0) (h₆₄ : d.src c w.sb.toNat 0 ≤ 64) :
    ∃ v, vKth c w d = d.dst c w.dst.toNat fun _ => v := ⟨_, if_pos ⟨h₁, h₆₄⟩⟩

/-- Settles O21: a reduction and a KTH broadcast one value. -/
theorem vectorReductions : Obligations.VectorReductions := by
  intro c w s hp
  refine ⟨fun hlow p hmem => ?red, fun hm h₁ h₆₄ => ?kth⟩
  case red =>
    have hword (f : BitVec 24 → BitVec 24) : s.issue c 0x28 (redWord w (f (w.mode &&& 0xFFFFFC#24))) = s.issue c 0x28 (redWord w (f 0#24)) := by
      rw [mode_and_high hlow]
    simp only [List.mem_cons, List.not_mem_nil, or_false] at hmem
    rcases hmem with rfl | rfl | rfl
    · exact answers_reduction (op := 0#24) (g := addPair) ((exec_vRedSum c w s).trans (hword id)) (fun _ => rfl) (by decide) rfl hp
    · exact answers_reduction (op := 1#24) (g := pickPair false) ((exec_vRedMax c w s).trans (hword (· ||| 1#24))) (fun _ => rfl) (by decide) rfl hp
    · exact answers_reduction (op := 2#24) (g := pickPair true) ((exec_vRedMin c w s).trans (hword (· ||| 2#24))) (fun _ => rfl) (by decide) rfl hp
  case kth =>
    obtain ⟨v, hv⟩ := vKth_broadcasts (d := s.dev.quiet) h₁ h₆₄
    obtain ⟨t, ht, hpend, hlanes, hkeeps⟩ := answers_broadcast (exec_vKth c w s)
      ((Dev.insn_plain rfl hm _).trans (congrArg (Dev.nextInsn · c) hv)) hp
    exact ⟨t, ht, hpend, fun j hj => (hlanes j hj).trans (hlanes 0 (by decide)).symm, hkeeps⟩

end Sys2Proof.Machine
end

section
/-!
PROOF. Loops of vector programs (O22) and instructions with a reserved MODE (O23).
-/

set_option Elab.async false

namespace Sys2Proof.Machine

/-! ### The place of a program -/

@[simp] theorem Dev.vecPos_setPos_same (d : Dev) (c : Nat) (p : VecPos) : (d.setPos c p).vecPos c = p := SMap.get_set_same _ _ _ _

/-- Keeping the counts of completed items leaves the programs' places alone. -/
theorem Dev.keepCounts_pos (d : Dev) (c : Nat) : (d.keepCounts c).mxc.pos = d.mxc.pos :=
  List.foldlRecOn (motive := fun e : Dev => e.mxc.pos = d.mxc.pos) _ _ rfl fun _ he _ _ => he

@[simp] theorem Dev.vecPos_keepCounts (d : Dev) (c k : Nat) : (d.keepCounts c).vecPos k = d.vecPos k := Dev.vecPos_congr (d.keepCounts_pos c) k

/-! ### LOOP and END (O22) -/

section
variable {c : Nat} {d : Dev} (hskip : (d.vecPos c).skip = 0)
include hskip

theorem vLoop_vecPos (w : VWord) : (vLoop c w d).vecPos c =
    (let p := d.vecPos c
    if d.src c w.sa.toNat 0 = 0 then { p with pc := p.pc + 1, skip := 1 }
    else { p with pc := p.pc + 1, loops := (p.pc + 1, d.src c w.sa.toNat 0) :: p.loops }) := by
  unfold vLoop
  rw [if_neg (by omega)]
  split <;> exact Dev.vecPos_setPos_same _ _ _

/-- Outside every loop END ends the program. -/
theorem vEnd_vecPos_outside (h : (d.vecPos c).loops = []) : (vEnd c d).vecPos c = { d.vecPos c with ended := true } := by
  unfold vEnd
  rw [if_neg (by omega), h]
  simp only [Dev.vecPos_keepCounts, Dev.vecPos_setPos_same, h]

theorem vEnd_vecPos_inside {f k : Nat} {ls : List (Nat × Nat)} (h : (d.vecPos c).loops = (f, k) :: ls) : (vEnd c d).vecPos c =
    (let p := d.vecPos c
    if 1 < k then { p with pc := f, loops := (f, k - 1) :: ls } else { p with pc := p.pc + 1, loops := ls }) := by
  unfold vEnd
  rw [if_neg (by omega), h]
  dsimp only
  split <;> exact Dev.vecPos_setPos_same _ _ _

end

/-- Settles O22: LOOP and END set the program's place and at most keep counts. -/
theorem vectorLoops : Obligations.VectorLoops := by
  intro c w s hp hm hskip
  refine ⟨answers_run _ _ (fun d => d.insn c 0x3E w) _ (exec_vLoop c w s) hp ?loop,
    answers_run _ _ (fun d => d.insn c 0x3F w) _ (exec_vEnd c w s) hp ?finish⟩
  case loop =>
    have hinsn : s.dev.quiet.insn c 0x3E w = vLoop c w s.dev.quiet := if_pos hm
    rw [hinsn]
    exact ⟨(Evolves.refl.step .quiet |>.step .vLoop).keeps, vLoop_vecPos (d := s.dev.quiet) hskip w⟩
  case finish =>
    have hinsn : s.dev.quiet.insn c 0x3F w = vEnd c s.dev.quiet := if_pos hm
    rw [hinsn]
    exact ⟨(Evolves.refl.step .quiet |>.step .vEnd).keeps, vEnd_vecPos_outside (d := s.dev.quiet) hskip,
      fun f k ls => vEnd_vecPos_inside (d := s.dev.quiet) hskip⟩

/-! ### A reserved MODE (O23) -/

/-- An instruction whose MODE must be 0, with another MODE. -/
theorem Dev.insn_reserved {op c : Nat} {w : VWord} {f : Dev → Dev} (h : plainOp c w op = some f) (hm : w.mode ≠ 0) (d : Dev) :
    d.insn c op w = d.badInsn c := by
  unfold Dev.insn
  rw [h]
  exact if_neg hm

/-- What a bad instruction records in MXC_ERR_LAST. -/
def Dev.noteInsn (d : Dev) (c task : Nat) : Dev :=
  (((d.setFld Reg.MXC_ERR_LAST_TASK task).setFld Reg.MXC_ERR_LAST_PC (d.vecPos c).pc).setFld Reg.MXC_ERR_LAST_CAUSE 9).setFld Reg.MXC_ERR_LAST_MXC c

/-- A bad instruction stops the program, counts and is recorded, and its task has failed. -/
theorem Dev.badInsn_eq (d : Dev) (c : Nat) : ∃ task, Evolves [.run]
    { (d.noteInsn c task).bump Cnt.VEC_INSN_ERR_CNT with mxc := (d.setPos c { d.vecPos c with stopped := true }).mxc } (d.badInsn c) := by
  unfold Dev.badInsn
  exact ⟨_, .onRunning⟩

section
variable (d : Dev) (c : Nat)

theorem Dev.badInsn_mxc : (d.badInsn c).mxc = (d.setPos c { d.vecPos c with stopped := true }).mxc := by
  obtain ⟨_, h⟩ := d.badInsn_eq c
  exact h.keeps .mxc (by decide)

theorem Dev.badInsn_count_same : (d.badInsn c).count Cnt.VEC_INSN_ERR_CNT = min cntMax (d.count Cnt.VEC_INSN_ERR_CNT + 1) := by
  obtain ⟨_, h⟩ := d.badInsn_eq c
  exact (Dev.count_congr _ _ _ (h.keeps .cnt (by decide))).trans (Dev.count_bump_same d _)

theorem Dev.badInsn_countsBut : d.countsBut [Cnt.VEC_INSN_ERR_CNT] (d.badInsn c) := by
  obtain ⟨_, h⟩ := d.badInsn_eq c
  intro k hk
  exact (Dev.count_congr _ _ _ (h.keeps .cnt (by decide))).trans (Dev.count_bump_other d _ _ (List.ne_of_not_mem_cons hk))

theorem Dev.badInsn_regs : ∃ task, (d.badInsn c).regs = (d.noteInsn c task).regs := by
  obtain ⟨task, h⟩ := d.badInsn_eq c
  exact ⟨task, h.keeps .regs (by decide)⟩

theorem Dev.badInsn_pc : (d.badInsn c).fld Reg.MXC_ERR_LAST_PC = (d.vecPos c).pc % 2 ^ Reg.MXC_ERR_LAST_PC.w := by
  obtain ⟨_, h⟩ := d.badInsn_regs c
  rw [Dev.fld_congr _ _ _ h, Dev.noteInsn, Dev.fld_setFld_other _ _ _ _ (by decide), Dev.fld_setFld_other _ _ _ _ (by decide), Dev.fld_setFld_same]

theorem Dev.badInsn_cause : (d.badInsn c).fld Reg.MXC_ERR_LAST_CAUSE = 9 := by
  obtain ⟨_, h⟩ := d.badInsn_regs c
  rw [Dev.fld_congr _ _ _ h, Dev.noteInsn, Dev.fld_setFld_other _ _ _ _ (by decide), Dev.fld_setFld_same]
  rfl

theorem Dev.badInsn_cluster : (d.badInsn c).fld Reg.MXC_ERR_LAST_MXC = c % 2 ^ Reg.MXC_ERR_LAST_MXC.w := by
  obtain ⟨_, h⟩ := d.badInsn_regs c
  rw [Dev.fld_congr _ _ _ h, Dev.noteInsn, Dev.fld_setFld_same]

theorem Dev.badInsn_fieldsBut :
    d.fieldsBut [Reg.MXC_ERR_LAST_TASK, Reg.MXC_ERR_LAST_PC, Reg.MXC_ERR_LAST_CAUSE, Reg.MXC_ERR_LAST_MXC] (d.badInsn c) := by
  obtain ⟨_, h⟩ := d.badInsn_regs c
  intro key hkey
  simp only [List.map_cons, List.map_nil, List.mem_cons, List.not_mem_nil, or_false, not_or] at hkey
  obtain ⟨htask, hpc, hcause, hmxc⟩ := hkey
  rw [h]
  simp only [Dev.noteInsn, Dev.setFld]
  rw [SMap.get_set_other _ _ _ _ _ hmxc, SMap.get_set_other _ _ _ _ _ hcause, SMap.get_set_other _ _ _ _ _ hpc,
    SMap.get_set_other _ _ _ _ _ htask]

end

/-- R208: a bad instruction in a powered device. -/
theorem answers_badInsn {i : Instr} {c : Fin 128} {w : VWord} {s : State} {op : Nat} (hexec : exec i s = s.issue c op w)
    (hinsn : s.dev.quiet.insn c op w = s.dev.quiet.badInsn c) (hp : s.dev.powered = true) :
    answers i s fun e =>
      (e.vecPos c).stopped = true ∧ e.count Cnt.VEC_INSN_ERR_CNT = min cntMax (s.dev.count Cnt.VEC_INSN_ERR_CNT + 1) ∧
      e.fld Reg.MXC_ERR_LAST_PC = (s.dev.vecPos c).pc % 2 ^ Reg.MXC_ERR_LAST_PC.w ∧ e.fld Reg.MXC_ERR_LAST_MXC = c.val ∧
      e.fld Reg.MXC_ERR_LAST_CAUSE = 9 ∧ e.mxc.vreg = s.dev.mxc.vreg ∧ e.mxc.sreg = s.dev.mxc.sreg ∧
      s.dev.fieldsBut [Reg.MXC_ERR_LAST_TASK, Reg.MXC_ERR_LAST_PC, Reg.MXC_ERR_LAST_CAUSE, Reg.MXC_ERR_LAST_MXC] e ∧
      s.dev.countsBut [Cnt.VEC_INSN_ERR_CNT] e ∧ s.dev.keepsBut [.regs, .cnt, .run, .mxc] e := by
  have hmxc := s.dev.quiet.badInsn_mxc c
  have hcluster : c.val % 2 ^ Reg.MXC_ERR_LAST_MXC.w = c.val := Nat.mod_eq_of_lt c.isLt
  have hpos := congrArg VecPos.stopped (Dev.vecPos_congr (congrArg Mxc.pos hmxc) c)
  rw [Dev.vecPos_setPos_same] at hpos
  refine answers_run _ _ _ _ hexec hp ?_
  rw [hinsn]
  exact ⟨hpos, s.dev.quiet.badInsn_count_same c, s.dev.quiet.badInsn_pc c, (s.dev.quiet.badInsn_cluster c).trans hcluster,
    s.dev.quiet.badInsn_cause c, (congrArg Mxc.vreg hmxc).trans rfl, (congrArg Mxc.sreg hmxc).trans rfl, s.dev.quiet.badInsn_fieldsBut c,
    s.dev.quiet.badInsn_countsBut c, (Evolves.refl.step .quiet |>.step .badInsn).keeps⟩

/-- Settles O23: each of the instructions with a MODE that is not 0 is a bad instruction. -/
theorem reservedModeStopsProgram : Obligations.ReservedModeStopsProgram := by
  intro c w s hp hm i hmem
  simp only [List.mem_cons, List.not_mem_nil, or_false] at hmem
  rcases hmem with rfl | rfl | rfl | rfl | rfl | rfl | rfl | rfl | rfl | rfl | rfl | rfl | rfl | rfl | rfl | rfl | rfl | rfl
  · exact answers_badInsn (exec_vFma c w s) (Dev.insn_reserved rfl hm _) hp
  · exact answers_badInsn (exec_vAdd c w s) (Dev.insn_reserved rfl hm _) hp
  · exact answers_badInsn (exec_vMul c w s) (Dev.insn_reserved rfl hm _) hp
  · exact answers_badInsn (exec_vMax c w s) (Dev.insn_reserved rfl hm _) hp
  · exact answers_badInsn (exec_vMin c w s) (Dev.insn_reserved rfl hm _) hp
  · exact answers_badInsn (exec_vSel c w s) (Dev.insn_reserved rfl hm _) hp
  · exact answers_badInsn (exec_vCmplt c w s) (Dev.insn_reserved rfl hm _) hp
  · exact answers_badInsn (exec_vExp2 c w s) (Dev.insn_reserved rfl hm _) hp
  · exact answers_badInsn (exec_vRcp c w s) (Dev.insn_reserved rfl hm _) hp
  · exact answers_badInsn (exec_vRsq c w s) (Dev.insn_reserved rfl hm _) hp
  · exact answers_badInsn (exec_vLog2 c w s) (Dev.insn_reserved rfl hm _) hp
  · exact answers_badInsn (exec_vTwosum c w s) (Dev.insn_reserved rfl hm _) hp
  · exact answers_badInsn (exec_vFast2sum c w s) (Dev.insn_reserved rfl hm _) hp
  · exact answers_badInsn (exec_vTwoprod c w s) (Dev.insn_reserved rfl hm _) hp
  · exact answers_badInsn (exec_vKth c w s) (Dev.insn_reserved rfl hm _) hp
  · exact answers_badInsn (exec_vRng c w s) (Dev.insn_reserved rfl hm _) hp
  · exact answers_badInsn (exec_vLoop c w s) (if_neg hm) hp
  · exact answers_badInsn (exec_vEnd c w s) (if_neg hm) hp

end Sys2Proof.Machine
end

section
/-!
SUPPORT. The task of a matrix cluster in its unit's record: what its work leaves of it, and how it counts items (R46 to R50, R189).
-/

set_option Elab.async false

namespace Sys2Proof.Machine

/-! ### The task in hand -/

theorem Dev.mxcTask_eq_some {d : Dev} {c op : Nat} {r : Running} : d.mxcTask c op = some r ↔
    d.running? (unitKey 2 c 0) = some r ∧ r.failed = false ∧ r.complete = false ∧ r.idle = false ∧ r.done < r.total ∧ rdLe r.desc 0 2 = op := by
  unfold Dev.mxcTask
  split
  next h => simp [h]
  next q h =>
    simp only [h, Option.some.injEq, ite_eq_iff, reduceCtorEq, and_false, false_or, Bool.or_eq_true, decide_eq_true_eq, bne_iff_ne, not_or,
      Bool.not_eq_true, not_le, ne_eq, not_not]
    constructor
    · rintro ⟨⟨⟨⟨⟨hf, hc⟩, hi⟩, hd⟩, ho⟩, rfl⟩
      exact ⟨rfl, hf, hc, hi, hd, ho⟩
    · rintro ⟨rfl, hf, hc, hi, hd, ho⟩
      exact ⟨⟨⟨⟨⟨hf, hc⟩, hi⟩, hd⟩, ho⟩, rfl⟩

theorem Dev.mxcTask_congr {d e : Dev} (h : e.run = d.run) (c op : Nat) : e.mxcTask c op = d.mxcTask c op := by
  rw [Dev.mxcTask, Dev.running_congr h, Dev.mxcTask]

/-- The task of the unit at `k` is the one that `r` records, with `n` items done; nothing else of its record has changed but the marks of what it has read. -/
def Dev.atItem (d : Dev) (k : Nat) (r : Running) (n : Nat) : Prop :=
  ∃ late noted bad, d.running? k = some { r with done := n, late := late, noted := noted, bad := bad }

namespace Dev.atItem

variable {d e : Dev} {k n m c : Nat} {r : Running}

theorem start (h : d.running? k = some r) : d.atItem k r r.done := ⟨r.late, r.noted, r.bad, h⟩

/-- A step that leaves the slots in progress alone. -/
theorem via {p : List Part} (h : d.atItem k r n) (he : Evolves p d e) (hp : .run ∉ p := by decide) : e.atItem k r n := by
  obtain ⟨l, t, b, hq⟩ := h
  exact ⟨l, t, b, (Dev.running_congr (he.keeps .run hp) k).trans hq⟩

/-- A change of the marks of what a unit's task has read. -/
theorem mark {g : Running → Running} (h : d.atItem k r n)
    (hg : ∀ q : Running, ∃ l t b, g q = { q with late := l, noted := t, bad := b } := by intro _; exact ⟨_, _, _, rfl⟩) :
    (d.onRunning k g).atItem k r n := by
  obtain ⟨l, t, b, hq⟩ := h
  obtain ⟨l', t', b', hgq⟩ := hg { r with done := n, late := l, noted := t, bad := b }
  exact ⟨l', t', b', by rw [Dev.running_onRunning_same, hq, Option.map_some, hgq]⟩

/-! ### The shapes of the model's functions -/

theorem ite {p : Prop} [Decidable p] (h : d.atItem k r n) (h' : e.atItem k r n) : (if p then d else e).atItem k r n :=
  iteInduction (motive := fun z : Dev => z.atItem k r n) (fun _ => h) fun _ => h'

/-- A step taken on a condition. -/
theorem when {p : Prop} [Decidable p] (h : d.atItem k r n) (h' : d.atItem k r n → e.atItem k r n) : (if p then e else d).atItem k r n :=
  ite (h' h) h

theorem foldl {α : Type} {g : Dev → α → Dev} {xs : List α} (h : d.atItem k r n) (hg : ∀ e x, e.atItem k r n → (g e x).atItem k r n) :
    (xs.foldl g d).atItem k r n :=
  List.foldlRecOn (motive := fun z : Dev => z.atItem k r n) xs g h fun e he x _ => hg e x he

/-! ### What a task reads and writes -/

theorem consume {rs} (h : d.atItem k r n) : (d.consume k rs).atItem k r n := by
  unfold Dev.consume
  refine when (via (p := [.regs, .cnt, .mem, .poison, .draws, .frm, .variants, .mbx]) h ?_) fun h => h.mark
  exact .foldl (.ite (Evolves.refl.step .bump |>.step .trouble) .refl) fun _ _ h => h.step .uncorr

theorem earlyRead {which cnt} (h : d.atItem k r n) : (d.earlyRead k which cnt).atItem k r n := by
  unfold Dev.earlyRead
  exact mark (ite h (h.via .bump))

theorem readChecks {rs} (h : d.atItem k r n) : (d.readChecks k rs).atItem k r n := by
  unfold Dev.readChecks Dev.agreedLate Dev.paramLate Dev.foldLate
  exact when (when (when h.consume fun h => h.earlyRead) fun h => h.earlyRead) fun h => h.mark

theorem histWrite {a base add stopped acc} (h : d.atItem (unitKey 2 c 0) r n) :
    (d.histWrite c a base add stopped acc).atItem (unitKey 2 c 0) r n := by
  have hread : (if add then d.consume (unitKey 2 c 0) [(a, 576)] else d).atItem (unitKey 2 c 0) r n := when h fun h => h.consume
  unfold Dev.histWrite
  refine hread.via (p := [.cnt, .mem, .poison]) ?_
  exact .ite (.step .refl .write) (.ite (Evolves.refl.step .wr |>.step .bump)
    (.when (.step (.foldl (.foldl .refl fun _ _ h => h.step .wr) fun _ _ h => h.step .wr) .wr) fun h => h.step .wr))

theorem endProg {stopped} (h : d.atItem (unitKey 2 c 0) r n) : (d.endProg c stopped).atItem (unitKey 2 c 0) r n := by
  unfold Dev.endProg
  refine foldl h fun e i he => ?_
  dsimp only
  split
  · exact he.via .setHist
  · exact .via (ite (he.via .setHist).consume (he.via .setHist).consume.histWrite) .judge

/-- R189: the items that a task has completed count up to all of them. -/
theorem mxcDone (h : d.atItem (unitKey 2 c 0) r n) (m : Nat) : (d.mxcDone c m).atItem (unitKey 2 c 0) r (min r.total (n + m)) := by
  obtain ⟨l, t, b, hq⟩ := h
  exact ⟨l, t, b, by rw [Dev.mxcDone, Dev.running_onRunning_same, hq]; rfl⟩

/-- Up to `m` of the items left are done. -/
theorem advance (h : d.atItem (unitKey 2 c 0) r r.done) (hd : r.done < r.total) (m : Nat) :
    (d.mxcDone c (min m (r.total - r.done))).atItem (unitKey 2 c 0) r (r.done + min m (r.total - r.done)) := by
  have hle : min r.total (r.done + min m (r.total - r.done)) = r.done + min m (r.total - r.done) := by omega
  exact hle ▸ h.mxcDone _

theorem mxcFailed (h : d.atItem (unitKey 2 c 0) r n) : d.mxcFailed c = r.failed := by
  obtain ⟨_, _, _, hq⟩ := h
  rw [Dev.mxcFailed, hq]

/-- The record as the statements read it: the task goes on with `m` further items done. -/
theorem goesOn (h : d.atItem k r (r.done + m)) :
    ∃ q, d.running? k = some q ∧ q.done = r.done + m ∧ q.total = r.total ∧ q.desc = r.desc ∧ q.slot = r.slot := by
  obtain ⟨_, _, _, hq⟩ := h
  exact ⟨_, hq, rfl, rfl, rfl, rfl⟩

end Dev.atItem

end Sys2Proof.Machine
end

section
/-!
PROOF. Each task of a matrix cluster completes items (R189, R195).
-/

set_option Elab.async false

namespace Sys2Proof.Machine

section
variable {d : Dev} {c : Nat} {r : Running}

/-- A task of operation `op` goes on from its record. -/
theorem Dev.mxcTask_atItem {op : Nat} (h : d.mxcTask c op = some r) : d.atItem (unitKey 2 c 0) r r.done ∧ r.done < r.total := by
  obtain ⟨hrun, -, -, -, hd, -⟩ := Dev.mxcTask_eq_some.mp h
  exact ⟨.start hrun, hd⟩

theorem Dev.move_advances (h : d.mxcTask c 0x12 = some r) (n : Nat) :
    (d.move c n).atItem (unitKey 2 c 0) r (r.done + min n (r.total - r.done)) := by
  obtain ⟨hr, hd⟩ := Dev.mxcTask_atItem h
  unfold Dev.move
  rw [h]
  exact (hr.readChecks.via .write).advance hd n |>.via .produce

theorem Dev.gatherRows_advances (h : d.mxcTask c 0x13 = some r) (n : Nat) :
    (d.gatherRows c n).atItem (unitKey 2 c 0) r (r.done + min n (r.total - r.done)) := by
  obtain ⟨hr, hd⟩ := Dev.mxcTask_atItem h
  unfold Dev.gatherRows
  rw [h]
  exact (hr.readChecks.foldl fun _ _ h => h.via .write).advance hd n |>.via .produce

theorem Dev.assemble_advances (h : d.mxcTask c 0x30 = some r) (n : Nat) :
    (d.assemble c n).atItem (unitKey 2 c 0) r (r.done + min n (r.total - r.done)) := by
  obtain ⟨hr, hd⟩ := Dev.mxcTask_atItem h
  unfold Dev.assemble
  rw [h]
  refine .when (.advance (.foldl hr.readChecks fun _ _ h => ?_) hd n) fun h => .via h.histWrite .setTaskHist
  exact h.readChecks.via .setTaskHist |>.via .write |>.via .produce

theorem Dev.bwdWot_advances (h : d.mxcTask c 0x31 = some r) (n : Nat) :
    (d.bwdWot c n).atItem (unitKey 2 c 0) r (r.done + min n (r.total - r.done)) := by
  obtain ⟨hr, hd⟩ := Dev.mxcTask_atItem h
  unfold Dev.bwdWot
  rw [h]
  exact (hr.readChecks.via .wotEntriesBack).advance hd n |>.via .produce

theorem Dev.normBwd_advances (h : d.mxcTask c 0x50 = some r) (n : Nat) :
    (d.normBwd c n).atItem (unitKey 2 c 0) r (r.done + min n (r.total - r.done)) := by
  obtain ⟨hr, hd⟩ := Dev.mxcTask_atItem h
  unfold Dev.normBwd
  rw [h]
  exact (hr.readChecks.foldl fun _ _ h => h.via .normToken).advance hd n |>.via .produce

theorem Dev.tiesum_advances (h : d.mxcTask c 0x58 = some r) (n : Nat) :
    (d.tiesum c n).atItem (unitKey 2 c 0) r (r.done + min n (r.total - r.done)) := by
  obtain ⟨hr, hd⟩ := Dev.mxcTask_atItem h
  unfold Dev.tiesum
  rw [h]
  exact (hr.readChecks.foldl fun _ _ h => h.via .wr).advance hd n |>.via .produce

/-- R203: a key block of an attention task leaves its record alone. -/
theorem Dev.attn_advances {op : Nat} {block : Nat → KerDesc → Dev → Nat → Dev} (h : d.mxcTask c op = some r)
    (hblock : ∀ x e b, Evolves [.cnt, .mem, .poison] e (block c x e b)) (n : Nat) :
    (d.attn c op n block).atItem (unitKey 2 c 0) r (r.done + min n (r.total - r.done)) := by
  obtain ⟨hr, hd⟩ := Dev.mxcTask_atItem h
  unfold Dev.attn
  rw [h]
  exact (hr.readChecks.foldl fun _ _ h => h.via (hblock _ _ _)).advance hd n |>.via .produce

theorem Dev.compare_advances (h : d.mxcTask c 0x60 = some r) (n : Nat) :
    (d.compare c n).atItem (unitKey 2 c 0) r (r.done + min n (r.total - r.done)) := by
  obtain ⟨hr, hd⟩ := Dev.mxcTask_atItem h
  unfold Dev.compare
  rw [h]
  refine .when (.advance (.readChecks (.when hr fun h => h.via .takeRackSettings)) hd n) fun h => ?_
  exact h.via .compareEnd |>.via .produce

/-! ### MATMUL -/

theorem Dev.companion_none {x : MatDesc} (e : Dev) (h : d.companion c x = none) : e.companion c x = none := by
  unfold Dev.companion at h ⊢
  split at h
  next hepi => exact if_pos hepi
  next => contradiction

theorem Dev.countPatch_advances {n : Nat} (h : d.atItem (unitKey 2 c 0) r n) (hn : n < r.total) (vals : List ((Nat × Nat) × Nat)) :
    (d.countPatch c vals).atItem (unitKey 2 c 0) r (n + 1) := by
  have hle : min r.total (n + 1) = n + 1 := by omega
  unfold Dev.countPatch
  exact .via (hle ▸ (h.via .setTaskHist |>.via .bump).mxcDone 1) .keepCounts

/-- R193: without a companion a patch is its elements, which are written and counted. -/
theorem Dev.matPatch_plain {x : MatDesc} (hf : d.mxcFailed c = false) (hx : d.companion c x = none) (p : Nat) :
    d.matPatch c x p =
      (let vals := (x.patchCells p).map fun q => (q, d.matElem x q.1 q.2)
      (d.writePatch x vals).countPatch c vals) := by
  unfold Dev.matPatch
  rw [if_neg (by simp [hf]), hx]

/-- The patches `ps` one after the other, each of which counts. -/
theorem Dev.matPatches_advance {x : MatDesc} (hx : d.companion c x = none) (hf : r.failed = false) (ps : List Nat) {n : Nat}
    (h : d.atItem (unitKey 2 c 0) r n) (hn : n + ps.length ≤ r.total) :
    (ps.foldl (Dev.matPatch c x) d).atItem (unitKey 2 c 0) r (n + ps.length) := by
  induction ps generalizing d n with
  | nil => exact h
  | cons p ps ih =>
    rw [List.length_cons] at hn ⊢
    rw [List.foldl_cons, Dev.matPatch_plain (h.mxcFailed.trans hf) hx, Nat.add_comm ps.length, ← Nat.add_assoc]
    exact ih (Dev.companion_none _ hx) (Dev.countPatch_advances (h.via .writePatch) (by omega) _) (by omega)

theorem Dev.freeProg_none {x : MatDesc} (hx : d.companion c x = none) : d.freeProg c x = d := by rw [Dev.freeProg, hx]

theorem Dev.matEnd_none {x : MatDesc} (hx : d.companion c x = none) : d.matEnd c x = d.matHist c x false := by rw [Dev.matEnd, hx]

theorem Dev.matmul_advances (h : d.mxcTask c 0x10 = some r) (hx : d.companion c (parseMat r.desc) = none) (n : Nat) :
    (d.matmul c n).atItem (unitKey 2 c 0) r (r.done + min n (r.total - r.done)) := by
  obtain ⟨hr, hd⟩ := Dev.mxcTask_atItem h
  obtain ⟨-, hf, -⟩ := Dev.mxcTask_eq_some.mp h
  have hpatches {e : Dev} (he : e.atItem (unitKey 2 c 0) r r.done) :
      (((List.range (min n (r.total - r.done))).map (r.done + ·)).foldl (Dev.matPatch c (parseMat r.desc)) e).atItem (unitKey 2 c 0) r
        (r.done + min n (r.total - r.done)) := by
    have hlen : ((List.range (min n (r.total - r.done))).map (r.done + ·)).length = min n (r.total - r.done) := by simp
    have hadv := Dev.matPatches_advance (Dev.companion_none e hx) hf _ he (by rw [hlen]; omega)
    rwa [hlen] at hadv
  unfold Dev.matmul
  rw [h]
  dsimp only
  simp only [Dev.freeProg_none (Dev.companion_none _ hx), Dev.matEnd_none (Dev.companion_none _ hx), ite_self]
  exact .when (.via (hpatches hr.readChecks) .produce) fun h => .via h.histWrite .setTaskHist

end

end Sys2Proof.Machine
end

section
/-!
PROOF. LR_FIT (R135, R217): the layer that it fits is the program's, which no report of the memories changes (R340).
-/

set_option Elab.async false

namespace Sys2Proof.Machine

/-- The active variant slot is the same, and so is the image of every slot; a slot may have become invalid. -/
def Dev.sameProgram (d e : Dev) : Prop := e.active = d.active ∧ ∀ v, (e.variant v).map (·.image) = (d.variant v).map (·.image)

namespace Dev.sameProgram

variable {d e f : Dev}

theorem refl : d.sameProgram d := ⟨rfl, fun _ => rfl⟩

theorem trans (h : d.sameProgram e) (h' : e.sameProgram f) : d.sameProgram f := ⟨h'.1.trans h.1, fun v => (h'.2 v).trans (h.2 v)⟩

/-- A step that leaves registers and variant slots alone. -/
theorem via {p : List Part} (h : d.sameProgram e) (he : Evolves p e f) (hr : .regs ∉ p := by decide) (hv : .variants ∉ p := by decide) :
    d.sameProgram f := by
  have hvar : f.variants = e.variants := he.keeps .variants hv
  exact h.trans ⟨Dev.fld_congr _ _ _ (he.keeps .regs hr), fun v => by rw [Dev.variant, hvar, Dev.variant]⟩

/-- A write of a register that is not FRM_STATUS. -/
theorem setFld {g : Field} {v : Nat} (h : d.sameProgram e) (hg : g.key ≠ Reg.FRM_STATUS_ACTIVE.key := by decide) : d.sameProgram (e.setFld g v) :=
  h.trans ⟨Dev.fld_setFld_other e g _ v hg.symm, fun _ => rfl⟩

theorem ite {p : Prop} [Decidable p] (h : d.sameProgram e) (h' : d.sameProgram f) : d.sameProgram (if p then e else f) :=
  iteInduction (motive := fun z : Dev => d.sameProgram z) (fun _ => h) fun _ => h'

theorem when {p : Prop} [Decidable p] (h : d.sameProgram e) (h' : d.sameProgram e → d.sameProgram f) : d.sameProgram (if p then f else e) :=
  ite (h' h) h

theorem foldl {α : Type} {g : Dev → α → Dev} {xs : List α} (h : d.sameProgram e) (hg : ∀ f x, d.sameProgram f → d.sameProgram (g f x)) :
    d.sameProgram (xs.foldl g e) :=
  List.foldlRecOn (motive := fun z : Dev => d.sameProgram z) xs g h fun f hf x _ => hg f x hf

theorem trace {point src arg0 arg1} (h : d.sameProgram e) : d.sameProgram (e.trace point src arg0 arg1) := by
  unfold Dev.trace
  exact ite (when (h.via .write |>.setFld |>.via .put_draws_mbx) fun h => h.via .bump) h

theorem sticky {g} (h : d.sameProgram e) (hg : g.key ≠ Reg.FRM_STATUS_ACTIVE.key := by decide) : d.sameProgram (e.sticky g) := by
  unfold Dev.sticky
  exact ite h (h.setFld hg).trace

theorem noteUncorr {a cls} (h : d.sameProgram e) : d.sameProgram (e.noteUncorr a cls) := by
  unfold Dev.noteUncorr
  exact h.setFld |>.setFld |>.setFld |>.setFld

/-- R340: a slot that holds an uncorrectable word becomes invalid, and keeps its image. -/
theorem invalidate (h : d.sameProgram e) (v : Nat) :
    d.sameProgram { e with variants := SMap.set (fun _ => none) e.variants v ((e.variant v).map fun x => { x with valid := false }) } := by
  refine h.trans ⟨rfl, fun w => ?_⟩
  simp only [Dev.variant]
  by_cases hw : w = v
  · subst hw
    rw [SMap.get_set_same, Option.map_map]
    rfl
  · rw [SMap.get_set_other _ _ _ _ _ hw]

theorem validKey_ne (v : Nat) : (Reg.FRM_VAR_INFO_VALID v).key ≠ Reg.FRM_STATUS_ACTIVE.key := by
  simp only [Field.key, Reg.FRM_VAR_INFO_VALID, Reg.FRM_STATUS_ACTIVE]
  omega

theorem uncorr {task a} (h : d.sameProgram e) : d.sameProgram (e.uncorr task a) := by
  unfold Dev.uncorr
  refine ite (h.noteUncorr.sticky.via .bump |>.via .freeze) ?_
  split
  next v _ => exact (h.noteUncorr.sticky.via .bump).setFld (validKey_ne v) |>.invalidate v
  next =>
    refine ite (h.noteUncorr.via .bump |>.via .trouble) ?_
    unfold Dev.uncorrIdle
    exact h.noteUncorr.via .bump

theorem readChecks {k rs} (h : d.sameProgram e) : d.sameProgram (e.readChecks k rs) := by
  unfold Dev.readChecks Dev.consume
  refine .via (.via (.via (.when (.foldl (.when h fun h => h.via .bump |>.via .trouble) fun _ _ h => h.uncorr) fun h => h.via .onRunning)
    .foldLate) .paramLate) .agreedLate

theorem layerEntry (h : d.sameProgram e) (l : Nat) : e.layerEntry l = d.layerEntry l := by
  obtain ⟨hactive, himage⟩ := h
  have hprogram (z : Dev) : z.program = ((z.variant z.active).map (·.image)).getD [] := by
    unfold Dev.program
    split
    next h => rw [h]; rfl
    next h => rw [h]; rfl
  rw [Dev.layerEntry, hprogram, hactive, himage, ← hprogram, Dev.layerEntry]

end Dev.sameProgram

/-- What a task that reads leaves of the program. -/
theorem Dev.layerEntry_readChecks (d : Dev) (k : Nat) (rs : List (Nat × Nat)) (l : Nat) : (d.readChecks k rs).layerEntry l = d.layerEntry l :=
  Dev.sameProgram.refl.readChecks.layerEntry l

theorem Dev.produce_rack (d : Dev) (k : Nat) (rs : List (Nat × Nat)) : (d.produce k rs).rack = d.rack := Evolves.produce.keeps .rack (by decide)

section
variable {d : Dev} {c : Nat} {r : Running}

theorem Dev.lrFit_completes (h : d.mxcTask c 0x61 = some r) : (d.lrFit c).atItem (unitKey 2 c 0) r (r.done + (r.total - r.done)) := by
  obtain ⟨hr, hd⟩ := Dev.mxcTask_atItem h
  have hall : min r.total (r.done + r.total) = r.done + (r.total - r.done) := by omega
  have hdone {e : Dev} (he : e.atItem (unitKey 2 c 0) r r.done) : (e.mxcDone c r.total).atItem (unitKey 2 c 0) r (r.done + (r.total - r.done)) :=
    hall ▸ he.mxcDone r.total
  unfold Dev.lrFit
  rw [h]
  refine .ite (hdone hr.readChecks) ?_
  exact .via (.via (hdone hr.readChecks) .put_draws_rack) .produce

/-- R135: the factors of a layer with a rank await the next fold, and the fit is due no longer. -/
theorem Dev.lrFit_ready (h : d.mxcTask c 0x61 = some r) {y : LayerEntry} (hy : d.layerEntry (parseKer r.desc).layer = some y) (hrank : y.lrRank ≠ 0) :
    (parseKer r.desc).par 4 ∉ (d.lrFit c).rack.fitDue ∧
      ∃ bs, ((parseKer r.desc).par 4, (parseKer r.desc).par 5, bs) ∈ (d.lrFit c).rack.fitReady := by
  unfold Dev.lrFit
  rw [h]
  simp only [Dev.layerEntry_readChecks, hy, if_neg hrank]
  rw [Dev.produce_rack]
  exact ⟨by simp, _, List.mem_cons_self⟩

end

end Sys2Proof.Machine
end

section
/-!
PROOF. What the tasks of a matrix cluster write, on sound memory (R193, R195, R198).
-/

set_option Elab.async false

namespace Sys2Proof.Machine

/-! ### Reads of memory that stays -/

theorem Evolves.byte_eq {l : List Part} {d e : Dev} (h : Evolves l d e) (a : Nat) (hm : .mem ∉ l := by decide) (hl : .lsEpoch ∉ l := by decide) :
    e.byte a = d.byte a := Dev.byte_congr (h.keeps .mem hm) (h.keeps .lsEpoch hl) a

theorem Evolves.rd_eq {l : List Part} {d e : Dev} (h : Evolves l d e) (a n : Nat) (hm : .mem ∉ l := by decide) (hl : .lsEpoch ∉ l := by decide) :
    e.rd a n = d.rd a n := Dev.rd_congr (h.keeps .mem hm) (h.keeps .lsEpoch hl) a n

/-! ### Reads of sound memory -/

theorem Dev.sound.via {d e : Dev} {p : List Part} (h : d.sound) (he : Evolves p d e) (hp : .poison ∉ p := by decide) : e.sound :=
  (he.keeps .poison hp).trans h

/-- R340: with no word poisoned a read only marks its task and counts what is late. -/
theorem Dev.readChecks_sound {d : Dev} (h : d.sound) (k : Nat) (rs : List (Nat × Nat)) : Evolves [.cnt, .frm, .run] d (d.readChecks k rs) := by
  have hbad : (rs.flatMap fun r => d.poisoned r.1 r.2) = [] := by
    have hpoisoned (a n : Nat) : d.poisoned a n = [] := by rw [Dev.poisoned, h]; rfl
    simp [hpoisoned]
  unfold Dev.readChecks
  refine .step (.step (.step ?_ .foldLate) .paramLate) .agreedLate
  unfold Dev.consume
  simp only [hbad]
  exact .when (.when .refl fun h => h.step .bump |>.step .trouble) fun h => h.step .onRunning

/-- A read of sound memory leaves every byte as it was. -/
theorem Dev.byte_readChecks {d : Dev} (h : d.sound) (k : Nat) (rs : List (Nat × Nat)) (a : Nat) : (d.readChecks k rs).byte a = d.byte a :=
  (Dev.readChecks_sound h k rs).byte_eq a

theorem Dev.rd_readChecks {d : Dev} (h : d.sound) (k : Nat) (rs : List (Nat × Nat)) (a n : Nat) : (d.readChecks k rs).rd a n = d.rd a n :=
  (Dev.readChecks_sound h k rs).rd_eq a n

theorem Dev.length_read (d : Dev) (a n : Nat) : (d.read a n).length = n := by rw [Dev.read, List.length_map, List.length_range]

/-- A range that is read and written elsewhere stands there byte by byte. -/
theorem Dev.byte_copy (d : Dev) {a b n k : Nat} (hk : k < n) : (d.write b (d.read a n)).byte (b + k) = d.byte (a + k) := by
  rw [Dev.byte_write_inside d b (by rw [Dev.length_read]; exact hk)]
  simp only [Dev.read, List.getElem_map, List.getElem_range]

section
variable {d : Dev} {c : Nat} {r : Running}

theorem min_one_left (hd : r.done < r.total) : min 1 (r.total - r.done) = 1 := by omega

/-- R195: MOVE copies the next 4 KiB of its range. -/
theorem Dev.move_copies (hs : d.sound) (h : d.mxcTask c 0x12 = some r) {k : Nat} (hk : k < 4096) (hin : 4096 * r.done + k < (parseKer r.desc).par 2) :
    (d.move c 1).byte ((parseKer r.desc).par 1 + 4096 * r.done + k) = d.byte ((parseKer r.desc).par 0 + 4096 * r.done + k) := by
  obtain ⟨-, hd⟩ := Dev.mxcTask_atItem h
  unfold Dev.move
  rw [h]
  simp only [min_one_left hd, Nat.mul_one]
  rw [Evolves.produce.byte_eq, Evolves.mxcDone.byte_eq, Dev.byte_copy _ (by omega), Dev.byte_readChecks hs]

/-- R195: GATHER copies the row that its next index names. -/
theorem Dev.gatherRows_copies (hs : d.sound) (h : d.mxcTask c 0x13 = some r) {k : Nat} (hk : k < (parseKer r.desc).par 2) :
    (d.gatherRows c 1).byte ((parseKer r.desc).par 3 + r.done * (parseKer r.desc).par 2 + k) =
      d.byte ((parseKer r.desc).par 0 + d.rd ((parseKer r.desc).par 1 + 4 * r.done) 4 * (parseKer r.desc).par 2 + k) := by
  obtain ⟨-, hd⟩ := Dev.mxcTask_atItem h
  unfold Dev.gatherRows
  rw [h]
  simp only [min_one_left hd, List.range_one, List.foldl_cons, List.foldl_nil, Nat.add_zero]
  rw [Evolves.produce.byte_eq, Evolves.mxcDone.byte_eq, Dev.byte_copy _ hk, Dev.byte_readChecks hs, Dev.rd_readChecks hs]

/-! ### ASSEMBLE -/

/-- The numbers of a list stand one behind the other in its bytes. -/
theorem rdLe_flatMap_natLe (n : Nat) {xs : List Nat} {i : Nat} (hi : i < xs.length) : rdLe (xs.flatMap (natLe n)) (n * i) n = xs[i] % 256 ^ n := by
  induction xs generalizing i with
  | nil => exact absurd hi (Nat.not_lt_zero i)
  | cons x xs ih =>
    have hlen := length_natLe n x
    cases i with
    | zero => rw [rdLe, List.flatMap_cons, Nat.mul_zero, List.drop_zero, List.take_left' hlen, leNat_natLe, List.getElem_cons_zero]
    | succ i =>
      have hrest := ih (Nat.lt_of_succ_lt_succ hi)
      rw [rdLe] at hrest ⊢
      rw [List.flatMap_cons, Nat.mul_succ, Nat.add_comm, ← List.drop_drop, List.drop_left' hlen, hrest, List.getElem_cons_succ]

theorem length_flatMap_natLe (n : Nat) (xs : List Nat) : (xs.flatMap (natLe n)).length = n * xs.length := by
  simp [List.length_flatMap, length_natLe, Nat.mul_comm]

/-- A column of a vector depends on the memory alone. -/
theorem Dev.assembleCol_congr {d e : Dev} (hm : e.mem = d.mem) (hl : e.lsEpoch = d.lsEpoch) (x : KerDesc) (v col : Nat) :
    e.assembleCol x v col = d.assembleCol x v col := by
  simp only [Dev.assembleCol, Dev.partTerm, Dev.rd_congr hm hl]

/-- R198: ASSEMBLE writes the columns of its next vector. -/
theorem Dev.assemble_writes (hs : d.sound) (h : d.mxcTask c 0x30 = some r) (hmore : r.done + 1 < r.total) {col : Nat}
    (hcol : col < (parseKer r.desc).par 1 % 65536) :
    (d.assemble c 1).rd ((parseKer r.desc).par 3 + r.done * lo32 ((parseKer r.desc).par 4) + 4 * col) 4 =
      d.assembleCol (parseKer r.desc) r.done col % 2 ^ 32 := by
  obtain ⟨-, hd⟩ := Dev.mxcTask_atItem h
  unfold Dev.assemble
  rw [h]
  simp only [min_one_left hd, List.range_one, List.foldl_cons, List.foldl_nil, Nat.add_zero, if_neg (Nat.ne_of_lt hmore)]
  have hfirst := Dev.readChecks_sound hs (unitKey 2 c 0) [((parseKer r.desc).par 0, 32 * ((parseKer r.desc).par 1 / 65536 % 256))]
  have hread (rs : List (Nat × Nat)) := hfirst.step (Dev.readChecks_sound (hs.via hfirst) (unitKey 2 c 0) rs)
  rw [Evolves.mxcDone.rd_eq, Evolves.produce.rd_eq, Dev.rd_write _ _ _ _ _ (by rw [length_flatMap_natLe, List.length_map, List.length_range]; omega),
    rdLe_flatMap_natLe 4 (by rw [List.length_map, List.length_range]; exact hcol), List.getElem_map, List.getElem_range,
    Dev.assembleCol_congr ((hread _).keeps .mem (by decide)) ((hread _).keeps .lsEpoch (by decide))]
  rfl

/-! ### MATMUL -/

/-- Where a cell of C lies (R193). -/
def MatDesc.cellAddr (x : MatDesc) (q : Nat × Nat) : Nat := x.cAddr + 4 * (q.1 * x.n + q.2)

/-- Cells of C do not overlap. -/
theorem MatDesc.cellAddr_apart {x : MatDesc} {p q : Nat × Nat} (hp : p.2 < x.n) (hq : q.2 < x.n) (h : p ≠ q) :
    x.cellAddr p + 4 ≤ x.cellAddr q ∨ x.cellAddr q + 4 ≤ x.cellAddr p := by
  have hplace : p.1 * x.n + p.2 ≠ q.1 * x.n + q.2 := by
    intro heq
    have hcol : p.2 = q.2 := by simpa [Nat.mul_add_mod', Nat.mod_eq_of_lt hp, Nat.mod_eq_of_lt hq] using congrArg (· % x.n) heq
    have hrow : p.1 = q.1 := Nat.eq_of_mul_eq_mul_right (by omega) (by omega : p.1 * x.n = q.1 * x.n)
    exact h (Prod.ext hrow hcol)
  unfold MatDesc.cellAddr
  omega

/-- The cells of a patch lie in C's columns. -/
theorem MatDesc.patchCells_col {x : MatDesc} {p : Nat} {q : Nat × Nat} (h : q ∈ x.patchCells p) : q.2 < x.n := by
  unfold MatDesc.patchCells at h
  simp only [List.mem_flatMap, List.mem_map, List.mem_range] at h
  obtain ⟨i, -, j, hj, rfl⟩ := h
  dsimp only
  omega

/-- Each cell that is written reads as its value. -/
theorem Dev.rd_writePatch (d : Dev) {x : MatDesc} (f : Nat × Nat → Nat) {qs : List (Nat × Nat)} (hcols : ∀ q ∈ qs, q.2 < x.n) {q : Nat × Nat}
    (hq : q ∈ qs) : (d.writePatch x (qs.map fun q => (q, f q))).rd (x.cellAddr q) 4 = f q % m32 := by
  induction qs using List.reverseRecOn with
  | nil => exact absurd hq List.not_mem_nil
  | append_singleton qs p ih =>
    have hlast : d.writePatch x ((qs ++ [p]).map fun q => (q, f q)) = (d.writePatch x (qs.map fun q => (q, f q))).wr (x.cellAddr p) 4 (f p) := by
      simp only [Dev.writePatch, List.map_append, List.map_cons, List.map_nil, List.foldl_append, List.foldl_cons, List.foldl_nil]
      rfl
    rw [hlast]
    by_cases hpq : q = p
    · subst hpq
      exact Dev.rd_wr_same _ _ _ _
    · have hold : q ∈ qs := (List.mem_append.mp hq).resolve_right fun h => hpq (List.mem_singleton.mp h)
      rw [Dev.wr, Dev.rd_write_outside _ (by rw [length_natLe]; exact MatDesc.cellAddr_apart (hcols q hq) (hcols p (by simp)) hpq)]
      exact ih (fun q hq => hcols q (List.mem_append_left _ hq)) hold

/-- An element of a product depends on the memory and on the mode of the numerics. -/
theorem Dev.matElem_congr {d e : Dev} (hm : e.mem = d.mem) (hl : e.lsEpoch = d.lsEpoch) (hr : e.regs = d.regs) (x : MatDesc) (i j : Nat) :
    e.matElem x i j = d.matElem x i j := by
  simp only [Dev.matElem, Dev.valueAt, Dev.elemAt, Dev.scaleAt, Dev.codeAt, Dev.tileCode, Dev.rd_congr hm hl, Dev.byte_congr hm hl, Dev.fld_congr _ _ _ hr]

/-- R193: MATMUL without a companion writes the elements of its next patch. -/
theorem Dev.matmul_writes (hs : d.sound) (h : d.mxcTask c 0x10 = some r) (hx : d.companion c (parseMat r.desc) = none) (hmore : r.done + 1 < r.total)
    {q : Nat × Nat} (hq : q ∈ (parseMat r.desc).patchCells r.done) :
    (d.matmul c 1).rd ((parseMat r.desc).cellAddr q) 4 = d.matElem (parseMat r.desc) q.1 q.2 % 2 ^ 32 := by
  obtain ⟨hr, hd⟩ := Dev.mxcTask_atItem h
  obtain ⟨-, hf, hc, hi, -, hop⟩ := Dev.mxcTask_eq_some.mp h
  have hread := Dev.readChecks_sound hs (unitKey 2 c 0) (d.matReads c (parseMat r.desc))
  have hfailed := (hr.readChecks (rs := d.matReads c (parseMat r.desc))).mxcFailed.trans hf
  unfold Dev.matmul
  rw [h]
  simp only [Dev.freeProg_none (Dev.companion_none _ hx), ite_self, min_one_left hd, List.range_one, List.map_cons, List.map_nil, List.foldl_cons,
    List.foldl_nil, Nat.add_zero, Dev.matPatch_plain hfailed (Dev.companion_none _ hx)]
  rw [if_neg]
  · rw [Evolves.produce.rd_eq, Evolves.countPatch.rd_eq, Dev.rd_writePatch _ _ (fun q hq => MatDesc.patchCells_col hq) hq]
    rw [Dev.matElem_congr (hread.keeps .mem (by decide)) (hread.keeps .lsEpoch (by decide)) (hread.keeps .regs (by decide))]
    rfl
  · obtain ⟨l, t, b, hq⟩ := (Dev.countPatch_advances (hr.readChecks.via .writePatch) hd _).via .produce
    rw [Dev.mxcTask_eq_some.mpr ⟨hq, hf, hc, hi, hmore, hop⟩]
    simp

end

end Sys2Proof.Machine
end

section
/-!
PROOF. A vector program that is one END (R207, R211), a matrix check (R401), and the tasks of a matrix cluster as commands (O50).
-/

set_option Elab.async false

namespace Sys2Proof.Machine

/-! ### A program that is one END -/

/-- A program that has ended runs no further instruction. -/
theorem Dev.vecRun_ended {d : Dev} {c prog : Nat} (h : (d.vecPos c).ended = true) (n : Nat) : Dev.vecRun c prog n d = d := by
  cases n with
  | zero => rfl
  | succ n => exact if_pos (by simp [h])

/-- Where an instruction ends a program that has neither ended nor stopped, the program has run. -/
theorem Dev.vecRun_once {d : Dev} {c prog n : Nat} (hn : 0 < n) (hd : ((d.vecPos c).ended || (d.vecPos c).stopped) = false)
    (h : ((d.fetchRun c prog).vecPos c).ended = true) : Dev.vecRun c prog n d = d.fetchRun c prog := by
  obtain ⟨n, rfl⟩ := Nat.exists_eq_succ_of_ne_zero hn.ne'
  exact (if_neg (by simp [hd])).trans (Dev.vecRun_ended h n)

/-- R211: an END at a place outside every loop. -/
theorem Dev.fetchRun_end {d : Dev} {c prog : Nat} (hs : d.sound) (hstart : d.vecPos c = startPos) (hin : inMxc c prog 8 = true)
    (hop : (parseWord (d.rd prog 8)).1 = 0x3F) (hmode : (parseWord (d.rd prog 8)).2.mode = 0) :
    d.fetchRun c prog = vEnd c (d.readChecks (unitKey 2 c 0) [(prog, 8)]) := by
  unfold Dev.fetchRun
  simp only [hstart, startPos, Nat.mul_zero, Nat.add_zero, hin, Bool.not_true, Bool.false_eq_true, if_false, Dev.rd_readChecks hs, hop,
    Nat.lt_irrefl, false_and]
  exact if_pos hmode

theorem Dev.resetProg_vecPos (d : Dev) (c : Nat) (x : KerDesc) (passes : Nat) : (d.resetProg c x passes).vecPos c = startPos :=
  Dev.vecPos_setPos_same _ _ _

/-- The program runs: it ends, and leaves the record of its task alone but for the marks of its read. -/
theorem Dev.runProg_end {d : Dev} {c n : Nat} {r : Running} {x : KerDesc} {passes : Nat} (hs : d.sound) (hr : d.atItem (unitKey 2 c 0) r n)
    (hin : inMxc c (x.par 0) 8 = true) (hop : (parseWord (d.rd (x.par 0) 8)).1 = 0x3F) (hmode : (parseWord (d.rd (x.par 0) 8)).2.mode = 0) :
    (d.runProg c x passes).atItem (unitKey 2 c 0) r n ∧ (d.runProg c x passes).vecPos c = { startPos with ended := true } := by
  have hreset : Evolves [.mxc] d (d.resetProg c x passes) := .resetProg
  have hrd : (d.resetProg c x passes).rd (x.par 0) 8 = d.rd (x.par 0) 8 := hreset.rd_eq _ _
  have hread := Dev.readChecks_sound (hs.via hreset) (unitKey 2 c 0) [(x.par 0, 8)]
  have hpos : ((d.resetProg c x passes).readChecks (unitKey 2 c 0) [(x.par 0, 8)]).vecPos c = startPos :=
    (Dev.vecPos_congr (congrArg Mxc.pos (hread.keeps .mxc (by decide))) c).trans (d.resetProg_vecPos c x passes)
  have hfetch := Dev.fetchRun_end (hs.via hreset) (d.resetProg_vecPos c x passes) hin (by rw [hrd]; exact hop) (by rw [hrd]; exact hmode)
  have hend : (vEnd c ((d.resetProg c x passes).readChecks (unitKey 2 c 0) [(x.par 0, 8)])).vecPos c = { startPos with ended := true } := by
    rw [vEnd_vecPos_outside (by rw [hpos]; rfl) (by rw [hpos]; rfl), hpos]
  have hfuel : 0 < vecFuel := Nat.two_pow_pos 32
  have hrun : d.runProg c x passes = vEnd c ((d.resetProg c x passes).readChecks (unitKey 2 c 0) [(x.par 0, 8)]) := by
    rw [Dev.runProg, Dev.vecRun_once hfuel (by rw [Dev.resetProg_vecPos]; rfl) (by rw [hfetch, hend]), hfetch]
  rw [hrun]
  exact ⟨.via (.readChecks (hr.via hreset)) .vEnd, hend⟩

/-- The end of a program's task leaves the programs' places alone. -/
theorem Dev.endProg_pos (d : Dev) (c : Nat) (stopped : Bool) : (d.endProg c stopped).mxc.pos = d.mxc.pos := by
  unfold Dev.endProg
  refine List.foldlRecOn (motive := fun e : Dev => e.mxc.pos = d.mxc.pos) _ _ rfl fun e he k _ => ?_
  dsimp only
  split
  · exact he
  · refine Eq.trans (congrArg Mxc.pos (Evolves.keeps (l := [.regs, .cnt, .mem, .poison, .draws, .frm, .variants, .run, .num, .mbx]) ?_ .mxc
      (by decide))) (show (e.setHist c k none).mxc.pos = d.mxc.pos from he)
    exact .step (.ite (.step .refl .consume) (Evolves.refl.step .consume |>.step .histWrite)) .judge

/-- R207, R211: a VPROG whose program is one END has all of its items done. -/
theorem Dev.vprog_end {d : Dev} {c : Nat} {r : Running} (hs : d.sound) (h : d.mxcTask c 0x20 = some r)
    (hin : inMxc c ((parseKer r.desc).par 0) 8 = true) (hop : (parseWord (d.rd ((parseKer r.desc).par 0) 8)).1 = 0x3F)
    (hmode : (parseWord (d.rd ((parseKer r.desc).par 0) 8)).2.mode = 0) :
    (d.vprog c).atItem (unitKey 2 c 0) r (r.done + (r.total - r.done)) ∧ ((d.vprog c).vecPos c).ended = true := by
  obtain ⟨hr, hd⟩ := Dev.mxcTask_atItem h
  have hall : min r.total (r.done + r.total) = r.done + (r.total - r.done) := by omega
  have hread := Dev.readChecks_sound hs (unitKey 2 c 0) (d.progRange (parseKer r.desc))
  obtain ⟨hran, hpos⟩ := Dev.runProg_end (passes := r.total) (hs.via hread) hr.readChecks hin
    (by rw [Dev.rd_readChecks hs]; exact hop) (by rw [Dev.rd_readChecks hs]; exact hmode)
  unfold Dev.vprog
  rw [h]
  dsimp only
  rw [if_neg (by rw [hpos]; decide)]
  refine ⟨hall ▸ hran.endProg.mxcDone r.total, ?_⟩
  rw [Dev.vecPos_congr (congrArg Mxc.pos (Evolves.mxcDone.keeps .mxc (by decide))), Dev.vecPos_congr (Dev.endProg_pos ..), hpos]

/-! ### A matrix check (R401) -/

/-- The SENTINEL slot that `r` records is complete. -/
def Dev.slotComplete (d : Dev) (k : Nat) (r : Running) : Prop := d.running? k = some { r with complete := true, done := r.total }

theorem Dev.slotComplete.ite {d e : Dev} {k : Nat} {r : Running} {p : Prop} [Decidable p] (h : d.slotComplete k r) (h' : e.slotComplete k r) :
    (if p then d else e).slotComplete k r := iteInduction (motive := fun z : Dev => z.slotComplete k r) (fun _ => h) fun _ => h'

theorem Dev.slotComplete.report {d : Dev} {k : Nat} {r : Running} {cls unit pack cause} (h : d.slotComplete k r) :
    (d.sentOutcome cls unit pack cause).slotComplete k r := (Dev.running_congr (Evolves.sentOutcome.keeps .run (by decide)) k).trans h

/-- Whatever a check finds, its slot is complete before its outcome is reported. -/
theorem Dev.mxcSentinel_completes {d : Dev} {c : Nat} {r : Running} {y : SentEntry} (hs : d.sentSlot (unitKey 2 c 0) = some r)
    (hy : d.sentEntry 2 c = some y) : (d.mxcSentinel c).slotComplete (unitKey 2 c 0) r := by
  have hfinish (e : Dev) : (e.setRunning (unitKey 2 c 0) (some { r with complete := true, done := r.total })).slotComplete (unitKey 2 c 0) r :=
    Dev.running_set_same _ _ _
  unfold Dev.mxcSentinel
  dsimp only
  rw [hs, hy]
  exact .ite (hfinish _) (.ite (hfinish _).report (.ite (hfinish _).report (.ite (hfinish _).report (hfinish _).report)))

/-! ### The statement -/

/-- The task in hand before and after the memories report. -/
theorem Dev.mxcTask_quietEcc {d : Dev} {c op : Nat} {r : Running} (h : d.mxcTask c op = some r) (x : Ecc) : (d.quiet.ecc x).mxcTask c op = some r :=
  (Dev.mxcTask_congr (Evolves.quietEcc.keeps .run (by decide)) c op).trans h

/-- Settles O50: each task through its record and the items it counts, what it writes through the reads of what it has written. -/
theorem matrixTasksAdvance : Obligations.MatrixTasksAdvance := by
  intro c s hp
  refine ⟨fun n x r => ⟨?tasks, ?matmul, ?fit⟩, fun r hs => ⟨?move, ?gather, ?assemble, ?product, ?program⟩, ?check⟩
  case tasks =>
    intro p hmem h
    replace h := Dev.mxcTask_quietEcc h x
    simp only [List.mem_cons, List.not_mem_nil, or_false] at hmem
    rcases hmem with rfl | rfl | rfl | rfl | rfl | rfl | rfl | rfl | rfl
    · exact answers_run _ _ _ _ (exec_move c n x s) hp (Dev.move_advances h n).goesOn
    · exact answers_run _ _ _ _ (exec_gather c n x s) hp (Dev.gatherRows_advances h n).goesOn
    · exact answers_run _ _ _ _ (exec_assemble c n x s) hp (Dev.assemble_advances h n).goesOn
    · exact answers_run _ _ _ _ (exec_bwdWot c n x s) hp (Dev.bwdWot_advances h n).goesOn
    · exact answers_run _ _ _ _ (exec_attnFwd c n x s) hp (Dev.attn_advances h (fun _ _ _ => .attnFwdBlock) n).goesOn
    · exact answers_run _ _ _ _ (exec_attnBwd c n x s) hp (Dev.attn_advances h (fun _ _ _ => .attnBwdBlock) n).goesOn
    · exact answers_run _ _ _ _ (exec_normBwd c n x s) hp (Dev.normBwd_advances h n).goesOn
    · exact answers_run _ _ _ _ (exec_tiesum c n x s) hp (Dev.tiesum_advances h n).goesOn
    · exact answers_run _ _ _ _ (exec_compare c n x s) hp (Dev.compare_advances h n).goesOn
  case matmul =>
    intro h hx
    exact answers_run _ _ _ _ (exec_matmul c n x s) hp
      (Dev.matmul_advances (Dev.mxcTask_quietEcc h x) (Dev.companion_none _ hx) n).goesOn
  case fit =>
    intro h
    have hprogram : s.dev.sameProgram (s.dev.quiet.ecc x) := .via .refl .quietEcc
    refine answers_run _ _ _ _ (exec_lrFit c x s) hp ⟨(Dev.lrFit_completes (Dev.mxcTask_quietEcc h x)).goesOn, fun y hy hrank => ?_⟩
    exact Dev.lrFit_ready (Dev.mxcTask_quietEcc h x) ((hprogram.layerEntry _).trans hy) hrank
  case move =>
    intro h
    exact answers_run _ _ _ _ (exec_move c 1 Ecc.clean s) hp fun k => Dev.move_copies (d := s.dev.quiet) hs h
  case gather =>
    intro h
    exact answers_run _ _ _ _ (exec_gather c 1 Ecc.clean s) hp fun k => Dev.gatherRows_copies (d := s.dev.quiet) hs h
  case assemble =>
    intro h hmore
    exact answers_run _ _ _ _ (exec_assemble c 1 Ecc.clean s) hp fun col => Dev.assemble_writes (d := s.dev.quiet) hs h hmore
  case product =>
    intro h hx hmore
    exact answers_run _ _ _ _ (exec_matmul c 1 Ecc.clean s) hp fun q => Dev.matmul_writes (d := s.dev.quiet) hs h hx hmore
  case program =>
    intro h hin hop hmode
    obtain ⟨hdone, hended⟩ := Dev.vprog_end (d := s.dev.quiet) hs h hin hop hmode
    exact answers_run _ _ _ _ (exec_vprog c Ecc.clean s) hp ⟨hdone.goesOn, hended⟩
  case check =>
    intro x r y hs hy
    have hecc : s.dev.keepsBut [.cnt, .poison] (s.dev.quiet.ecc x) := Evolves.quietEcc.keeps
    exact answers_run _ _ _ _ (exec_mxcCheck c x s) hp
      (Dev.mxcSentinel_completes ((Dev.sentSlot_congr hecc _).trans hs) ((Dev.sentEntry_congr hecc _ _).trans hy))

end Sys2Proof.Machine
end

section
/-!
SUPPORT. The reduction engine through the model's functions: readings of the device that a step leaves as they were, and its task in its unit's record (R247, R257).
-/

set_option Elab.async false

namespace Sys2Proof.Machine

/-- A step that changes other parts leaves the reduction engine as it was. -/
theorem Evolves.red_eq {l : List Part} {d e : Dev} (h : Evolves l d e) (hl : .red ∉ l := by decide) : e.red = d.red := h.keeps .red hl

/-! ### Readings of the device -/

/-- A value that is read off part `p` of the device. -/
structure Reading (p : Part) (α : Type) where
  read : Dev → α
  congr : ∀ {d e : Dev}, Part.same p d e → read e = read d

namespace Reading

/-- What `g` reads of the reduction engine. -/
def red {α : Type} (g : Red → α) : Reading .red α := ⟨fun d => g d.red, congrArg g⟩

/-- A register field. -/
def fld (f : Field) : Reading .regs Nat := ⟨fun d => d.fld f, Dev.fld_congr _ _ f⟩

/-- A counter. -/
def count (c : Nat) : Reading .cnt Nat := ⟨fun d => d.count c, Dev.count_congr _ _ c⟩

/-- The reading is the same of both devices. -/
def same {p : Part} {α : Type} (g : Reading p α) (d e : Dev) : Prop := g.read e = g.read d

namespace same

variable {p : Part} {α : Type} {g : Reading p α} {d e f : Dev}

theorem refl : g.same d d := rfl

theorem step (h : g.same d e) (k : g.same e f) : g.same d f := Eq.trans k h

/-- A step that leaves the part alone that is read. -/
theorem via {l : List Part} (h : g.same d e) (k : Evolves l e f) (hp : p ∉ l := by decide) : g.same d f := h.step (g.congr (k.keeps p hp))

/-- A change of the reduction engine that is not read. -/
theorem setRed {β : Type} {g : Red → β} {u : Red → Red} (h : (red g).same d e) (hu : ∀ r, g (u r) = g r := by intro _; rfl) :
    (red g).same d (e.setRed u) := h.step (hu e.red)

/-- A write of another field than the one that is read. -/
theorem setFld {q w : Field} {v : Nat} (h : (fld q).same d e) (hq : q.key ≠ w.key := by decide) : (fld q).same d (e.setFld w v) :=
  h.step (Dev.fld_setFld_other e w q v hq)

/-- A counting in another counter than the one that is read. -/
theorem bumpBy {c k n : Nat} (h : (count c).same d e) (hc : c ≠ k) : (count c).same d (e.bumpBy k n) := h.step (Dev.count_bumpBy_other e k n c hc)

/-! What a reading that is the same says. -/

theorem red_eq {β : Type} {g : Red → β} (h : (red g).same d e) : g e.red = g d.red := h

theorem fld_eq {q : Field} (h : (fld q).same d e) : e.fld q = d.fld q := h

theorem count_eq {c : Nat} (h : (count c).same d e) : e.count c = d.count c := h

/-! The shapes of the model's functions. -/

theorem use (h : g.same d e) (k : g.same d e → g.same d f) : g.same d f := k h

theorem ite {c : Prop} [Decidable c] (h : g.same d e) (k : g.same d f) : g.same d (if c then e else f) :=
  iteInduction (motive := fun z : Dev => g.same d z) (fun _ => h) fun _ => k

theorem when {c : Prop} [Decidable c] (h : g.same d e) (k : g.same d e → g.same d f) : g.same d (if c then f else e) := ite (k h) h

theorem foldl {β : Type} {u : Dev → β → Dev} {xs : List β} (h : g.same d e) (k : ∀ e x, g.same d e → g.same d (u e x)) :
    g.same d (xs.foldl u e) :=
  List.foldlRecOn (motive := fun z : Dev => g.same d z) xs u h fun e he x _ => k e x he

end same

end Reading

/-! ### The task in hand -/

section
variable {d : Dev} {op : Nat} {r : Running}

theorem Dev.redTask_congr {e : Dev} (hr : e.run = d.run) (hf : e.frm = d.frm) (op : Nat) : e.redTask op = d.redTask op := by
  rw [Dev.redTask, Dev.running_congr hr, hf, Dev.redTask]

/-- Without a slot in progress the engine has no task. -/
theorem Dev.redTask_none (h : d.running? redKey = none) (op : Nat) : d.redTask op = none := by
  rw [Dev.redTask, h]

/-- A task of the engine goes on from its record. -/
theorem Dev.redTask_atItem (h : d.redTask op = some r) : d.atItem redKey r r.done ∧ r.done < r.total := by
  unfold Dev.redTask at h
  split at h
  next q hq =>
    split_ifs at h with hgo
    cases h
    simp only [Bool.and_eq_true, decide_eq_true_eq] at hgo
    exact ⟨.start hq, hgo.2⟩
  next => contradiction

/-- One further item is done. -/
theorem Dev.atItem.redDone (h : d.atItem redKey r r.done) (hd : r.done < r.total) : d.redDone.atItem redKey r (r.done + 1) := by
  obtain ⟨l, t, b, hq⟩ := h
  exact ⟨l, t, b, by rw [Dev.redDone, Dev.running_onRunning_same, hq, Option.map_some, Nat.min_eq_right hd]⟩

end

end Sys2Proof.Machine
end

section
/-!
PROOF. The items of the tasks of the reduction engine (R252, R255, R259, R263, R264).
-/

set_option Elab.async false

namespace Sys2Proof.Machine

section
variable {d : Dev} {r : Running}

/-! ### RS, AG and FETCH at the end of a ring -/

theorem Dev.rs_first (h : d.redTask 0x90 = some r) (hfirst : (parseRed r.desc).first = true) : d.rs.atItem redKey r (r.done + 1) := by
  obtain ⟨hr, hd⟩ := Dev.redTask_atItem h
  unfold Dev.rs
  rw [h]
  dsimp only
  rw [if_pos hfirst]
  have hread {rs fault} : ((d.readChecks redKey rs).countFaults fault).atItem redKey r r.done := hr.readChecks.via .countFaults
  exact .redDone (.ite (.via (.when hread fun h => h.mark) .ownerResult) (.via (.when hread fun h => h.mark) .sendPkt)) hd

theorem Dev.fetch_first (h : d.redTask 0x95 = some r) (hfirst : (parseRed r.desc).first = true) : d.fetch.atItem redKey r (r.done + 1) := by
  obtain ⟨hr, hd⟩ := Dev.redTask_atItem h
  unfold Dev.fetch
  rw [h]
  dsimp only
  rw [if_pos hfirst]
  exact .redDone (hr.readChecks.via .sendPkt) hd

theorem Dev.ag_end (h : d.redTask 0x91 = some r) (hend : ((parseRed r.desc).first || (parseRed r.desc).last) = true) :
    d.ag.atItem redKey r (r.done + 1) := by
  obtain ⟨hr, hd⟩ := Dev.redTask_atItem h
  unfold Dev.ag
  rw [h]
  dsimp only
  rw [if_pos hend]
  exact .redDone (hr.readChecks.via .sendPkt) hd

/-! ### PRE_X -/

/-- The item of a PRE_X task, by which the engine notes that it has been sent on (R252). -/
def Running.preXItem (r : Running) : Nat × Nat :=
  let x := parseRed r.desc
  (axisKey x.axis (x.bucket + r.done / 2), r.done % 2)

/-- R252: the position that begins the chain sends its item toward the owner. -/
theorem Dev.preX_first (h : d.redTask 0x92 = some r) (hfirst : (parseRed r.desc).first = true) (hlast : (parseRed r.desc).last = false)
    (hnew : r.preXItem ∉ d.red.preSent) : r.preXItem ∈ d.preX.red.preSent := by
  unfold Dev.preX
  rw [h]
  dsimp only
  rw [if_neg (by simpa [Running.preXItem] using hnew), if_pos hfirst]
  dsimp only
  rw [if_neg (by simp [hlast]), Evolves.sendPkt.red_eq]
  exact List.mem_cons_self

/-! ### NOTICE -/

theorem Dev.sendNotice_sent (d : Dev) (axis : Nat) : (d.sendNotice axis).red.noticeSent = d.red.noticeSent + 1 := by
  unfold Dev.sendNotice
  rw [Evolves.noticeItem.red_eq]
  rfl

/-- R259: the next packet of the own notice is sent. -/
theorem Dev.notice_own (h : d.redTask 0x93 = some r) (hmore : d.red.noticeSent < 1 + 2 * (d.ownNamed (parseRed r.desc).axis).length) :
    d.notice.red.noticeSent = d.red.noticeSent + 1 := by
  unfold Dev.notice
  rw [h]
  dsimp only
  rw [if_pos hmore, Dev.sendNotice_sent]

/-! ### REPLAY -/

/-- R260: the bucket that a REPLAY task takes up. -/
def Dev.nextFaulted (d : Dev) (x : RedDesc) : Option Nat :=
  (d.faulted x.axis).find? fun b => x.bucket ≤ b && !d.red.taken.contains (axisKey x.axis b)

theorem Dev.replayRed_none (h : d.redTask 0x94 = some r) (hpkt : d.red.replayPkt = 0) (hnone : d.nextFaulted (parseRed r.desc) = none) :
    ∃ q, d.replayRed.running? redKey = some q ∧ q.done = r.total := by
  obtain ⟨⟨l, t, b, hq⟩, -⟩ := Dev.redTask_atItem h
  rw [Dev.nextFaulted] at hnone
  unfold Dev.replayRed
  rw [h]
  dsimp only
  rw [if_pos hpkt, hnone]
  dsimp only
  rw [Dev.running_onRunning_same, hq]
  exact ⟨_, rfl, rfl⟩

/-- R259: the end of a replayed packet: the bucket is taken with its first one, and is an item of the task with its last one. -/
def Dev.endReplayPkt (d : Dev) (key k packets : Nat) (owner : Bool) : Dev :=
  let d := d.setRed fun r => { r with taken := if k = 0 then key :: r.taken else r.taken, replayPkt := k + 1 }
  if k + 1 < packets then d
  else
    let d := d.setRed fun r => { r with replayPkt := 0, replays := if owner then r.replays + 1 else r.replays }
    (if owner then d.bump Cnt.RED_REPLAY_CNT else d).redDone

theorem Dev.endReplayPkt_first (d : Dev) (key packets : Nat) (owner : Bool) :
    key ∈ (d.endReplayPkt key 0 packets owner).red.taken ∧
      (d.endReplayPkt key 0 packets owner).red.replayPkt = if 1 < packets then 1 else 0 := by
  unfold Dev.endReplayPkt
  by_cases hmore : 1 < packets
  · simp only [Nat.zero_add, if_pos hmore]
    exact ⟨List.mem_cons_self, rfl⟩
  · simp only [Nat.zero_add, if_neg hmore, Evolves.redDone.red_eq]
    split
    · exact ⟨List.mem_cons_self, rfl⟩
    · exact ⟨List.mem_cons_self, rfl⟩

/-- The first position of a ring needs no packet for the bucket that it takes up. -/
theorem Dev.replayRed_first (h : d.redTask 0x94 = some r) (hpkt : d.red.replayPkt = 0) {b : Nat} (hb : d.nextFaulted (parseRed r.desc) = some b)
    (hpos : d.ringPos (parseRed r.desc).axis = (b + 1) % d.ringSize (parseRed r.desc).axis) :
    ∃ e owner, d.replayRed = Dev.endReplayPkt e (axisKey (parseRed r.desc).axis b) 0 (parseRed r.desc).packets owner := by
  rw [Dev.nextFaulted] at hb
  unfold Dev.replayRed
  rw [h]
  dsimp only
  rw [if_pos hpkt, hb]
  dsimp only
  rw [if_pos (by simpa using hpos), hpkt]
  exact ⟨_, _, rfl⟩

end

end Sys2Proof.Machine
end

section
/-!
PROOF. The deadline of the packets stands through every step of the reduction engine (R261).
-/

set_option Elab.async false

namespace Sys2Proof.Machine.Reading.same

variable {d e : Dev}

theorem takePkt {tag bucket packet hop t p} (h : d.takePkt tag bucket packet hop = some (t, p, e)) : (red Red.past).same d e := by
  unfold Dev.takePkt at h
  dsimp only at h
  split at h
  · contradiction
  · cases h
    exact refl.setRed

theorem missing {tag bucket packet} : (red Red.past).same d (d.missing tag bucket packet) := by
  unfold Dev.missing
  exact use (refl.via .bump |>.via .onRunning) fun h => ite (h.step rfl) (h.step rfl)

theorem incoming {tag bucket packet kind hop which a p} (h : d.incoming tag bucket packet kind hop which = some (a, p, e)) :
    (red Red.past).same d e := by
  unfold Dev.incoming at h
  split at h
  · next ht => cases h; exact (takePkt ht).via .arrival
  · split at h
    · cases h; exact missing
    · contradiction

/-- A packet that the first of a chain makes itself, or that is awaited (R255, R261). -/
theorem firstOrIncoming {c : Bool} {p₀ tag bucket packet kind hop which a p}
    (h : (if c then some (true, p₀, d) else d.incoming tag bucket packet kind hop which) = some (a, p, e)) :
    (red Red.past).same d e := by
  split at h
  · cases h; exact refl
  · exact incoming h

theorem ownerResult {axis p result} : (red Red.past).same d (d.ownerResult axis p result) := by
  unfold Dev.ownerResult
  exact when (refl.via .write |>.via .write |>.via .produce |>.setRed) fun h => h.setRed

theorem rs : (red Red.past).same d d.rs := by
  unfold Dev.rs
  split
  · exact refl
  · dsimp only
    split
    · exact refl
    · next hi =>
      exact use ((firstOrIncoming hi).via .readChecks |>.via .countFaults) fun h =>
        use (when h fun h => h.via .onRunning) fun h => use (ite (h.step .ownerResult) (h.via .sendPkt)) fun h => h.via .redDone

theorem ag : (red Red.past).same d d.ag := by
  unfold Dev.ag
  split
  · exact refl
  · refine ite (refl.via .readChecks |>.via .sendPkt |>.via .redDone) ?_
    split
    · exact refl
    · next hi =>
      exact use (incoming hi) fun h =>
        ite (h.via .markLate |>.via .redDone) (ite (h.via .shardVer |>.via .redDone)
        (use (h.via .write |>.via .write) fun h => use (when h fun h => h.via .markLate) fun h =>
          use (ite h (h.via .sendPkt)) fun h => h.via .redDone))

theorem recordEpoch {x n} : (red Red.past).same d (d.recordEpoch x n) := by
  unfold Dev.recordEpoch
  exact ite refl refl.setRed

theorem fetch : (red Red.past).same d d.fetch := by
  unfold Dev.fetch
  split
  · exact refl
  · refine ite (refl.via .readChecks |>.via .sendPkt |>.via .redDone) ?_
    split
    · exact refl
    · next hi =>
      exact use (incoming hi) fun h =>
        ite (h.via .markLate |>.via .redDone) (ite (h.step .recordEpoch |>.via .shardVer |>.via .redDone)
        (use (h.step .recordEpoch |>.via .write) fun h => use (when h fun h => h.via .markLate) fun h =>
          use (ite h (h.via .sendPkt)) fun h => h.via .redDone))

theorem writeAgreed {b k xs} : (red Red.past).same d (d.writeAgreed b k xs) := by
  unfold Dev.writeAgreed
  exact ite (when (refl.via .write) fun h => h.setRed) refl

theorem preX : (red Red.past).same d d.preX := by
  unfold Dev.preX
  split
  · exact refl
  · refine ite ?_ ?_
    · split
      · exact refl
      · next hi =>
        exact use (incoming hi) fun h => use (ite (h.step .writeAgreed) h) fun h => use (when h fun h => h.via .markLate) fun h =>
          use (ite h (h.via .sendPkt)) fun h => h.via .redDone
    · dsimp only
      split
      · exact refl
      · next _ inc e hgot =>
        have hin : (red Red.past).same d e := by
          split at hgot
          · cases hgot; exact refl
          · split at hgot
            · next ht =>
              obtain ⟨_, _, hp⟩ := List.exists_of_findSome?_eq_some ht
              cases hgot
              exact (takePkt hp).via .arrival
            · split at hgot
              · cases hgot; exact missing
              · contradiction
        exact use (hin.via .readChecks) fun h =>
          ite (use (h.step .writeAgreed |>.via .sendPkt) fun h => use (when h fun h => h.via .markLate) fun h => h.via .redDone)
            (h.setRed.via .sendPkt)

theorem setNeed {key half xs} : (red Red.past).same d (d.setNeed key half xs) := by
  unfold Dev.setNeed
  exact refl.setRed

theorem takeNotice {axis q p} : (red Red.past).same d (d.takeNotice axis q p) := by
  unfold Dev.takeNotice
  refine use (ite (refl.setRed.setRed) ?_) fun h => when (ite (h.via .onRunning) h) fun h => h.via .sendPkt
  split
  · exact refl.setRed.step .setNeed
  · exact refl.setRed

theorem sendNotice {axis} : (red Red.past).same d (d.sendNotice axis) := by
  unfold Dev.sendNotice
  exact use (ite refl.setRed (refl.via .readChecks)) fun h => use (ite h (h.step .setNeed)) fun h => (h.via .sendPkt).setRed.via .noticeItem

theorem notice : (red Red.past).same d d.notice := by
  unfold Dev.notice
  split
  · exact refl
  · refine ite sendNotice ?_
    dsimp only
    split
    · exact refl.setRed.via .arrival |>.step .takeNotice |>.via .noticeItem
    · split
      · exact missing.setRed.via .noticeItem
      · exact refl

theorem replayRed : (red Red.past).same d d.replayRed := by
  unfold Dev.replayRed
  split
  · exact refl
  · dsimp only
    split
    · exact refl.via .onRunning
    · split
      · exact refl
      · next hi =>
        exact use ((firstOrIncoming hi).via .readChecks) fun h => use (foldl h fun _ _ h => ite h (h.via .w32Count)) fun h =>
          use (h.via .write |>.via .write |>.via .countFaults) fun h => use (when h fun h => h.via .onRunning) fun h =>
          use (h.via .produce) fun h =>
          use (ite (use (foldl h fun _ _ h => ite h (h.via .write |>.via .wr)) fun h => use (h.via .produce) fun h =>
            when h fun h => h.via .trouble)
            (h.via .sendPkt)) fun h =>
          use h.setRed fun h => ite h (use h.setRed fun h => use (when h fun h => h.via .bump) fun h => h.via .redDone)

theorem redStep : (red Red.past).same d d.redStep := by
  unfold Dev.redStep
  exact refl.step .rs |>.step .ag |>.step .fetch |>.step .preX |>.step .notice |>.step .replayRed

end Sys2Proof.Machine.Reading.same
end

section
/-!
PROOF. Items of the reduction engine's tasks and packets that arrive (O52).
-/

set_option Elab.async false

namespace Sys2Proof.Machine

/-! ### Packets that wait (R247, R261, R309) -/

/-- What a message is checked by does not depend on what the device has sent. -/
theorem Dev.checkMsg_quiet (d : Dev) (mt : Nat) (lenOk routed : Bool) (m : Msg) :
    (d.quiet.checkMsg mt lenOk routed m).1 = (d.checkMsg mt lenOk routed m).1 := by
  have hshape : d.quiet.shape = d.shape := rfl
  unfold Dev.checkMsg
  rw [hshape]
  split_ifs <;> rfl

/-- A message that passes the checks counts nothing. -/
theorem Dev.checkMsg_passed {d : Dev} {mt : Nat} {lenOk routed : Bool} {m : Msg} (h : (d.checkMsg mt lenOk routed m).1 = true) :
    d.checkMsg mt lenOk routed m = (true, d) := by
  unfold Dev.checkMsg at h ⊢
  split_ifs at h ⊢
  rfl

/-- A routed message that reaches the device whole is delivered. -/
theorem Dev.routed_received {d : Dev} {p mt : Nat} {lenOk : Bool} {m : Msg} (h : d.receives p mt lenOk m) (deliver : Dev → Dev) :
    d.routed p mt lenOk m deliver = deliver d := by
  obtain ⟨hc, hm, hdst⟩ := h
  unfold Dev.routed
  rw [Dev.checkMsg_passed hm]
  simp [hc, hdst]

theorem Dev.receives_quiet {d : Dev} {p mt : Nat} {lenOk : Bool} {m : Msg} (h : d.receives p mt lenOk m) : d.quiet.receives p mt lenOk m := by
  obtain ⟨hc, hm, hdst⟩ := h
  exact ⟨hc, (d.checkMsg_quiet mt lenOk true m).trans hm, hdst⟩

/-- Without a task in hand the engine does nothing. -/
theorem Dev.redStep_idle {d : Dev} (h : d.running? redKey = none) : d.redStep = d := by
  have hrs : d.rs = d := by rw [Dev.rs, Dev.redTask_none h]
  have hag : d.ag = d := by rw [Dev.ag, Dev.redTask_none h]
  have hfetch : d.fetch = d := by rw [Dev.fetch, Dev.redTask_none h]
  have hpreX : d.preX = d := by rw [Dev.preX, Dev.redTask_none h]
  have hnotice : d.notice = d := by rw [Dev.notice, Dev.redTask_none h]
  have hreplay : d.replayRed = d := by rw [Dev.replayRed, Dev.redTask_none h]
  rw [Dev.redStep, hrs, hag, hfetch, hpreX, hnotice, hreplay]

/-- A packet of this run and epoch comes in time and is not yet given up; no task of the engine is in hand. `kind` is its kind, by which the inbox keeps
it along the axis that it came by. -/
structure Dev.packetWaits (d : Dev) (kind : Nat) (m : Msg) : Prop where
  run : rdLe m.body 0 1 = d.fld Reg.RED_STEP_STATE_REPEATS
  inTime : bit m.flags.toNat 0 = false
  idle : d.running? redKey = none
  early : d.red.past = false
  known : kind < 8
  epoch : kind = 1 ∨ kind = 5 ∨ (parsePkt (m.body.drop 8)).epoch = d.epoch
  present : d.pktName (kind + 8 * d.srcAxis m.src.toNat) (parsePkt (m.body.drop 8)) ∉ d.red.absent
  presentNext : d.pktName (kind + 8 * d.srcAxis m.src.toNat) (parsePkt (m.body.drop 8)) ∉ d.red.absentNext

theorem Dev.packetWaits.quiet {d : Dev} {kind : Nat} {m : Msg} (h : d.packetWaits kind m) : d.quiet.packetWaits kind m :=
  ⟨h.run, h.inTime, h.idle, h.early, h.known, h.epoch, h.present, h.presentNext⟩

theorem Dev.redArrive_waits {d : Dev} {kind : Nat} {m : Msg} (h : d.packetWaits kind m) (t : Nat) :
    d.redArrive (kind + 8 * d.srcAxis m.src.toNat) m t =
      d.setRed fun r => { r with inbox := r.inbox ++ [(kind + 8 * d.srcAxis m.src.toNat, t, m.body.drop 8)] } := by
  obtain ⟨hrun, hinTime, hidle, hearly, hkind, hepoch, hpresent, hpresentNext⟩ := h
  have hmod : (kind + 8 * d.srcAxis m.src.toNat) % 8 = kind := by omega
  unfold Dev.redArrive
  rw [if_neg (not_not_intro hrun)]
  dsimp only
  rw [if_neg (by simp [hpresent, hpresentNext]), if_neg (by rw [hmod]; tauto), if_neg (by simp [hearly]), hinTime]
  exact Dev.redStep_idle (d := d.setRed _) hidle

/-- The arrival of a packet on port `p` at `t`; its kind is read from its flags. -/
theorem answers_waits {i : Instr} {s : State} {p t kind : Nat} {tag : Nat → Nat} {m : Msg} (hexec : exec i s = s.run fun d => d.reduceIn p tag m t)
    (hp : s.dev.powered = true) (hm : s.dev.receives p MT.reduce (m.len == 4232) m) (h : s.dev.packetWaits kind m)
    (hkind : tag (rdLe m.body 23 1) = kind) :
    answers i s fun e => e.red.inbox = s.dev.red.inbox ++ [(kind + 8 * s.dev.srcAxis m.src.toNat, t, m.body.drop 8)] ∧ s.dev.keepsBut [.red] e := by
  refine answers_run _ _ _ _ hexec hp ?_
  rw [Dev.reduceIn, Dev.routed_received (Dev.receives_quiet hm), hkind, Dev.redArrive_waits h.quiet]
  exact ⟨rfl, (Evolves.refl.step .quiet |>.step .setRed).keeps⟩

/-! ### The statement -/

theorem Dev.redTask_quietEcc {d : Dev} {op : Nat} {r : Running} (h : d.redTask op = some r) (x : Ecc) : (d.quiet.ecc x).redTask op = some r :=
  (Dev.redTask_congr (Evolves.quietEcc.keeps .run (by decide)) (Evolves.quietEcc.keeps .frm (by decide)) op).trans h

/-- One item more is done, as the statement reads it. -/
theorem Dev.atItem.oneDone {d : Dev} {r : Running} (h : d.atItem redKey r (r.done + 1)) :
    ∃ q, d.running? redKey = some q ∧ q.done = r.done + 1 ∧ q.total = r.total := by
  obtain ⟨q, hq, hdone, htotal, -⟩ := h.goesOn
  exact ⟨q, hq, hdone, htotal⟩

/-- What the memories report changes nothing that the tasks of the engine are chosen by. -/
theorem Dev.ownNamed_congr {d e : Dev} (hred : e.red = d.red) (hregs : e.regs = d.regs) (axis : Nat) : e.ownNamed axis = d.ownNamed axis := by
  have hfld (f : Field) : e.fld f = d.fld f := Dev.fld_congr _ _ _ hregs
  simp only [Dev.ownNamed, Dev.noticeOf, Dev.ringPos, Dev.coord, Dev.ownList, Dev.bucketsOf, hred, hfld]

theorem Dev.nextFaulted_congr {d e : Dev} (hred : e.red = d.red) (hregs : e.regs = d.regs) (x : RedDesc) : e.nextFaulted x = d.nextFaulted x := by
  have hfld (f : Field) : e.fld f = d.fld f := Dev.fld_congr _ _ _ hregs
  simp only [Dev.nextFaulted, Dev.faulted, Dev.bucketsOf, hred, hfld]

theorem Dev.ring_congr {d e : Dev} (hregs : e.regs = d.regs) (axis : Nat) : e.ringPos axis = d.ringPos axis ∧ e.ringSize axis = d.ringSize axis := by
  have hfld (f : Field) : e.fld f = d.fld f := Dev.fld_congr _ _ _ hregs
  simp only [Dev.ringPos, Dev.coord, Dev.ringSize, Dev.shape, hfld, and_self]

/-- Settles O52: the items at the ends of a ring, the packets that wait, and the deadline. -/
theorem reductionAdvances : Obligations.ReductionAdvances := by
  intro s hp
  refine ⟨fun x r => ?tasks, fun p m t hm hrun hlate hidle hpast q hmem => ?packets, ?deadline⟩
  case tasks =>
    have hred : (s.dev.quiet.ecc x).red = s.dev.red := Evolves.quietEcc.red_eq
    have hregs : (s.dev.quiet.ecc x).regs = s.dev.regs := Evolves.quietEcc.keeps .regs (by decide)
    refine ⟨fun h hfirst => ?rs, fun h hfirst => ?fetch, fun h hend => ?ag, fun h hfirst hlast hnew => ?preX, fun h hmore => ?notice,
      fun h hpkt hnone => ?none, fun b h hpkt hb hpos => ?first⟩
    case rs => exact answers_run _ _ _ _ (exec_rs x s) hp (Dev.rs_first (Dev.redTask_quietEcc h x) hfirst).oneDone
    case fetch => exact answers_run _ _ _ _ (exec_fetch x s) hp (Dev.fetch_first (Dev.redTask_quietEcc h x) hfirst).oneDone
    case ag => exact answers_run _ _ _ _ (exec_ag x s) hp (Dev.ag_end (Dev.redTask_quietEcc h x) hend).oneDone
    case preX => exact answers_run _ _ _ _ (exec_preX x s) hp (Dev.preX_first (Dev.redTask_quietEcc h x) hfirst hlast (hred ▸ hnew))
    case notice =>
      rw [← hred, ← Dev.ownNamed_congr hred hregs] at hmore
      exact answers_run _ _ _ _ (exec_notice x s) hp (hred ▸ Dev.notice_own (Dev.redTask_quietEcc h x) hmore)
    case none =>
      exact answers_run _ _ _ _ (exec_replay x s) hp
        (Dev.replayRed_none (Dev.redTask_quietEcc h x) (hred ▸ hpkt) ((Dev.nextFaulted_congr hred hregs _).trans hnone))
    case first =>
      obtain ⟨hringPos, hringSize⟩ := Dev.ring_congr hregs (parseRed r.desc).axis
      obtain ⟨e, owner, he⟩ := Dev.replayRed_first (Dev.redTask_quietEcc h x) (hred ▸ hpkt) ((Dev.nextFaulted_congr hred hregs _).trans hb)
        (hringPos.trans (hpos.trans (by rw [hringSize])))
      refine answers_run _ _ _ _ (exec_replay x s) hp ?_
      rw [he]
      exact e.endReplayPkt_first _ _ owner
  case packets =>
    intro hepoch habsent hnext
    have hwaits (hkind : q.2 < 8) : s.dev.packetWaits q.2 m := ⟨hrun, hlate, hidle, hpast, hkind, hepoch, habsent, hnext⟩
    simp only [List.mem_cons, List.not_mem_nil, or_false] at hmem
    rcases hmem with rfl | rfl | rfl | rfl | rfl
    · exact answers_waits (exec_reduceMsg p m t s) hp hm (hwaits (by dsimp only; split <;> decide)) rfl
    · exact answers_waits (exec_agRx p m t s) hp hm (hwaits (by norm_num)) rfl
    · exact answers_waits (exec_fetchRx p m t s) hp hm (hwaits (by norm_num)) rfl
    · exact answers_waits (exec_preXRx p m t s) hp hm (hwaits (by norm_num)) rfl
    · exact answers_waits (exec_noticeRx p m t s) hp hm (hwaits (by norm_num)) rfl
  case deadline => exact answers_run _ _ _ _ (exec_packetDeadline s) hp Reading.same.redStep

end Sys2Proof.Machine
end

section
/-!
PROOF. What tokens and results leave of the registers, the counters and the device's own contribution (R265 to R268, R325).
-/

set_option Elab.async false

namespace Sys2Proof.Machine

/-! ### Fields and counters that stay -/

namespace Reading.same

variable {d : Dev} {g f : Field}

theorem trace {point src arg0 arg1} (h : g.key ≠ Reg.MBX_TRACE_HEAD_COUNT.key) : (fld g).same d (d.trace point src arg0 arg1) := by
  unfold Dev.trace
  exact ite (when (refl.via .write |>.setFld h |>.via .put_draws_mbx) fun h => h.via .bump) refl

theorem sticky (hf : g.key ≠ f.key) (h : g.key ≠ Reg.MBX_TRACE_HEAD_COUNT.key) : (fld g).same d (d.sticky f) := by
  unfold Dev.sticky
  exact ite refl (refl.setFld hf |>.step (.trace h))

theorem partition (hf : g.key ≠ Reg.FLT_STK0_PARTITION.key) (h : g.key ≠ Reg.MBX_TRACE_HEAD_COUNT.key) : (fld g).same d d.partition := by
  unfold Dev.partition
  exact ite (refl.via .put_fab |>.step (.sticky hf h) |>.via .bump) refl

/-- The counters of the fabric lie above those of the blocks before it. -/
theorem fabricCount {c n k : Nat} (h : c < Cnt.FAB_DROP_CNT) (hk : Cnt.FAB_DROP_CNT ≤ k) : (count c).same d (d.bumpBy k n) :=
  refl.bumpBy (h.trans_le hk).ne

theorem drain {c p} (h : c < Cnt.FAB_DROP_CNT) : (count c).same d (d.drain p) := by
  unfold Dev.drain
  split
  · exact refl
  · exact use (foldl (refl.via .setLink |>.step (.fabricCount h (Nat.le_add_right_of_le (by decide)))) fun _ _ h => h.via .dataOut) fun k =>
      k.step (.fabricCount h (Nat.le_add_right_of_le (by decide)))

/-- Sending counts in the fabric's counters alone. -/
theorem tx {c p mt bytes} (h : c < Cnt.FAB_DROP_CNT) : (count c).same d (d.tx p mt bytes) := by
  unfold Dev.tx Dev.txRaw
  refine ite ?_ (fabricCount h le_rfl)
  split
  · exact fabricCount h le_rfl
  · exact refl.via .setLink |>.via .put_fab |>.via .emit |>.step (.drain h)

end Reading.same

/-! ### The token frame -/

/-- A token or result that fits the step (R268). -/
def Dev.fits (d : Dev) (t : Token) : Bool := d.tokenFrame && t.epoch == d.epoch && t.repeats == d.fld Reg.RED_STEP_STATE_REPEATS

/-- The registers that the token frame and the step are read from. -/
def stepFields : List Field :=
  [Reg.HIF_STATE_STATE, Reg.FRM_STEP_POS_FRAME, Reg.FRM_STEP_POS_STEP_FRAMES, Reg.RED_EPOCH_EPOCH, Reg.RED_STEP_STATE_REPEATS]

section
variable {d e : Dev} (hfrm : e.frm = d.frm) (hfld : ∀ g ∈ stepFields, e.fld g = d.fld g)
include hfrm hfld

theorem Dev.tokenFrame_congr : e.tokenFrame = d.tokenFrame := by
  simp only [Dev.tokenFrame, Dev.st, Dev.lastFrame, hfrm, hfld Reg.HIF_STATE_STATE (by decide), hfld Reg.FRM_STEP_POS_FRAME (by decide),
    hfld Reg.FRM_STEP_POS_STEP_FRAMES (by decide)]

theorem Dev.fits_congr (t : Token) : e.fits t = d.fits t := by
  simp only [Dev.fits, Dev.epoch, Dev.tokenFrame_congr hfrm hfld, hfld Reg.RED_EPOCH_EPOCH (by decide), hfld Reg.RED_STEP_STATE_REPEATS (by decide)]

end

theorem Dev.tokenBarred_congr {d e : Dev} (hfrm : e.frm = d.frm) (hflt : e.flt = d.flt) : e.tokenBarred = d.tokenBarred := by
  rw [Dev.tokenBarred, hfrm, hflt, Dev.tokenBarred]

theorem Dev.holdResult_fits {d : Dev} {t : Token} (h : d.fits t = true) : d.holdResult t = { d with red := { d.red with result := some t } } := if_pos h

theorem Dev.holdResult_late {d : Dev} {t : Token} (h : d.fits t = false) : d.holdResult t = d.bump Cnt.RED_TOKEN_LATE_CNT := if_neg (Bool.eq_false_iff.mp h)

/-! ### The contributions to the token (R265, R266) -/

/-- The children's tokens and the device's own. -/
def Red.contributions (r : Red) : List (Nat × Token) × Option Token := (r.tokens, r.own)

namespace Reading.same

variable {d : Dev}

theorem holdResult {t} : (red Red.contributions).same d (d.holdResult t) := by
  unfold Dev.holdResult
  exact ite rfl (refl.via .bump)

theorem decideToken : (red Red.contributions).same d d.decideToken := by
  unfold Dev.decideToken
  exact use (show (red Red.contributions).same d { d with red := { d.red with sent := true, seen := _ } } from rfl) fun h =>
    use (foldl (when h fun h => h.via .partition) fun _ _ h => when h fun h => h.via .txLocal) fun h => h.step .holdResult

theorem forwardToken : (red Red.contributions).same d d.forwardToken := by
  unfold Dev.forwardToken
  refine ite .decideToken ?_
  have hsent : (red Red.contributions).same d { d with red := { d.red with sent := true } } := rfl
  dsimp only
  split
  · exact hsent
  · exact ite hsent (hsent.via .txLocal)

theorem tryToken : (red Red.contributions).same d d.tryToken := by
  unfold Dev.tryToken
  exact ite refl (ite (ite .decideToken refl) (ite .forwardToken refl))

end Reading.same

theorem Dev.tryToken_tokens (d : Dev) : d.tryToken.red.tokens = d.red.tokens := congrArg Prod.fst Reading.same.tryToken.red_eq

theorem Dev.tryToken_own (d : Dev) : d.tryToken.red.own = d.red.own := congrArg Prod.snd Reading.same.tryToken.red_eq

end Sys2Proof.Machine
end

section
/-!
PROOF. The token is formed once (O44).
-/

set_option Elab.async false

namespace Sys2Proof.Machine

theorem Dev.formToken_formed (d : Dev) : d.formToken.frm.tokenFormed = true ∧ d.formToken.red.own.isSome = true := ⟨rfl, rfl⟩

/-- Settles O44: the event forms the token where it is due, and finds nothing to do where it has been formed. -/
theorem tokenFormedOnce : Obligations.TokenFormedOnce := by
  intro x s hp
  have hfrm : (s.dev.quiet.ecc x).frm = s.dev.frm := Evolves.quietEcc.keeps .frm (by decide)
  have hregs : (s.dev.quiet.ecc x).regs = s.dev.regs := Evolves.quietEcc.keeps .regs (by decide)
  refine ⟨fun hformed => ?again, fun hnew hframe hbarred => ?due⟩
  case again =>
    rw [exec_tokenForm, execTokenForm, State.run_powered _ _ hp]
    simp [hfrm, hformed]
  case due =>
    have hdue : ((s.dev.quiet.ecc x).tokenFrame && !(s.dev.quiet.ecc x).frm.tokenFormed && !(s.dev.quiet.ecc x).tokenBarred) = true := by
      rw [Dev.tokenFrame_congr hfrm fun g _ => Dev.fld_congr _ _ g hregs, Dev.tokenBarred_congr hfrm (Evolves.quietEcc.keeps .flt (by decide)), hfrm,
        hframe, hnew, hbarred]
      rfl
    refine answers_run _ _ _ _ (exec_tokenForm x s) hp ?_
    dsimp only
    rw [if_pos hdue]
    obtain ⟨hformed, hown⟩ := Dev.formToken_formed ((s.dev.quiet.ecc x).readStep (s.dev.quiet.ecc x).tokenReads)
    generalize ((s.dev.quiet.ecc x).readStep (s.dev.quiet.ecc x).tokenReads).formToken = d at hformed hown
    have hfrm' : d.tryToken.frm = d.frm := Evolves.tryToken.keeps .frm (by decide)
    exact ⟨by rw [hfrm', hformed], by rw [Dev.tryToken_own, hown]⟩

end Sys2Proof.Machine
end

section
/-!
PROOF. Tokens and results that arrive, and the deadlines (O53).
-/

set_option Elab.async false

namespace Sys2Proof.Machine

/-! ### A child's token (R266) -/

theorem Dev.tokenIn_kept {d : Dev} (hframe : d.tokenFrame = true) (hsent : d.red.sent = false) (p : Nat) (m : Msg) :
    (p, parseToken m.body) ∈ (d.tokenIn p m).red.tokens := by
  unfold Dev.tokenIn
  rw [if_neg (by simp [hframe, hsent])]
  dsimp only
  rw [Dev.tryToken_tokens]
  exact List.mem_append_right _ (List.mem_singleton_self _)

theorem Dev.tokenIn_late {d : Dev} (h : d.tokenFrame = false ∨ d.red.sent = true) (p : Nat) (m : Msg) :
    d.tokenIn p m = d.bump Cnt.RED_TOKEN_LATE_CNT := by
  unfold Dev.tokenIn
  rw [if_pos (by simpa [or_comm] using h)]

/-! ### A result (R267, R268) -/

theorem Dev.resultIn_seen {d : Dev} {m : Msg} (h : d.seenResult (parseToken m.body) = true) (p : Nat) : d.resultIn p m = d := by
  unfold Dev.resultIn
  dsimp only
  rw [if_pos h]

/-- The device once it has sent the first copy of a result on. -/
def Dev.passResult (d : Dev) (p : Nat) (m : Msg) : Dev :=
  ports.foldl (fun d q => if d.portUp q && q != p then
    d.tx q MT.result (msgBytes MT.result m.flags.toNat 0 m.src.toNat (m.hops.toNat + 1) m.ecrc.toNat m.body) else d) d

theorem Dev.passResult_evolves (d : Dev) (p : Nat) (m : Msg) : Evolves [.cnt, .fab] d (d.passResult p m) := by
  unfold Dev.passResult
  exact .foldl .refl fun _ _ h => .when h fun h => h.step .tx

theorem Dev.passResult_count (d : Dev) (p : Nat) (m : Msg) : (d.passResult p m).count Cnt.RED_TOKEN_LATE_CNT = d.count Cnt.RED_TOKEN_LATE_CNT := by
  refine Reading.same.count_eq ?_
  unfold Dev.passResult
  exact .foldl .refl fun _ _ h => .when h fun h => h.step (.tx (by decide))

/-- The device with the first copy of a result noted. -/
def Dev.noteResult (d : Dev) (t : Token) : Dev := d.setRed fun r => { r with seen := (t.epoch, t.repeats) :: r.seen }

theorem Dev.resultIn_new {d : Dev} {m : Msg} (h : d.seenResult (parseToken m.body) = false) (p : Nat) :
    d.resultIn p m = ((d.noteResult (parseToken m.body)).passResult p m).holdResult (parseToken m.body) := by
  unfold Dev.resultIn
  dsimp only
  rw [if_neg (by simp [h])]
  rfl

/-- The first copy of a result is noted and sent on, and held where it fits the step. -/
theorem Dev.firstResult_held (d : Dev) (p : Nat) (m : Msg) (t : Token) :
    let e := ((d.noteResult t).passResult p m).holdResult t
    (t.epoch, t.repeats) ∈ e.red.seen ∧ (d.fits t = true → e.red.result = some t) ∧
      (d.fits t = false → e.red.result = d.red.result ∧ e.count Cnt.RED_TOKEN_LATE_CNT = min cntMax (d.count Cnt.RED_TOKEN_LATE_CNT + 1)) := by
  have hevolves := (d.noteResult t).passResult_evolves p m
  have hcount : _ = d.count Cnt.RED_TOKEN_LATE_CNT := (d.noteResult t).passResult_count p m
  generalize (d.noteResult t).passResult p m = f at *
  have hfits : f.fits t = d.fits t :=
    Dev.fits_congr (hevolves.keeps .frm (by decide)) (fun g _ => Dev.fld_congr _ _ g (hevolves.keeps .regs (by decide))) t
  have hred : f.red = { d.red with seen := (t.epoch, t.repeats) :: d.red.seen } := hevolves.red_eq
  have hseen : (t.epoch, t.repeats) ∈ f.red.seen := hred ▸ List.mem_cons_self
  dsimp only
  cases hok : d.fits t
  case true =>
    rw [Dev.holdResult_fits (hfits.trans hok)]
    exact ⟨hseen, fun _ => rfl, fun h => absurd h (by decide)⟩
  case false =>
    rw [Dev.holdResult_late (hfits.trans hok), Dev.bump_red, Dev.count_bump_same, hcount]
    exact ⟨hseen, fun h => absurd h (by decide), fun _ => ⟨by rw [hred], rfl⟩⟩

/-! ### The deadlines (R266, R267, R282) -/

theorem Dev.forwardToken_sent {d : Dev} (ho : d.frm.origin = false) :
    d.forwardToken.red.sent = true ∧ (d.tokenBarred = true → d.forwardToken.out = d.out) := by
  unfold Dev.forwardToken
  rw [if_neg (by simp [ho])]
  dsimp only
  split
  next => exact ⟨rfl, fun _ => rfl⟩
  next t ht =>
    refine ⟨?sent, fun hbarred => ?silent⟩
    case sent =>
      split_ifs
      · rfl
      · rw [Evolves.txLocal.red_eq]
    case silent =>
      have hnone : Dev.tokenBarred { d with red := { d.red with sent := true } } = true := hbarred
      simp [hnone] at ht

/-- The origin's decision: the combined token, with HOLD where devices are missing (R267). -/
def Dev.decision (d : Dev) : Token :=
  let t := d.combined.getD d.noToken
  { t with hold := t.hold || decide (t.count < d.fld Reg.RED_TREE_DEVICES) }

/-- The device once a decision has left on every UP port, with PARTITION where devices are missing (R267, R325). -/
def Dev.sendDecision (d : Dev) (t : Token) (short : Bool) : Dev :=
  ports.foldl (fun d p => if d.portUp p then d.txLocal p MT.result (tokenBytes t) else d) (if short then d.partition else d)

theorem Dev.sendDecision_evolves (d : Dev) (t : Token) (short : Bool) :
    Evolves [.regs, .cnt, .mem, .poison, .draws, .fab, .mbx] d (d.sendDecision t short) := by
  unfold Dev.sendDecision
  exact .foldl (.when .refl fun h => h.step .partition) fun _ _ h => .when h fun h => h.step .txLocal

theorem Dev.sendDecision_fld (d : Dev) (t : Token) (short : Bool) {g : Field} (hg : g ∈ stepFields) :
    (d.sendDecision t short).fld g = d.fld g := by
  have hkeys : g.key ≠ Reg.FLT_STK0_PARTITION.key ∧ g.key ≠ Reg.MBX_TRACE_HEAD_COUNT.key := by
    revert g
    decide
  obtain ⟨hpartition, htrace⟩ := hkeys
  refine Reading.same.fld_eq ?_
  unfold Dev.sendDecision
  exact .foldl (.when .refl fun h => h.step (.partition hpartition htrace)) fun _ _ h => .when h fun h => h.via .txLocal

/-- The origin with its decision noted as sent. -/
def Dev.noteDecision (d : Dev) : Dev := d.setRed fun r => { r with sent := true, seen := (d.decision.epoch, d.decision.repeats) :: r.seen }

theorem Dev.decideToken_eq (d : Dev) : d.decideToken =
    (d.noteDecision.sendDecision d.decision (decide ((d.combined.getD d.noToken).count < d.fld Reg.RED_TREE_DEVICES))).holdResult d.decision := by
  unfold Dev.decideToken Dev.noteDecision Dev.sendDecision Dev.decision
  rfl

/-- A result that is held or late leaves what has been sent. -/
theorem Dev.holdResult_sent (d : Dev) (t : Token) : (d.holdResult t).red.sent = d.red.sent := by
  unfold Dev.holdResult
  split_ifs
  · rfl
  · rfl

theorem Dev.decideToken_sent (d : Dev) : d.decideToken.red.sent = true := by
  rw [Dev.decideToken_eq, Dev.holdResult_sent, (Dev.sendDecision_evolves _ _ _).red_eq]
  rfl

/-- R267: the origin holds the result of a combined token of its step. -/
theorem Dev.decideToken_result {d : Dev} {t : Token} (hc : d.combined = some t) (hfits : d.fits t = true) :
    d.decideToken.red.result = some { t with hold := t.hold || decide (t.count < d.fld Reg.RED_TREE_DEVICES) } := by
  have hdecision : d.decision = { t with hold := t.hold || decide (t.count < d.fld Reg.RED_TREE_DEVICES) } := by
    rw [Dev.decision, hc]
    rfl
  have hheld (short : Bool) : (d.noteDecision.sendDecision d.decision short).fits d.decision = true := by
    rw [Dev.fits_congr ((Dev.sendDecision_evolves _ _ _).keeps .frm (by decide)) fun _ => Dev.sendDecision_fld _ _ _, hdecision]
    exact hfits
  rw [Dev.decideToken_eq, Dev.holdResult_fits (hheld _), hdecision]

/-! ### The statement -/

/-- A link-local message that reaches a powered device whole is delivered, whatever the device has sent before. -/
theorem exec_heard {i : Instr} {s : State} {p mt : Nat} {lenOk : Bool} {m : Msg} {deliver : Dev → Dev}
    (hexec : exec i s = s.run fun d => d.localMsg p mt lenOk m deliver) (hp : s.dev.powered = true) (hm : s.dev.hears p mt lenOk m) :
    exec i s = .next ⟨deliver s.dev.quiet, s.pending⟩ := by
  rw [hexec, State.run_powered _ _ hp, Dev.localMsg_heard _ _ _ _ _ _ (Dev.hears_quiet _ _ _ _ _ hm)]

theorem answers_heard {i : Instr} {s : State} {p mt : Nat} {lenOk : Bool} {m : Msg} {deliver : Dev → Dev} {P : Dev → Prop}
    (hexec : exec i s = s.run fun d => d.localMsg p mt lenOk m deliver) (hp : s.dev.powered = true) (hm : s.dev.hears p mt lenOk m)
    (h : P (deliver s.dev.quiet)) : answers i s P :=
  ⟨_, exec_heard hexec hp hm, rfl, h⟩

/-- Settles O53: a child's token, a result, a PARENT, and the two deadlines. -/
theorem tokensAndResultsMeet : Obligations.TokensAndResultsMeet := by
  intro s hp
  refine ⟨fun p m => ⟨fun hm => ⟨fun hframe hsent => ?token, fun hlate => ?late⟩, fun hm => ?result, fun hm => ?parent⟩,
    fun hframe hsent => ⟨fun ho => ?forward, fun ho => ?decide⟩⟩
  case token => exact answers_heard (exec_tokenMsg p m s) hp hm (Dev.tokenIn_kept (d := s.dev.quiet) hframe hsent p m)
  case late => rw [exec_heard (exec_tokenMsg p m s) hp hm, Dev.tokenIn_late (d := s.dev.quiet) hlate]
  case result =>
    dsimp only
    split
    next hseen => rw [exec_heard (exec_resultMsg p m s) hp hm, Dev.resultIn_seen (d := s.dev.quiet) hseen]
    next hnew =>
      refine answers_heard (exec_resultMsg p m s) hp hm ?_
      rw [Dev.resultIn_new (d := s.dev.quiet) (Bool.not_eq_true _ ▸ hnew)]
      exact s.dev.quiet.firstResult_held p m (parseToken m.body)
  case parent =>
    refine answers_heard (exec_parentMsg p m s) hp hm ?_
    exact ⟨Dev.fld_setFld_same _ _ _, (Evolves.refl.step .quiet |>.step .setFld).keeps⟩
  case forward =>
    refine answers_run _ _ _ _ (exec_tokenForwardDeadline s) hp ?_
    have hdue : (s.dev.quiet.tokenFrame && !s.dev.quiet.red.sent && !s.dev.quiet.frm.origin) = true := by
      simp [hsent, ho, show s.dev.quiet.tokenFrame = true from hframe]
    rw [if_pos hdue]
    exact Dev.forwardToken_sent (d := s.dev.quiet) ho
  case decide =>
    refine answers_run _ _ _ _ (exec_tokenDecideDeadline s) hp ?_
    have hdue : (s.dev.quiet.tokenFrame && !s.dev.quiet.red.sent && s.dev.quiet.frm.origin) = true := by
      simp [hsent, ho, show s.dev.quiet.tokenFrame = true from hframe]
    rw [if_pos hdue]
    refine ⟨Dev.decideToken_sent _, fun t hc hepoch hrepeats => Dev.decideToken_result (d := s.dev.quiet) hc ?_⟩
    show (s.dev.tokenFrame && t.epoch == s.dev.epoch && t.repeats == s.dev.fld Reg.RED_STEP_STATE_REPEATS) = true
    simp [hframe, hepoch, hrepeats]

end Sys2Proof.Machine
end

section
/-!
SUPPORT. What the pounds, the SEND tasks and the record of what was sent read as after one update (R275 to R281).
-/

set_option Elab.async false

namespace Sys2Proof.Machine

/-! ### Pounds and the places of SEND tasks -/

/-- A value kept under a key only where it is not the fresh one reads back. -/
theorem getD_unless_fresh {α : Type} [DecidableEq α] (x fresh : α) : (if x = fresh then none else some x).getD fresh = x := by
  split_ifs with h
  · exact h.symm
  · rfl

@[simp] theorem Dev.rx_setRx_same (d : Dev) (k : Nat) (r : RxPound) : (d.setRx k r).rx k = r :=
  (congrArg (Option.getD · freshRx) (SMap.get_set_same _ _ _ _)).trans (getD_unless_fresh r freshRx)

theorem Dev.rx_setRx_other (d : Dev) {k j : Nat} (r : RxPound) (h : j ≠ k) : (d.setRx k r).rx j = d.rx j :=
  congrArg (Option.getD · freshRx) (SMap.get_set_other _ _ _ _ _ h)

@[simp] theorem Dev.txPound_setTx_same (d : Dev) (k : Nat) (en : PoundEntry) (t : TxPound) : (d.setTx k t).txPound k en = t :=
  congrArg (Option.getD · (⟨en.nbuf, 0, 0⟩ : TxPound)) (SMap.get_set_same _ _ _ (some t))

@[simp] theorem Dev.sendPos_setSend_same (d : Dev) (p : Nat) (q : SendPos) : (d.setSend p q).sendPos p = q :=
  (congrArg (Option.getD · freshSend) (SMap.get_set_same _ _ _ _)).trans (getD_unless_fresh q freshSend)

theorem Dev.rx_congr {d e : Dev} (h : e.pnd.rx = d.pnd.rx) (k : Nat) : e.rx k = d.rx k := by rw [Dev.rx, h, Dev.rx]

/-- The active image depends on the registers and the variant slots alone. -/
theorem Dev.program_congr {d e : Dev} (hr : e.regs = d.regs) (hv : e.variants = d.variants) : e.program = d.program := by
  have hactive : e.active = d.active := Dev.fld_congr _ _ _ hr
  rw [Dev.program, Dev.variant, hv, hactive, Dev.program, Dev.variant]

/-- A step that changes other parts leaves pounds, barges and permutes as they were. -/
theorem Evolves.pnd_eq {l : List Part} {d e : Dev} (h : Evolves l d e) (hl : .pnd ∉ l := by decide) : e.pnd = d.pnd := h.keeps .pnd hl

/-! ### Readings of the pounds -/

/-- What `g` reads of pounds, barges and permutes. -/
def Reading.pnd {α : Type} (g : Pnd → α) : Reading .pnd α := ⟨fun d => g d.pnd, congrArg g⟩

/-- The credits held for the TX entry `en`, the `k`-th of the program. -/
def Reading.credits (k : Nat) (en : PoundEntry) : Reading .pnd Nat :=
  ⟨fun d => (d.txPound k en).credits, fun {d e} (h : e.pnd = d.pnd) => by rw [Dev.txPound, h, Dev.txPound]⟩

namespace Reading.same

variable {d e : Dev} {k p : Nat} {en : PoundEntry}

/-- A change of a TX pound that leaves its credits. -/
theorem setTx {t : TxPound} (ht : t.credits = (d.txPound k en).credits) : (credits k en).same d (e.setTx k t) :=
  (congrArg TxPound.credits (e.txPound_setTx_same k en t)).trans ht

theorem setSend {q : SendPos} (h : (credits k en).same d e) : (credits k en).same d (e.setSend p q) := h

theorem credits_eq (h : (credits k en).same d e) : (e.txPound k en).credits = (d.txPound k en).credits := h

end Reading.same

/-! ### The record of what was sent -/

@[simp] theorem Dev.onRunning_out (d : Dev) (k : Nat) (g : Running → Running) : (d.onRunning k g).out = d.out := by
  unfold Dev.onRunning
  split
  · rfl
  · rfl

@[simp] theorem Dev.markLate_out (d : Dev) (a n : Nat) : (d.markLate a n).out = d.out := by
  unfold Dev.markLate
  split_ifs
  · rfl
  · rfl

@[simp] theorem Dev.produce_out (d : Dev) (k : Nat) (rs : List (Nat × Nat)) : (d.produce k rs).out = d.out := by
  unfold Dev.produce
  split_ifs
  · exact List.foldlRecOn (motive := fun z : Dev => z.out = d.out) rs _ rfl fun e he x _ => (e.markLate_out _ _).trans he
  · rfl

/-- A read of memory depends on the memory alone. -/
theorem Dev.read_congr {d e : Dev} (hm : e.mem = d.mem) (hl : e.lsEpoch = d.lsEpoch) (a n : Nat) : e.read a n = d.read a n :=
  List.map_congr_left fun _ _ => Dev.byte_congr hm hl _

/-- One item more of a unit's task is done. -/
theorem Dev.atItem.itemDone {d : Dev} {k n : Nat} {r : Running} (h : d.atItem k r n) :
    (d.onRunning k fun q => { q with done := q.done + 1 }).atItem k r (n + 1) := by
  obtain ⟨l, t, b, hq⟩ := h
  exact ⟨l, t, b, by rw [Dev.running_onRunning_same, hq]; rfl⟩

/-- The items done as the statements on ports and host transfers read them. -/
theorem Dev.atItem.hasDone {d : Dev} {k n : Nat} {r : Running} (h : d.atItem k r n) : d.hasDone k n := by
  obtain ⟨_, _, _, hq⟩ := h
  exact ⟨_, hq, rfl⟩

end Sys2Proof.Machine
end

section
/-!
PROOF. An item of a SEND task, with a credit and without one (R278, R281).
-/

set_option Elab.async false

namespace Sys2Proof.Machine

/-- Port `p` runs a SEND task with items left, and its barge in hand, `b`, is for the `k`-th TX entry, `en`. -/
structure Dev.sends (d : Dev) (p : Nat) (r : Running) (b : BargeDesc) (k : Nat) (en : PoundEntry) : Prop where
  running : d.running? (portKey p) = some r
  failed : r.failed = false
  idle : r.idle = false
  thawed : d.frm.frozen = false
  more : r.done < r.total
  barge : (d.barges (parseSend r.desc))[(d.sendPos p).barge]? = some b
  entry : d.txEntry b.pound b.dest = some (k, en)

section
variable {d : Dev} {p k : Nat} {r : Running} {b : BargeDesc} {en : PoundEntry}

/-- What the memories report changes nothing that a SEND task goes by. -/
theorem Dev.sends.quietEcc (h : d.sends p r b k en) (x : Ecc) : (d.quiet.ecc x).sends p r b k en := by
  have hecc : Evolves [.cnt, .poison] d (d.quiet.ecc x) := .quietEcc
  have hprogram : (d.quiet.ecc x).program = d.program := Dev.program_congr (hecc.keeps .regs (by decide)) (hecc.keeps .variants (by decide))
  have hpos : (d.quiet.ecc x).sendPos p = d.sendPos p := by rw [Dev.sendPos, hecc.pnd_eq, Dev.sendPos]
  refine ⟨(Dev.running_congr (hecc.keeps .run (by decide)) _).trans h.running, h.failed, h.idle, ?_, h.more, ?_, ?_⟩
  · rw [show (d.quiet.ecc x).frm = d.frm from hecc.keeps .frm (by decide)]
    exact h.thawed
  · rw [Dev.barges, hprogram, hpos]
    exact h.barge
  · rw [Dev.txEntry, hprogram]
    exact h.entry

/-- The device as the barge in hand has its credit (R281). -/
def Dev.takeCredit (d : Dev) (p : Nat) (b : BargeDesc) (k : Nat) (en : PoundEntry) : Dev :=
  if b.kind ≠ 5 ∧ !(d.sendPos p).credit then
    (if (d.sendPos p).waited then d.bump Cnt.PND_CREDIT_WAIT_CNT else d).setTx k
      { d.txPound k en with credits := (d.txPound k en).credits - 1 }
  else d

theorem Dev.takeCredit_credits (hb : b.kind ≠ 5) (hc : (d.sendPos p).credit = false) :
    ((d.takeCredit p b k en).txPound k en).credits = (d.txPound k en).credits - 1 := by
  rw [Dev.takeCredit, if_pos ⟨hb, by simp [hc]⟩, Dev.txPound_setTx_same]

/-- R278, R281: a barge without a credit to take waits for one. Otherwise the item is done, and the rest of its work leaves the credits as they are. -/
theorem Dev.sendItem_eq (h : d.sends p r b k en) : ∃ e,
    d.sendItem p = (if b.kind ≠ 5 ∧ !(d.sendPos p).credit ∧ (d.txPound k en).credits = 0 then d.setSend p { d.sendPos p with waited := true } else e) ∧
      e.atItem (portKey p) r (r.done + 1) ∧ (Reading.credits k en).same (d.takeCredit p b k en) e := by
  obtain ⟨hr, hfailed, hidle, hthawed, hmore, hbarge, hentry⟩ := h
  apply Exists.intro
  refine ⟨?runs, ?done, ?credits⟩
  case runs =>
    unfold Dev.sendItem
    simp only [hr, hfailed, hidle, hthawed, hbarge, hentry, Nat.not_le.mpr hmore, Bool.false_or, decide_false, Bool.false_eq_true, if_false]
    rfl
  case done =>
    have htaken : (d.takeCredit p b k en).atItem (portKey p) r r.done := .when (.start hr) fun h => .via (.when h fun h => h.via .bump) .setTx
    exact .itemDone (.via (p := [.cnt, .pnd, .fab]) htaken.readChecks
      (.use (.when .refl fun h => .use (h.step .txRouted) fun h => .ite h (h.step .setTx)) fun h =>
        .ite (h.step .bump |>.step .setSend) (h.step .setSend)))
  case credits =>
    refine .via ?_ .onRunning
    have hread {rs} : (Reading.credits k en).same (d.takeCredit p b k en) ((d.takeCredit p b k en).readChecks (portKey p) rs) := .via .refl .readChecks
    refine .use (.when hread fun h => .use (.via h .txRouted) fun h => .ite h (.setTx ?_)) fun h => .ite (.setSend (h.via .bump)) h.setSend
    rfl

theorem Dev.sendItem_waits (h : d.sends p r b k en) (hb : b.kind ≠ 5) (hc : (d.sendPos p).credit = false) (ht : (d.txPound k en).credits = 0) :
    d.sendItem p = d.setSend p { d.sendPos p with waited := true } := by
  obtain ⟨e, he, -⟩ := Dev.sendItem_eq h
  rw [he, if_pos ⟨hb, by simp [hc], ht⟩]

theorem Dev.sendItem_goes (h : d.sends p r b k en) (hc : b.kind = 5 ∨ (d.sendPos p).credit = true ∨ (d.txPound k en).credits ≠ 0) :
    (d.sendItem p).atItem (portKey p) r (r.done + 1) ∧ (Reading.credits k en).same (d.takeCredit p b k en) (d.sendItem p) := by
  obtain ⟨e, he, hrest⟩ := Dev.sendItem_eq h
  rw [he, if_neg (by rw [Bool.not_eq_true', ← Bool.not_eq_true]; tauto)]
  exact hrest

end

end Sys2Proof.Machine
end

section
/-!
PROOF. Segments of a barge, the release of buffers and credits (R279 to R281, R308).
-/

set_option Elab.async false

namespace Sys2Proof.Machine

section
variable {d : Dev}

/-! ### BARGE -/

theorem rdLe_take {l : List Byte} {a n m : Nat} (h : a + n ≤ m) : rdLe (l.take m) a n = rdLe l a n := by
  rw [rdLe, List.drop_take, List.take_take, Nat.min_eq_left (by omega), rdLe]

/-- What follows the write of a segment changes no memory. -/
theorem Dev.bargeWrite_evolves (d : Dev) (en : PoundEntry) (c : BargeIn) (store : Bool) (off : Nat) (data : List Byte) (late : Bool) :
    Evolves [.cnt, .late, .pnd]
      (d.write ((if store then en.addr + off else en.addr + c.seq % en.nbuf * en.bytes) + c.got) data) (d.bargeWrite en c store off data late) := by
  unfold Dev.bargeWrite
  exact .use (.when .refl fun h => h.step .markLate) fun h =>
    .ite (h.step .setRx) (.use (h.step .bump) fun h => .ite (h.step .setRx) (h.step .setRx |>.step .setPnd))

/-- R279: a segment stands at its place. -/
theorem Dev.bargeWrite_byte (d : Dev) (en : PoundEntry) (c : BargeIn) (store : Bool) (off : Nat) {data : List Byte} (late : Bool) {k : Nat}
    (hk : k < data.length) :
    (d.bargeWrite en c store off data late).byte ((if store then en.addr + off else en.addr + c.seq % en.nbuf * en.bytes) + c.got + k) = data[k] :=
  ((d.bargeWrite_evolves en c store off data late).byte_eq _).trans (Dev.byte_write_inside _ _ hk)

/-- R279: the barge in hand goes on behind the segment, or has come whole. -/
theorem Dev.bargeWrite_cur (d : Dev) (en : PoundEntry) (c : BargeIn) (store : Bool) (off : Nat) (data : List Byte) (late : Bool) :
    ((d.bargeWrite en c store off data late).rx en.pound).cur =
      if c.got + data.length < c.len then some { c with got := c.got + data.length, late := c.late || late } else none := by
  unfold Dev.bargeWrite
  dsimp only
  by_cases hmore : c.got + data.length < c.len
  · rw [if_pos hmore, if_pos hmore, Dev.rx_setRx_same]
  · rw [if_neg hmore, if_neg hmore]
    cases store
    · exact congrArg RxPound.cur (Dev.rx_setRx_same _ en.pound _)
    · exact congrArg RxPound.cur (Dev.rx_setRx_same _ en.pound _)

/-- R307: a segment that is no permute's and reaches the device whole. -/
theorem Dev.bargeMsg_received {p : Nat} {m : Msg}
    (hm : d.receives p MT.barge (72 ≤ m.len.toNat && m.len.toNat ≤ 65600 && m.len.toNat % 8 == 0) m) (hkind : rdLe m.body 0 1 ≠ 6) :
    d.bargeMsg p m = d.bargeIn m.src.toNat (m.flags.getLsbD 0) (m.body.take 64) (m.body.drop 64) := by
  rw [Dev.bargeMsg, Dev.routed_received hm]
  exact if_neg (by rwa [rdLe_take (by decide)])

/-- R279: a segment of another epoch or run is discarded, and its barge counts with the first. -/
theorem Dev.bargeIn_stale {m : Msg} (hstale : ¬(rdLe m.body 0x10 8 = d.epoch ∧ rdLe m.body 1 1 = d.fld Reg.RED_STEP_STATE_REPEATS)) (src : Nat)
    (late : Bool) (data : List Byte) :
    d.bargeIn src late (m.body.take 64) data = if rdLe m.body 0x1C 4 = 0 then d.bump Cnt.PND_STALE_CNT else d := by
  unfold Dev.bargeIn
  simp (disch := decide) only [rdLe_take]
  exact if_pos (not_and_or.mp hstale)

/-- `m` is a segment of this run that continues `c`, the barge in hand of the pound of `en`. -/
structure Dev.continues (d : Dev) (m : Msg) (en : PoundEntry) (c : BargeIn) : Prop where
  epoch : rdLe m.body 0x10 8 = d.epoch
  run : rdLe m.body 1 1 = d.fld Reg.RED_STEP_STATE_REPEATS
  later : rdLe m.body 0x1C 4 ≠ 0
  known : (m.src.toNat, rdLe m.body 2 2, rdLe m.body 0xC 4) ∉ d.pnd.refused
  entry : d.rxEntry (rdLe m.body 2 2) = some en
  current : (d.rx (rdLe m.body 2 2)).cur = some c
  seq : c.seq = rdLe m.body 0xC 4
  peer : en.peer = d.coordWord m.src.toNat
  next : c.got = rdLe m.body 0x1C 4
  fits : c.got + (m.body.drop 64).length ≤ c.len

theorem Dev.bargeIn_continues {m : Msg} {en : PoundEntry} {c : BargeIn} (h : d.continues m en c) (late : Bool) :
    d.bargeIn m.src.toNat late (m.body.take 64) (m.body.drop 64) =
      d.bargeWrite en c (rdLe m.body 0 1 == 5) (rdLe m.body 0x20 8) (m.body.drop 64) late := by
  obtain ⟨hepoch, hrun, hlater, hknown, hentry, hcurrent, hseq, hpeer, hnext, hfits⟩ := h
  unfold Dev.bargeIn
  simp (disch := decide) only [rdLe_take]
  rw [if_neg (by simp [hepoch, hrun]), if_neg hlater, if_neg (by simpa using hknown), hentry, hcurrent]
  dsimp only
  rw [if_neg (by simp [hseq, hpeer]), if_neg (by omega)]

/-- Without a PERMUTE in progress a BARGE ends none. -/
theorem exec_bargeMsg_only {s : State} (hp : s.dev.powered = true) (hnone : s.dev.hif.permCmd = none) (p : Fin 16) (m : Msg) :
    exec (.bargeMsg p m) s = .next ⟨s.dev.quiet.bargeMsg p m, s.pending⟩ := by
  have hhif : (s.dev.quiet.bargeMsg p m).hif = s.dev.hif := Evolves.bargeMsg.keeps .hif (by decide)
  rw [exec_bargeMsg, execBarge, State.run_powered _ _ hp, Dev.endPermute, hhif, hnone]

/-! ### POUND_RELEASE -/

/-- A credit that is sent, or that the device gives itself, leaves the RX pounds as they are. -/
theorem Dev.sendCredit_rx (d : Dev) (peer pound released : Nat) : (d.sendCredit peer pound released).pnd.rx = d.pnd.rx := by
  have hcredit (src : Nat) (body : List Byte) : (Reading.pnd Pnd.rx).same d (d.creditIn src body) := by
    unfold Dev.creditIn
    refine .ite (.via .refl .bump) ?_
    dsimp only
    split
    · exact .via .refl .bump
    · exact .ite .refl (.use (.when .refl fun h => h.via .bump) fun h => h)
  unfold Dev.sendCredit
  exact Reading.same.ite (g := Reading.pnd Pnd.rx) (hcredit _ _) (.ite (.via .refl .bump) (.foldl .refl fun _ _ h => h.via .txRouted))

/-- R280: one buffer of a pound is released. -/
def Dev.releaseBuffer (en : PoundEntry) (d : Dev) (x : Nat × Nat) : Dev :=
  (d.setRx en.pound { d.rx en.pound with filled := (d.rx en.pound).filled.erase x, released := (d.rx en.pound).released + 1 }).sendCredit
    en.peer en.pound ((d.rx en.pound).released + 1)

/-- R280: the buffers of one pound that are due at frame `f`. -/
def Dev.releasePound (f : Nat) (d : Dev) (en : PoundEntry) : Dev :=
  if en.kind = 3 then d else ((d.rx en.pound).filled.filter fun x => x.2 + en.rel ≤ f).foldl (Dev.releaseBuffer en) d

theorem Dev.releaseDue_eq (d : Dev) : d.releaseDue = (imgRx d.program).foldl (Dev.releasePound (d.fld Reg.FRM_STEP_POS_FRAME)) d := rfl

theorem Dev.filled_releaseBuffer (d : Dev) (en : PoundEntry) (x : Nat × Nat) :
    ((d.releaseBuffer en x).rx en.pound).filled = (d.rx en.pound).filled.erase x := by
  rw [Dev.releaseBuffer, Dev.rx_congr (Dev.sendCredit_rx _ _ _ _), Dev.rx_setRx_same]

theorem Dev.rx_releaseBuffer_other (d : Dev) {en : PoundEntry} {k : Nat} (hk : k ≠ en.pound) (x : Nat × Nat) :
    (d.releaseBuffer en x).rx k = d.rx k := by
  rw [Dev.releaseBuffer, Dev.rx_congr (Dev.sendCredit_rx _ _ _ _), Dev.rx_setRx_other _ _ hk]

theorem Dev.filled_foldl_releaseBuffer (d : Dev) (en : PoundEntry) (xs : List (Nat × Nat)) :
    ((xs.foldl (Dev.releaseBuffer en) d).rx en.pound).filled = (d.rx en.pound).filled.diff xs := by
  induction xs generalizing d with
  | nil => rfl
  | cons x xs ih => rw [List.foldl_cons, ih, Dev.filled_releaseBuffer, List.diff_cons]

/-- What is taken out of a list with all that `q` holds of is gone. -/
theorem not_of_mem_diff_filter {α : Type} [BEq α] [LawfulBEq α] {q : α → Bool} {xs : List α} {x : α} (h : x ∈ xs.diff (xs.filter q)) : q x = false := by
  by_contra hq
  have hcount := List.count_pos_iff.mpr h
  rw [List.count_diff, List.count_filter (by simpa using hq)] at hcount
  omega

theorem Dev.releasePound_due {f : Nat} {en : PoundEntry} (hkind : en.kind ≠ 3) {x : Nat × Nat}
    (hx : x ∈ ((d.releasePound f en).rx en.pound).filled) : f < x.2 + en.rel := by
  rw [Dev.releasePound, if_neg hkind, Dev.filled_foldl_releaseBuffer] at hx
  simpa using not_of_mem_diff_filter hx

/-- A release fills no buffer. -/
theorem Dev.releasePound_subset (d : Dev) (f : Nat) (en : PoundEntry) (k : Nat) : ((d.releasePound f en).rx k).filled ⊆ (d.rx k).filled := by
  unfold Dev.releasePound
  split_ifs
  · exact List.Subset.refl _
  · by_cases hk : k = en.pound
    · subst hk
      rw [Dev.filled_foldl_releaseBuffer]
      exact List.diff_subset _ _
    · rw [List.foldlRecOn (motive := fun z : Dev => z.rx k = d.rx k) _ (Dev.releaseBuffer en) rfl fun e he x _ =>
        (e.rx_releaseBuffer_other hk x).trans he]
      exact List.Subset.refl _

theorem Dev.foldl_releasePound_subset (d : Dev) (f : Nat) (ens : List PoundEntry) (k : Nat) :
    ((ens.foldl (Dev.releasePound f) d).rx k).filled ⊆ (d.rx k).filled :=
  List.foldlRecOn (motive := fun z : Dev => (z.rx k).filled ⊆ (d.rx k).filled) ens _ (List.Subset.refl _) fun e he en _ =>
    List.Subset.trans (e.releasePound_subset f en k) he

/-- R280: no buffer that is due stays FILLED. -/
theorem Dev.foldl_releasePound_due (d : Dev) (f : Nat) {ens : List PoundEntry} {en : PoundEntry} (hen : en ∈ ens) (hkind : en.kind ≠ 3)
    {x : Nat × Nat} (hx : x ∈ ((ens.foldl (Dev.releasePound f) d).rx en.pound).filled) : f < x.2 + en.rel := by
  induction ens generalizing d with
  | nil => exact absurd hen List.not_mem_nil
  | cons y ens ih =>
    rcases List.mem_cons.mp hen with rfl | hen
    · exact Dev.releasePound_due hkind (Dev.foldl_releasePound_subset _ f ens _ hx)
    · exact ih _ hen hx

/-! ### CREDIT -/

/-- R281, R308: a CREDIT of this run that reports further releases. -/
theorem Dev.creditIn_raises {src k : Nat} {body : List Byte} {en : PoundEntry} (hepoch : rdLe body 8 8 = d.epoch)
    (hrun : rdLe body 2 1 = d.fld Reg.RED_STEP_STATE_REPEATS) (hentry : d.txEntry (rdLe body 0 2) (d.coordWord src) = some (k, en))
    (hmore : (d.txPound k en).released < rdLe body 4 4) :
    (d.creditIn src body).txPound k en = { d.txPound k en with
      credits := min en.nbuf ((d.txPound k en).credits + (rdLe body 4 4 - (d.txPound k en).released)), released := rdLe body 4 4 } := by
  unfold Dev.creditIn
  dsimp only
  rw [if_neg (by simp [hepoch, hrun]), hentry]
  dsimp only
  rw [if_neg (Nat.not_le.mpr hmore), Dev.txPound_setTx_same]

end

end Sys2Proof.Machine
end

section
/-!
PROOF. Host transfers (R286), the end of a permute (R289), and pounds, credits, host transfers and permutes as commands (O54).
-/

set_option Elab.async false

namespace Sys2Proof.Machine

section
variable {d : Dev} {r : Running}

/-! ### Host transfers -/

theorem Dev.hostTask_running {op : Nat} (h : d.hostTask op = some r) : d.running? hostKey = some r := by
  unfold Dev.hostTask at h
  split at h
  next q hq =>
    split_ifs at h
    cases h
    exact hq
  next => contradiction

theorem Dev.hostTask_quietEcc {op : Nat} (h : d.hostTask op = some r) (x : Ecc) : (d.quiet.ecc x).hostTask op = some r := by
  have hfrm : (d.quiet.ecc x).frm = d.frm := Evolves.quietEcc.keeps .frm (by decide)
  rw [Dev.hostTask, Dev.running_congr (Evolves.quietEcc.keeps .run (by decide)), hfrm]
  exact h

theorem Dev.hostWin_congr {e : Dev} (h : e.regs = d.regs) (off : Nat) : e.hostWin off = d.hostWin off := by
  rw [Dev.hostWin, Dev.fld_congr d e _ h, Dev.hostWin]

/-- An item of a transfer that has bytes left is not empty. -/
theorem min_item_ne_zero {o m : Nat} (h : o < m) : min 4096 (m - o) ≠ 0 := by omega

theorem Dev.hostPut_done (h : d.hostTask 0xC0 = some r) (hmore : 4096 * r.done < (parseKer r.desc).par 2) : d.hostPut.atItem hostKey r (r.done + 1) := by
  have hr := Dev.atItem.start (Dev.hostTask_running h)
  unfold Dev.hostPut
  rw [h]
  dsimp only
  rw [if_neg (min_item_ne_zero hmore)]
  exact .itemDone (hr.readChecks.via .emit)

/-- R286: the bytes of an item leave for the window of the host, those of sound memory. -/
theorem Dev.hostPut_writes (hs : d.sound) (h : d.hostTask 0xC0 = some r) (hmore : 4096 * r.done < (parseKer r.desc).par 2) :
    Out.hostWrite (d.hostWin ((parseKer r.desc).par 1 + 4096 * r.done))
      (d.read ((parseKer r.desc).par 0 + 4096 * r.done) (min 4096 ((parseKer r.desc).par 2 - 4096 * r.done))) ∈ d.hostPut.out := by
  have hread := Dev.readChecks_sound hs hostKey
    [((parseKer r.desc).par 0 + 4096 * r.done, min 4096 ((parseKer r.desc).par 2 - 4096 * r.done))]
  unfold Dev.hostPut
  rw [h]
  dsimp only
  rw [if_neg (min_item_ne_zero hmore), Dev.onRunning_out, Dev.emit_out, Dev.hostWin_congr (hread.keeps .regs (by decide)),
    Dev.read_congr (hread.keeps .mem (by decide)) (hread.keeps .lsEpoch (by decide))]
  exact List.mem_append_right _ (List.mem_singleton_self _)

theorem Dev.hostGet_done (h : d.hostTask 0xC1 = some r) (hmore : 4096 * r.done < (parseKer r.desc).par 2) (data : List Byte) :
    (d.hostGet data).atItem hostKey r (r.done + 1) := by
  have hr := Dev.atItem.start (Dev.hostTask_running h)
  unfold Dev.hostGet
  rw [h]
  dsimp only
  rw [if_neg (min_item_ne_zero hmore)]
  exact (hr.via .emit |>.via .write).itemDone.via .produce

theorem Dev.hostGet_reads (h : d.hostTask 0xC1 = some r) (hmore : 4096 * r.done < (parseKer r.desc).par 2) (data : List Byte) :
    Out.hostRead (d.hostWin ((parseKer r.desc).par 1 + 4096 * r.done)) (min 4096 ((parseKer r.desc).par 2 - 4096 * r.done)) ∈ (d.hostGet data).out := by
  unfold Dev.hostGet
  rw [h]
  dsimp only
  rw [if_neg (min_item_ne_zero hmore), Dev.produce_out, Dev.onRunning_out, Dev.write_out, Dev.emit_out]
  exact List.mem_append_right _ (List.mem_singleton_self _)

/-- R286: the host's bytes stand in memory. -/
theorem Dev.hostGet_byte (h : d.hostTask 0xC1 = some r) {data : List Byte} {k : Nat}
    (hk : k < min 4096 ((parseKer r.desc).par 2 - 4096 * r.done)) (hdata : k < data.length) :
    (d.hostGet data).byte ((parseKer r.desc).par 0 + 4096 * r.done + k) = data[k] := by
  unfold Dev.hostGet
  rw [h]
  dsimp only
  rw [if_neg (Nat.ne_zero_of_lt hk), Evolves.produce.byte_eq, Evolves.onRunning.byte_eq,
    Dev.byte_write_inside _ _ (by rw [List.length_take]; exact lt_min hk hdata), List.getElem_take]

/-- R286: a transfer's error is counted and makes its task late; then nothing but late marks changes before it troubles the step. -/
theorem Dev.hostError_eq (hr : d.running? hostKey = some r) (hop : (parseKer r.desc).op = 0xC0 ∨ (parseKer r.desc).op = 0xC1) :
    ∃ (g : Running → Running) (e : Dev), d.hostError = e.trouble Reason.missing ∧
      Evolves [.late] ((d.bump Cnt.PND_HOST_ERR_CNT).onRunning hostKey g) e ∧ ∀ q, (g q).late = true := by
  unfold Dev.hostError
  rw [hr]
  dsimp only
  rw [if_pos hop]
  exact ⟨_, _, rfl, .when .refl fun h => h.step .produce, fun _ => rfl⟩

/-- Trouble before the token is formed clears OK (R265). -/
theorem Dev.trouble_ok {reason : Nat} (h : d.frm.tokenFormed = false) : (d.trouble reason).frm.ok = false := by
  rw [Dev.trouble, if_neg (by simp [h])]

theorem Dev.hostError_troubles (hr : d.running? hostKey = some r) (hop : (parseKer r.desc).op = 0xC0 ∨ (parseKer r.desc).op = 0xC1) :
    d.hostError.count Cnt.PND_HOST_ERR_CNT = min cntMax (d.count Cnt.PND_HOST_ERR_CNT + 1) ∧ (d.frm.tokenFormed = false → d.hostError.frm.ok = false) ∧
      ∃ q, d.hostError.running? hostKey = some q ∧ q.late = true := by
  obtain ⟨g, e, heq, he, hg⟩ := Dev.hostError_eq hr hop
  have hmarked : Evolves [.run, .late] (d.bump Cnt.PND_HOST_ERR_CNT) e := .step (.step .refl .onRunning) he
  have hend : Evolves [.frm] e d.hostError := heq ▸ .trouble
  refine ⟨?_, fun hformed => ?_, g r, ?_, hg r⟩
  · rw [Dev.count_congr _ _ _ (hend.keeps .cnt (by decide)), Dev.count_congr _ _ _ (hmarked.keeps .cnt (by decide)), Dev.count_bump_same]
  · have hfrm : e.frm = d.frm := hmarked.keeps .frm (by decide)
    rw [heq]
    exact Dev.trouble_ok (hfrm ▸ hformed)
  · have hmine : (d.bump Cnt.PND_HOST_ERR_CNT).running? hostKey = some r := hr
    rw [Dev.running_congr (hend.keeps .run (by decide)), Dev.running_congr (he.keeps .run (by decide)), Dev.running_onRunning_same, hmine, Option.map_some]

end

/-! ### Permutes -/

/-- A reading that what follows the end of a command leaves alone: it lies in other parts, or in a field that no trace writes, or in a counter that is not
one of commands, completions and traces (R352, R353, R357, R389). -/
structure Reading.offQueues {p : Part} {α : Type} (g : Reading p α) : Prop where
  part : p ∉ [.mem, .poison, .draws, .hif, .mbx]
  field : ∀ d v, g.same d (d.setFld Reg.MBX_TRACE_HEAD_COUNT v)
  counter : ∀ c ∈ [Cnt.HIF_CMD_CNT, Cnt.HIF_STATE_REJ_CNT, Cnt.HIF_BAD_ARG_CNT, Cnt.HIF_CQ_DROP_CNT, Cnt.MBX_TRACE_WRAP_CNT], ∀ d, g.same d (d.bump c)

theorem Reading.offQueues_fld {f : Field} (h : f.key ≠ Reg.MBX_TRACE_HEAD_COUNT.key) : (Reading.fld f).offQueues where
  part := by decide
  field _ _ := .setFld .refl h
  counter _ _ _ := rfl

theorem Reading.offQueues_count {c : Nat}
    (h : c ∉ [Cnt.HIF_CMD_CNT, Cnt.HIF_STATE_REJ_CNT, Cnt.HIF_BAD_ARG_CNT, Cnt.HIF_CQ_DROP_CNT, Cnt.MBX_TRACE_WRAP_CNT]) :
    (Reading.count c).offQueues where
  part := by decide
  field _ _ := rfl
  counter k hk d := Dev.count_bump_other d k c fun hc => h (hc ▸ hk)

namespace Reading.offQueues

variable {p : Part} {α : Type} {g : Reading p α} (hg : g.offQueues) {d e : Dev}
include hg

/-- A step that changes only memory, draws, the host interface and the mailboxes. -/
theorem via {l : List Part} (h : g.same d e) {f : Dev} (k : Evolves l e f) (hl : ∀ q ∈ l, q ∈ [Part.mem, .poison, .draws, .hif, .mbx] := by decide) :
    g.same d f := Reading.same.via h k fun hp => hg.part (hl p hp)

theorem bump {c : Nat} (h : g.same d e)
    (hc : c ∈ [Cnt.HIF_CMD_CNT, Cnt.HIF_STATE_REJ_CNT, Cnt.HIF_BAD_ARG_CNT, Cnt.HIF_CQ_DROP_CNT, Cnt.MBX_TRACE_WRAP_CNT] := by decide) :
    g.same d (e.bump c) := h.step (hg.counter c hc e)

theorem trace {point src arg0 arg1} (h : g.same d e) : g.same d (e.trace point src arg0 arg1) := by
  unfold Dev.trace
  exact .ite (.when (hg.via (.step (hg.via h .write) (hg.field _ _)) .put_draws_mbx) fun h => hg.bump h) h

theorem postHeld {n b} (h : g.same d e) : g.same d (e.postHeld n b) := by
  unfold Dev.postHeld Dev.post
  refine .ite ?_ (hg.via h .setHif)
  split
  · exact hg.bump h
  · exact .ite (hg.bump h) (.when (hg.via (hg.via h .setCq) .emit) fun h => hg.via h .fire)

theorem finish {c st i0 i1 i2} (h : g.same d e) : g.same d (e.finish c st i0 i1 i2) := by
  unfold Dev.finish
  refine hg.postHeld ?_
  have hdone : g.same d ((e.setHif fun h => { h with prog := h.prog.erase c }).trace 129 0 (c.cid + 65536 * c.sq + 2 ^ 32 * c.op) st.code) :=
    hg.trace (hg.via h .setHif)
  split
  · exact hg.bump (.when hdone fun h => hg.bump h)
  · exact hg.bump (.when hdone fun h => hg.bump h)
  · exact .when hdone fun h => hg.bump h

theorem take {c} (h : g.same d e) : g.same d (e.take c) := by
  unfold Dev.take
  refine hg.trace ?_
  split
  · exact hg.via (hg.via h .setHif) .setCq
  · exact hg.via h .setHif

theorem sweepN {n} (h : g.same d e) : g.same d (Dev.sweepN n e) := by
  induction n generalizing e with
  | zero => exact h
  | succ n ih =>
    unfold Dev.sweepN
    split
    · exact ih (hg.finish (hg.take h))
    · split
      · exact ih (hg.finish (hg.via h .setSq))
      · exact h

/-- A permute that ends its command (R289). -/
theorem endPermute : g.same d d.endPermute := by
  unfold Dev.endPermute
  split
  · exact .refl
  · refine .ite .refl (.when (hg.via .refl .setHif) fun h => ?_)
    unfold Dev.complete Dev.sweep
    exact hg.sweepN (hg.finish h)

end Reading.offQueues

/-- R289: a move that is acknowledged is awaited no longer. -/
theorem Dev.permAck_acknowledged (d : Dev) (j : Nat) {q : Perm} (h : (d.permAck j).pnd.perm = some q) : j ∉ q.unacked := by
  unfold Dev.permAck at h
  split at h
  next hnone => simp [hnone] at h
  next z _ =>
    unfold Dev.permCheck at h
    dsimp only at h
    split_ifs at h
    · cases h
    · cases h
      simp

/-- R289: the permute is given up. -/
theorem Dev.permTimeout_ends {d : Dev} (h : d.pnd.perm.isSome = true) : d.permTimeout.pnd.perm = none ∧
    d.permTimeout.fld Reg.PND_PERM_STATUS_STATE = 3 ∧
      d.permTimeout.count Cnt.PND_PERM_ABORT_CNT = min cntMax (d.count Cnt.PND_PERM_ABORT_CNT + 1) := by
  obtain ⟨z, hz⟩ := Option.isSome_iff_exists.mp h
  rw [Dev.permTimeout, hz]
  exact ⟨rfl, Dev.fld_setFld_same _ Reg.PND_PERM_STATUS_STATE 3, Dev.count_bump_same _ _⟩

/-! ### The statement -/

/-- A routed message that reaches a powered device whole is delivered. -/
theorem answers_received {i : Instr} {s : State} {p mt : Nat} {lenOk : Bool} {m : Msg} {deliver after : Dev → Dev} {P : Dev → Prop}
    (hexec : exec i s = s.run fun d => after (d.routed p mt lenOk m deliver)) (hp : s.dev.powered = true) (hm : s.dev.receives p mt lenOk m)
    (h : P (after (deliver s.dev.quiet))) : answers i s P :=
  answers_run _ _ _ _ hexec hp (by rwa [Dev.routed_received (Dev.receives_quiet hm)])

theorem exec_send_one (p : Fin 16) (x : Ecc) (s : State) : exec (.send p 1 x) s = s.run fun d => (d.ecc x).sendItem p := rfl

/-- Settles O54: an item of a SEND task with and without a credit, the host transfers, a barge's segment, releases, credits and the ends of moves and permutes. -/
theorem poundsAndHostTransfers : Obligations.PoundsAndHostTransfers := by
  intro s hp
  refine ⟨fun p x r b k en hr hfailed hidle hthawed hmore hbarge hentry => ?send, fun x r data => ⟨?put, ?get, ?error⟩, fun p m => ?barge, ?release,
    fun p m k en hm hepoch hrun hentry hmore => ?credit, fun p m hm hperm => ?ack, fun hperm => ?timeout⟩
  case send =>
    have hpnd : (s.dev.quiet.ecc x).pnd = s.dev.pnd := Evolves.quietEcc.pnd_eq
    have hpos : (s.dev.quiet.ecc x).sendPos p = s.dev.sendPos p := by rw [Dev.sendPos, hpnd, Dev.sendPos]
    have htx : (s.dev.quiet.ecc x).txPound k en = s.dev.txPound k en := by rw [Dev.txPound, hpnd, Dev.txPound]
    have hsends : (s.dev.quiet.ecc x).sends p r b k en := Dev.sends.quietEcc ⟨hr, hfailed, hidle, hthawed, hmore, hbarge, hentry⟩ x
    refine ⟨fun hcredit => answers_run _ _ _ _ (exec_send_one p x s) hp ?_, fun hkind hnone hzero => answers_run _ _ _ _ (exec_send_one p x s) hp ?_⟩
    · obtain ⟨hdone, hkept⟩ := Dev.sendItem_goes hsends (by rwa [hpos, htx])
      exact ⟨hdone.hasDone, fun hkind hnone => hkept.credits_eq.trans (htx ▸ Dev.takeCredit_credits hkind (hpos ▸ hnone))⟩
    · rw [Dev.sendItem_waits hsends hkind (hpos ▸ hnone) (htx ▸ hzero), Dev.sendPos_setSend_same]
      exact ⟨rfl, hsends.running⟩
  case put =>
    intro h hmore
    refine answers_run _ _ _ _ (exec_hostPut x s) hp ⟨(Dev.hostPut_done (Dev.hostTask_quietEcc h x) hmore).hasDone, fun hs hx => ?_⟩
    rw [hx]
    exact Dev.hostPut_writes (d := s.dev.quiet) hs h hmore
  case get =>
    intro h hmore
    have htask := Dev.hostTask_quietEcc h x
    refine answers_run _ _ _ _ (exec_hostGet data x s) hp ⟨(Dev.hostGet_done htask hmore data).hasDone, ?_, fun k hk hdata => ?_⟩
    · rw [← Dev.hostWin_congr (Evolves.quietEcc (d := s.dev) (x := x) |>.keeps .regs (by decide))]
      exact Dev.hostGet_reads htask hmore data
    · rw [Dev.hostGet_byte htask hk hdata, List.getD_eq_getElem _ _ hdata]
  case error => exact fun hr hop => answers_run _ _ _ _ (exec_hostXferCompletion s) hp (Dev.hostError_troubles (d := s.dev.quiet) hr hop)
  case barge =>
    intro n at_ hm hkind hnone
    have hreceived := Dev.bargeMsg_received (Dev.receives_quiet hm) hkind
    split
    next hrun =>
      intro en c hlater hknown hentry hcurrent hseq hpeer hnext hfits
      have hcontinues : s.dev.quiet.continues m en c := ⟨hrun.1, hrun.2, hlater, hknown, hentry, hcurrent, hseq, hpeer, hnext, hfits⟩
      refine ⟨_, exec_bargeMsg_only hp hnone p m, rfl, ?_⟩
      rw [hreceived, Dev.bargeIn_continues hcontinues]
      refine ⟨fun k hk => ?_, ?_⟩
      · rw [List.getD_eq_getElem _ _ hk, ← Dev.bargeWrite_byte s.dev.quiet en c (rdLe m.body 0 1 == 5) (rdLe m.body 0x20 8) (m.flags.getLsbD 0) hk]
        simp only [beq_iff_eq]
        rfl
      · rw [Dev.bargeWrite_cur]
        split
        · exact ⟨_, rfl, rfl⟩
        · rfl
    next hstale => rw [exec_bargeMsg_only hp hnone, hreceived, Dev.bargeIn_stale (d := s.dev.quiet) hstale]
  case release =>
    split
    next h =>
      refine answers_run _ _ _ _ (exec_poundRelease s) hp ?_
      rw [if_pos (by simpa using h), Dev.releaseDue_eq]
      exact fun en hen hkind f hf => Dev.foldl_releasePound_due _ _ hen hkind hf
    next h =>
      rw [exec_poundRelease, execPoundRelease, State.run_powered _ _ hp, if_neg (by simpa using h)]
  case credit =>
    refine answers_received (after := id) (exec_creditMsg p m s) hp hm ?_
    have hraised := Dev.creditIn_raises (d := s.dev.quiet) hepoch hrun hentry hmore
    exact ⟨congrArg TxPound.released hraised, congrArg TxPound.credits hraised⟩
  case ack =>
    refine answers_received (exec_permAck p m s) hp hm fun q hq => ?_
    rw [Evolves.endPermute.pnd_eq] at hq
    exact Dev.permAck_acknowledged _ _ hq
  case timeout =>
    refine answers_run _ _ _ _ (exec_permuteTimeout s) hp ?_
    obtain ⟨hnone, hstate, hcount⟩ := Dev.permTimeout_ends (d := s.dev.quiet) hperm
    exact ⟨by rw [Evolves.endPermute.pnd_eq, hnone], (Reading.offQueues_fld (by decide)).endPermute.fld_eq.trans hstate,
      (Reading.offQueues_count (by decide)).endPermute.count_eq.trans hcount⟩

end Sys2Proof.Machine
end

section
/-!
PROOF. The fabric address of a coordinate and the coordinate of an address (O18).
-/

set_option Elab.async false

namespace Sys2Proof.Machine

/-- A digit below its base and a number below `n` make a number below their product. -/
theorem digit_lt {a c m n : Nat} (ha : a < c) (hm : m < n) : a + c * m < c * n :=
  calc a + c * m < c + c * m := Nat.add_lt_add_right ha _
    _ = c * (m + 1) := by ring
    _ ≤ c * n := Nat.mul_le_mul_left c hm

theorem coordOf_eq (a P S D X : Nat) : coordOf a [P, S, D, X] = [a % P, a / P % S, a / P / S % D, a / P / S / D] := by
  simp [coordOf, at_, Nat.div_div_eq_div_mul]

/-- Settles O18: the address is a number of four digits. -/
theorem fabricAddress : Obligations.FabricAddress := by
  intro p s d x P S D X hp hs hd hx
  have haddr : addrOf [p, s, d, x] [P, S, D, X] = p + P * (s + S * (d + D * x)) := rfl
  have hlt : p + P * (s + S * (d + D * x)) < P * S * D * X := by
    rw [Nat.mul_assoc, Nat.mul_assoc]
    exact digit_lt hp (digit_lt hs (digit_lt hd hx))
  have hP : (p + P * (s + S * (d + D * x))) / P = s + S * (d + D * x) := by
    rw [Nat.add_mul_div_left _ _ (by omega), Nat.div_eq_of_lt hp, Nat.zero_add]
  have hS : (s + S * (d + D * x)) / S = d + D * x := by
    rw [Nat.add_mul_div_left _ _ (by omega), Nat.div_eq_of_lt hs, Nat.zero_add]
  have hD : (d + D * x) / D = x := by
    rw [Nat.add_mul_div_left _ _ (by omega), Nat.div_eq_of_lt hd, Nat.zero_add]
  refine ⟨haddr, haddr ▸ hlt, fun hfits => haddr ▸ hlt.trans_le hfits, ?_⟩
  rw [haddr, coordOf_eq, hP, hS, hD, Nat.add_mul_mod_self_left, Nat.add_mul_mod_self_left, Nat.add_mul_mod_self_left, Nat.mod_eq_of_lt hp,
    Nat.mod_eq_of_lt hs, Nat.mod_eq_of_lt hd]

end Sys2Proof.Machine
end

section
/-!
SUPPORT. What sending on a port, PARTITION and the derivation of the tree leave alone: the receiving side of a link, discovery, fields and counters
(R299 to R303, R315, R316, R325).
-/

set_option Elab.async false

namespace Sys2Proof.Machine

/-! ### Links -/

@[simp] theorem Dev.link_setLink_same (d : Dev) (p : Nat) (l : Option Link) : (d.setLink p l).link p = l := SMap.get_set_same _ _ _ _

theorem Dev.link_setLink_other (d : Dev) {p q : Nat} (l : Option Link) (h : p ≠ q) : (d.setLink q l).link p = d.link p :=
  SMap.get_set_other _ _ _ _ _ h

theorem Dev.link_congr {d e : Dev} (h : e.fab = d.fab) (p : Nat) : e.link p = d.link p := by rw [Dev.link, h, Dev.link]

/-- A link without what sending goes through: sequence numbers, flits, credits and turns (R301 to R303). -/
def Link.rest (l : Link) : Link := { l with next := 0, unacked := [], waiting := [], credits := [], alt := false }

theorem Link.drain_rest (n : Nat) (l : Link) : (Link.drain n l).2.rest = l.rest := by
  induction n generalizing l with
  | zero => rfl
  | succ n ih =>
    unfold Link.drain
    split_ifs
    · rfl
    · split
      · rfl
      · exact ih _

/-- Returned credits are the sender's. -/
theorem Link.giveBack_rest {l z : Link} {ch n : Nat} (h : l.giveBack ch n = some z) : z.rest = l.rest := by
  unfold Link.giveBack at h
  split_ifs at h <;> cases h <;> rfl

/-! ### Readings of the fabric -/

namespace Reading

/-- Link `p` without what sending goes through, and discovery. -/
def fabric (p : Nat) : Reading .fab (Option Link × Disc) :=
  ⟨fun d => ((d.link p).map Link.rest, d.fab.disc), fun {d e} (h : e.fab = d.fab) => by rw [Dev.link_congr h, h]⟩

namespace same

variable {p : Nat} {d e : Dev}

theorem link_eq (h : (fabric p).same d e) : (e.link p).map Link.rest = (d.link p).map Link.rest := congrArg Prod.fst h

theorem disc_eq (h : (fabric p).same d e) : e.fab.disc = d.fab.disc := congrArg Prod.snd h

/-- A link that stands still stands, as far as it is read. -/
theorem linked (h : (fabric p).same d e) {l : Link} (hl : d.link p = some l) : ∃ z, e.link p = some z ∧ z.rest = l.rest :=
  Option.map_eq_some_iff.mp (h.link_eq.trans (by rw [hl]; rfl))

theorem unlinked (h : (fabric p).same d e) (hl : d.link p = none) : e.link p = none :=
  Option.map_eq_none_iff.mp (h.link_eq.trans (by rw [hl]; rfl))

/-- A loop over the ports. -/
theorem overPorts {k : Part} {α : Type} {g : Reading k α} {u : Dev → Nat → Dev} (h : g.same d e)
    (hu : ∀ e q, q ∈ ports → g.same d e → g.same d (u e q)) : g.same d (ports.foldl u e) :=
  List.foldlRecOn (motive := fun z : Dev => g.same d z) ports u h fun e he q hq => hu e q hq he

end same

/-! ### Steady readings -/

/-- The register fields that PARTITION and the tree write (R315, R316, R325). -/
def treeFields : List Field :=
  [Reg.RED_TREE_CHILDREN, Reg.RED_TREE_BACKUP_PORT, Reg.RED_TREE_UP_PORT, Reg.FLT_STK0_PARTITION] ++
    ports.map Reg.FAB_PORT_STATUS_ROLE ++ ports.map Reg.FAB_PORT_STATUS_PARENT

theorem role_mem_treeFields {q : Nat} (h : q ∈ ports) : Reg.FAB_PORT_STATUS_ROLE q ∈ treeFields :=
  List.mem_append_left _ (List.mem_append_right _ (List.mem_map_of_mem h))

theorem parent_mem_treeFields {q : Nat} (h : q ∈ ports) : Reg.FAB_PORT_STATUS_PARENT q ∈ treeFields :=
  List.mem_append_right _ (List.mem_map_of_mem h)

/-- The counters that sending and PARTITION count in (R302, R318, R325). -/
def sendCount (c : Nat) : Prop := c = Cnt.FAB_DROP_CNT ∨ c = Cnt.FAB_PARTITION_CNT ∨ ∃ q, c = Cnt.FAB_TX_FLIT_CNT q ∨ c = Cnt.FAB_CREDIT_STALL_CNT q

/-- A reading that sending, PARTITION, the derivation of the tree and the end of a command leave alone. -/
structure steady {k : Part} {α : Type} (g : Reading k α) : Prop extends toOffQueues : g.offQueues where
  sends : ∀ {d q l z}, d.link q = some l → z.rest = l.rest → g.same d (d.setLink q (some z))
  marks : ∀ d x, x.links = d.fab.links → x.disc = d.fab.disc → g.same d { d with fab := x }
  tree : ∀ f ∈ treeFields, ∀ d v, g.same d (d.setFld f v)
  counts : ∀ c, sendCount c → ∀ d n, g.same d (d.bumpBy c n)

theorem steady_fabric (p : Nat) : (fabric p).steady where
  part := by decide
  field _ _ := rfl
  counter _ _ _ := rfl
  marks d x hlinks hdisc := Prod.ext (by simp only [fabric, Dev.link, hlinks]) hdisc
  tree _ _ _ _ := rfl
  counts _ _ _ _ := rfl
  sends {d q l z} hl hz := by
    refine Prod.ext ?_ rfl
    show ((d.setLink q (some z)).link p).map Link.rest = (d.link p).map Link.rest
    by_cases h : p = q
    · rw [h, Dev.link_setLink_same, hl, Option.map_some, Option.map_some, hz]
    · rw [Dev.link_setLink_other d _ h]

theorem steady_fld {f : Field} (h : f.key ∉ (Reg.MBX_TRACE_HEAD_COUNT :: treeFields).map Field.key) : (fld f).steady where
  toOffQueues := offQueues_fld fun hf => h (hf ▸ List.mem_cons_self)
  sends _ _ := rfl
  marks _ _ _ _ := rfl
  tree _ hw _ _ := .setFld .refl fun hf => h (hf ▸ List.mem_cons_of_mem _ (List.mem_map_of_mem hw))
  counts _ _ _ _ := rfl

theorem steady_count {c : Nat} (h : c ∉ [Cnt.HIF_CMD_CNT, Cnt.HIF_STATE_REJ_CNT, Cnt.HIF_BAD_ARG_CNT, Cnt.HIF_CQ_DROP_CNT, Cnt.MBX_TRACE_WRAP_CNT])
    (hc : ¬ sendCount c) : (count c).steady where
  toOffQueues := offQueues_count h
  sends _ _ := rfl
  marks _ _ _ _ := rfl
  tree _ _ _ _ := rfl
  counts _ hk _ _ := .bumpBy .refl fun hck => hc (hck ▸ hk)

namespace steady

variable {k : Part} {α : Type} {g : Reading k α} (hg : g.steady) {d e : Dev}
include hg

theorem bumpBy {c n} (h : g.same d e) (hc : sendCount c) : g.same d (e.bumpBy c n) := h.step (hg.counts c hc e n)

theorem drop (h : g.same d e) : g.same d (e.bump Cnt.FAB_DROP_CNT) := hg.bumpBy h (.inl rfl)

theorem setFld {f v} (h : g.same d e) (hf : f ∈ treeFields) : g.same d (e.setFld f v) := h.step (hg.tree f hf e v)

/-- A change of the fabric that leaves links and discovery. -/
theorem marked {x} (h : g.same d e) (hlinks : x.links = e.fab.links := by rfl) (hdisc : x.disc = e.fab.disc := by rfl) :
    g.same d { e with fab := x } := h.step (hg.marks e x hlinks hdisc)

theorem drain {q} (h : g.same d e) : g.same d (e.drain q) := by
  unfold Dev.drain
  split
  · exact h
  next l hl =>
    refine hg.bumpBy (.foldl (hg.bumpBy ?_ (.inr (.inr ⟨q, .inl rfl⟩))) fun _ _ h => hg.via h .dataOut) (.inr (.inr ⟨q, .inr rfl⟩))
    exact h.step (hg.sends hl (Link.drain_rest l.waiting.length l))

theorem txRaw {q mt bytes} (h : g.same d e) : g.same d (e.txRaw q mt bytes) := by
  unfold Dev.txRaw
  split
  · exact hg.drop h
  next l hl =>
    refine hg.drain (hg.via ?_ .emit)
    refine hg.marked ?_
    exact h.step (hg.sends hl rfl)

theorem tx {q mt bytes} (h : g.same d e) : g.same d (e.tx q mt bytes) := .ite (hg.txRaw h) (hg.drop h)

theorem txLocal {q mt body} (h : g.same d e) : g.same d (e.txLocal q mt body) := hg.tx h

theorem writeRoles {c sz} (h : g.same d e) : g.same d (e.writeRoles c sz) := by
  unfold Dev.writeRoles
  exact same.overPorts (hg.setFld h (by decide)) fun _ _ hq h => hg.setFld h (role_mem_treeFields hq)

theorem deriveUp {c sz force} (h : g.same d e) : g.same d (e.deriveUp c sz force) := by
  unfold Dev.deriveUp
  exact .when (same.overPorts (hg.setFld (hg.writeRoles h) (by decide)) fun _ _ hq h => hg.setFld h (parent_mem_treeFields hq)) fun h => hg.txLocal h

theorem partition (h : g.same d e) : g.same d e.partition := by
  unfold Dev.partition Dev.sticky
  refine .ite (hg.bumpBy ?_ (.inr (.inl rfl))) h
  have hmarked : g.same d { e with fab := { e.fab with partitioned := true } } := hg.marked h
  exact .ite hmarked (hg.trace (hg.setFld hmarked (by decide)))

theorem checkPartition (h : g.same d e) : g.same d e.checkPartition := .ite (hg.partition h) h

theorem settlePort {q} (h : g.same d e) : g.same d (e.settlePort q) := hg.marked h

end steady

end Reading

end Sys2Proof.Machine
end

section
/-!
SUPPORT. The states of a port: what a change of state leaves alone, what a lost link leaves, how bring-up begins and ends (R311, R322 to R325).
-/

set_option Elab.async false

namespace Sys2Proof.Machine

/-- What follows from a port's new state (R316, R323, R325). -/
def Dev.portEntered (d : Dev) (p v : Nat) : Dev :=
  let d := d.trace 132 0 p v
  let d := if v = PS.down ∨ v = PS.disabled then d.setFld Reg.RED_TREE_CHILDREN (clearBit (d.fld Reg.RED_TREE_CHILDREN) p) else d
  let d := if d.holdsProgram && d.flag Reg.FAB_COORD_VALID then d.deriveUp d.coord d.shape false else d
  d.checkPartition

theorem Dev.setPort_eq (d : Dev) (p v : Nat) :
    d.setPort p v = if d.portState p = v then d else (d.setFld (Reg.FAB_PORT_STATUS_STATE p) v).portEntered p v := rfl

namespace Reading.steady

variable {k : Part} {α : Type} {g : Reading k α} (hg : g.steady) {d e : Dev} {p v : Nat}
include hg

theorem portEntered (h : g.same d e) : g.same d (e.portEntered p v) := by
  unfold Dev.portEntered
  exact hg.checkPartition (.when (.when (hg.trace h) fun h => hg.setFld h (by decide)) fun h => hg.deriveUp h)

/-- A change of a port's state, for a reading that is not that state. -/
theorem setPort (h : g.same d e) (hs : ∀ d, g.same d (d.setFld (Reg.FAB_PORT_STATUS_STATE p) v)) : g.same d (e.setPort p v) := by
  rw [Dev.setPort_eq]
  exact .ite h (hg.portEntered (h.step (hs e)))

end Reading.steady

theorem portState_key_ne (p : Fin 16) : (Reg.FAB_PORT_STATUS_STATE p).key ≠ Reg.MBX_TRACE_HEAD_COUNT.key := by revert p; decide

theorem portEnable_key_ne (p : Fin 16) : (Reg.FAB_PORT_CTL_EN p).key ≠ Reg.MBX_TRACE_HEAD_COUNT.key := by revert p; decide

theorem nbrPort_key_ne (p : Fin 16) : (Reg.FAB_PORT_STATUS_NBR_PORT p).key ≠ Reg.MBX_TRACE_HEAD_COUNT.key := by revert p; decide

theorem portEnable_key_ne_portState (p : Fin 16) : (Reg.FAB_PORT_CTL_EN p).key ≠ (Reg.FAB_PORT_STATUS_STATE p).key := by revert p; decide

theorem portEnable_key_ne_linkLost (p : Fin 16) : (Reg.FAB_PORT_CTL_EN p).key ≠ Reg.FLT_STK0_LINK_LOST.key := by revert p; decide

theorem linkLost_key_ne_portState (p : Fin 16) : Reg.FLT_STK0_LINK_LOST.key ≠ (Reg.FAB_PORT_STATUS_STATE p).key := by revert p; decide

theorem Reading.steady_state (p : Fin 16) : (Reading.fld (Reg.FAB_PORT_STATUS_STATE p)).steady := steady_fld (by revert p; decide)

theorem Reading.steady_enabled (p : Fin 16) : (Reading.fld (Reg.FAB_PORT_CTL_EN p)).steady := steady_fld (by revert p; decide)

theorem Reading.steady_lost : (Reading.fld Reg.FLT_STK0_LINK_LOST).steady := steady_fld (by decide)

theorem Dev.setPort_state (d : Dev) (p : Fin 16) {v : Nat} (hv : v < 8) : (d.setPort p v).portState p = v := by
  rw [Dev.setPort_eq]
  split
  · assumption
  · have hentered := ((Reading.steady_state p).portEntered (p := p) (v := v) (d := d.setFld (Reg.FAB_PORT_STATUS_STATE p) v) .refl).fld_eq
    exact hentered.trans ((Dev.fld_setFld_same _ _ _).trans (Nat.mod_eq_of_lt hv))

/-- A link stands or not as before the port's change of state. -/
theorem Reading.same.setPort {d e : Dev} {p q v : Nat} (h : (fabric p).same d e) : (fabric p).same d (e.setPort q v) :=
  (steady_fabric p).setPort h fun _ => rfl

/-! ### A lost link (R323) -/

theorem Dev.sticky_flag (d : Dev) {f : Field} (hw : f.w = 1) (hf : f.key ≠ Reg.MBX_TRACE_HEAD_COUNT.key) : (d.sticky f).flag f = true := by
  unfold Dev.sticky
  split
  · assumption
  · rw [Dev.flag, (Reading.same.trace hf).fld_eq, Dev.fld_setFld_same, hw]
    rfl

/-- The device with link `p` gone, before the port changes its state. -/
def Dev.dropLink (d : Dev) (p : Nat) (l : Link) : Dev :=
  let d := (d.bump (Cnt.FAB_LINK_LOST_CNT p)).sticky Reg.FLT_STK0_LINK_LOST
  let d := (d.bumpBy Cnt.FAB_DROP_CNT l.lostMsgs).setLink p none
  let d := { d with fab := { d.fab with lost := if d.fab.lost.contains p then d.fab.lost else p :: d.fab.lost } }
  d.settlePort p

section
variable {d : Dev} {l : Link} {v : Nat}

theorem Dev.loseLink_eq {p : Nat} (hl : d.link p = some l) : d.loseLink p v = (d.dropLink p l).setPort p v := by
  rw [Dev.loseLink, hl]
  rfl

theorem Dev.loseLink_unlinked {p : Nat} (hl : d.link p = none) : d.loseLink p v = d := by rw [Dev.loseLink, hl]

theorem Dev.dropLink_link (d : Dev) (p : Nat) (l : Link) : (d.dropLink p l).link p = none := Dev.link_setLink_same _ p none

/-- What the loss of a link notes is kept, but for the link. -/
theorem Reading.steady.dropLink {k : Part} {α : Type} {g : Reading k α} (hg : g.steady) (hk : k ∉ [Part.fab]) (d : Dev) (p : Nat) (l : Link) :
    g.same ((d.bump (Cnt.FAB_LINK_LOST_CNT p)).sticky Reg.FLT_STK0_LINK_LOST) (d.dropLink p l) := by
  unfold Dev.dropLink
  refine hg.settlePort (hg.marked ?_)
  exact .via (hg.bumpBy .refl (.inl rfl)) .setLink hk

theorem Dev.dropLink_lost (d : Dev) (p : Nat) (l : Link) : (d.dropLink p l).fld Reg.FLT_STK0_LINK_LOST = 1 :=
  (Reading.steady_lost.dropLink (by decide) d p l).fld_eq.trans (beq_iff_eq.mp (Dev.sticky_flag _ rfl (by decide)))

/-- R323: no link is left. -/
theorem Dev.loseLink_link (d : Dev) (p v : Nat) : (d.loseLink p v).link p = none := by
  cases hl : d.link p with
  | none => rw [Dev.loseLink_unlinked hl, hl]
  | some l => rw [Dev.loseLink_eq hl]; exact (Reading.same.setPort .refl).unlinked (d.dropLink_link p l)

theorem linkLost_not_queueCount (p : Fin 16) :
    Cnt.FAB_LINK_LOST_CNT p ∉ [Cnt.HIF_CMD_CNT, Cnt.HIF_STATE_REJ_CNT, Cnt.HIF_BAD_ARG_CNT, Cnt.HIF_CQ_DROP_CNT, Cnt.MBX_TRACE_WRAP_CNT] := by
  revert p; decide

theorem Reading.steady_linkLost (p : Fin 16) : (Reading.count (Cnt.FAB_LINK_LOST_CNT p)).steady := by
  refine steady_count (linkLost_not_queueCount p) ?_
  simp only [sendCount, Cnt.FAB_LINK_LOST_CNT, Cnt.FAB_DROP_CNT, Cnt.FAB_PARTITION_CNT, Cnt.FAB_TX_FLIT_CNT, Cnt.FAB_CREDIT_STALL_CNT]
  omega

theorem Dev.dropLink_count (d : Dev) (p : Fin 16) (l : Link) :
    (d.dropLink p l).count (Cnt.FAB_LINK_LOST_CNT p) = min cntMax (d.count (Cnt.FAB_LINK_LOST_CNT p) + 1) := by
  have hg := Reading.steady_linkLost p
  have hsticky (e : Dev) : (Reading.count (Cnt.FAB_LINK_LOST_CNT p)).same e (e.sticky Reg.FLT_STK0_LINK_LOST) := by
    unfold Dev.sticky
    exact .ite .refl (hg.trace (.via .refl .setFld))
  exact (hg.dropLink (by decide) d p l).count_eq.trans ((hsticky _).count_eq.trans (Dev.count_bump_same _ _))

/-- R322, R323: a link that stood is gone, noted and counted, and its port in the state named. -/
theorem Dev.loseLink_lost {p : Fin 16} (hl : d.link p = some l) (hv : v < 8) :
    (d.loseLink p v).link p = none ∧ (d.loseLink p v).portState p = v ∧ (d.loseLink p v).fld Reg.FLT_STK0_LINK_LOST = 1 ∧
      (d.loseLink p v).count (Cnt.FAB_LINK_LOST_CNT p) = min cntMax (d.count (Cnt.FAB_LINK_LOST_CNT p) + 1) := by
  refine ⟨d.loseLink_link p v, ?_, ?_, ?_⟩
  · rw [Dev.loseLink_eq hl, Dev.setPort_state _ p hv]
  · have hkept : (Reading.fld Reg.FLT_STK0_LINK_LOST).same (d.dropLink p l) ((d.dropLink p l).setPort p v) :=
      Reading.steady_lost.setPort .refl fun _ => .setFld .refl (linkLost_key_ne_portState p)
    rw [Dev.loseLink_eq hl, hkept.fld_eq, Dev.dropLink_lost]
  · rw [Dev.loseLink_eq hl, ((Reading.steady_linkLost p).setPort .refl fun _ => rfl).count_eq, Dev.dropLink_count]

/-- A link loss leaves the port enabled or not, as it was. -/
theorem Dev.loseLink_enabled (d : Dev) (p : Fin 16) (v : Nat) :
    (d.loseLink p v).fld (Reg.FAB_PORT_CTL_EN p) = d.fld (Reg.FAB_PORT_CTL_EN p) := by
  cases hl : d.link p with
  | none => rw [Dev.loseLink_unlinked hl]
  | some l =>
    have hdropped : (Reading.fld (Reg.FAB_PORT_CTL_EN p)).same d (d.dropLink p l) :=
      (Reading.same.via .refl .bump).step (.sticky (portEnable_key_ne_linkLost p) (portEnable_key_ne p)) |>.step ((Reading.steady_enabled p).dropLink (by decide) d p l)
    rw [Dev.loseLink_eq hl]
    exact ((Reading.steady_enabled p).setPort hdropped fun _ => .setFld .refl (portEnable_key_ne_portState p)).fld_eq

/-! ### Bring-up begins, and a port is disabled (R311, R322, R324) -/

theorem Dev.trainPort_trains {p : Fin 16} (h : d.flag (Reg.FAB_PORT_CTL_EN p) = true) :
    (d.trainPort p).portState p = PS.training ∧ (d.trainPort p).link p = none := by
  rw [Dev.trainPort, if_pos h]
  have hlink : ((d.setLink p none).setPort p PS.training).link p = none := (Reading.same.setPort .refl).unlinked (d.link_setLink_same p none)
  exact ⟨Dev.setPort_state (d.setLink p none) p (by decide), hlink⟩

theorem Dev.retrain_trains {p : Fin 16} (hused : d.portState p ≠ PS.unused) (h : d.flag (Reg.FAB_PORT_CTL_EN p) = true) :
    (d.retrain p).portState p = PS.training ∧ (d.retrain p).link p = none := by
  rw [Dev.retrain, if_neg hused]
  exact Dev.trainPort_trains (by rw [Dev.flag, Dev.loseLink_enabled]; exact h)

theorem Dev.retrainDue_trains {p : Fin 16} (hdown : d.portState p = PS.down) (hauto : d.flag Reg.FAB_CFG_AUTO_RETRAIN = true)
    (h : d.flag (Reg.FAB_PORT_CTL_EN p) = true) : (d.retrainDue p).portState p = PS.training ∧ (d.retrainDue p).link p = none := by
  rw [Dev.retrainDue, if_pos hdown, if_pos hauto]
  exact Dev.trainPort_trains h

theorem Dev.disablePort_disables (d : Dev) (p : Fin 16) :
    (d.disablePort p).fld (Reg.FAB_PORT_CTL_EN p) = 0 ∧ (d.disablePort p).portState p = PS.disabled ∧ (d.disablePort p).link p = none := by
  have hlost := Dev.loseLink_enabled (d.setFld (Reg.FAB_PORT_CTL_EN p) 0) p PS.disabled
  have hlink := Dev.loseLink_link (d.setFld (Reg.FAB_PORT_CTL_EN p) 0) p PS.disabled
  unfold Dev.disablePort
  generalize (d.setFld (Reg.FAB_PORT_CTL_EN p) 0).loseLink p PS.disabled = e at hlost hlink
  have hkept : (Reading.fld (Reg.FAB_PORT_CTL_EN p)).same e (e.setPort p PS.disabled) :=
    (Reading.steady_enabled p).setPort .refl fun _ => .setFld .refl (portEnable_key_ne_portState p)
  exact ⟨hkept.fld_eq.trans (hlost.trans (Dev.fld_setFld_same _ _ _)), Dev.setPort_state e p (by decide),
    (Reading.same.setPort .refl).unlinked hlink⟩

end

/-! ### Bring-up ends: its link stands as before (R311, R324) -/

namespace Reading.same

variable {d e : Dev} {p q : Nat}

theorem bringUp (h : (fabric p).same d e) : (fabric p).same d (e.bringUp q) := by
  unfold Dev.bringUp
  split
  · exact h
  · refine .setPort (.use (h.via .setLat) fun h => .ite ?_ h)
    exact (steady_fabric p).marked (h.via (.bump (c := Cnt.FAB_RETRAIN_CNT)))

theorem finishBringUp (h : (fabric p).same d e) : (fabric p).same d (e.finishBringUp q) := by
  unfold Dev.finishBringUp
  split
  · exact h
  · exact .ite ((steady_fabric p).settlePort (.ite h.setPort h.bringUp)) h

end Reading.same

end Sys2Proof.Machine
end

section
/-!
PROOF. Flits that arrive on a port (R299 to R303, R311).
-/

set_option Elab.async false

namespace Sys2Proof.Machine

/-! ### What an event of a port moves on (R356) -/

/-- Beside the commands that end, and their traces, nothing has changed. -/
structure Dev.endsCommands (d e : Dev) : Prop where
  fab : e.fab = d.fab
  fld : ∀ f : Field, f.key ≠ Reg.MBX_TRACE_HEAD_COUNT.key → e.fld f = d.fld f
  count : ∀ c, c ∉ [Cnt.HIF_CMD_CNT, Cnt.HIF_STATE_REJ_CNT, Cnt.HIF_BAD_ARG_CNT, Cnt.HIF_CQ_DROP_CNT, Cnt.MBX_TRACE_WRAP_CNT] → e.count c = d.count c

theorem Dev.endsCommands.link {d e : Dev} (h : d.endsCommands e) (p : Nat) : e.link p = d.link p := Dev.link_congr h.fab p

theorem Reading.offQueues.endDiscover {k : Part} {α : Type} {g : Reading k α} (hg : g.offQueues) {d : Dev} : g.same d d.endDiscover := by
  unfold Dev.endDiscover
  exact .ite .refl (.foldl .refl fun _ _ h => hg.sweepN (hg.finish h))

/-- Outside a start a discovery that has ended completes its commands. -/
theorem Dev.advance_endsCommands {d : Dev} (h : d.pwr.start = none) : d.endsCommands d.advance := by
  rw [Dev.advance, h]
  exact ⟨Evolves.endDiscover.keeps .fab (by decide), fun _ hf => (Reading.offQueues_fld hf).endDiscover.fld_eq,
    fun _ hc => (Reading.offQueues_count hc).endDiscover.count_eq⟩

/-- An event of a port outside a start: the device comes to `d`, and commands that wait for a discovery may end. -/
theorem answers_advance {i : Instr} {s : State} {f : Dev → Dev} {d : Dev} {l : List Part} {P : Dev → Prop} (hexec : exec i s = s.run fun d => (f d).advance)
    (hp : s.dev.powered = true) (hstart : s.dev.pwr.start = none) (hf : f s.dev.quiet = d) (hd : Evolves l s.dev.quiet d)
    (h : ∀ e, d.endsCommands e → P e) (hl : .pwr ∉ l := by decide) : answers i s P := by
  refine answers_run _ _ _ _ hexec hp (h _ ?_)
  rw [hf]
  exact Dev.advance_endsCommands ((congrArg Pwr.start (hd.keeps .pwr hl)).trans hstart)

/-! ### The header of a flit (R302, R303) -/

/-- What a link's receiver and its bring-up hold. -/
def Link.received (l : Link) : Link := { l.rest with replays := 0 }

theorem Link.acked_received {l z : Link} {a : Nat} (h : l.acked a = some z) : z.received = l.received := by
  unfold Link.acked at h
  split_ifs at h
  · cases h; rfl
  · split at h
    · contradiction
    · cases h; rfl

theorem Link.received_of_rest {l z : Link} (h : z.rest = l.rest) : z.received = l.received := by rw [Link.received, h, Link.received]

/-- The header of a flit is the sender's. -/
theorem Link.afterHead_received {l q : Link} {x : FlitIn} (h : l.afterHead x = some q) : q.received = l.received := by
  obtain ⟨b, hback, hack⟩ := Option.bind_eq_some_iff.mp h
  obtain ⟨a, hfirst, hsecond⟩ := Option.bind_eq_some_iff.mp hback
  have hcredits : b.received = l.received := (Link.received_of_rest (Link.giveBack_rest hsecond)).trans (Link.received_of_rest (Link.giveBack_rest hfirst))
  split at hack
  · cases hack; exact hcredits
  · exact (Link.acked_received hack).trans hcredits

/-- The device after the header of an intact flit that leaves link `q`. -/
def Dev.headTaken (d : Dev) (p : Nat) (x : FlitIn) (q : Link) : Dev :=
  (((d.bumpBy (Cnt.FAB_FEC_CORR_CNT p) x.corr).bumpBy (Cnt.FAB_FEC_UNCORR_CNT p) x.uncorr).setLink p (some q)).drain p

section
variable {d : Dev} {p : Nat} {x : FlitIn} {l q : Link}

theorem Dev.flitHead_taken (hl : d.link p = some l) (hnak : flitF x 41 41 = 0) (hq : l.afterHead x = some q) :
    d.flitHead p x = (true, (d.setLink p (some q)).drain p) := by
  obtain ⟨b, hback, hack⟩ := Option.bind_eq_some_iff.mp hq
  rw [Dev.flitHead, hl]
  simp only [hback]
  split_ifs at hack ⊢ with hack0 hnak1
  · cases hack; rfl
  · omega
  · simp only [hack, Dev.link_setLink_same, Option.isSome_some]

theorem Dev.flitRx_taken (h : d.takesFlit p x l q) (body : Dev → Dev) : d.flitRx p x body = body (d.headTaken p x q) := by
  obtain ⟨hl, hintact, hnak, hq⟩ := h
  rw [Dev.flitRx, hl]
  simp only [hintact, Bool.not_true, Bool.false_eq_true, if_false]
  rw [Dev.flitHead_taken (d := (d.bumpBy _ _).bumpBy _ _) hl hnak hq]
  rfl

theorem Evolves.headTaken : Evolves [.cnt, .fab] d (d.headTaken p x q) :=
  Evolves.refl.step .bumpBy |>.step .bumpBy |>.step .setLink |>.step .drain

/-- The receiver goes on as before the header. -/
theorem Dev.headTaken_received (h : d.takesFlit p x l q) : ∃ z, (d.headTaken p x q).link p = some z ∧ z.received = l.received := by
  obtain ⟨-, -, -, hq⟩ := h
  obtain ⟨z, hz, hrest⟩ := ((Reading.steady_fabric p).drain (q := p) .refl).linked
    (Dev.link_setLink_same ((d.bumpBy (Cnt.FAB_FEC_CORR_CNT p) x.corr).bumpBy (Cnt.FAB_FEC_UNCORR_CNT p) x.uncorr) p (some q))
  exact ⟨z, hz, (Link.received_of_rest hrest).trans (Link.afterHead_received hq)⟩

/-- Where nothing waits, nothing leaves. -/
theorem Dev.headTaken_idle (hwaiting : q.waiting = []) :
    ∃ z, (d.headTaken p x q).link p = some z ∧ z.unacked = q.unacked ∧ z.credits = q.credits := by
  have hdrain (e : Dev) (he : e.link p = some q) : (e.drain p).link p = some q.markWaits := by
    rw [Dev.drain, he]
    simp only [hwaiting, List.length_nil, Link.drain, List.foldl_nil]
    exact e.link_setLink_same p _
  exact ⟨_, hdrain _ (Dev.link_setLink_same _ p (some q)), rfl, rfl⟩

/-! ### The three kinds of flits -/

/-- R303: a DATA flit in sequence is received. -/
theorem Dev.dataFlit_next (hl : d.link p = some l) (hseq : flitF x 27 16 = (l.rxLast + 1) % 4096) :
    ∃ z, (d.dataFlit p x).link p = some z ∧ z.rxLast = flitF x 27 16 ∧ z.ackv = true ∧ z.nak = false := by
  rw [Dev.dataFlit, hl]
  dsimp only
  rw [if_neg (not_not_intro hseq), Dev.link_congr (Evolves.idleFlit.keeps .fab (by decide)), Dev.link_setLink_same]
  exact ⟨_, rfl, rfl, rfl, rfl⟩

/-- A PROBE is noted in its link (R311, R312). -/
theorem Dev.sendProbe_link (hl : d.link p = some l) (t : Nat) : ∃ z, (d.sendProbe p t).link p = some z ∧
    z.rest = { l.rest with probe := some (l.probeId, t), probeId := (l.probeId + 1) % 2 ^ 32 } := by
  rw [Dev.sendProbe, hl]
  exact ((Reading.steady_fabric p).txRaw .refl).linked (Dev.link_setLink_same d p _)

/-- A value for each of the first `n` channels. -/
theorem SMap.get_foldl_set (f : Nat → Nat) (n ch : Nat) (h : ch < n) :
    SMap.get zeroAt ((List.range n).foldl (fun m c => SMap.set zeroAt m c (f c)) []) ch = f ch := by
  induction n with
  | zero => omega
  | succ n ih =>
    rw [List.range_succ, List.foldl_append, List.foldl_cons, List.foldl_nil]
    by_cases hn : ch = n
    · rw [hn, SMap.get_set_same]
    · rw [SMap.get_set_other _ _ _ _ _ hn, ih (by omega)]

/-- A link with the credits of its peer's CTRL flit (R311). -/
def Link.exchanged (l : Link) (cr : List Nat) : Link :=
  let c := (List.range 16).foldl (fun m ch => SMap.set zeroAt m ch (cr.getD ch 0)) []
  { l with ctrl := true, credits := c, limit := c }

theorem Link.exchanged_limit (l : Link) (cr : List Nat) {ch : Nat} (h : ch < 16) : SMap.get zeroAt (l.exchanged cr).limit ch = cr.getD ch 0 :=
  SMap.get_foldl_set (cr.getD · 0) 16 ch h

theorem Dev.ctrlFlit_eq {peer : Nat} (hl : d.link p = some l) (hst : d.portState p = PS.training) (hctrl : l.ctrl = false)
    (haxis : portAxis peer = portAxis p) (hmember : portMember peer = portMember p) (hplus : portPlus peer ≠ portPlus p) (cr : List Nat) (t : Nat) :
    d.ctrlFlit p peer cr t =
      ((d.setFld (Reg.FAB_PORT_STATUS_NBR_PORT p) peer).setLink p (some (l.exchanged cr))).sendProbe p t := by
  rw [Dev.ctrlFlit, hl]
  simp only [hst, hctrl, haxis, hmember, hplus, ne_eq, not_true_eq_false, Bool.false_eq_true, or_self, if_false]
  rfl

/-- R311: with the CTRL flit of the neighbour the first PROBE of a bring-up leaves. -/
theorem Dev.exchange_probes (peer : Nat) (cr : List Nat) (t : Nat) :
    let e := ((d.setFld (Reg.FAB_PORT_STATUS_NBR_PORT p) peer).setLink p (some (l.exchanged cr))).sendProbe p t
    e.fld (Reg.FAB_PORT_STATUS_NBR_PORT p) = peer % 2 ^ (Reg.FAB_PORT_STATUS_NBR_PORT p).w ∧
      ∃ z, e.link p = some z ∧ z.ctrl = true ∧ z.probe = some (l.probeId, t) ∧ ∀ ch < 16, SMap.get zeroAt z.limit ch = cr.getD ch 0 := by
  obtain ⟨z, hz, hrest⟩ := Dev.sendProbe_link (Dev.link_setLink_same (d.setFld (Reg.FAB_PORT_STATUS_NBR_PORT p) peer) p (some (l.exchanged cr))) t
  have hlimit := congrArg Link.limit hrest
  have hnbr : (((d.setFld (Reg.FAB_PORT_STATUS_NBR_PORT p) peer).setLink p (some (l.exchanged cr))).sendProbe p t).fld (Reg.FAB_PORT_STATUS_NBR_PORT p) = _ :=
    (Dev.fld_congr _ _ _ (Evolves.sendProbe.keeps .regs (by decide))).trans (Dev.fld_setFld_same d _ peer)
  refine ⟨hnbr, z, hz, congrArg Link.ctrl hrest, congrArg Link.probe hrest, fun ch hch => ?_⟩
  rw [show z.limit = (l.exchanged cr).limit from hlimit, Link.exchanged_limit l cr hch]

end

end Sys2Proof.Machine
end

section
/-!
PROOF. The messages of bring-up, the timers and commands of ports, and MGMT (O55).
-/

set_option Elab.async false

namespace Sys2Proof.Machine

/-! ### PROBE, ECHO and CONFIRM (R311, R312, R317) -/

theorem Dev.hearsLink_quiet {d : Dev} {p mt : Nat} {m : Msg} (h : d.hearsLink p mt m) : d.quiet.hearsLink p mt m := by
  obtain ⟨hst, hl, hm⟩ := h
  exact ⟨hst, hl, (d.checkMsg_quiet mt _ false m).trans hm⟩

/-- A message of bring-up that reaches the device whole is delivered. -/
theorem Dev.bringUpMsg_heard {d : Dev} {p mt : Nat} {m : Msg} (h : d.hearsLink p mt m) (deliver : Dev → Dev) : d.bringUpMsg p mt m deliver = deliver d := by
  obtain ⟨hst, hl, hm⟩ := h
  have hcarried : (!(d.portTrained p || (d.portState p == PS.training && (d.link p).isSome))) = false := by
    rcases hst with hst | hst <;> simp [hst, hl]
  rw [Dev.bringUpMsg, hcarried, Dev.checkMsg_passed hm]
  rfl

/-- What has left stays in the record of what was sent. -/
theorem Dev.mem_out_drain {d : Dev} {o : Out} (h : o ∈ d.out) (p : Nat) : o ∈ (d.drain p).out := by
  unfold Dev.drain
  split
  · exact h
  · refine List.foldlRecOn (motive := fun z : Dev => o ∈ z.out) _ _ h fun e he f _ => ?_
    exact List.mem_append_left _ he

theorem Dev.mem_out_txRaw {d : Dev} {p : Nat} (h : (d.link p).isSome = true) (mt : Nat) (bytes : List Byte) : Out.msg p bytes ∈ (d.txRaw p mt bytes).out := by
  obtain ⟨l, hl⟩ := Option.isSome_iff_exists.mp h
  rw [Dev.txRaw, hl]
  exact Dev.mem_out_drain (List.mem_append_right _ (List.mem_singleton_self _)) p

section
variable {d : Dev} {p : Nat} {l : Link}

/-- R312: the ECHO of a PROBE on an UP port. -/
theorem Dev.echo_up {id sent : Nat} (hl : d.link p = some l) (hprobe : l.probe = some (id, sent)) (hst : d.portState p = PS.up) (turn t next : Nat) :
    (d.echo p id turn t next).link p = some { l with probe := none } := by
  have hup : d.portState p ≠ PS.training := by rw [hst]; decide
  have hmon (i : Nat) (x : Int) : ((d.setLink p (some { l with probe := none })).monSample i x).link p = some { l with probe := none } :=
    (Dev.link_congr (Evolves.monSample.keeps .fab (by decide)) p).trans (d.link_setLink_same p _)
  rw [Dev.echo, hl]
  dsimp only
  rw [hprobe]
  dsimp only
  rw [if_neg (not_not_intro rfl), if_neg hup]
  split
  · exact hmon _ _
  · exact hmon _ _

/-- R311: an ECHO of a bring-up that goes on is one latency sample, and the next PROBE leaves. -/
theorem Dev.echo_sampled {id sent : Nat} (hl : d.link p = some l) (hprobe : l.probe = some (id, sent)) (hst : d.portState p = PS.training)
    (hmore : l.samples.length + 1 < probeCount) (turn t next : Nat) :
    ∃ z, (d.echo p id turn t next).link p = some z ∧ z.samples = l.samples ++ [(t : Int) - (sent : Int) - (turn : Nat)] ∧
      z.probe = some (l.probeId, next) := by
  have hlen : (l.samples ++ [(t : Int) - (sent : Int) - (turn : Nat)]).length < probeCount := by simpa using hmore
  have hgoes : d.echo p id turn t next =
      (d.setLink p (some { l with samples := l.samples ++ [(t : Int) - (sent : Int) - (turn : Nat)], probe := none })).sendProbe p next := by
    rw [Dev.echo, hl]
    dsimp only
    rw [hprobe]
    dsimp only
    rw [if_neg (not_not_intro rfl), if_pos hst, if_neg (by omega), if_pos hlen]
  rw [hgoes]
  obtain ⟨z, hz, hrest⟩ := Dev.sendProbe_link (Dev.link_setLink_same d p
    (some { l with samples := l.samples ++ [(t : Int) - (sent : Int) - (turn : Nat)], probe := none })) next
  exact ⟨z, hz, congrArg Link.samples hrest, congrArg Link.probe hrest⟩

/-- R317: a CONFIRM of the neighbour that stands there is kept. -/
theorem Dev.confirmIn_confirms {m : Msg} (hl : d.link p = some l) (hvalid : d.flag Reg.FAB_COORD_VALID = true) (hshape : quad (rdLe m.body 0 4) = d.shape)
    (hcoord : quad (rdLe m.body 4 4) = neighbour d.coord d.shape p) : ∃ z, (d.confirmIn p m).link p = some z ∧ z.confirmed = true := by
  have hagrees : d.confirm p (rdLe m.body 0 4) (rdLe m.body 4 4) = (d.setLink p (some { l with confirmed := true })).finishBringUp p := by
    rw [Dev.confirm, hl]
    simp [hvalid, hshape, hcoord]
  have hkept : (Reading.fabric p).same (d.setLink p (some { l with confirmed := true })) (d.confirmIn p m) := by
    unfold Dev.confirmIn
    rw [hagrees]
    have hdone : (Reading.fabric p).same (d.setLink p (some { l with confirmed := true }))
        ((d.setLink p (some { l with confirmed := true })).finishBringUp p) := Reading.same.finishBringUp .refl
    exact .ite hdone (.ite ((Reading.steady_fabric p).txRaw hdone) ((Reading.steady_fabric p).settlePort hdone))
  obtain ⟨z, hz, hrest⟩ := hkept.linked (d.link_setLink_same p _)
  exact ⟨z, hz, congrArg Link.confirmed hrest⟩

/-! ### PROBEs of a guard (R312) -/

/-- A PROBE on each port of a list that is UP. -/
def Dev.probePorts (d : Dev) (ps : List Nat) (t : Nat) : Dev := ps.foldl (fun d p => if d.portUp p then d.sendProbe p t else d) d

theorem Reading.same.sendProbe {q : Nat} (hq : p ≠ q) (t : Nat) : (Reading.fabric p).same d (d.sendProbe q t) := by
  unfold Dev.sendProbe
  split
  · exact .refl
  · refine (Reading.steady_fabric p).txRaw (Prod.ext ?_ rfl)
    exact congrArg (Option.map Link.rest) (Dev.link_setLink_other d _ hq)

theorem Dev.probePorts_other {ps : List Nat} (hp : p ∉ ps) (t : Nat) : (Reading.fabric p).same d (d.probePorts ps t) :=
  List.foldlRecOn (motive := fun z : Dev => (Reading.fabric p).same d z) ps _ .refl fun _ he _ hq =>
    .ite (he.step (.sendProbe (ne_of_mem_of_not_mem hq hp).symm t)) he

theorem Dev.probePorts_up (ps : List Nat) (t : Nat) : (d.probePorts ps t).portUp p = d.portUp p := by
  have hregs : Evolves [.cnt, .fab] d (d.probePorts ps t) := by
    unfold Dev.probePorts
    exact .foldl .refl fun _ _ h => .ite (h.step .sendProbe) h
  rw [Dev.portUp, Dev.portState, Dev.fld_congr _ _ _ (hregs.keeps .regs (by decide)), Dev.portUp, Dev.portState]

/-- Each port of the list has its turn once. -/
theorem Dev.probePorts_link {ps : List Nat} (hnodup : ps.Nodup) (hp : p ∈ ps) (hl : d.link p = some l) (hup : d.portUp p = true) (t : Nat) :
    ∃ z, (d.probePorts ps t).link p = some z ∧ z.probe = some (l.probeId, t) := by
  obtain ⟨as, bs, rfl⟩ := List.append_of_mem hp
  obtain ⟨-, hrest, hdisjoint⟩ := List.nodup_append.mp hnodup
  have hbefore : p ∉ as := fun h => hdisjoint p h p List.mem_cons_self rfl
  have hafter : p ∉ bs := (List.nodup_cons.mp hrest).1
  have hrun : d.probePorts (as ++ p :: bs) t = ((d.probePorts as t).sendProbe p t).probePorts bs t := by
    have hturn : (if (d.probePorts as t).portUp p then (d.probePorts as t).sendProbe p t else d.probePorts as t) = (d.probePorts as t).sendProbe p t :=
      if_pos ((Dev.probePorts_up as t).trans hup)
    rw [Dev.probePorts, List.foldl_append, List.foldl_cons, ← Dev.probePorts, ← Dev.probePorts, hturn]
  obtain ⟨y, hy, hyl⟩ := (Dev.probePorts_other hbefore t).linked hl
  obtain ⟨w, hw, hwy⟩ := Dev.sendProbe_link hy t
  obtain ⟨z, hz, hzw⟩ := (Dev.probePorts_other hafter t).linked hw
  have hid : y.rest.probeId = l.rest.probeId := congrArg Link.probeId hyl
  have hprobe : z.rest.probe = w.rest.probe := congrArg Link.probe hzw
  refine ⟨z, hrun ▸ hz, ?_⟩
  calc z.probe = w.probe := hprobe
    _ = some (y.probeId, t) := congrArg Link.probe hwy
    _ = some (l.probeId, t) := by rw [show y.probeId = l.probeId from hid]

/-! ### A replay (R303) -/

theorem replay_not_queueCount (p : Fin 16) :
    Cnt.FAB_REPLAY_CNT p ∉ [Cnt.HIF_CMD_CNT, Cnt.HIF_STATE_REJ_CNT, Cnt.HIF_BAD_ARG_CNT, Cnt.HIF_CQ_DROP_CNT, Cnt.MBX_TRACE_WRAP_CNT] := by
  revert p; decide

/-- R303: a replay that is not the last of its row. -/
theorem Dev.replay_counts (hl : d.link p = some l) (hwaits : l.unacked ≠ []) (hmore : l.replays + 1 < l.replayMax) :
    (∃ z, (d.replay p).link p = some z ∧ z.replays = l.replays + 1) ∧
      (d.replay p).count (Cnt.FAB_REPLAY_CNT p) = min cntMax (d.count (Cnt.FAB_REPLAY_CNT p) + 1) := by
  have hother : Cnt.FAB_REPLAY_CNT p ≠ Cnt.FAB_TX_FLIT_CNT p := by simp [Cnt.FAB_REPLAY_CNT, Cnt.FAB_TX_FLIT_CNT]
  rw [Dev.replay, hl]
  dsimp only
  rw [if_neg (by simpa using hwaits), if_neg (by omega)]
  have hsent (e : Dev) (z : Link) (fs : List Flit) : Evolves [] e (fs.foldl (fun (d : Dev) f => d.dataOut p z f) e) :=
    .foldl .refl fun _ _ h => h.step .dataOut
  refine ⟨⟨_, (Dev.link_congr ((hsent _ _ _).keeps .fab (by decide)) p).trans (Dev.link_setLink_same _ p _), rfl⟩, ?_⟩
  refine (Dev.count_congr _ _ _ ((hsent _ _ _).keeps .cnt (by decide))).trans ?_
  exact (Reading.same.bumpBy (d := d.bump (Cnt.FAB_REPLAY_CNT p)) .refl hother).count_eq.trans (Dev.count_bump_same _ _)

/-- R311: the CTRL exchange begins. -/
theorem Dev.portTrain_begins (hst : d.portState p = PS.training) (hl : d.link p = none) :
    Out.ctrl p p ownCredits ∈ (d.portTrain p).out ∧
      (d.portTrain p).link p = some (freshLink (d.fld Reg.FAB_LINK_CFG_DRIFT) (d.fld Reg.FAB_LINK_CFG_REPLAY_MAX)) := by
  rw [Dev.portTrain, if_pos ⟨hst, hl⟩]
  exact ⟨List.mem_append_right _ (List.mem_singleton_self _), d.link_setLink_same p _⟩

end

/-! ### MGMT (R310, R386) -/

/-- Messages wait while Acisk does not serve. -/
theorem Dev.deliverMgmt_waits {d : Dev} (h : d.fwServes = false) (n : Nat) : Dev.deliverMgmt n d = d := by
  cases n with
  | zero => rfl
  | succ n =>
    unfold Dev.deliverMgmt
    split
    · rfl
    · rw [h]; rfl

theorem Dev.mgmtIn_waits {d : Dev} {body : List Byte} (hserves : d.fwServes = false) (hroom : d.mbx.mgmt.length < 64) (hkind : rdLe body 0 2 = 0x20)
    (hmin : 8 ≤ rdLe body 4 4) (hmax : rdLe body 4 4 ≤ 224) (hlen : body.length = 8 + (rdLe body 4 4 + 7) / 8 * 8) (src : Nat) :
    d.mgmtIn src body = { d with mbx := { d.mbx with mgmt := d.mbx.mgmt ++ [(src, (body.drop 8).take (rdLe body 4 4))] } } := by
  rw [Dev.mgmtIn, if_neg (by omega), if_neg (by omega)]
  exact Dev.deliverMgmt_waits (by exact hserves) 64

end Sys2Proof.Machine
end

section
/-!
PROOF. Flits, link timers, bring-up and port commands (O55).
-/

set_option Elab.async false

namespace Sys2Proof.Machine

section
variable {s : State} {p : Fin 16} (hp : s.dev.powered = true) (hstart : s.dev.pwr.start = none)
include hp hstart

/-- A flit that arrives without error outside a start. -/
theorem answers_flit {i : Instr} {x : FlitIn} {l q : Link} {body : Dev → Dev} {parts : List Part} {P : Dev → Prop}
    (hexec : exec i s = s.run fun d => (d.flitRx p x body).advance) (hx : s.dev.takesFlit p x l q)
    (hbody : Evolves parts (s.dev.quiet.headTaken p x q) (body (s.dev.quiet.headTaken p x q)))
    (h : ∀ e, (body (s.dev.quiet.headTaken p x q)).endsCommands e → P e) (hparts : .pwr ∉ parts := by decide) : answers i s P := by
  refine answers_advance (l := [.cnt, .fab] ++ parts) hexec hp hstart (Dev.flitRx_taken (d := s.dev.quiet) hx body) ?_ h (by simpa using hparts)
  have hhead : Evolves ([.cnt, .fab] ++ parts) s.dev.quiet (s.dev.quiet.headTaken p x q) :=
    Evolves.refl.step .headTaken fun _ h => List.mem_append_left _ h
  exact hhead.step hbody fun _ h => List.mem_append_right _ h

/-- A message of bring-up that is heard outside a start. -/
theorem answers_bringUp {i : Instr} {mt : Nat} {m : Msg} {deliver : Dev → Dev} {parts : List Part} {P : Dev → Prop}
    (hexec : exec i s = s.run fun d => (d.bringUpMsg p mt m deliver).advance) (hm : s.dev.hearsLink p mt m)
    (hd : Evolves parts s.dev.quiet (deliver s.dev.quiet)) (h : ∀ e, (deliver s.dev.quiet).endsCommands e → P e)
    (hparts : .pwr ∉ parts := by decide) : answers i s P :=
  answers_advance hexec hp hstart (Dev.bringUpMsg_heard (Dev.hearsLink_quiet hm) deliver) hd h hparts

/-- A lost link leaves its port DOWN (R322, R323). -/
theorem answers_lost {i : Instr} {l : Link} (hexec : exec i s = s.run fun d => (d.loseLink p PS.down).advance) (hl : s.dev.link p = some l) :
    answers i s fun e => e.link p = none ∧ e.portState p = PS.down ∧ e.flag Reg.FLT_STK0_LINK_LOST = true ∧
      e.count (Cnt.FAB_LINK_LOST_CNT p) = min cntMax (s.dev.count (Cnt.FAB_LINK_LOST_CNT p) + 1) := by
  refine answers_advance hexec hp hstart rfl .loseLink fun e he => ?_
  obtain ⟨hlink, hstate, hlost, hcount⟩ := Dev.loseLink_lost (d := s.dev.quiet) (v := PS.down) hl (by decide)
  refine ⟨(he.link p).trans hlink, (he.fld _ (portState_key_ne p)).trans hstate, ?_, (he.count _ (linkLost_not_queueCount p)).trans hcount⟩
  rw [Dev.flag, he.fld _ (by decide), hlost]
  rfl

/-- Bring-up that has begun (R311, R322, R324). -/
theorem answers_trains {i : Instr} {f : Dev → Dev} {parts : List Part} (hexec : exec i s = s.run fun d => (f d).advance)
    (hf : Evolves parts s.dev.quiet (f s.dev.quiet)) (h : (f s.dev.quiet).portState p = PS.training ∧ (f s.dev.quiet).link p = none)
    (hparts : .pwr ∉ parts := by decide) : answers i s fun e => e.portState p = PS.training ∧ e.link p = none := by
  obtain ⟨hstate, hlink⟩ := h
  exact answers_advance hexec hp hstart rfl hf (fun e he => ⟨(he.fld _ (portState_key_ne p)).trans hstate, (he.link p).trans hlink⟩) hparts

end

/-- Settles O55: each event through what it does to the port and its link, and nothing else happens to them outside a start. -/
theorem flitsAndPorts : Obligations.FlitsAndPorts := by
  intro p s hp hstart
  refine ⟨fun x l q hx => ⟨fun hseq => ?data, fun peer cr t hst hctrl haxis hmember hplus => ?ctrl, fun htype hwaiting => ?idle⟩,
    fun l hl => ⟨fun hunacked hmore => ?replay, fun i hi => ?lost, fun t hup => ?guard,
      fun m t next sent hm hprobe => ⟨fun hst => ?echo, fun hst hmore => ?sample⟩⟩,
    fun hdown hauto hen => ?timer, fun hused hen => ?retrain, ?disable, fun hst hl => ?trained,
    fun m => ⟨fun turn hm => ?probe, fun hm hvalid hshape hcoord => ?confirm, ?mgmt⟩⟩
  case data =>
    refine answers_flit hp hstart (exec_flitRxData p x s) hx .dataFlit fun e he => ?_
    obtain ⟨z, hz, hrx⟩ := Dev.headTaken_received (d := s.dev.quiet) hx
    have hlast : z.received.rxLast = l.received.rxLast := congrArg Link.rxLast hrx
    rw [he.link]
    exact Dev.dataFlit_next hz (hseq.trans (by rw [show z.rxLast = l.rxLast from hlast]))
  case ctrl =>
    obtain ⟨z, hz, hrx⟩ := Dev.headTaken_received (d := s.dev.quiet) hx
    have hzctrl : z.received.ctrl = l.received.ctrl := congrArg Link.ctrl hrx
    have hzid : z.received.probeId = l.received.probeId := congrArg Link.probeId hrx
    have hzst : (s.dev.quiet.headTaken p x q).portState p = PS.training :=
      (Dev.fld_congr _ _ _ (Evolves.headTaken.keeps .regs (by decide))).trans hst
    refine answers_flit hp hstart (exec_flitRxCtrl p x peer cr t s) hx .ctrlFlit fun e he => ?_
    rw [Dev.ctrlFlit_eq hz hzst (hzctrl.trans hctrl) haxis hmember hplus] at he
    obtain ⟨hnbr, w, hw, hctrl, hprobe, hlimit⟩ := (s.dev.quiet.headTaken p x q).exchange_probes (p := p) (l := z) peer cr t
    rw [he.link, he.fld _ (nbrPort_key_ne p)]
    exact ⟨hnbr, w, hw, hctrl, hprobe.trans (by rw [show z.probeId = l.probeId from hzid]), hlimit⟩
  case idle =>
    have hbody : (if 2 < flitF x 3 0 then (s.dev.quiet.headTaken p x q).protoError p else s.dev.quiet.headTaken p x q) = s.dev.quiet.headTaken p x q :=
      if_neg (by omega)
    refine answers_flit (parts := []) hp hstart (exec_flitRxIdle p x s) hx (by rw [hbody]; exact .refl) fun e he => ?_
    rw [hbody] at he
    rw [he.link]
    exact Dev.headTaken_idle hwaiting
  case replay =>
    refine answers_advance (exec_ackTimeout p s) hp hstart rfl .replay fun e he => ?_
    rw [he.link, he.count _ (replay_not_queueCount p)]
    exact Dev.replay_counts (d := s.dev.quiet) hl hunacked hmore
  case lost =>
    simp only [List.mem_cons, List.not_mem_nil, or_false] at hi
    rcases hi with rfl | rfl
    · exact answers_lost hp hstart (exec_flitIdleTimeout p s) hl
    · exact answers_lost hp hstart (exec_linkLost p s) hl
  case guard =>
    exact answers_run _ _ _ _ (exec_guardProbe t s) hp
      (Dev.probePorts_link (d := s.dev.quiet) List.nodup_range (List.mem_range.mpr p.isLt) hl hup t)
  case echo =>
    refine answers_bringUp hp hstart (exec_echoMsg p m t next s) hm .echo fun e he => ?_
    rw [he.link]
    exact Dev.echo_up (d := s.dev.quiet) hl hprobe hst _ t next
  case sample =>
    refine answers_bringUp hp hstart (exec_echoMsg p m t next s) hm .echo fun e he => ?_
    rw [he.link]
    exact Dev.echo_sampled (d := s.dev.quiet) hl hprobe hst hmore _ t next
  case timer =>
    exact answers_trains hp hstart (exec_retrainTimer p s) .retrainDue (Dev.retrainDue_trains (d := s.dev.quiet) hdown hauto hen)
  case retrain =>
    exact answers_trains hp hstart (exec_portRetrain p s) .retrain (Dev.retrain_trains (d := s.dev.quiet) hused hen)
  case disable =>
    obtain ⟨hen, hst, hlink⟩ := s.dev.quiet.disablePort_disables p
    refine answers_advance (exec_portDisable p s) hp hstart rfl .disablePort fun e he => ?_
    exact ⟨(he.fld _ (portEnable_key_ne p)).trans hen, (he.fld _ (portState_key_ne p)).trans hst, (he.link p).trans hlink⟩
  case trained =>
    obtain ⟨hout, hlink⟩ := Dev.portTrain_begins (d := s.dev.quiet) hst hl
    exact answers_run _ _ _ _ (exec_portTrained p s) hp ⟨hout, hlink, (Evolves.refl.step .quiet |>.step .portTrain).keeps⟩
  case probe =>
    refine answers_run _ _ _ _ (exec_probeMsg p m turn s) hp ?_
    dsimp only
    rw [Dev.bringUpMsg_heard (Dev.hearsLink_quiet hm)]
    obtain ⟨-, hl, -⟩ := hm
    exact Dev.mem_out_txRaw (d := s.dev.quiet) hl _ _
  case confirm =>
    have ⟨_, hstands, _⟩ := hm
    obtain ⟨l, hl⟩ := Option.isSome_iff_exists.mp hstands
    refine answers_bringUp hp hstart (exec_confirmMsg p m s) hm .confirmIn fun e he => ?_
    rw [he.link]
    exact Dev.confirmIn_confirms (d := s.dev.quiet) hl hvalid hshape hcoord
  case mgmt =>
    intro n k hm hserves hroom hkind hmin hmax hlen
    refine answers_received (after := id) (exec_mgmtMsg p m s) hp hm ?_
    rw [Dev.mgmtIn_waits (d := s.dev.quiet) hserves hroom hkind hmin hmax hlen]
    exact ⟨rfl, (Evolves.refl.step .quiet |>.step .put_mbx).keeps⟩

end Sys2Proof.Machine
end

section
/-!
SUPPORT. What each step of a discovery leaves of it (R314).
-/

set_option Elab.async false

namespace Sys2Proof.Machine

section
variable {d : Dev}

/-! ### What sending leaves -/

/-- Sending leaves discovery alone. -/
theorem Dev.tx_disc (d : Dev) (q mt : Nat) (bytes : List Byte) : (d.tx q mt bytes).fab.disc = d.fab.disc :=
  ((Reading.steady_fabric 0).tx .refl).disc_eq

theorem Dev.txLocal_disc (d : Dev) (q mt : Nat) (body : List Byte) : (d.txLocal q mt body).fab.disc = d.fab.disc := d.tx_disc q mt _

theorem Dev.floodTick_disc (d : Dev) (num acc : Nat) (test : Bool) (skip : Option Nat) : (d.floodTick num test acc skip).fab.disc = d.fab.disc := by
  have hsteady := Reading.steady_fabric 0
  refine Reading.same.disc_eq (p := 0) ?_
  unfold Dev.floodTick
  exact .foldl .refl fun _ _ h => .ite (hsteady.txLocal h) h

/-! ### RING (R314, phase SIZE) -/

/-- Phase SIZE goes on while a RING is out. -/
theorem Dev.trySizes_waits (h : d.fab.disc.rings ≠ []) : d.trySizes = d := by
  rw [Dev.trySizes]
  exact if_pos (by simp [h])

/-- R314: a RING that returns ends the search of its axis. -/
theorem Dev.ringIn_returned {p : Nat} {m : Msg} (ho : d.frm.origin = true) (hactive : d.fab.disc.active = true) (hring : portAxis p ∈ d.fab.disc.rings)
    (hother : ∃ b ∈ d.fab.disc.rings, b ≠ portAxis p) (hminus : portPlus p = false) (hhops : m.hops.toNat ≤ 16) :
    (d.ringIn p m).fab.disc = { d.fab.disc with
      rings := d.fab.disc.rings.filter (· != portAxis p), sizes := d.fab.disc.sizes.set (portAxis p) m.hops.toNat } := by
  have hrest : d.fab.disc.rings.filter (· != portAxis p) ≠ [] := by simpa [List.filter_eq_nil_iff] using hother
  rw [Dev.ringIn, if_pos ho]
  dsimp only
  rw [if_neg (by simp [hactive, hring, hminus]), if_neg (by omega), Dev.trySizes_waits (by exact hrest)]
  rfl

theorem Dev.joinDisc_active (d : Dev) : d.joinDisc.fab.disc.active = true := by
  unfold Dev.joinDisc
  split
  · assumption
  · rfl

/-- R314: a RING makes a device on its way take part. -/
theorem Dev.ringIn_joins {p : Nat} (m : Msg) (ho : d.frm.origin = false) (hminus : portPlus p = false) : (d.ringIn p m).fab.disc.active = true := by
  rw [Dev.ringIn, if_neg (by simp [ho]), if_neg (by simp [hminus])]
  split
  · exact d.joinDisc_active
  · rw [Dev.tx_disc, Dev.joinDisc_active]

/-! ### ASSIGN and CENSUS (R314) -/

/-- A device that is not the origin at most notes that it has sent its CENSUS. -/
theorem Dev.tryCensus_disc (ho : d.frm.origin = false) : ∃ b, d.tryCensus.fab.disc = { d.fab.disc with sent := b } := by
  unfold Dev.tryCensus
  dsimp only
  split
  · exact ⟨_, rfl⟩
  · split
    · exact ⟨_, rfl⟩
    · rw [if_neg (by simp [ho])]
      split
      · exact ⟨true, Dev.txLocal_disc _ _ _ _⟩
      · exact ⟨_, rfl⟩

theorem Dev.takeCoord_disc (d : Dev) (c sz : List Nat) : (d.takeCoord c sz).fab.disc = { d.fab.disc with hasCoord := true, coord := c, shape := sz } := by
  have hsteady := Reading.steady_fabric 0
  refine Reading.same.disc_eq (p := 0) (d := d.setDisc { d.fab.disc with hasCoord := true, coord := c, shape := sz }) ?_
  unfold Dev.takeCoord
  dsimp only
  split
  · exact .foldl .refl fun _ _ h => .ite (hsteady.txLocal h) h
  · exact .use (.foldl .refl fun _ _ h => .ite (hsteady.txLocal h) h) fun h => .ite (hsteady.txLocal h) h

theorem Dev.takeCoord_frm (d : Dev) (c sz : List Nat) : (d.takeCoord c sz).frm = d.frm := Evolves.takeCoord.keeps .frm (by decide)

/-- The device with the port noted on which an ASSIGN has arrived. -/
def Dev.noteAssign (d : Dev) (p : Nat) : Dev :=
  d.setDisc { d.fab.disc with assigned := if d.fab.disc.assigned.contains p then d.fab.disc.assigned else p :: d.fab.disc.assigned }

theorem Dev.noteAssign_noted (d : Dev) (p : Nat) : p ∈ (d.noteAssign p).fab.disc.assigned := by
  show p ∈ if d.fab.disc.assigned.contains p then d.fab.disc.assigned else p :: d.fab.disc.assigned
  split
  next h => exact List.contains_iff_mem.mp h
  next => exact List.mem_cons_self

theorem Dev.assignIn_eq {p : Nat} {m : Msg} (ho : d.frm.origin = false) (hactive : d.fab.disc.active = true) (hnone : d.fab.disc.hasCoord = false) :
    d.assignIn p m = ((d.noteAssign p).takeCoord (quad (rdLe m.body 4 4)) (quad (rdLe m.body 0 4))).tryCensus := by
  have hjoin : (if d.frm.origin then d else d.joinDisc) = d := by rw [Dev.joinDisc, if_pos hactive, ite_self]
  have hnoted : ¬ (d.noteAssign p).frm.origin = true := by rw [show (d.noteAssign p).frm.origin = false from ho]; decide
  calc d.assignIn p m = (if (d.noteAssign p).frm.origin then d.noteAssign p
        else (d.noteAssign p).takeCoord (quad (rdLe m.body 4 4)) (quad (rdLe m.body 0 4))).tryCensus := by
        rw [Dev.assignIn, hjoin]
        dsimp only
        rw [if_neg (show ¬ (!d.fab.disc.active) = true by simp [hactive]), if_neg (show ¬ d.fab.disc.hasCoord = true by simp [hnone])]
        rfl
    _ = _ := by rw [if_neg hnoted]

/-- R314: the first ASSIGN gives the device its coordinate. -/
theorem Dev.assignIn_takes {p : Nat} {m : Msg} (ho : d.frm.origin = false) (hactive : d.fab.disc.active = true) (hnone : d.fab.disc.hasCoord = false) :
    (d.assignIn p m).fab.disc.hasCoord = true ∧ (d.assignIn p m).fab.disc.shape = quad (rdLe m.body 0 4) ∧
      (d.assignIn p m).fab.disc.coord = quad (rdLe m.body 4 4) ∧ p ∈ (d.assignIn p m).fab.disc.assigned := by
  obtain ⟨b, hdisc⟩ := Dev.tryCensus_disc (d := (d.noteAssign p).takeCoord (quad (rdLe m.body 4 4)) (quad (rdLe m.body 0 4)))
    (by rw [Dev.takeCoord_frm]; exact ho)
  rw [Dev.assignIn_eq ho hactive hnone, hdisc, Dev.takeCoord_disc]
  exact ⟨rfl, rfl, rfl, d.noteAssign_noted p⟩

/-- R314: a CENSUS is kept by its port. -/
theorem Dev.censusIn_kept {p : Nat} {m : Msg} (ho : d.frm.origin = false) (hactive : d.fab.disc.active = true) :
    (p, rdLe m.body 0 2, bit (rdLe m.body 2 1) 0, rdLe m.body 4 4) ∈ (d.censusIn p m).fab.disc.census := by
  rw [Dev.censusIn]
  dsimp only
  rw [if_neg (by simp [hactive])]
  obtain ⟨b, hdisc⟩ := Dev.tryCensus_disc (d := d.setDisc { d.fab.disc with
    census := (p, rdLe m.body 0 2, bit (rdLe m.body 2 1) 0, rdLe m.body 4 4) :: d.fab.disc.census.filter fun q => q.1 != p }) ho
  rw [hdisc]
  exact List.mem_cons_self

/-! ### DONE (R314) -/

/-- The discovery is over on this device. -/
def Dev.endDisc (d : Dev) : Dev := d.setDisc { d.fab.disc with active := false, done := true }

/-- The device takes the place that the discovery has found for it. -/
def Dev.takePlace (d : Dev) (dmax devices : Nat) : Dev :=
  let x := d.fab.disc
  let c := x.coord
  let d := ((d.setFld Reg.FAB_COORD_P (at_ c 0)).setFld Reg.FAB_COORD_S (at_ c 1)).setFld Reg.FAB_COORD_D (at_ c 2)
  let d := ((d.setFld Reg.FAB_COORD_X (at_ c 3)).setFld Reg.FAB_COORD_ADDR (addrOf c x.shape)).setFld Reg.FAB_COORD_VALID 1
  let d := ((d.setFld Reg.FAB_SHAPE_P (at_ x.shape 0)).setFld Reg.FAB_SHAPE_S (at_ x.shape 1)).setFld Reg.FAB_SHAPE_D (at_ x.shape 2)
  let d := ((d.setFld Reg.FAB_SHAPE_X (at_ x.shape 3)).setFld Reg.RED_TREE_DEVICES devices).setFld Reg.RED_TREE_DEPTH_MAX dmax
  d.setFld Reg.RED_TREE_DEPTH (depthOf c x.shape)

theorem Dev.takePlace_valid (d : Dev) (dmax devices : Nat) : (d.takePlace dmax devices).fld Reg.FAB_COORD_VALID = 1 := by
  unfold Dev.takePlace
  exact (Reading.same.refl.setFld |>.setFld |>.setFld |>.setFld |>.setFld |>.setFld |>.setFld).fld_eq.trans (Dev.fld_setFld_same _ _ 1)

variable {code : Nat} (dmax devices maxLat : Nat)

theorem Dev.applyDone_well (hcode : code = 0) (hcoord : d.fab.disc.hasCoord = true) : d.applyDone code dmax devices maxLat =
    ((((d.endDisc.takePlace dmax devices).deriveUp d.fab.disc.coord d.fab.disc.shape false).setFld Reg.FAB_DISC_STATUS_MAX_LAT maxLat).setFld
      Reg.FAB_DISC_STATUS_CODE 0).setFld Reg.FAB_DISC_STATUS_STATE 2 := if_pos ⟨hcode, hcoord⟩

theorem Dev.applyDone_fails (h : ¬ (code = 0 ∧ d.fab.disc.hasCoord = true)) : d.applyDone code dmax devices maxLat =
    (((d.endDisc.setFld Reg.FAB_COORD_VALID 0).setFld Reg.FAB_DISC_STATUS_CODE (if code = 0 then 4 else code)).setFld
      Reg.FAB_DISC_STATUS_STATE 3).bump Cnt.FAB_DISC_FAIL_CNT := if_neg h

theorem Dev.applyDone_disc : (d.applyDone code dmax devices maxLat).fab.disc = { d.fab.disc with active := false, done := true } := by
  by_cases h : code = 0 ∧ d.fab.disc.hasCoord = true
  · obtain ⟨hcode, hcoord⟩ := h
    rw [Dev.applyDone_well _ _ _ hcode hcoord]
    exact ((Reading.steady_fabric 0).deriveUp (d := d.endDisc.takePlace dmax devices) .refl).disc_eq
  · rw [Dev.applyDone_fails _ _ _ h]
    rfl

/-- R314: DONE with code 0 makes the coordinate VALID. -/
theorem Dev.applyDone_valid (hcode : code = 0) (hcoord : d.fab.disc.hasCoord = true) :
    (d.applyDone code dmax devices maxLat).fld Reg.FAB_COORD_VALID = 1 ∧ (d.applyDone code dmax devices maxLat).fld Reg.FAB_DISC_STATUS_STATE = 2 := by
  have hvalid : (Reading.fld Reg.FAB_COORD_VALID).steady := Reading.steady_fld (by decide)
  rw [Dev.applyDone_well _ _ _ hcode hcoord]
  refine ⟨?_, Dev.fld_setFld_same _ _ 2⟩
  exact (hvalid.deriveUp .refl |>.setFld |>.setFld |>.setFld).fld_eq.trans (Dev.takePlace_valid _ _ _)

/-- R314: without a coordinate, or with another code, the discovery has failed. -/
theorem Dev.applyDone_failed (h : ¬ (code = 0 ∧ d.fab.disc.hasCoord = true)) :
    (d.applyDone code dmax devices maxLat).fld Reg.FAB_COORD_VALID = 0 ∧ (d.applyDone code dmax devices maxLat).fld Reg.FAB_DISC_STATUS_STATE = 3 ∧
      (d.applyDone code dmax devices maxLat).fld Reg.FAB_DISC_STATUS_CODE = (if code = 0 then 4 else code) % 2 ^ 8 ∧
      (d.applyDone code dmax devices maxLat).count Cnt.FAB_DISC_FAIL_CNT = min cntMax (d.count Cnt.FAB_DISC_FAIL_CNT + 1) := by
  rw [Dev.applyDone_fails _ _ _ h]
  simp only [Dev.bump_fld]
  refine ⟨?_, Dev.fld_setFld_same _ _ 3, ?_, Dev.count_bump_same _ _⟩
  · exact (Reading.same.refl.setFld |>.setFld).fld_eq.trans (Dev.fld_setFld_same d.endDisc Reg.FAB_COORD_VALID 0)
  · exact Reading.same.refl.setFld.fld_eq.trans (Dev.fld_setFld_same (d.endDisc.setFld Reg.FAB_COORD_VALID 0) Reg.FAB_DISC_STATUS_CODE _)

/-- DONE passed on to the other UP ports. -/
def Dev.passDone (d : Dev) (p : Nat) (m : Msg) : Dev :=
  ports.foldl (fun d q => if d.portUp q && q != p then
    d.tx q MT.done (msgBytes MT.done m.flags.toNat 0 m.src.toNat (m.hops.toNat + 1) m.ecrc.toNat m.body) else d) d

theorem Dev.passDone_disc (d : Dev) (p : Nat) (m : Msg) : (d.passDone p m).fab.disc = d.fab.disc := by
  have hsteady := Reading.steady_fabric 0
  refine Reading.same.disc_eq (p := 0) ?_
  unfold Dev.passDone
  exact .foldl .refl fun _ _ h => .ite (hsteady.tx h) h

theorem Dev.doneIn_applies {p : Nat} {m : Msg} (ho : d.frm.origin = false) (hactive : d.fab.disc.active = true) (hnew : d.fab.disc.done = false) :
    d.doneIn p m = (d.passDone p m).applyDone (rdLe m.body 0 1) (rdLe m.body 1 1) (rdLe m.body 2 2) (rdLe m.body 4 4) := if_neg (by simp [ho, hactive, hnew])

theorem Dev.discTimeout_applies (h : d.fab.disc.active = true) : d.discTimeout = d.applyDone 5 0 0 0 := by
  unfold Dev.discTimeout
  exact if_pos (by simp [h])

end

end Sys2Proof.Machine
end

section
/-!
PROOF. The messages and timers of discovery (O56).
-/

set_option Elab.async false

namespace Sys2Proof.Machine

theorem Dev.discMsg_heard {d : Dev} {p mt : Nat} {m : Msg} (h : d.discovers p mt m) (deliver : Dev → Dev) : d.discMsg p mt m deliver = deliver d := by
  obtain ⟨hm, hst⟩ := h
  rw [Dev.discMsg, Dev.localMsg_heard _ _ _ _ _ _ hm, if_pos hst]

/-- A message of discovery that is heard outside a start. -/
theorem answers_discovery {i : Instr} {s : State} {p mt : Nat} {m : Msg} {deliver : Dev → Dev} {parts : List Part} {P : Dev → Prop}
    (hp : s.dev.powered = true) (hstart : s.dev.pwr.start = none)
    (hexec : exec i s = s.run fun d => (d.discMsg p mt m deliver).advance) (hm : s.dev.discovers p mt m)
    (hd : Evolves parts s.dev.quiet (deliver s.dev.quiet)) (h : ∀ e, (deliver s.dev.quiet).endsCommands e → P e)
    (hparts : .pwr ∉ parts := by decide) : answers i s P := by
  obtain ⟨hm, hst⟩ := hm
  exact answers_advance hexec hp hstart (Dev.discMsg_heard ⟨Dev.hears_quiet _ _ _ _ _ hm, hst⟩ deliver) hd h hparts

/-- Settles O56: each message and timer through what it leaves of the discovery, and where it ends, of the coordinate's registers. -/
theorem discoveryGoesOn : Obligations.DiscoveryGoesOn := by
  intro s hp hstart x
  refine ⟨fun p m => ⟨fun hm hminus => ⟨fun ho hactive hring hother hhops => ?returned, fun ho => ?joins⟩,
    fun ho hactive => ⟨fun hm hnone => ?assign, fun hm => ?census, fun hm hnew => ?done⟩⟩, fun ho hactive hcoord => ?test, fun hactive => ?timeout⟩
  case returned =>
    refine answers_discovery hp hstart (exec_ringMsg p m s) hm .ringIn fun e he => ?_
    rw [he.fab]
    exact Dev.ringIn_returned (d := s.dev.quiet) ho hactive hring hother hminus hhops
  case joins =>
    refine answers_discovery hp hstart (exec_ringMsg p m s) hm .ringIn fun e he => ?_
    rw [he.fab]
    exact Dev.ringIn_joins (d := s.dev.quiet) m ho hminus
  case assign =>
    refine answers_discovery hp hstart (exec_assignMsg p m s) hm .assignIn fun e he => ?_
    rw [he.fab]
    exact Dev.assignIn_takes (d := s.dev.quiet) ho hactive hnone
  case census =>
    refine answers_discovery hp hstart (exec_censusMsg p m s) hm .censusIn fun e he => ?_
    rw [he.fab]
    exact Dev.censusIn_kept (d := s.dev.quiet) ho hactive
  case done =>
    refine answers_discovery hp hstart (exec_doneMsg p m s) hm .doneIn fun e he => ?_
    have hpassed : (s.dev.quiet.passDone p m).fab.disc = x := s.dev.quiet.passDone_disc p m
    rw [Dev.doneIn_applies (d := s.dev.quiet) ho hactive hnew] at he
    rw [he.fab, Dev.flag, he.fld _ (by decide), he.fld _ (by decide), Dev.applyDone_disc]
    refine ⟨rfl, rfl, ?_⟩
    split
    next h =>
      obtain ⟨hcode, hcoord⟩ := h
      obtain ⟨hvalid, hstate⟩ := Dev.applyDone_valid (d := s.dev.quiet.passDone p m) (rdLe m.body 1 1) (rdLe m.body 2 2) (rdLe m.body 4 4) hcode
        (by rw [hpassed]; exact hcoord)
      exact ⟨beq_iff_eq.mpr hvalid, hstate⟩
    next h =>
      obtain ⟨hvalid, hstate, -⟩ := Dev.applyDone_failed (d := s.dev.quiet.passDone p m) (rdLe m.body 1 1) (rdLe m.body 2 2) (rdLe m.body 4 4)
        (by rw [hpassed]; exact h)
      exact ⟨by rw [hvalid]; rfl, hstate⟩
  case test =>
    refine answers_run _ _ _ _ (exec_discTestTick s) hp ?_
    dsimp only
    rw [if_pos (by simpa using ⟨⟨ho, hactive⟩, hcoord⟩), Dev.floodTick_disc]
    rfl
  case timeout =>
    obtain ⟨hvalid, hstate, hcode, hcount⟩ := Dev.applyDone_failed (d := s.dev.quiet) (code := 5) 0 0 0 (by omega)
    refine answers_advance (exec_discoveryTimeout s) hp hstart (Dev.discTimeout_applies (d := s.dev.quiet) hactive) .applyDone fun e he => ?_
    rw [he.fab, Dev.flag, he.fld _ (by decide), he.fld _ (by decide), he.fld _ (by decide), he.count _ (by decide), Dev.applyDone_disc, hvalid, hstate, hcode,
      hcount]
    exact ⟨rfl, rfl, rfl, rfl, rfl, rfl⟩

end Sys2Proof.Machine
end

section
/-!
PROOF. How commands and queues complete: a step (O1, O2), every command (O3), a queue (O4), a device without power (O5) and one after a thermal trip (O6).
-/

set_option Elab.async false

namespace Sys2Proof.Machine

/-! ### Steps and commands (O1 to O3) -/

/-- Settles O1: a step takes the queue's front by definition. -/
theorem stepRunsFront : Obligations.StepRunsFront := fun _ _ _ => rfl

/-- Settles O2: on an empty queue a step answers its state by definition. -/
theorem emptyQueueIdles : Obligations.EmptyQueueIdles := fun _ => rfl

/-- A command that does not act without power runs a transformer of the powered device; that of a vector instruction is its issue. -/
theorem exec_eq_run (c : Instr) (h : actsUnpowered c = false) : ∃ f : Dev → Dev, ∀ s, exec c s = s.run f := by
  cases c
  case powerOn | perst | powerLoss | vddioRestored => cases h
  case vFma | vAdd | vMul | vMax | vMin | vSel | vCmplt | vExp2 | vRcp | vRsq | vLog2 | vTwosum | vFast2sum | vTwoprod | vRedSum | vRedMax | vRedMin |
      vKth | vRng | vLoop | vEnd => exact ⟨fun d => d.insn _ _ _, fun s => by rw [exec]; rfl⟩
  all_goals exact ⟨_, fun s => by rw [exec]; rfl⟩

/-- A command that acts without power runs its transformer whatever the power. -/
theorem exec_eq_always (c : Instr) (h : actsUnpowered c = true) : ∃ f : Dev → Dev, ∀ s, exec c s = s.always f := by
  cases c
  case powerOn | perst | powerLoss | vddioRestored => exact ⟨_, fun s => by rw [exec]; rfl⟩
  all_goals cases h

/-- Settles O3: a transformer of the device always completes and has no hold on the queue. -/
theorem everyCommandCompletes : Obligations.EveryCommandCompletes := by
  intro c s
  cases h : actsUnpowered c with
  | false => obtain ⟨f, hf⟩ := exec_eq_run c h; rw [hf]; exact s.run_next f
  | true => obtain ⟨f, hf⟩ := exec_eq_always c h; rw [hf]; exact s.always_next f

/-! ### Queues (O4) -/

/-- A run answers what is left to run after its first step. -/
theorem run_succ {s t : State} (h : step s = .next t) (k : Nat) :
    Host.Core.run Sys2Proof.core (k + 1) s = Host.Core.run Sys2Proof.core k t := by
  have hs : Sys2Proof.core.step s = .next t := h
  simp only [Host.Core.run, hs]

/-- On an empty queue any number of steps idle. -/
theorem run_idle (d : Dev) (k : Nat) : Host.Core.run Sys2Proof.core k ⟨d, []⟩ = .next ⟨d, []⟩ := by
  induction k with
  | zero => rfl
  | succ k ih => rw [run_succ (emptyQueueIdles d), ih]

/-- Settles O4, by induction on the queue: each step removes its front and nothing else. -/
theorem queueDrains : Obligations.QueueDrains := by
  rintro ⟨d, cs⟩
  induction cs generalizing d with
  | nil => exact ⟨⟨d, []⟩, rfl, rfl, fun k => run_idle d _⟩
  | cons c cs ih =>
    obtain ⟨⟨e, q⟩, hexec, hq⟩ := everyCommandCompletes c ⟨d, cs⟩
    obtain rfl : q = cs := hq
    obtain ⟨t, hrun, hempty, hlonger⟩ := ih e
    have hstep : step ⟨d, c :: q⟩ = .next ⟨e, q⟩ := hexec
    refine ⟨t, (run_succ hstep _).trans hrun, hempty, fun k => ?_⟩
    rw [List.length_cons, Nat.add_right_comm, run_succ hstep]
    exact hlonger k

/-! ### Without power (O5, O6) -/

/-- Settles O5: of the commands only those four run without power. -/
theorem unpoweredIsInert : Obligations.UnpoweredIsInert := by
  intro c s hp hc
  obtain ⟨f, hf⟩ := exec_eq_run c hc
  rw [hf, State.run_unpowered s f hp]

/-- Without power a queue of commands that need it leaves the device alone. -/
theorem run_unpowered (cs : List Instr) : ∀ d : Dev, d.powered = false → (∀ c ∈ cs, actsUnpowered c = false) → cs ≠ [] →
    Host.Core.run Sys2Proof.core cs.length ⟨d, cs⟩ = .next ⟨d.quiet, []⟩ := by
  induction cs with
  | nil => intro d _ _ h; exact absurd rfl h
  | cons c cs ih =>
    intro d hd hcs _
    have hstep : step ⟨d, c :: cs⟩ = .next ⟨d.quiet, cs⟩ := unpoweredIsInert c ⟨d, cs⟩ hd (hcs c List.mem_cons_self)
    rw [List.length_cons, run_succ hstep]
    cases cs with
    | nil => rfl
    | cons b bs => exact ih d.quiet hd (fun x hx => hcs x (List.mem_cons_of_mem _ hx)) (List.cons_ne_nil _ _)

/-- The end of pulse rounds sends nothing. -/
theorem Dev.dropRounds_out (d : Dev) : d.dropRounds.out = d.out := by
  unfold Dev.dropRounds
  refine List.foldlRecOn (motive := fun e : Dev => e.out = d.out) _ _ rfl fun e he x _ => ?_
  exact List.foldlRecOn (motive := fun e : Dev => e.out = d.out) _ _ he fun _ he _ _ => he

/-- Settles O6: the TRIP stops the clocks, and without them nothing runs. -/
theorem tripLatches : Obligations.TripLatches := by
  intro s hp
  refine ⟨_, (exec_thermalTrip s).trans (State.run_powered s _ hp), rfl, rfl, ?_, fun cs hcs hne => ?_⟩
  · show s.dev.quiet.dropRounds.out ++ [.thermTrip] = [.thermTrip]
    rw [Dev.dropRounds_out, Dev.quiet_out, List.nil_append]
  · exact run_unpowered cs _ (by rw [Dev.powered_eq]; exact Bool.and_false _) hcs hne

end Sys2Proof.Machine
end

section
/-!
PROOF. The parts that the sentinel checks, the sticky bits, the watchdog, the events of power, the gauge and security change (O17).
-/

set_option Elab.async false

namespace Sys2Proof.Machine

/-- Settles O17: each command evolves with parts of its list alone. -/
theorem guardsTouchOnly : Obligations.GuardsTouchOnly :=
  ⟨⟨fun _ => evolves_getDigests.touches, fun _ _ _ _ => evolves_getCertificate.touches, fun _ => evolves_heartbeat.touches,
    fun _ => evolves_ideKmQuery.touches, fun _ => evolves_spdmUnsupportedRequest.touches⟩,
   ⟨evolves_gauMonClr.touches, evolves_gauMonClrAll.touches⟩, evolves_vddioRestored.touches,
   ⟨fun _ => evolves_stickyClear.touches, fun _ => evolves_refSettled.touches, fun _ => evolves_gauMonSel.touches⟩,
   fun _ => evolves_secLock.touches,
   ⟨fun _ _ _ _ => evolves_challenge.touches, fun _ _ _ _ => evolves_getMeasurements.touches⟩,
   ⟨evolves_getVersion.touches, fun _ => evolves_getCapabilities.touches, fun _ _ _ _ _ => evolves_negotiateAlgorithms.touches,
    fun _ _ _ => evolves_keyUpdate.touches⟩,
   ⟨fun _ _ => evolves_wdogKick.touches, fun _ _ => evolves_pcieLinkTraining.touches⟩,
   ⟨fun _ _ => evolves_gauRefChange.touches, fun _ _ => evolves_gauMonCfg.touches⟩, evolves_thermalRelease.touches,
   ⟨fun _ _ _ _ _ => evolves_gauUrg.touches, fun _ _ => evolves_urgentDone.touches, fun _ => evolves_scanPassDue.touches⟩,
   ⟨evolves_ideIntegrityFail.touches, fun _ _ => evolves_finish.touches, fun _ => evolves_endSession.touches,
    fun _ _ _ _ _ => evolves_keyProg.touches, fun _ _ _ _ => ⟨evolves_kSetGo.touches, evolves_kSetStop.touches⟩⟩,
   fun _ _ _ _ => evolves_keyExchange.touches, fun _ => evolves_thermalHold.touches, fun _ => evolves_pciePowerState.touches,
   fun _ => evolves_gauPwr.touches, evolves_thermalTrip.touches, evolves_wdogExpire.touches, fun _ _ => evolves_scanEntryDone.touches,
   fun _ _ _ => evolves_tunCheck.touches, fun _ => evolves_railFault.touches, fun _ _ => evolves_mxcCheck.touches⟩

end Sys2Proof.Machine
end

section
/-!
PROOF. Memory and its windows: a write reads back (O10), the stack of an HBM address (O13), accesses through BAR4 (O34), and MEM_CFG (O33).
-/

set_option Elab.async false

namespace Sys2Proof.Machine

/-- With power a command runs its transformer on the silent device. -/
theorem exec_run_eq {c : Instr} {s : State} {f : Dev → Dev} {e : Dev} (hc : exec c s = s.run f) (hp : s.dev.powered = true)
    (hf : f s.dev.quiet = e) : exec c s = .next ⟨e, s.pending⟩ := by
  rw [hc, State.run_powered s f hp, hf]

theorem answers_run_eq {c : Instr} {s : State} {f : Dev → Dev} {e : Dev} {P : Dev → Prop} (hc : exec c s = s.run f) (hp : s.dev.powered = true)
    (hf : f s.dev.quiet = e) (h : P e) : answers c s P :=
  ⟨_, exec_run_eq hc hp hf, rfl, h⟩

/-- What is kept from the silent device is kept. -/
theorem Dev.keepsBut_of_quiet {l : List Part} {d e : Dev} (h : d.quiet.keepsBut l e) : d.keepsBut l e :=
  Dev.keepsBut_trans l d d.quiet e (Dev.keepsBut_mono [] l _ _ (Dev.quiet_keeps d) (by simp)) h

/-- A written field is the only one that changes. -/
theorem Dev.setFld_fieldsBut (d : Dev) (f : Field) (v : Nat) : d.fieldsBut [f] (d.setFld f v) := fun _ hk =>
  SMap.get_set_other _ _ _ _ _ (by simpa using hk)

/-- A bumped counter is the only one that changes. -/
theorem Dev.bump_countsBut (d : Dev) (c : Nat) : d.countsBut [c] (d.bump c) := fun _ hk =>
  Dev.count_bump_other _ _ _ (by simpa using hk)

/-! ### A write reads back (O10) -/

theorem Dev.byte_write (d : Dev) (a x : Nat) (bs : List Byte) :
    (d.write a bs).byte x = if a ≤ x ∧ x < a + bs.length then bs.getD (x - a) 0 else d.byte x := by
  split
  case isTrue h =>
    obtain ⟨i, rfl⟩ := Nat.exists_eq_add_of_le h.1
    have hi : i < bs.length := by omega
    rw [Dev.byte_write_inside d a hi, Nat.add_sub_cancel_left, List.getD_eq_getElem _ _ hi]
  case isFalse h => exact Dev.byte_write_outside d (by omega)

/-- Settles O10: a byte lies inside the written range or outside of it. -/
theorem memoryReadsBack : Obligations.MemoryReadsBack := Dev.byte_write

/-! ### The stack of an HBM address (O13) -/

/-- Settles O13: the three HBM ranges are the branches of `stackOf` and `stackOffset`. -/
theorem stackOfAnAddress : Obligations.StackOfAnAddress := by
  refine fun split a => ⟨fun h => ?_, ?_, ?_⟩
  · rw [stackOf, stackOffset, if_pos h, if_pos h]
    exact ⟨rfl, rfl⟩
  · rintro r rfl hr
    have hlow : ¬ 0x010000000000 + r < 0x010000000000 := by omega
    have hmid : 0x010000000000 + r < 0x020000000000 := by omega
    rw [stackOf, stackOffset, if_neg hlow, if_neg hlow, if_pos hmid, if_pos hmid, Nat.add_sub_cancel_left]
    exact ⟨rfl, rfl⟩
  · rintro r rfl
    have hlow : ¬ 0x020000000000 + r < 0x010000000000 := by omega
    have hmid : ¬ 0x020000000000 + r < 0x020000000000 := by omega
    rw [stackOf, stackOffset, if_neg hlow, if_neg hlow, if_neg hmid, if_neg hmid, Nat.add_sub_cancel_left]
    exact ⟨rfl, rfl⟩

/-! ### BAR4 (O34) -/

/-- In D0 and without an IDE block an access of BAR4 acts. -/
theorem Dev.bar4Gate_open {d : Dev} (hd : d.hif.power = 0) (hi : d.ideBlocked = false) (refused blocked act : Dev → Dev) :
    d.bar4Gate refused blocked act = act d := by
  rw [Dev.bar4Gate, if_neg (not_not.mpr hd), hi]; rfl

/-- A read of no poisoned word leaves the device as it is. -/
theorem Dev.idleRead_clean {d : Dev} {a n : Nat} (h : d.poisoned a n = []) : d.idleRead a n = d := by rw [Dev.idleRead, h]; rfl

/-- Settles O34: a mapped range is written or read, an unmapped one counts. -/
theorem bar4Accesses : Obligations.Bar4Accesses := by
  intro off s hp hd hi
  have hopen := Dev.bar4Gate_open (d := s.dev.quiet) hd hi
  refine ⟨fun data hm => ?_, fun data hm => ?_, fun n x hm => ?_, fun n hm hn => ?_⟩
  · refine answers_run_eq (exec_bar4Write off data s) hp ((hopen _ _ _).trans (if_pos hm)) ?_
    exact ⟨fun x => Dev.byte_write _ _ x data, Dev.keepsBut_of_quiet (Dev.write_keeps _ _ _)⟩
  · exact exec_run_eq (exec_bar4Write off data s) hp ((hopen _ _ _).trans (if_neg (ne_true_of_eq_false hm)))
  · refine answers_run_eq (exec_bar4Read off n x s) hp ((hopen _ _ _).trans (if_pos ((Bool.not_eq_true' _).mpr hm))) ?_
    exact ⟨rfl, Dev.count_bump_same _ _, Dev.bump_countsBut _ _, Dev.keepsBut_of_quiet (Evolves.refl.step .bump |>.step .emit).keeps⟩
  · have hclean : s.dev.quiet.poisoned (s.dev.quiet.bar4Addr off.toNat) n = [] := hn
    have hin : (!s.dev.quiet.mapped (s.dev.quiet.bar4Addr off.toNat) n) = false := congrArg not hm
    refine exec_run_eq (exec_bar4Read off n _ s) hp ((hopen _ _ _).trans ?_)
    dsimp only
    rw [hin, if_neg Bool.false_ne_true]
    rw [show (⟨[], []⟩ : Ecc) = Ecc.clean from rfl, Dev.ecc_clean, Dev.idleRead_clean hclean, hclean]
    rfl

/-! ### MEM_CFG (O33) -/

/-- In D0 a write to MEM_CFG is one of R332. -/
theorem execMemCfgWrite_open {v : BitVec 32} {s : State} (hd : s.dev.hif.power = 0) {e : Bool × Dev} (h : s.dev.quiet.putMemCfg v.toNat = e) :
    (if s.dev.quiet.hif.power ≠ 0 then s.dev.quiet else (s.dev.quiet.putMemCfg v.toNat).2) = e.2 :=
  (if_neg (not_not.mpr hd)).trans (congrArg _ h)

/-- Settles O33: the write is gated by the state and by the range of SPLIT. -/
theorem memCfgOnlyInAwaitImage : Obligations.MemCfgOnlyInAwaitImage := by
  refine fun v s hp hd => ⟨fun hst hv => ?_, fun hst => ?_⟩
  · have hput : s.dev.quiet.putMemCfg v.toNat = (true, s.dev.quiet.setFld Reg.MEM_CFG_SPLIT (v.toNat % 64)) :=
      (if_pos (beq_iff_eq.mpr hst)).trans (if_pos hv)
    refine answers_run_eq (exec_memCfgWrite v s) hp (execMemCfgWrite_open hd hput) ?_
    exact ⟨(Dev.fld_setFld_same _ _ _).trans (Nat.mod_mod _ 64), Dev.setFld_fieldsBut _ _ _, Dev.keepsBut_of_quiet (Dev.setFld_keeps _ _ _)⟩
  · have hput : s.dev.quiet.putMemCfg v.toNat = (false, s.dev.quiet.bump Cnt.MEM_CFG_REJ_CNT) := if_neg (mt beq_iff_eq.mp hst)
    refine answers_run_eq (exec_memCfgWrite v s) hp (execMemCfgWrite_open hd hput) ?_
    exact ⟨Dev.count_bump_same _ _, Dev.bump_countsBut _ _, Dev.keepsBut_of_quiet (Dev.bump_keeps _ _)⟩

end Sys2Proof.Machine
end

section
/-!
PROOF. The watchdog's kicks (O32), the thermal hold (O38) and gauge references (O37).
-/

set_option Elab.async false

namespace Sys2Proof.Machine

/-! ### The watchdog (O32) -/

/-- Settles O32: the three branches of a kick. -/
theorem watchdogKicks : Obligations.WatchdogKicks := by
  refine fun m v s hp => ⟨fun hm => ?_, fun hm hv ha => ?_, fun hm hv => ?_⟩
  · exact exec_run_eq (exec_wdogKick m v s) hp (if_pos (congrArg not hm))
  · have hkick : (!isMgmt (masterId m)) ≠ true := by rw [hm]; decide
    refine answers_run_eq (exec_wdogKick m v s) hp ((if_neg hkick).trans (if_pos ⟨hv, ha⟩)) ?_
    exact ⟨Dev.fld_setFld_same _ _ _, Dev.setFld_fieldsBut _ _ _, Dev.keepsBut_of_quiet (Dev.setFld_keeps _ _ _)⟩
  · have hkick : (!isMgmt (masterId m)) ≠ true := by rw [hm]; decide
    exact exec_run_eq (exec_wdogKick m v s) hp ((if_neg hkick).trans (if_neg fun h => hv h.1))

/-! ### Heat (O38) -/

/-- A thermal hold before the freeze that it asks for. -/
def Dev.notesHold (d : Dev) (i : Nat) : Dev :=
  let d := (d.setFld Reg.PWR_THERM_STATUS_HOLD_ACTIVE 1).setFld Reg.PWR_THERM_STATUS_DIODE (diodeChannel i)
  let d := (d.bump Cnt.PWR_THERM_HOLD_CNT).setFld Reg.PWR_STATUS_HOT 1
  d.setPwr fun p => { p with hot := if p.hot.contains i then p.hot else i :: p.hot }

theorem Dev.thermalHold_eq (d : Dev) (i : Nat) : d.thermalHold i =
    if (d.notesHold i).st = DS.running ∨ (d.notesHold i).st = DS.loaded then (d.notesHold i).freeze 5 else d.notesHold i := rfl

theorem Dev.notesHold_regs (d : Dev) (i : Nat) : (d.notesHold i).regs =
    (((d.setFld Reg.PWR_THERM_STATUS_HOLD_ACTIVE 1).setFld Reg.PWR_THERM_STATUS_DIODE (diodeChannel i)).setFld Reg.PWR_STATUS_HOT 1).regs := rfl

theorem Dev.notesHold_fieldsBut (d : Dev) (i : Nat) :
    d.fieldsBut [Reg.PWR_THERM_STATUS_HOLD_ACTIVE, Reg.PWR_THERM_STATUS_DIODE, Reg.PWR_STATUS_HOT] (d.notesHold i) := by
  intro key hk
  simp only [List.map_cons, List.map_nil, List.mem_cons, List.not_mem_nil, or_false, not_or] at hk
  obtain ⟨hactive, hdiode, hhot⟩ := hk
  rw [Dev.notesHold_regs, Dev.get_setFld_other _ _ _ _ hhot, Dev.get_setFld_other _ _ _ _ hdiode, Dev.get_setFld_other _ _ _ _ hactive]

theorem Dev.notesHold_active (d : Dev) (i : Nat) : (d.notesHold i).flag Reg.PWR_THERM_STATUS_HOLD_ACTIVE = true := by
  rw [Dev.flag, Dev.fld_congr _ _ _ (Dev.notesHold_regs d i), Dev.fld_setFld_other _ _ _ _ (by decide), Dev.fld_setFld_other _ _ _ _ (by decide),
    Dev.fld_setFld_same]
  rfl

theorem Dev.notesHold_hot (d : Dev) (i : Nat) : (d.notesHold i).flag Reg.PWR_STATUS_HOT = true := by
  rw [Dev.flag, Dev.fld_congr _ _ _ (Dev.notesHold_regs d i), Dev.fld_setFld_same]
  rfl

/-- A thermal hold changes no register beyond its notes. -/
theorem Dev.thermalHold_regs (d : Dev) (i : Nat) : (d.thermalHold i).regs = (d.notesHold i).regs := by
  rw [Dev.thermalHold_eq]
  split
  · exact Dev.freeze_regs _ _
  · rfl

theorem Dev.thermalHold_cnt (d : Dev) (i : Nat) : (d.thermalHold i).cnt = (d.notesHold i).cnt := by
  rw [Dev.thermalHold_eq]
  split
  · exact Evolves.freeze.keeps .cnt (by decide)
  · rfl

theorem Dev.thermalHold_pwr (d : Dev) (i : Nat) : (d.thermalHold i).pwr = (d.notesHold i).pwr := by
  rw [Dev.thermalHold_eq]
  split
  · exact Evolves.freeze.keeps .pwr (by decide)
  · rfl

theorem Dev.notesHold_st (d : Dev) (i : Nat) : (d.notesHold i).st = d.st :=
  Dev.notesHold_fieldsBut d i Reg.HIF_STATE_STATE.key (by decide)

theorem Dev.mem_notesHold_hot (d : Dev) (i : Nat) : i ∈ (d.notesHold i).pwr.hot := by
  show i ∈ if d.pwr.hot.contains i then d.pwr.hot else i :: d.pwr.hot
  split
  case isTrue h => exact List.contains_iff_mem.mp h
  case isFalse => exact List.mem_cons_self

/-- A program that runs or is loaded freezes at a hold, if no freeze is due. -/
theorem Dev.thermalHold_freezes (d : Dev) (i : Nat) (hst : d.st = DS.running ∨ d.st = DS.loaded) (hf : d.frm.freezeDue = none) :
    (d.thermalHold i).frm.freezeDue = some 5 := by
  rw [← Dev.notesHold_st d i] at hst
  rw [Dev.thermalHold_eq, if_pos hst]
  exact Dev.freeze_none _ _ hf

/-- Settles O38: a hold is its notes and, in RUNNING and LOADED, a freeze. -/
theorem thermalHoldFreezes : Obligations.ThermalHoldFreezes := by
  refine fun i s hp => ⟨answers_run_eq (exec_thermalHold i s) hp rfl ?_, answers_run_eq (exec_thermalRelease s) hp rfl ?_⟩
  · have hregs := Dev.thermalHold_regs s.dev.quiet i
    have hcnt := Dev.thermalHold_cnt s.dev.quiet i
    refine ⟨?_, ?_, ?_, ?_, Dev.thermalHold_freezes s.dev.quiet i, fun key hk => ?_, fun c hc => ?_,
      Dev.keepsBut_of_quiet Evolves.thermalHold.keeps⟩
    · rw [Dev.flag, Dev.fld_congr _ _ _ hregs]; exact Dev.notesHold_active _ _
    · rw [Dev.flag, Dev.fld_congr _ _ _ hregs]; exact Dev.notesHold_hot _ _
    · rw [Dev.count_congr _ _ _ hcnt]; exact Dev.count_bump_same _ _
    · rw [Dev.thermalHold_pwr]; exact Dev.mem_notesHold_hot _ _
    · rw [hregs]; exact Dev.notesHold_fieldsBut s.dev.quiet i key hk
    · rw [Dev.count_congr _ _ _ hcnt]; exact Dev.bump_countsBut s.dev.quiet _ c hc
  · refine ⟨?_, rfl, Dev.setFld_fieldsBut _ _ _, Dev.keepsBut_of_quiet (Evolves.refl.step .setPwr |>.step .setFld).keeps⟩
    rw [Dev.flag, Dev.fld_setFld_same]; rfl

/-! ### Gauge references (O37) -/

/-- A device with a conversion in progress on converter 0 whose BUSY bit reads 0. -/
def convSt : State := ⟨{ Dev.reset with gau := { Dev.reset.gau with conv := [(0, some ⟨0, 0, 0, [], none, false, false⟩)] } }, []⟩

/-- The device that a change of converter 0's reference to 1 leaves there. -/
def convRef : Dev := ((convSt.dev.quiet.setFld (Reg.GAU_CONV_REF 0) 1).startSettling 0)

theorem exec_convRef : exec (.gauRefChange 0 1) convSt = .next ⟨convRef, []⟩ := rfl

theorem convSt_busy : convSt.dev.fld (Reg.GAU_STATUS_BUSY 0) = 0 := by decide
theorem convRef_busy : convRef.fld (Reg.GAU_STATUS_BUSY 0) = 1 := by decide

/-- Refutes O37: a change of reference marks the conversion in progress, which shows BUSY again, where the state reads BUSY 0. -/
theorem not_gaugeMonitorsAndReferences : ¬ Obligations.GaugeMonitorsAndReferences := by
  intro h
  obtain ⟨-, -, -, href, -⟩ := h convSt rfl
  obtain ⟨t, hx, -, -, -, hfields, -⟩ := href 0 1 (by decide) (by decide)
  rw [exec_convRef] at hx
  cases hx
  have hbusy : convRef.fld (Reg.GAU_STATUS_BUSY 0) = convSt.dev.fld (Reg.GAU_STATUS_BUSY 0) := hfields _ (by decide)
  rw [convRef_busy, convSt_busy] at hbusy
  cases hbusy

end Sys2Proof.Machine
end

section
/-!
PROOF. Mailboxes: words pass between the ends (O30), and a stranger is refused (O31).
-/

set_option Elab.async false

namespace Sys2Proof.Machine

/-! ### The queues of a channel -/

theorem Dev.queue_setQueue_same (d : Dev) (n : Nat) (toB : Bool) (q : MQueue) : (d.setQueue n toB q).queue n toB = q := by
  have hget : SMap.get (fun _ => none) (d.setQueue n toB q).mbx.q (2 * n + if toB then 0 else 1) = if q = emptyQueue then none else some q :=
    SMap.get_set_same _ _ _ _
  rw [Dev.queue, hget]
  split
  case isTrue h => exact h.symm
  case isFalse => rfl

theorem Dev.queue_setQueue_back (d : Dev) (n : Nat) (toB : Bool) (q : MQueue) : (d.setQueue n toB q).queue n (!toB) = d.queue n (!toB) := by
  have hkey : (2 * n + if !toB then 0 else 1) ≠ 2 * n + if toB then 0 else 1 := by cases toB <;> simp
  rw [Dev.queue, Dev.queue]
  exact congrArg (Option.getD · emptyQueue) (SMap.get_set_other _ _ _ _ _ hkey)

/-- Devices with the same queues read the same. -/
theorem Dev.queue_congr {d e : Dev} (h : e.mbx.q = d.mbx.q) (n : Nat) (toB : Bool) : e.queue n toB = d.queue n toB := by
  rw [Dev.queue, h, Dev.queue]

/-- The queues of all channels, as a reading of the mailboxes. -/
def Reading.queues : Reading .mbx (SMap (Option MQueue)) := ⟨fun d => d.mbx.q, congrArg Mbx.q⟩

theorem Reading.same.queues_eq {d e : Dev} (h : Reading.queues.same d e) : e.mbx.q = d.mbx.q := h

/-- An append changes no other queue than its own. -/
theorem Dev.append_queues (d : Dev) (n : Nat) (toB : Bool) (w : Nat) :
    (d.append n toB w).mbx.q = (d.setQueue n toB ((d.queue n toB).push w).q).mbx.q := by
  unfold Dev.append
  exact Reading.same.queues_eq (.use .refl fun h => .use (.ite (h.via .bump) h) fun h => .when (.ite (h.via .bump) h) fun h => h.via .emit)

theorem Dev.append_queue_same (d : Dev) (n : Nat) (toB : Bool) (w : Nat) : (d.append n toB w).queue n toB = ((d.queue n toB).push w).q :=
  (Dev.queue_congr (Dev.append_queues d n toB w) n toB).trans (Dev.queue_setQueue_same _ _ _ _)

theorem Dev.append_queue_back (d : Dev) (n : Nat) (toB : Bool) (w : Nat) : (d.append n toB w).queue n (!toB) = d.queue n (!toB) :=
  (Dev.queue_congr (Dev.append_queues d n toB w) n !toB).trans (Dev.queue_setQueue_back _ _ _ _)

/-- A header that is refused is counted. -/
theorem Dev.append_full (d : Dev) (n : Nat) (toB : Bool) (w : Nat) (h : ((d.queue n toB).push w).full = true) :
    (d.append n toB w).count Cnt.MBX_FULL_CNT = min cntMax (d.count Cnt.MBX_FULL_CNT + 1) := by
  unfold Dev.append
  dsimp only
  rw [if_pos h]
  have hmsg : Cnt.MBX_FULL_CNT ≠ Cnt.MBX_MSG_CNT := by decide
  exact (Reading.same.count_eq (.use .refl fun h => .when (.ite (h.bumpBy hmsg) h) fun h => h.via .emit)).trans (Dev.count_bump_same _ _)

/-! ### What an append and a removal do to a queue (R372, R374) -/

namespace MQueue

variable {q : MQueue} {w : Nat}

theorem push_skips (h : q.skip ≠ 0) : q.push w = ⟨{ q with skip := q.skip - 1 }, false, false⟩ := if_pos h

theorem push_full (hs : q.skip = 0) (ho : q.open_ = 0) (h : 8 < q.words.length + (msgLen w + 1)) :
    q.push w = ⟨{ q with skip := msgLen w }, true, false⟩ := by
  rw [push, if_neg (not_not.mpr hs), if_neg (not_not.mpr ho), if_pos (by omega)]

/-- A word that continues a message, or whose message fits, is appended. -/
theorem push_words (hs : q.skip = 0) (h : q.open_ ≠ 0 ∨ q.words.length + (msgLen w + 1) ≤ 8) : (q.push w).q.words = q.words ++ [w] := by
  rw [push, if_neg (not_not.mpr hs)]
  split
  case isTrue => rfl
  case isFalse ho =>
    have hfits : ¬ 8 < q.words.length + msgLen w + 1 := by have := h.resolve_left ho; omega
    rw [if_neg hfits]

theorem pop_nil (h : q.words = []) : q.pop = (0, q) := by rw [pop, h]

theorem pop_cons {x : Nat} {xs : List Nat} (h : q.words = x :: xs) : q.pop.1 = x ∧ q.pop.2.words = xs := by
  rw [pop, h]
  exact ⟨rfl, rfl⟩

end MQueue

/-! ### An end of a live channel (O30) -/

theorem Dev.mbxTx_live {d : Dev} {id n w : Nat} {isA : Bool} (he : d.endOf n id = some isA) (hl : d.dead n = false) :
    d.mbxTx id n w = d.append n isA w := by
  rw [Dev.mbxTx, he]
  dsimp only
  rw [hl, Bool.false_and, if_neg Bool.false_ne_true]

theorem Dev.mbxRx_live {d : Dev} {id n : Nat} {isA : Bool} (he : d.endOf n id = some isA) (hl : d.dead n = false) :
    d.mbxRx id n = (d.setQueue n (!isA) (d.queue n (!isA)).pop.2).emit (.data (d.queue n (!isA)).pop.1) := by
  rw [Dev.mbxRx, he]
  dsimp only
  rw [hl, if_neg Bool.false_ne_true]

/-- A read changes no queue but the one toward the reader. -/
theorem Dev.setQueue_other (d : Dev) (n : Nat) (isA : Bool) (q : MQueue) : (d.setQueue n (!isA) q).queue n isA = d.queue n isA := by
  have h := Dev.queue_setQueue_back d n (!isA) q
  rwa [Bool.not_not] at h

/-- Settles O30: a write pushes its word, a read pops one. -/
theorem mailboxWordsPass : Obligations.MailboxWordsPass := by
  intro m n isA s hp hl he
  have hwrite (w : BitVec 32) : s.dev.quiet.mbxTx (masterId m) n w.toNat = s.dev.quiet.append n isA w.toNat := Dev.mbxTx_live he hl
  have hread := Dev.mbxRx_live (d := s.dev.quiet) (n := n) he hl
  refine ⟨fun w => answers_run_eq (exec_mbxTx m n w s) hp (hwrite w) ?_, fun x xs hr => answers_run_eq (exec_mbxRx m n s) hp hread ?_,
    fun hr => answers_run_eq (exec_mbxRx m n s) hp hread ?_⟩
  · have hsame := Dev.append_queue_same s.dev.quiet n isA w.toNat
    refine ⟨Dev.append_queue_back _ _ _ _, Dev.keepsBut_of_quiet Evolves.append.keeps, fun hs ho => ?_, fun hs ho hfull => ?_, fun hs => ?_⟩
    · rw [hsame]; exact MQueue.push_words hs ho
    · have hpush := MQueue.push_full (q := s.dev.quiet.queue n isA) hs ho hfull
      refine ⟨?_, ?_, Dev.append_full _ _ _ _ (congrArg Pushed.full hpush)⟩
      · rw [hsame, hpush]; rfl
      · rw [hsame, hpush]
    · rw [hsame, MQueue.push_skips (q := s.dev.quiet.queue n isA) hs]
      exact ⟨rfl, rfl⟩
  · obtain ⟨hfirst, hrest⟩ := MQueue.pop_cons (q := s.dev.quiet.queue n (!isA)) hr
    refine ⟨?_, ?_, Dev.setQueue_other _ _ _ _, Dev.keepsBut_of_quiet (Evolves.refl.step .setQueue |>.step .emit).keeps⟩
    · rw [hfirst]; rfl
    · exact (congrArg MQueue.words (Dev.queue_setQueue_same _ _ _ _)).trans hrest
  · have hpop := MQueue.pop_nil (q := s.dev.quiet.queue n (!isA)) hr
    rw [hpop]
    exact ⟨rfl, Dev.queue_setQueue_same _ _ _ _, Dev.setQueue_other _ _ _ _, Dev.keepsBut_of_quiet (Evolves.refl.step .setQueue |>.step .emit).keeps⟩

/-! ### A stranger (O31) -/

/-- The record of a trace keeps the queues, whatever it counts. -/
theorem Reading.same.recorded {d e f : Dev} {x y : Nat} (h : queues.same d e) :
    queues.same d { f with draws := x, mbx := { e.mbx with traceSeq := y } } := h

/-- A trace touches no queue. -/
theorem Reading.same.trace_queues {d e : Dev} {point src arg0 arg1 : Nat} (h : queues.same d e) : queues.same d (e.trace point src arg0 arg1) := by
  unfold Dev.trace
  exact .ite (.when (.recorded (h.via .write)) fun h => h.via .bump) h

theorem Reading.same.refuseMbx_queues {d : Dev} {n id : Nat} : queues.same d (d.refuseMbx n id) := by
  unfold Dev.refuseMbx Dev.sticky
  exact .trace_queues (.ite (.via .refl .bump) (.trace_queues (.via (.via .refl .bump) .setFld)))

theorem Dev.refuseMbx_flag (d : Dev) (n id : Nat) : (d.refuseMbx n id).flag Reg.FLT_STK0_MBX_DENIED = true := by
  have htraced : (Reading.fld Reg.FLT_STK0_MBX_DENIED).same ((d.bump Cnt.MBX_DENY_CNT).sticky Reg.FLT_STK0_MBX_DENIED) (d.refuseMbx n id) :=
    .trace (by decide)
  rw [Dev.flag, htraced.fld_eq]
  exact Dev.sticky_flag _ rfl (by decide)

theorem Dev.refuseMbx_count (d : Dev) (n id : Nat) : (d.refuseMbx n id).count Cnt.MBX_DENY_CNT = min cntMax (d.count Cnt.MBX_DENY_CNT + 1) := by
  have hg : (Reading.count Cnt.MBX_DENY_CNT).offQueues := Reading.offQueues_count (by decide)
  have hnoted : (Reading.count Cnt.MBX_DENY_CNT).same (d.bump Cnt.MBX_DENY_CNT) (d.refuseMbx n id) := by
    unfold Dev.refuseMbx Dev.sticky
    exact hg.trace (.ite .refl (hg.trace (.via .refl .setFld)))
  exact hnoted.count_eq.trans (Dev.count_bump_same _ _)

/-- What an access refused shows, whatever it emits. -/
theorem Dev.refuseMbx_refuses (d : Dev) (n id : Nat) {e : Dev} (h : Evolves [] (d.quiet.refuseMbx n id) e) :
    e.mbx.q = d.mbx.q ∧ e.count Cnt.MBX_DENY_CNT = min cntMax (d.count Cnt.MBX_DENY_CNT + 1) ∧ e.flag Reg.FLT_STK0_MBX_DENIED = true ∧
      d.keepsBut [.regs, .cnt, .mem, .poison, .draws, .mbx] e := by
  refine ⟨?_, ?_, ?_, Dev.keepsBut_of_quiet (Evolves.refuseMbx.step h).keeps⟩
  · rw [h.keeps .mbx (by decide), Reading.same.refuseMbx_queues.queues_eq]
    rfl
  · rw [Dev.count_congr _ _ _ (h.keeps .cnt (by decide)), Dev.refuseMbx_count, Dev.quiet_count]
  · rw [Dev.flag, Dev.fld_congr _ _ _ (h.keeps .regs (by decide))]; exact Dev.refuseMbx_flag _ n id

/-- Settles O31: both accesses refuse the stranger and then answer its bus. -/
theorem mailboxRefusesStrangers : Obligations.MailboxRefusesStrangers := by
  intro m n w s hp he i hi
  replace he : s.dev.quiet.endOf n (masterId m) = none := he
  simp only [List.mem_cons, List.not_mem_nil, or_false] at hi
  obtain rfl | rfl := hi
  · refine answers_run _ _ _ _ (exec_mbxTx m n w s) hp ?_
    rw [Dev.mbxTx, he]
    exact Dev.refuseMbx_refuses s.dev n _ (.ite .refl .emit)
  · refine answers_run _ _ _ _ (exec_mbxRx m n s) hp ?_
    rw [Dev.mbxRx, he]
    exact Dev.refuseMbx_refuses s.dev n _ .emit

end Sys2Proof.Machine
end

section
/-!
PROOF. SPDM: the negotiation (O42), and what each request of SPDM and IDE key management answers (O60).
-/

set_option Elab.async false

namespace Sys2Proof.Machine

/-! ### A request past ROM (R468) -/

section
variable {d : Dev}

theorem Dev.spdmReq_past (h : DS.rom < d.st) (act : Dev → Dev) : d.spdmReq act = act (d.bump Cnt.SEC_SPDM_REQ_CNT) := if_neg (not_le.mpr h)

theorem Dev.spdmAt_ready (h : DS.rom < d.st) {ver phase : Nat} (hv : ver = 0x13) (hp : phase ≤ d.sec.phase) (act : Dev → Dev) :
    d.spdmAt ver phase act = act (d.bump Cnt.SEC_SPDM_REQ_CNT) := by
  rw [Dev.spdmAt, Dev.spdmReq_past h, if_neg (not_not.mpr hv)]
  exact if_neg (not_lt.mpr hp)

/-- R468: a request of another version, or one that comes too early, is an error. -/
theorem Dev.spdmAt_refuses (h : DS.rom < d.st) {ver phase : Nat} (hr : ver ≠ 0x13 ∨ d.sec.phase < phase) (act : Dev → Dev) :
    ∃ code, d.spdmAt ver phase act = (d.bump Cnt.SEC_SPDM_REQ_CNT).spdmErr code 0 := by
  rw [Dev.spdmAt, Dev.spdmReq_past h]
  by_cases hv : ver = 0x13
  · rw [if_neg (not_not.mpr hv)]
    exact ⟨_, if_pos (hr.resolve_left (not_not.mpr hv))⟩
  · exact ⟨_, if_pos hv⟩

/-- The session of a request. -/
theorem Dev.inSession_some (h : DS.rom < d.st) {id : Nat} {done : Bool} {x : Session}
    (hx : (d.sec.sessions.find? fun y => y.id == id && y.done == done) = some x) (act : Session → Dev → Dev) :
    d.inSession id done act = act x (d.bump Cnt.SEC_SPDM_REQ_CNT) := by
  rw [Dev.inSession, Dev.spdmReq_past h]
  rw [show (d.bump Cnt.SEC_SPDM_REQ_CNT).sec = d.sec from rfl, hx]

theorem Dev.inSession_none (h : DS.rom < d.st) {id : Nat} {done : Bool}
    (hx : (d.sec.sessions.find? fun y => y.id == id && y.done == done) = none) (act : Session → Dev → Dev) :
    d.inSession id done act = (d.bump Cnt.SEC_SPDM_REQ_CNT).spdmErr SpdmErr.sessionRequired 0 := by
  rw [Dev.inSession, Dev.spdmReq_past h]
  rw [show (d.bump Cnt.SEC_SPDM_REQ_CNT).sec = d.sec from rfl, hx]

/-- The session that a request names has the number of the request. -/
theorem session_id {l : List Session} {id : Nat} {done : Bool} {x : Session} (hx : (l.find? fun y => y.id == id && y.done == done) = some x) :
    x.id = id := by
  have h := List.find?_some hx
  simp only [Bool.and_eq_true, beq_iff_eq] at h
  exact h.1

/-- IDE_KM in a complete session, and outside of one (R471). -/
theorem Dev.ideReq_in (h : DS.rom < d.st) {session : Option (BitVec 32)}
    (hs : (d.sec.sessions.any fun y => some y.id == session.map BitVec.toNat && y.done) = true) (bad act : Dev → Dev) :
    d.ideReq session bad act = act (d.bump Cnt.SEC_SPDM_REQ_CNT) := by
  rw [Dev.ideReq, Dev.spdmReq_past h]
  exact if_pos hs

theorem Dev.ideReq_out (h : DS.rom < d.st) {session : Option (BitVec 32)}
    (hs : ¬ (d.sec.sessions.any fun y => some y.id == session.map BitVec.toNat && y.done) = true) (bad act : Dev → Dev) :
    d.ideReq session bad act = bad ((d.bump Cnt.SEC_SPDM_REQ_CNT).bump Cnt.SEC_SPDM_ERR_CNT) := by
  rw [Dev.ideReq, Dev.spdmReq_past h]
  exact if_neg hs

/-! ### What a request counts and answers -/

variable {e : Dev}

/-- A request is counted. -/
theorem Dev.counts_request (h : e.cnt = (d.bump Cnt.SEC_SPDM_REQ_CNT).cnt) :
    e.count Cnt.SEC_SPDM_REQ_CNT = min cntMax (d.count Cnt.SEC_SPDM_REQ_CNT + 1) :=
  (Dev.count_congr _ _ _ h).trans (Dev.count_bump_same _ _)

/-- An error is counted as a request and as an error. -/
theorem Dev.counts_error (h : e.cnt = ((d.bump Cnt.SEC_SPDM_REQ_CNT).bump Cnt.SEC_SPDM_ERR_CNT).cnt) :
    e.count Cnt.SEC_SPDM_REQ_CNT = min cntMax (d.count Cnt.SEC_SPDM_REQ_CNT + 1) ∧
      e.count Cnt.SEC_SPDM_ERR_CNT = min cntMax (d.count Cnt.SEC_SPDM_ERR_CNT + 1) := by
  rw [Dev.count_congr _ _ _ h, Dev.count_congr _ _ _ h, Dev.count_bump_same, Dev.count_bump_other _ _ _ (by decide), Dev.count_bump_same,
    Dev.count_bump_other _ _ _ (by decide)]
  exact ⟨rfl, rfl⟩

/-- What ERROR answers and counts. -/
theorem Dev.spdmErr_answers {s : State} (ho : e.out = []) (hc : e.cnt = (s.dev.bump Cnt.SEC_SPDM_REQ_CNT).cnt) (code data : Nat) :
    ((e.spdmErr code data).out = [.spdm (natLe 1 0x13 ++ natLe 1 0x7F ++ natLe 1 code ++ natLe 1 data ++ [])] ∧
      (e.spdmErr code data).count Cnt.SEC_SPDM_REQ_CNT = min cntMax (s.dev.count Cnt.SEC_SPDM_REQ_CNT + 1)) ∧
      (e.spdmErr code data).count Cnt.SEC_SPDM_ERR_CNT = min cntMax (s.dev.count Cnt.SEC_SPDM_ERR_CNT + 1) := by
  have hcnt : (e.spdmErr code data).cnt = ((s.dev.bump Cnt.SEC_SPDM_REQ_CNT).bump Cnt.SEC_SPDM_ERR_CNT).cnt := by
    show (e.bump Cnt.SEC_SPDM_ERR_CNT).cnt = _
    rw [Dev.bump, Dev.bumpBy, Dev.bump, Dev.bumpBy]
    simp only [hc, Dev.count_congr _ _ _ hc]
  obtain ⟨hreq, herr⟩ := Dev.counts_error hcnt
  refine ⟨⟨?_, hreq⟩, herr⟩
  show e.out ++ [_] = _
  rw [ho]
  rfl

end

/-! ### The negotiation (O42) -/

/-- A request that is refused changes only the two counters. -/
theorem answers_refusedSpdm {i : Instr} {s : State} {ver phase : Nat} {act : Dev → Dev} (hexec : exec i s = s.run fun d => d.spdmAt ver phase act)
    (hp : s.dev.powered = true) (hrom : DS.rom < s.dev.st) (hr : ver ≠ 0x13 ∨ s.dev.sec.phase < phase) :
    answers i s fun e => e.sec = s.dev.sec ∧ e.count Cnt.SEC_SPDM_ERR_CNT = min cntMax (s.dev.count Cnt.SEC_SPDM_ERR_CNT + 1) ∧
      s.dev.keepsBut [.cnt] e := by
  obtain ⟨code, heq⟩ := Dev.spdmAt_refuses (d := s.dev.quiet) hrom hr act
  exact answers_run_eq hexec hp heq ⟨rfl, (Dev.spdmErr_answers (s := s) (e := s.dev.quiet.bump _) rfl rfl code 0).2,
    Dev.keepsBut_of_quiet (Evolves.refl.step .bump |>.step .spdmErr).keeps⟩

/-- A third session is refused (R469). -/
theorem answers_thirdSession {s : State} (hp : s.dev.powered = true) (hrom : DS.rom < s.dev.st) (hl : 2 ≤ s.dev.sec.sessions.length)
    (ver slot kind : Byte) (rs : BitVec 16) : answers (.keyExchange ver slot kind rs) s fun e => e.sec.sessions = s.dev.sec.sessions := by
  by_cases hr : ver.toNat ≠ 0x13 ∨ s.dev.sec.phase < 3
  · obtain ⟨t, hx, hq, hsec, -⟩ := answers_refusedSpdm (exec_keyExchange ver slot kind rs s) hp hrom hr
    exact ⟨t, hx, hq, congrArg Sec.sessions hsec⟩
  · push Not at hr
    refine answers_run_eq (exec_keyExchange ver slot kind rs s) hp (Dev.spdmAt_ready (d := s.dev.quiet) hrom hr.1 hr.2 _) ?_
    dsimp only
    split
    · rfl
    · rw [if_pos (show 2 ≤ (s.dev.quiet.bump Cnt.SEC_SPDM_REQ_CNT).sec.sessions.length from hl)]
      rfl

/-- Settles O42: GET_VERSION answers, what is out of version or order is refused, and a third session is refused. -/
theorem spdmNegotiation : Obligations.SpdmNegotiation := by
  refine fun s hp hrom => ⟨?_, fun ver asym hash dhe aead off len slot kind attr op x rs hr => ?_, fun ver slot kind rs hl =>
    answers_thirdSession hp hrom hl ver slot kind rs⟩
  · refine answers_run_eq (exec_getVersion s) hp (Dev.spdmReq_past (d := s.dev.quiet) hrom _) ?_
    exact ⟨rfl, rfl, Dev.counts_request rfl, Dev.keepsBut_of_quiet (Evolves.refl.step .bump |>.step .setSec |>.step .spdm).keeps⟩
  · have hearly (phase : Nat) : ver.toNat ≠ 0x13 ∨ s.dev.sec.phase < phase + 1 := hr.imp_right fun h => by omega
    simp only [List.forall_mem_cons, List.not_mem_nil, false_imp_iff, implies_true, and_true]
    exact ⟨answers_refusedSpdm (exec_getCapabilities _ s) hp hrom (hearly 0), answers_refusedSpdm (exec_negotiateAlgorithms _ _ _ _ _ s) hp hrom (hearly 1),
      answers_refusedSpdm (exec_getDigests _ s) hp hrom (hearly 2), answers_refusedSpdm (exec_getCertificate _ _ _ _ s) hp hrom (hearly 2),
      answers_refusedSpdm (exec_challenge _ _ _ _ s) hp hrom (hearly 2), answers_refusedSpdm (exec_getMeasurements _ _ _ _ s) hp hrom (hearly 2),
      answers_refusedSpdm (exec_keyExchange _ _ _ _ s) hp hrom (hearly 2)⟩

end Sys2Proof.Machine
end

section
/-!
PROOF. What each request of SPDM and IDE key management answers, and the security lock (O60).
-/

set_option Elab.async false

namespace Sys2Proof.Machine

/-! ### What a response carries -/

theorem length_secretBytes (d : Dev) (n : Nat) : (d.secretBytes n).1.length = n := by simp [Dev.secretBytes]

section
variable {d e : Dev}

/-- A measurement is read off the digests and the calibration epoch. -/
theorem Dev.measBlock_congr (hf : ∀ k, e.fld (Reg.SEC_FP_DIGEST_DIGEST k) = d.fld (Reg.SEC_FP_DIGEST_DIGEST k)) (hd : e.sec.fwDigest = d.sec.fwDigest)
    (hc : e.sec.calEpoch = d.sec.calEpoch) (i : Nat) : e.measBlock i = d.measBlock i := by
  simp only [Dev.measBlock, hf, hd, hc]

theorem Dev.measAll_congr (hf : ∀ k, e.fld (Reg.SEC_FP_DIGEST_DIGEST k) = d.fld (Reg.SEC_FP_DIGEST_DIGEST k)) (hd : e.sec.fwDigest = d.sec.fwDigest)
    (hc : e.sec.calEpoch = d.sec.calEpoch) : e.measAll = d.measAll := by
  rw [Dev.measAll, funext (Dev.measBlock_congr hf hd hc), Dev.measAll]

end

/-- CHALLENGE and KEY_EXCHANGE ask for slot 0 and a kind of measurement summary that there is. -/
theorem spdm_range (slot kind : Byte) : (slot.toNat ≠ 0 ∨ (!([0, 1, 0xFF].contains kind.toNat)) = true) ↔ ¬ (slot = 0 ∧ (kind = 0 ∨ kind = 1 ∨ kind = 0xFF)) := by
  have h0 : (0 : Byte).toNat = 0 := rfl
  have h1 : (1 : Byte).toNat = 1 := rfl
  have h255 : (0xFF : Byte).toNat = 0xFF := rfl
  simp only [BitVec.toNat_eq, h0, h1, h255, List.contains_cons, List.contains_nil, Bool.or_false, Bool.not_eq_true', Bool.or_eq_false_iff,
    beq_eq_false_iff_ne]
  omega

/-- The digests that are measured lie apart from the number of sessions. -/
theorem digest_key_ne (k : Nat) : (Reg.SEC_FP_DIGEST_DIGEST k).key ≠ Reg.SEC_STATUS_SESSIONS.key := by
  simp only [Reg.SEC_FP_DIGEST_DIGEST, Reg.SEC_STATUS_SESSIONS, Field.key]
  omega

/-- A session opened changes no measurement. -/
theorem Dev.setSessions_measAll (d : Dev) (l : List Session) : (d.setSessions l).measAll = d.measAll :=
  Dev.measAll_congr (fun k => Dev.fld_setFld_other _ _ _ _ (digest_key_ne k)) rfl rfl

/-- SEC_STATUS shows up to three sessions. -/
theorem Dev.setSessions_shows (d : Dev) {l : List Session} (h : l.length < 4) : (d.setSessions l).fld Reg.SEC_STATUS_SESSIONS = l.length :=
  (Dev.fld_setFld_same _ _ _).trans (Nat.mod_eq_of_lt h)

theorem byte_zero_iff (b : Byte) : b = 0 ↔ b.toNat = 0 := BitVec.toNat_eq

/-- A key slot that is programmed is among the programmed ones, and one that is stopped is not. -/
theorem mem_withKey (k : Nat) (l : List Nat) : k ∈ if l.contains k then l else k :: l := by
  split
  case isTrue h => exact List.contains_iff_mem.mp h
  case isFalse => exact List.mem_cons_self

theorem not_mem_without (k : Nat) (l : List Nat) : k ∉ l.filter (· != k) := by simp

/-! ### The stream (R471, R472) -/

/-- The stream is Secure exactly while a whole key set is active. -/
theorem Dev.setIde_secure (d : Dev) : d.setIde.fld Reg.SEC_STATUS_IDE = ideSecure ↔ ∃ set < 2, allIn (keySlots set) d.setIde.sec.going = true := by
  have hany : ([0, 1].any fun k => allIn (keySlots k) d.sec.going) = true ↔ ∃ set < 2, allIn (keySlots set) d.sec.going = true := by
    simp only [List.any_cons, List.any_nil, Bool.or_false, Bool.or_eq_true]
    constructor
    · rintro (h | h)
      · exact ⟨0, by decide, h⟩
      · exact ⟨1, by decide, h⟩
    · rintro ⟨set, hset, h⟩
      obtain rfl | rfl : set = 0 ∨ set = 1 := by omega
      · exact .inl h
      · exact .inr h
  have hsec : d.setIde.sec = d.sec := rfl
  rw [hsec, ← hany]
  unfold Dev.setIde
  dsimp only
  rw [Dev.fld_setFld_other _ _ _ _ (by decide), Dev.fld_setFld_same]
  generalize ([0, 1].any fun k => allIn (keySlots k) d.sec.going) = sec
  generalize ([0, 1].any fun k => allIn (keySlots k) d.sec.keys) = key
  cases sec
  · simp only [Bool.false_eq_true, if_false, iff_false]
    split
    · decide
    · split <;> decide
  · simp only [if_true, iff_true]
    decide

/-! ### The negotiation -/

section
variable {s : State} (hp : s.dev.powered = true) (hrom : DS.rom < s.dev.st)
include hp hrom

/-- The request of a negotiation that has come far enough. -/
theorem answers_readySpdm {i : Instr} {phase : Nat} {act : Dev → Dev} {P : Dev → Prop} (hphase : phase ≤ s.dev.sec.phase)
    (hexec : exec i s = s.run fun d => d.spdmAt (0x13 : Byte).toNat phase act) (h : P (act (s.dev.quiet.bump Cnt.SEC_SPDM_REQ_CNT))) : answers i s P :=
  answers_run_eq hexec hp (Dev.spdmAt_ready (d := s.dev.quiet) hrom rfl hphase act) h

/-- A request in a session. -/
theorem answers_inSession {i : Instr} {id : Nat} {done : Bool} {act : Session → Dev → Dev} {x : Session} {P : Dev → Prop}
    (hx : (s.dev.sec.sessions.find? fun y => y.id == id && y.done == done) = some x)
    (hexec : exec i s = s.run fun d => d.inSession id done act) (h : P (act x (s.dev.quiet.bump Cnt.SEC_SPDM_REQ_CNT))) : answers i s P :=
  answers_run_eq hexec hp (Dev.inSession_some (d := s.dev.quiet) hrom hx act) h

end

/-- Settles O60: a request past ROM is counted and answered by its branch of the command; without a session that it needs it is an error. -/
theorem securityAnswers : Obligations.SecurityAnswers := by
  refine fun s hp => ⟨fun hrom => ⟨?capabilities, ?algorithms, fun hphase => ⟨?digests, ?certificate, ?challenge, ?measurements, ?keyExchange⟩,
    ?finish, ?session, ?ide, ?unsupported⟩, ?lock, ?integrity⟩
  case capabilities => exact fun hphase => answers_readySpdm hp hrom hphase (exec_getCapabilities _ s) ⟨rfl, rfl, Dev.counts_request rfl⟩
  case algorithms =>
    intro hphase asym hash dhe aead
    refine answers_readySpdm hp hrom hphase (exec_negotiateAlgorithms _ _ _ _ _ s) ?_
    dsimp only
    simp only [← Bool.not_and]
    cases asym.getLsbD 6 && hash.getLsbD 2 && dhe.getLsbD 4 && aead.getLsbD 1
    · exact ⟨rfl, Dev.spdmErr_answers (e := s.dev.quiet.bump _) rfl rfl _ _⟩
    · exact ⟨rfl, rfl, Dev.counts_request rfl⟩
  case digests => exact answers_readySpdm hp hrom hphase (exec_getDigests _ s) ⟨rfl, Dev.counts_request rfl⟩
  case certificate =>
    intro slot off len
    refine answers_readySpdm hp hrom hphase (exec_getCertificate _ _ _ _ s) ?_
    dsimp only
    by_cases h : slot.toNat % 16 = 0 ∧ off.toNat < Config.certChain.length
    · rw [if_pos h, if_neg (by omega)]
      exact ⟨rfl, Dev.counts_request rfl⟩
    · rw [if_neg h, if_pos (by omega)]
      exact Dev.spdmErr_answers (e := s.dev.quiet.bump _) rfl rfl _ _
  case challenge =>
    intro slot kind context
    have hmeas : (s.dev.quiet.bump Cnt.SEC_SPDM_REQ_CNT).measAll = s.dev.measAll := Dev.measAll_congr (fun _ => rfl) rfl rfl
    refine answers_readySpdm hp hrom hphase (exec_challenge _ _ _ _ s) ⟨fun h => ?_, fun h => ?_⟩
    · dsimp only
      rw [if_neg (mt (spdm_range slot kind).mp (not_not.mpr h)), hmeas]
      exact ⟨_, _, length_secretBytes (s.dev.quiet.bump _) 32, length_secretBytes ((s.dev.quiet.bump _).secretBytes 32).2 512, rfl, Dev.counts_request rfl⟩
    · dsimp only
      rw [if_pos ((spdm_range slot kind).mpr h)]
      exact Dev.spdmErr_answers (e := s.dev.quiet.bump _) rfl rfl _ _
  case measurements =>
    intro attr op context
    have hmeas : (s.dev.quiet.bump Cnt.SEC_SPDM_REQ_CNT).measAll = s.dev.measAll := Dev.measAll_congr (fun _ => rfl) rfl rfl
    have hblock : (s.dev.quiet.bump Cnt.SEC_SPDM_REQ_CNT).measBlock op.toNat = s.dev.measBlock op.toNat := Dev.measBlock_congr (fun _ => rfl) rfl rfl _
    have hall : op = 0xFF ↔ op.toNat = 0xFF := BitVec.toNat_eq
    refine answers_readySpdm hp hrom hphase (exec_getMeasurements _ _ _ _ s) ?_
    dsimp only
    rw [hmeas, hblock]
    simp only [byte_zero_iff, hall]
    by_cases h : op.toNat ≤ 4 ∨ op.toNat = 0xFF
    · have hrange : ¬ (4 < op.toNat ∧ op.toNat ≠ 0xFF) := by omega
      rw [if_pos h, if_neg hrange]
      cases attr.getLsbD 0
      · exact ⟨_, _, length_secretBytes (s.dev.quiet.bump _) 32, List.length_nil, rfl, Dev.counts_request rfl⟩
      · exact ⟨_, _, length_secretBytes (s.dev.quiet.bump _) 32, length_secretBytes ((s.dev.quiet.bump _).secretBytes 32).2 512, rfl, Dev.counts_request rfl⟩
    · have hrange : 4 < op.toNat ∧ op.toNat ≠ 0xFF := by omega
      rw [if_neg h, if_pos hrange]
      exact Dev.spdmErr_answers (e := s.dev.quiet.bump _) rfl rfl _ _
  case keyExchange =>
    intro slot kind rs
    have hsec : (s.dev.quiet.bump Cnt.SEC_SPDM_REQ_CNT).sec = s.dev.sec := rfl
    have hmeas : (s.dev.quiet.bump Cnt.SEC_SPDM_REQ_CNT).measAll = s.dev.measAll := Dev.measAll_congr (fun _ => rfl) rfl rfl
    refine answers_readySpdm hp hrom hphase (exec_keyExchange _ _ _ _ s) ⟨fun h hlt => ?_, fun h hle => ?_, fun h => ?_⟩
    · dsimp only
      rw [if_neg (mt (spdm_range slot kind).mp (not_not.mpr h)), hsec, if_neg (not_le.mpr hlt), Dev.setSessions_measAll, hmeas]
      refine ⟨rfl, ?_, _, _, length_secretBytes (Dev.setSec _ _) 128, length_secretBytes (Dev.secretBytes _ 128).2 576, rfl, Dev.counts_request rfl⟩
      exact (Dev.setSessions_shows _ (by rw [List.length_append, List.length_singleton]; omega)).trans List.length_append
    · dsimp only
      rw [if_neg (mt (spdm_range slot kind).mp (not_not.mpr h)), hsec, if_pos hle]
      exact Dev.spdmErr_answers (e := s.dev.quiet.bump _) rfl rfl _ _
    · dsimp only
      rw [if_pos ((spdm_range slot kind).mpr h)]
      exact Dev.spdmErr_answers (e := s.dev.quiet.bump _) rfl rfl _ _
  case finish =>
    intro id ok
    split
    next hx =>
      exact answers_run_eq (exec_finish id ok s) hp (Dev.inSession_none (d := s.dev.quiet) hrom hx _) (Dev.spdmErr_answers (e := s.dev.quiet.bump _) rfl rfl _ _)
    next x hx =>
      have hid := session_id hx
      refine answers_inSession hp hrom hx (exec_finish id ok s) ?_
      cases ok
      · exact ⟨Dev.spdmErr_answers (e := (s.dev.quiet.bump _).endSession x.id) rfl rfl _ _, hid ▸ rfl⟩
      · exact ⟨⟨rfl, Dev.counts_request rfl⟩, hid ▸ rfl⟩
  case session =>
    intro id op tag
    split
    next h =>
      obtain ⟨x, hx⟩ := Option.isSome_iff_exists.mp h
      have hid := session_id hx
      refine ⟨answers_inSession hp hrom hx (exec_heartbeat id s) ⟨rfl, Dev.counts_request rfl⟩, answers_inSession hp hrom hx (exec_keyUpdate id op tag s) ?_,
        answers_inSession hp hrom hx (exec_endSession id s) ⟨⟨rfl, Dev.counts_request rfl⟩, hid ▸ rfl⟩⟩
      dsimp only
      by_cases hop : 1 ≤ op.toNat ∧ op.toNat ≤ 3
      · have hrange : ¬ (op = 0 ∨ 3 < op.toNat) := by rw [byte_zero_iff]; omega
        rw [if_pos hop, if_neg hrange]
        exact ⟨⟨rfl, Dev.counts_request rfl⟩, hid ▸ rfl⟩
      · have hrange : op = 0 ∨ 3 < op.toNat := by rw [byte_zero_iff]; omega
        rw [if_neg hop, if_pos hrange]
        exact Dev.spdmErr_answers (e := s.dev.quiet.bump _) rfl rfl _ _
    next h =>
      have hx : (s.dev.sec.sessions.find? fun y => y.id == id.toNat && y.done == true) = none := Option.not_isSome_iff_eq_none.mp h
      have herror := Dev.spdmErr_answers (s := s) (e := s.dev.quiet.bump Cnt.SEC_SPDM_REQ_CNT) rfl rfl SpdmErr.sessionRequired 0
      have hnone := Dev.inSession_none (d := s.dev.quiet) hrom hx
      simp only [List.forall_mem_cons, List.not_mem_nil, false_imp_iff, implies_true, and_true]
      exact ⟨answers_run_eq (exec_heartbeat id s) hp (hnone _) herror, answers_run_eq (exec_keyUpdate id op tag s) hp (hnone _) herror,
        answers_run_eq (exec_endSession id s) hp (hnone _) herror⟩
  case ide =>
    intro session stream set dir sub
    dsimp only
    split
    next hs =>
      have hin := Dev.ideReq_in (d := s.dev.quiet) hrom hs
      refine ⟨answers_run_eq (exec_ideKmQuery session s) hp (hin _ _) ⟨rfl, Dev.counts_request rfl⟩, answers_run_eq (exec_keyProg _ _ _ _ _ s) hp (hin _ _) ?_,
        answers_run_eq (exec_kSetGo _ _ _ _ s) hp (hin _ _) ?_, answers_run_eq (exec_kSetStop _ _ _ _ s) hp (hin _ _) ?_⟩
      · by_cases hstream : stream = 0
        · have hone : ¬ stream.toNat ≠ 0 := not_not.mpr ((byte_zero_iff stream).mp hstream)
          rw [if_pos hstream, if_neg hone]
          exact ⟨⟨rfl, Dev.counts_request rfl⟩, mem_withKey _ _⟩
        · have hone : stream.toNat ≠ 0 := mt (byte_zero_iff stream).mpr hstream
          rw [if_neg hstream, if_pos hone]
          obtain ⟨hreq, herr⟩ := Dev.counts_error (d := s.dev) (e := (s.dev.quiet.bump Cnt.SEC_SPDM_REQ_CNT).bump Cnt.SEC_SPDM_ERR_CNT) rfl
          exact ⟨⟨rfl, hreq⟩, herr⟩
      · dsimp only
        split
        next => exact ⟨⟨rfl, Dev.counts_request rfl⟩, fun _ _ => ⟨List.mem_cons_self, Dev.setIde_secure _⟩⟩
        next hno =>
          refine ⟨⟨rfl, Dev.counts_request rfl⟩, fun hkey hgoing => absurd ?_ hno⟩
          rw [Bool.and_eq_true, Bool.not_eq_true', List.contains_iff_mem, ← Bool.not_eq_true, List.contains_iff_mem]
          exact ⟨hkey, hgoing⟩
      · exact ⟨⟨rfl, Dev.counts_request rfl⟩, not_mem_without _ _, not_mem_without _ _, Dev.setIde_secure _⟩
    next hs =>
      have hout := Dev.ideReq_out (d := s.dev.quiet) hrom hs
      have herror := Dev.spdmErr_answers (s := s) (e := s.dev.quiet.bump Cnt.SEC_SPDM_REQ_CNT) rfl rfl SpdmErr.sessionRequired 0
      obtain ⟨hreq, herr⟩ := Dev.counts_error (d := s.dev) (e := (s.dev.quiet.bump Cnt.SEC_SPDM_REQ_CNT).bump Cnt.SEC_SPDM_ERR_CNT) rfl
      refine ⟨answers_run_eq (exec_keyProg _ _ _ _ _ s) hp (hout _ _) ⟨⟨rfl, hreq⟩, herr⟩, ?_⟩
      simp only [List.forall_mem_cons, List.not_mem_nil, false_imp_iff, implies_true, and_true]
      exact ⟨answers_run_eq (exec_ideKmQuery session s) hp (hout _ _) herror, answers_run_eq (exec_kSetGo _ _ _ _ s) hp (hout _ _) herror,
        answers_run_eq (exec_kSetStop _ _ _ _ s) hp (hout _ _) herror⟩
  case unsupported =>
    exact fun code => answers_run_eq (exec_spdmUnsupportedRequest code s) hp (Dev.spdmReq_past (d := s.dev.quiet) hrom _)
      (Dev.spdmErr_answers (e := s.dev.quiet.bump _) rfl rfl _ _)
  case lock =>
    intro v
    split
    next h => exact answers_run_eq (exec_secLock v s) hp (if_pos h) rfl
    next h => exact exec_run_eq (exec_secLock v s) hp (if_neg h)
  case integrity =>
    split
    next h =>
      refine answers_run_eq (exec_ideIntegrityFail s) hp (if_pos h) ⟨Dev.count_bump_same s.dev.quiet _, ?_, Dev.fld_setFld_same _ _ _, rfl, rfl⟩
      exact (Dev.fld_setFld_other _ _ _ _ (by decide)).trans (Dev.fld_setFld_same _ _ _)
    next h => exact exec_run_eq (exec_ideIntegrityFail s) hp (if_neg h)

end Sys2Proof.Machine
end

section
/-!
PROOF. A relation beside `Evolves`: the fuse floors of R466 have not fallen. A function that leaves the part `sec` alone keeps them (`Floors.via`), so rules are
needed only for those that change it. The rules have the shape of those of `Evolves`.
-/

set_option Elab.async false

namespace Sys2Proof.Machine

/-- From `d` the device comes to `e`, and neither fuse floor has fallen (R466). -/
structure Floors (d e : Dev) : Prop where
  fw : d.sec.fwMin ≤ e.sec.fwMin
  cert : d.sec.certMin ≤ e.sec.certMin

/-- Every part but the one in which the floors lie. -/
abbrev offSec : List Part :=
  [.regs, .cnt, .latch, .mem, .lsEpoch, .split, .poison, .draws, .frm, .variants, .run, .late, .cells, .rmOpen, .rmStats, .spg, .rack, .kln, .mxc, .num,
    .red, .pnd, .fab, .hif, .mbx, .flt, .gau, .pwr, .tpMode, .tp]

namespace Floors

variable {d e f d₀ : Dev} {l : List Part}

theorem refl : Floors d d := ⟨le_rfl, le_rfl⟩

theorem step (h : Floors d e) (k : Floors e f) : Floors d f := ⟨h.fw.trans k.fw, h.cert.trans k.cert⟩

/-- A further step that leaves the part alone in which the floors lie. -/
theorem via (h : Floors d e) (k : Evolves l e f) (hl : .sec ∉ l := by decide) : Floors d f := by
  have hsec : f.sec = e.sec := k.keeps .sec hl
  exact ⟨hsec ▸ h.fw, hsec ▸ h.cert⟩

/-- A change of the part that plainly leaves the floors alone. -/
theorem put (h : Floors d e) (hf : f.sec.fwMin = e.sec.fwMin) (hc : f.sec.certMin = e.sec.certMin) : Floors d f := ⟨hf ▸ h.fw, hc ▸ h.cert⟩

theorem setSec {g : Sec → Sec} (hg : ∀ x, x.fwMin ≤ (g x).fwMin ∧ x.certMin ≤ (g x).certMin := by exact fun _ => ⟨le_rfl, le_rfl⟩) :
    Floors d (d.setSec g) := ⟨(hg d.sec).1, (hg d.sec).2⟩

theorem calWrite : Floors d d.calWrite := refl.put rfl rfl

theorem clearCounters {l} : Floors d (d.clearCounters l) := refl.put rfl rfl

/-! ### The shapes of the model's functions -/

theorem use (h : Floors d e) (k : Floors d e → Floors d f) : Floors d f := k h

theorem ite {c : Prop} [Decidable c] (h : Floors d e) (k : Floors d f) : Floors d (if c then e else f) := iteInduction (fun _ => h) fun _ => k

theorem iteSnd {β : Type} {c : Prop} [Decidable c] {x y : β × Dev} (h : Floors d x.2) (k : Floors d y.2) : Floors d (if c then x else y).2 :=
  iteInduction (motive := fun z : β × Dev => Floors d z.2) (fun _ => h) fun _ => k

theorem when {c : Prop} [Decidable c] (h : Floors d e) (k : Floors d e → Floors d f) : Floors d (if c then f else e) := ite (k h) h

theorem foldl {α : Type} {g : Dev → α → Dev} {xs : List α} (h : Floors d e) (k : ∀ e x, Floors d e → Floors d (g e x)) : Floors d (xs.foldl g e) :=
  List.foldlRecOn xs g h fun e he x _ => k e x he

/-! ### The functions of the model -/

theorem retire {t} : Floors d (d.retire t) := by
  unfold Dev.retire
  exact ite refl (refl.step .calWrite |>.via .put_kln |>.via .storeCrc |>.via .setFld |>.via .sticky |>.via .bump)

theorem degrade {t temp} : Floors d (d.degrade t temp) := by
  unfold Dev.degrade
  exact use (refl.via .put_kln) fun h => when (use (ite h (h.via .storeCrc |>.step .calWrite)) fun h => h.via .bumpBy) fun h => h.step .retire

theorem kilnTunDone {b i r measured} : Floors d (d.kilnTunDone b i r measured) := by
  unfold Dev.kilnTunDone
  refine use (ite ?_ (refl.via .put_kln |>.via .setFld |>.via .bump)) fun h =>
    ite (h.via .setFld |>.via .put_kln |>.via .setKilnRun |>.via .showRun) (h.via .setKilnRun |>.via .showRun)
  extract_lets
  split
  · exact refl.via .put_kln |>.via .setFld |>.via .bump |>.via .bump |>.via .put_kln
  · exact ite (refl.via .put_kln |>.via .setFld |>.via .bump |>.via .bump |>.via .put_kln)
      (refl.via .put_kln |>.via .setFld |>.via .bump |>.via .bump |>.via .put_kln |>.via .put_kln |>.via .storeCrc |>.step .calWrite
        |>.via .bump)

theorem unitWork {b i u r m} : Floors d (d.unitWork b i u r m) := by
  unfold Dev.unitWork
  exact ite (use (ite (refl.step .retire) refl) fun h => h.via .loadTrims |>.via .setFld)
    (ite (use (foldl refl fun _ _ h => h.via .setWorking) fun h => h.via .setWorking)
      (use (foldl refl fun _ _ h => h.via .setWorking) fun h => h.step .degrade))

theorem afterUnit {b i u measured r m} : Floors d (d.afterUnit b i u measured r m) := by
  unfold Dev.afterUnit
  exact use (ite (refl.via .bump) refl) fun h => ite (h.step .kilnTunDone) (h.via .put_kln |>.via .setKilnRun |>.via .showRun)

theorem kilnUnit {b i now m} : Floors d (d.kilnUnit b i now m) := by
  unfold Dev.kilnUnit
  split
  · exact ite refl (ite (use (foldl refl fun _ _ h => h.via .uncorr) fun h => h.via .put_kln) (refl.step .unitWork |>.step .afterUnit))
  · exact refl

theorem askCommit {r} : Floors d (d.askCommit r) := by
  unfold Dev.askCommit
  exact refl.step .setSec

theorem burnFloors {fwBad certBad} : Floors d (d.burnFloors fwBad certBad) := by
  unfold Dev.burnFloors
  split
  · exact refl
  · exact refl.step ⟨le_max_left _ _, le_max_left _ _⟩ |>.via .bump |>.via .bumpBy

theorem setSessions {l} : Floors d (d.setSessions l) := by
  unfold Dev.setSessions
  exact refl.step .setSec |>.via .setFld

theorem endSession {id} : Floors d (d.endSession id) := by
  unfold Dev.endSession
  exact refl.step .setSessions

theorem onSession {id f} : Floors d (d.onSession id f) := by
  unfold Dev.onSession
  exact refl.step .setSec

theorem loseIde {v} : Floors d (d.loseIde v) := by
  unfold Dev.loseIde
  exact refl.step .setSec |>.via .setFld |>.via .setFld

theorem lockSec : Floors d d.lockSec := by
  unfold Dev.lockSec
  exact refl.step .setSec

theorem enterImage {b} : Floors d (d.enterImage b) := by
  unfold Dev.enterImage
  exact refl.via .setFld |>.via .setFld |>.via .setFld |>.via .setFld |>.step .setSec |>.via .put_mbx |>.via .armWatchdog

theorem handover : Floors d d.handover := by
  unfold Dev.handover
  exact refl.via .setFrm |>.via .abortCmds |>.via .writeCask |>.via .setFld |>.via .setFld |>.via .put_mbx |>.step .enterImage

theorem atCommit : Floors d d.atCommit := by
  unfold Dev.atCommit
  refine ite (foldl (refl.via .setSt |>.via .setFrm |>.via .put_run) fun _ _ h => h.via .complete) ?_
  split
  · exact ite refl (when (refl.via .setSt |>.via .setFrm |>.via .put_run) fun h => h.step .handover)
  · exact refl

theorem applyResult {t} : Floors d (d.applyResult t) := by
  unfold Dev.applyResult
  exact use (iteSnd refl (refl.via .lpApply)) fun h =>
    use (ite h (h.via .lossScale)) fun h =>
    use (ite (h.via .bump |>.via .sticky) h) fun h =>
    use (h.via .writeRing |>.via .countSplit) fun h =>
    use (ite h (h.via .voteSwitch)) fun h =>
    use (h.via .boundaryGrants |>.via .takeExps |>.via .writeLayerStats |>.via .shiftStats |>.via .shiftNum) fun h =>
    ite (h.via .markFits |>.via .sticky |>.via .bump |>.via .holdStep)
      (use (h.via .storeScales) fun h =>
        use (ite (h.via .setFld |>.via .bump) (h.via .setFld |>.via .setNum |>.via .setPnd |>.via .fold)) fun h =>
        use (ite (h.via .setFld |>.via .bump) h) fun h =>
        use (h.via .markFits |>.via .stepState |>.via .activatePack |>.via .stepCompletion |>.via .trace) fun h =>
        use (ite (h.step .atCommit) h) fun h => h.via .nextRun |>.via .writeLedger)

theorem boundary {m} : Floors d (d.boundary m) := by
  unfold Dev.boundary
  dsimp only
  split
  · exact refl.via .takeSpg |>.via .takeFlt |>.via .stageOverrun |>.via .portsUp |>.via .setFld |>.via .measure |>.via .writeStepMin
      |>.via .bump |>.via .holdStep
  · exact ite
      (refl.via .takeSpg |>.via .takeFlt |>.via .stageOverrun |>.via .portsUp |>.via .setFld |>.via .measure |>.via .writeStepMin
        |>.via .countSplit |>.via .bump |>.via .holdStep)
      (refl.via .takeSpg |>.via .takeFlt |>.via .stageOverrun |>.via .portsUp |>.via .setFld |>.via .measure |>.via .writeStepMin
        |>.step .applyResult)

theorem frameRunning {m} : Floors d (d.frameRunning m) := by
  unfold Dev.frameRunning
  exact ite (refl.via .stageOverrun |>.via .holdNow)
    (use (ite (refl.step .boundary) (refl.via .setFld)) fun h =>
      ite (use (ite (h.via .writeParams) h) fun h => h.via .freezeIdle)
        (ite (use (ite (h.via .writeParams) (h.via .stageOverrun)) fun h => h.via .holdNow)
          (ite (h.via .beginStep |>.via .runFrame) (h.via .runFrame))))

theorem frameStart {m} : Floors d (d.frameStart m) := by
  unfold Dev.frameStart
  split
  · exact refl
  · exact ite refl
      (use (refl.via .setFrm |>.via .closeFrame |>.via .setFld |>.via .setFld |>.via .setFld |>.via .setFrm) fun h =>
        when (ite (h.step .frameRunning) (h.via .freezeIdle |>.via .startDue |>.via .resumeDue)) fun h => h.via .setFld)

theorem startImage {b keep} : Floors d (d.startImage b keep) := by
  unfold Dev.startImage
  exact refl.step .enterImage |>.via .setFld |>.via .setFld |>.via .put_mbx |>.via .abortCmds

theorem coldStages {c b env} : Floors d (d.coldStages c b env) := by
  unfold Dev.coldStages
  exact use (refl.via .stage |>.via .trainHbm) fun h =>
    ite (h.via .enterFault)
      (use (h.via .stage |>.via .initHbm |>.via .setFld |>.via .write |>.step .startImage |>.via .bindDefaults |>.via .stage) fun h =>
        ite (h.via .enterFault) (h.via .stage |>.via .trainPorts))

theorem kilnUnits {l units t} : Floors d (d.kilnUnits l units t) := by
  unfold Dev.kilnUnits
  split
  · exact refl
  · exact foldl refl fun _ _ h => h.step .unitWork

theorem kilnFinish {t measured} : Floors d (d.kilnFinish t measured) := by
  unfold Dev.kilnFinish
  split
  · exact refl
  · exact refl.step .kilnTunDone

theorem afterFabric {x} : Floors d (d.afterFabric x) := by
  unfold Dev.afterFabric
  exact use
      (foldl
          (use (foldl (refl.via .stage) fun _ _ h => h.via .selfTestFail) fun h =>
            h.via .loseLs |>.via .stage |>.via .setFld |>.via .setFld |>.via .stage |>.via .loadRetired |>.via .startRuns) fun _ _ h =>
        h.step .kilnUnits) fun h =>
    h.via .stage

theorem coldEnd {fwBad certBad} : Floors d (d.coldEnd fwBad certBad) := by
  unfold Dev.coldEnd
  dsimp only
  split
  · exact refl.via .lockMbx |>.step .lockSec |>.via .noteStart |>.via .setPwr |>.via .setFld |>.via .setSt |>.step .burnFloors
      |>.via .writeLedger |>.via .complete
  · exact refl.via .lockMbx |>.step .lockSec |>.via .noteStart |>.via .setPwr |>.via .setFld |>.via .setSt |>.step .burnFloors
      |>.via .writeLedger

theorem warmState {pcie reload} : Floors d (d.warmState pcie reload) := by
  unfold Dev.warmState
  have hlost : Floors d d.dropRounds.mgmtDown.loseLs := refl.via .dropRounds |>.via .mgmtDown |>.via .loseLs
  dsimp only
  generalize d.dropRounds.mgmtDown.loseLs = e at hlost
  exact hlost.put rfl rfl

theorem resetFunction : Floors d d.resetFunction := by
  unfold Dev.resetFunction
  exact refl.via .setHif |>.via .put_regs |>.via .setPwr |>.step .loseIde

theorem beginWarm {cause cmd pcie reload} : Floors d (d.beginWarm cause cmd pcie reload) := by
  unfold Dev.beginWarm
  exact use (ite (refl.via .abortCmds) (refl.step .resetFunction)) fun h =>
    h.via .setSt |>.step .warmState |>.via .noteCause |>.via .bump |>.via .setPwr

theorem coldState {pcie power} : Floors d (d.coldState pcie power) := by
  unfold Dev.coldState
  have hlost : Floors d (if power then d.dropRounds else d.dropRounds.mgmtDown).loseLs :=
    .via (ite (refl.via .dropRounds) (refl.via .dropRounds |>.via .mgmtDown)) .loseLs
  dsimp only
  generalize (if power then d.dropRounds else d.dropRounds.mgmtDown).loseLs = e at hlost
  cases pcie
  · exact hlost.put rfl rfl
  · exact hlost.put rfl rfl

theorem beginCold {cause pcie power} : Floors d (d.beginCold cause pcie power) := by
  unfold Dev.beginCold
  exact refl.via .setSt |>.step .coldState |>.via .setFld |>.via .noteCause |>.via .setFld |>.via .startSettling |>.via .startSettling |>.via .bump

theorem escalate {cause} : Floors d (d.escalate cause) := by
  unfold Dev.escalate
  exact refl.step .beginCold |>.via .setFld |>.via .bump |>.via .noteFailed |>.via .romDone

theorem interpTun {l t} : Floors d (d.interpTun l t) := by
  unfold Dev.interpTun
  exact use (refl.step .kilnUnits) fun h => use (ite (h.via .bump) h) fun h => ite (h.step .kilnUnits |>.step .kilnFinish) (h.step .kilnFinish)

theorem kilnInterp {l} : Floors d (d.kilnInterp l) := by
  unfold Dev.kilnInterp
  exact foldl (refl.via .loadRetired |>.via .startRuns) fun _ _ h => h.step .interpTun

theorem advance : Floors d d.advance := by
  unfold Dev.advance
  split
  · exact refl.via .endDiscover
  · exact ite refl (ite (when (ite (refl.via .startSize) refl) fun h => h.step .afterFabric) (ite (refl.via .warmEnd) refl))

theorem warmRest {reload env} : Floors d (d.warmRest reload env) := by
  unfold Dev.warmRest
  exact use (refl.via .stage |>.via .foldJournals |>.via .bumpBy) fun h =>
    ite (h.step .escalate) (h.via .stage |>.step .kilnInterp |>.via .warmFabric |>.step .advance)

theorem warmLedger {reload env} : Floors d (d.warmLedger reload env) := by
  unfold Dev.warmLedger
  refine ite (refl.via .stage |>.via .ledgerRead) ?_
  dsimp only
  split
  · exact refl.via .stage |>.via .ledgerRead |>.via .judgeCopies |>.step .escalate
  · exact refl.via .stage |>.via .ledgerRead |>.via .judgeCopies |>.via .restoreCopy |>.via .takeFlt |>.via .takeSpg
      |>.via .restartRackSettings |>.step .warmRest

theorem warmStages {b reload env} : Floors d (d.warmStages b reload env) := by
  unfold Dev.warmStages
  split
  · exact refl.step .escalate
  · exact ite (refl.step .startImage |>.step .warmLedger)
      (use (refl.via .stage) fun h =>
        ite (h.step .escalate) (use (h.via .setFld |>.step .startImage |>.via .stage) fun h => ite (h.step .warmLedger) (h.via .enterFault)))

theorem warmStart {cause cmd pcie env} : Floors d (d.warmStart cause cmd pcie env) := by
  unfold Dev.warmStart
  exact refl.step .beginWarm |>.via .idleRead |>.step .warmStages

theorem functionReset {cause env} : Floors d (d.functionReset cause env) := by
  unfold Dev.functionReset
  exact ite (refl.step .resetFunction) (refl.step .warmStart)

theorem answerHello {c} : Floors d (d.answerHello c) := by
  unfold Dev.answerHello
  exact use (refl.via .setFld |>.via .setFld) fun h =>
    ite (h.via .setFld |>.via .complete |>.via .setPwr |>.step .advance)
      (use (h.via .sticky |>.via .setFld) fun h => use (ite (h.via .refuseStart) h) fun h => h.via .complete)

theorem frameOf {tick} : Floors d (d.frameOf tick) := by
  unfold Dev.frameOf
  split
  · exact ite (refl.via .missHold |>.step .frameStart) refl
  · exact refl

theorem caskRead {fwBad certBad e} : Floors d (d.caskRead fwBad certBad e) := by
  unfold Dev.caskRead
  exact ite refl
    (use (refl.via .ecc |>.via .idleRead) fun h =>
      use
          (foldl
              (use (ite (h.via .setFld) (h.via .bump |>.via .ledgerRebuild |>.via .setFld)) fun h =>
                h.via .setFld |>.via .put_mbx |>.via .setFld |>.via .bump |>.step .burnFloors) fun _ _ h =>
            h.step .answerHello) fun h =>
      h.via .deliverMgmt |>.via .endHandover)

theorem gated {ok c act} (h : Floors d₀ d) (act' : ∀ e, Floors d₀ e → Floors d₀ (act e).2) : Floors d₀ (d.gated ok c act).2 := by
  unfold Dev.gated
  exact iteSnd (act' _ h) (h.via .bump)

theorem putPort {p act} : Floors d (d.putPort p act) := by
  unfold Dev.putPort
  exact ite (ite (refl.via .disablePort |>.step .advance) refl)
    (when (ite refl (refl.via .setFld |>.via .trainPort)) fun h => h.via .retrain |>.step .advance)

theorem putHigh {slot lo w new act r} : Floors d (d.putHigh slot lo w new act r).2 := by
  unfold Dev.putHigh
  exact iteSnd (refl.step .putPort)
    (iteSnd (refl.via .putMemCfg)
      (iteSnd (ite (refl.via .lockMbx) refl)
        (iteSnd (.gated refl fun _ h => h.via .putFields)
          (iteSnd refl
            (iteSnd (refl.via .mbxTx)
              (iteSnd (refl.via .clearSticky)
                (iteSnd (refl.via .bump)
                  (iteSnd (refl.via .gaugePower)
                    (iteSnd (refl.via .putConv)
                      (iteSnd (refl.via .putUrgent)
                        (iteSnd (refl.via .putMonSel)
                          (iteSnd (refl.via .monConfig)
                            (iteSnd (.gated refl fun _ h => h.via .putFields)
                              (iteSnd (ite (refl.step .lockSec) refl) (refl.via .putFields)))))))))))))))

theorem writeReg {slot lo w v} : Floors d (d.writeReg slot lo w v) := by
  unfold Dev.writeReg
  split
  · exact refl
  · exact ite (refl.via .mbxIdle) (ite refl (when (iteSnd (refl.via .putLow) (refl.step .putHigh)) fun h => h.via .configWritten))

theorem barWrite {off whole v} : Floors d (d.barWrite off whole v) := by
  unfold Dev.barWrite
  split
  · exact refl
  · exact ite refl (ite (when (refl.via .msixWrite) fun h => h.via .msixWrite) (refl.step .writeReg))

/-! ### Commands and requests -/

theorem command {n kind act} (h : Floors d₀ d) (act' : ∀ c e, Floors d₀ e → Floors d₀ (act c e)) : Floors d₀ (d.command n kind act) :=
  Evolves.command_induction (fun _ he => h.via he) fun c e he => act' c e (h.via he)

theorem opCommand {n op act} (h : Floors d₀ d) (act' : ∀ c e, Floors d₀ e → Floors d₀ (act c e)) : Floors d₀ (d.opCommand n op act) := by
  unfold Dev.opCommand
  exact .command h act'

theorem fetched {c data addr o} (h : Floors d₀ d) (hx : d.fetchImage c data addr = (o, e)) : Floors d₀ e := by
  have hf := h.via (.fetchImage (c := c) (data := data) (addr := addr))
  rwa [hx] at hf

theorem judgeImage {c b act} (h : Floors d₀ d) (act' : ∀ r e, Floors d₀ e → Floors d₀ (act r e)) : Floors d₀ (d.judgeImage c b act) := by
  unfold Dev.judgeImage
  exact ite (h.via .complete) (use (h.via .noteSig) fun h => ite (h.via .complete) (act' _ _ h))

theorem spdmReq {act} (h : Floors d₀ d) (act' : ∀ e, Floors d₀ e → Floors d₀ (act e)) : Floors d₀ (d.spdmReq act) := by
  unfold Dev.spdmReq
  exact ite h (act' _ (h.via .bump))

theorem spdmAt {ver phase act} (h : Floors d₀ d) (act' : ∀ e, Floors d₀ e → Floors d₀ (act e)) : Floors d₀ (d.spdmAt ver phase act) := by
  unfold Dev.spdmAt
  exact .spdmReq h fun _ h => ite (h.via .spdmErr) (ite (h.via .spdmErr) (act' _ h))

theorem inSession {id done act} (h : Floors d₀ d) (act' : ∀ x e, Floors d₀ e → Floors d₀ (act x e)) : Floors d₀ (d.inSession id done act) := by
  unfold Dev.inSession
  refine .spdmReq h fun _ h => ?_
  split
  · exact h.via .spdmErr
  · exact act' _ _ h

theorem ideReq {session bad act} (h : Floors d₀ d) (bad' : ∀ e, Floors d₀ e → Floors d₀ (bad e)) (act' : ∀ e, Floors d₀ e → Floors d₀ (act e)) :
    Floors d₀ (d.ideReq session bad act) := by
  unfold Dev.ideReq
  exact .spdmReq h fun _ h => ite (act' _ h) (bad' _ (h.via .bump))

end Floors

end Sys2Proof.Machine
end

section
/-!
PROOF. No command lowers a fuse floor (O40).
-/

set_option Elab.async false

namespace Sys2Proof.Machine

open Floors

/-- A command that lowers no fuse floor, from every state. -/
def keepsFloors (c : Instr) : Prop := ∀ s, answers c s fun e => Floors s.dev e

variable {c : Instr} {l : List Part} {f : Dev → Dev}

theorem keepsFloors.run (hc : ∀ s, exec c s = s.run f) (h : ∀ d, Floors d (f d)) : keepsFloors c := fun s =>
  ⟨_, hc s, rfl, when (refl.via .quiet) fun hq => hq.step (h s.dev.quiet)⟩

theorem keepsFloors.always (hc : ∀ s, exec c s = s.always f) (h : ∀ d, Floors d (f d)) : keepsFloors c := fun s =>
  ⟨_, hc s, rfl, (refl.via .quiet).step (h s.dev.quiet)⟩

/-- A command that leaves the part alone in which the floors lie. -/
theorem evolvesOnly.floors (h : evolvesOnly l c) (hl : .sec ∉ l := by decide) : keepsFloors c := fun s => by
  obtain ⟨t, hx, hq, he⟩ := h s
  exact ⟨t, hx, hq, refl.via he hl⟩

theorem keepsFloors_imageLoadBoot {n data env} : keepsFloors (.imageLoadBoot n data env) :=
  .run (exec_imageLoadBoot _ _ _) fun _ => .command refl fun _ _ h => by
  split
  · next hx => exact fetched h hx
  · next hx => exact .judgeImage (fetched h hx) fun _ _ h => h.step .askCommit |>.via .setSt |>.via .setPwr |>.step .coldStages

theorem keepsFloors_imageLoadUpdate {n data} : keepsFloors (.imageLoadUpdate n data) :=
  .run (exec_imageLoadUpdate _ _) fun _ => .command refl fun _ _ h => by
  refine ite (h.via .complete) ?_
  split
  · next hx => exact fetched h hx
  · next hx => exact .judgeImage (fetched h hx) fun _ _ h => ite (h.via .complete) (h.step .askCommit |>.via .stageUpdate)

theorem keepsFloors_imageLoadReload {n data env} : keepsFloors (.imageLoadReload n data env) :=
  .run (exec_imageLoadReload _ _ _) fun _ => .command refl fun _ _ h => by
  dsimp only
  split
  · next hx => exact fetched h hx
  · next hx => exact .judgeImage (fetched h hx) fun _ _ h => h.step .beginWarm |>.via .setFld |>.step .warmStages

theorem keepsFloors_program {n missed kiln fwBad certBad e} : keepsFloors (.program n missed kiln fwBad certBad e) :=
  .run (exec_program _ _ _ _ _ _) fun _ => .opCommand refl fun _ _ h =>
  use
      (foldl
          (use (foldl (h.via .ecc |>.via .idleRead |>.via .stage) fun _ _ h => h.via .programTun) fun h => h.via .complete |>.via .stage) fun _ _ h =>
        h.step .kilnUnits |>.step .kilnFinish) fun h =>
  h.step .coldEnd

theorem command_keepsFloors (c : Instr) : keepsFloors c := by
  cases c with
  | tickEmit => exact evolves_tickEmit.floors
  | tickInEdge => exact evolves_tickInEdge.floors
  | tickWindowEnd => exact evolves_tickWindowEnd.floors
  | tickMsg => exact evolves_tickMsg.floors
  | flywheelStart => exact evolves_flywheelStart.floors
  | tickMissHold => exact evolves_tickMissHold.floors
  | frameStart => exact .run (exec_frameStart _) fun _ => refl.via .missHold |>.step .frameStart
  | slotStart => exact evolves_slotStart.floors
  | slotEnd => exact evolves_slotEnd.floors
  | taskComplete => exact evolves_taskComplete.floors
  | fwd => exact evolves_fwd.floors
  | cover => exact evolves_cover.floors
  | spargePeriod => exact evolves_spargePeriod.floors
  | rmWindowClose => exact evolves_rmWindowClose.floors
  | pulseRound => exact evolves_pulseRound.floors
  | pulsePeriod => exact evolves_pulsePeriod.floors
  | pulseRoundEnd => exact evolves_pulseRoundEnd.floors
  | foldComplete => exact evolves_foldComplete.floors
  | kilnUnit => exact .run (exec_kilnUnit _ _ _ _ _) fun _ => refl.via .ecc |>.step .kilnUnit
  | kilnRestore => exact evolves_kilnRestore.floors
  | matmul => exact evolves_matmul.floors
  | move => exact evolves_move.floors
  | gather => exact evolves_gather.floors
  | vprog => exact evolves_vprog.floors
  | assemble => exact evolves_assemble.floors
  | bwdWot => exact evolves_bwdWot.floors
  | attnFwd => exact evolves_attnFwd.floors
  | attnBwd => exact evolves_attnBwd.floors
  | normBwd => exact evolves_normBwd.floors
  | tiesum => exact evolves_tiesum.floors
  | compare => exact evolves_compare.floors
  | lrFit => exact evolves_lrFit.floors
  | rs => exact evolves_rs.floors
  | ag => exact evolves_ag.floors
  | preX => exact evolves_preX.floors
  | notice => exact evolves_notice.floors
  | replay => exact evolves_replay.floors
  | fetch => exact evolves_fetch.floors
  | send => exact evolves_send.floors
  | hostPut => exact evolves_hostPut.floors
  | hostGet => exact evolves_hostGet.floors
  | hostXferCompletion => exact evolves_hostXferCompletion.floors
  | mxcCheck => exact evolves_mxcCheck.floors
  | tunCheck => exact evolves_tunCheck.floors
  | vFma => exact evolves_vFma.floors
  | vAdd => exact evolves_vAdd.floors
  | vMul => exact evolves_vMul.floors
  | vMax => exact evolves_vMax.floors
  | vMin => exact evolves_vMin.floors
  | vSel => exact evolves_vSel.floors
  | vCmplt => exact evolves_vCmplt.floors
  | vExp2 => exact evolves_vExp2.floors
  | vRcp => exact evolves_vRcp.floors
  | vRsq => exact evolves_vRsq.floors
  | vLog2 => exact evolves_vLog2.floors
  | vTwosum => exact evolves_vTwosum.floors
  | vFast2sum => exact evolves_vFast2sum.floors
  | vTwoprod => exact evolves_vTwoprod.floors
  | vCvt => exact evolves_vCvt.floors
  | vCvtTunin => exact evolves_vCvtTunin.floors
  | vRedSum => exact evolves_vRedSum.floors
  | vRedMax => exact evolves_vRedMax.floors
  | vRedMin => exact evolves_vRedMin.floors
  | vKth => exact evolves_vKth.floors
  | vRng => exact evolves_vRng.floors
  | vLd => exact evolves_vLd.floors
  | vSt => exact evolves_vSt.floors
  | vGld => exact evolves_vGld.floors
  | vLoop => exact evolves_vLoop.floors
  | vEnd => exact evolves_vEnd.floors
  | tokenForm => exact evolves_tokenForm.floors
  | tokenMsg => exact evolves_tokenMsg.floors
  | tokenForwardDeadline => exact evolves_tokenForwardDeadline.floors
  | tokenDecideDeadline => exact evolves_tokenDecideDeadline.floors
  | resultMsg => exact evolves_resultMsg.floors
  | reduceMsg => exact evolves_reduceMsg.floors
  | agRx => exact evolves_agRx.floors
  | fetchRx => exact evolves_fetchRx.floors
  | preXRx => exact evolves_preXRx.floors
  | noticeRx => exact evolves_noticeRx.floors
  | packetDeadline => exact evolves_packetDeadline.floors
  | bargeMsg => exact evolves_bargeMsg.floors
  | poundRelease => exact evolves_poundRelease.floors
  | creditMsg => exact evolves_creditMsg.floors
  | permAck => exact evolves_permAck.floors
  | permuteTimeout => exact evolves_permuteTimeout.floors
  | flitRxData => exact .run (exec_flitRxData _ _) fun _ => refl.via (l := offSec) (.flitRx .refl fun _ h => h.step .dataFlit) |>.step .advance
  | flitRxCtrl => exact .run (exec_flitRxCtrl _ _ _ _ _) fun _ => refl.via (l := offSec) (.flitRx .refl fun _ h => h.step .ctrlFlit) |>.step .advance
  | flitRxIdle => exact .run (exec_flitRxIdle _ _) fun _ => refl.via (l := offSec) (.flitRx .refl fun _ h => .ite (h.step .protoError) h) |>.step .advance
  | ackTimeout => exact .run (exec_ackTimeout _) fun _ => refl.via .replay |>.step .advance
  | flitIdleTimeout => exact .run (exec_flitIdleTimeout _) fun _ => refl.via .loseLink |>.step .advance
  | linkLost => exact .run (exec_linkLost _) fun _ => refl.via .loseLink |>.step .advance
  | retrainTimer => exact .run (exec_retrainTimer _) fun _ => refl.via .retrainDue |>.step .advance
  | portTrained => exact evolves_portTrained.floors
  | guardProbe => exact evolves_guardProbe.floors
  | probeMsg => exact evolves_probeMsg.floors
  | echoMsg => exact .run (exec_echoMsg _ _ _ _) fun _ => refl.via (l := offSec) (.bringUpMsg .refl fun _ h => h.step .echo) |>.step .advance
  | parentMsg => exact evolves_parentMsg.floors
  | mgmtMsg => exact evolves_mgmtMsg.floors
  | ringMsg => exact .run (exec_ringMsg _ _) fun _ => refl.via (l := offSec) (.discMsg .refl fun _ h => h.step .ringIn) |>.step .advance
  | assignMsg => exact .run (exec_assignMsg _ _) fun _ => refl.via (l := offSec) (.discMsg .refl fun _ h => h.step .assignIn) |>.step .advance
  | censusMsg => exact .run (exec_censusMsg _ _) fun _ => refl.via (l := offSec) (.discMsg .refl fun _ h => h.step .censusIn) |>.step .advance
  | doneMsg => exact .run (exec_doneMsg _ _) fun _ => refl.via (l := offSec) (.discMsg .refl fun _ h => h.step .doneIn) |>.step .advance
  | confirmMsg => exact .run (exec_confirmMsg _ _) fun _ => refl.via (l := offSec) (.bringUpMsg .refl fun _ h => h.step .confirmIn) |>.step .advance
  | discTestTick => exact evolves_discTestTick.floors
  | discoveryTimeout => exact .run (exec_discoveryTimeout) fun _ => refl.via .discTimeout |>.step .advance
  | hbmRefresh => exact evolves_hbmRefresh.floors
  | hbmTempReport => exact evolves_hbmTempReport.floors
  | bar4Read => exact evolves_bar4Read.floors
  | bar4Write => exact evolves_bar4Write.floors
  | sqTailDoorbell => exact evolves_sqTailDoorbell.floors
  | cqHeadDoorbell => exact evolves_cqHeadDoorbell.floors
  | descriptorFetch => exact evolves_descriptorFetch.floors
  | msixCoalTimeout => exact evolves_msixCoalTimeout.floors
  | nop => exact evolves_nop.floors
  | createSq => exact evolves_createSq.floors
  | createCq => exact evolves_createCq.floors
  | deleteSq => exact evolves_deleteSq.floors
  | deleteCq => exact evolves_deleteCq.floors
  | hello => exact .run (exec_hello _) fun _ => .opCommand refl fun _ _ h => h.step .answerHello
  | query => exact evolves_query.floors
  | counterClear => exact .run (exec_counterClear _) fun _ => .opCommand refl fun _ _ h => h.step .clearCounters |>.via .complete
  | imageLoadBoot => exact keepsFloors_imageLoadBoot
  | imageLoadUpdate => exact keepsFloors_imageLoadUpdate
  | imageLoadReload => exact keepsFloors_imageLoadReload
  | updateStaged => exact .run (exec_updateStaged) fun _ => ite refl (use (refl.via .setFld |>.via .put_mbx) fun h => ite h (h.step .handover))
  | caskRead => exact .run (exec_caskRead _ _ _) fun _ => refl.step .caskRead
  | updateResume => exact .run (exec_updateResume) fun _ => refl.step .frameOf
  | startWarm => exact .run (exec_startWarm _ _) fun _ => .command refl fun _ _ h => h.step .warmStart
  | startCold => exact .run (exec_startCold _ _) fun _ => .command refl fun _ _ h => h.step .beginCold |>.via .romDone
  | discover =>
    exact .run (exec_discover _) fun _ => .opCommand refl fun _ _ h =>
      ite (h.via .complete) (use (ite (h.via .startSize) (h.via .joinDisc)) fun h => h.step .advance)
  | fpLoad => exact evolves_fpLoad.floors
  | fpDiscard => exact evolves_fpDiscard.floors
  | fpArm => exact evolves_fpArm.floors
  | run => exact evolves_run.floors
  | resume => exact evolves_resume.floors
  | startTickReached => exact .run (exec_startTickReached) fun _ => refl.step .frameOf
  | quiesce => exact evolves_quiesce.floors
  | stop => exact evolves_stop.floors
  | permute => exact evolves_permute.floors
  | dmaH2d => exact evolves_dmaH2d.floors
  | dmaD2h => exact evolves_dmaD2h.floors
  | program => exact keepsFloors_program
  | tpackLoad => exact evolves_tpackLoad.floors
  | mbxTx => exact evolves_mbxTx.floors
  | mbxRx => exact evolves_mbxRx.floors
  | mbxLock => exact evolves_mbxLock.floors
  | mbxMsgTimeout => exact evolves_mbxMsgTimeout.floors
  | domainDown => exact evolves_domainDown.floors
  | ping => exact evolves_ping.floors
  | srDoorbell => exact evolves_srDoorbell.floors
  | srEcho => exact evolves_srEcho.floors
  | srVersion => exact evolves_srVersion.floors
  | logLevel => exact evolves_logLevel.floors
  | mgmtSend => exact evolves_mgmtSend.floors
  | caskInfo => exact evolves_caskInfo.floors
  | stickyClear => exact evolves_stickyClear.floors
  | wdogKick => exact evolves_wdogKick.floors
  | wdogExpire => exact evolves_wdogExpire.floors
  | klnReqInterp => exact evolves_klnReqInterp.floors
  | klnReqMeasured => exact evolves_klnReqMeasured.floors
  | portRetrain => exact .run (exec_portRetrain _) fun _ => refl.via .retrain |>.step .advance
  | portDisable => exact .run (exec_portDisable _) fun _ => refl.via .disablePort |>.step .advance
  | memCfgWrite => exact evolves_memCfgWrite.floors
  | adminRingsEnable => exact evolves_adminRingsEnable.floors
  | adminRingsDisable => exact evolves_adminRingsDisable.floors
  | secLock => exact .run (exec_secLock _) fun _ => ite (refl.step .lockSec) refl
  | gauUrg => exact evolves_gauUrg.floors
  | urgentDone => exact evolves_urgentDone.floors
  | gauPwr => exact evolves_gauPwr.floors
  | gauRefChange => exact evolves_gauRefChange.floors
  | refSettled => exact evolves_refSettled.floors
  | scanPassDue => exact evolves_scanPassDue.floors
  | scanEntryDone => exact evolves_scanEntryDone.floors
  | gauMonSel => exact evolves_gauMonSel.floors
  | gauMonClr => exact evolves_gauMonClr.floors
  | gauMonClrAll => exact evolves_gauMonClrAll.floors
  | gauMonCfg => exact evolves_gauMonCfg.floors
  | registerWrite => exact .run (exec_registerWrite _ _ _) fun _ => refl.step .barWrite
  | powerOn => exact .always (exec_powerOn _) fun _ => refl.step .beginCold |>.via .romDone
  | perst => exact .always (exec_perst _ _ _) fun _ => ite refl (refl.step .beginCold |>.via .setFrm |>.via .put_tpMode |>.via .romDone)
  | hotReset => exact .run (exec_hotReset _) fun _ => refl.step .functionReset
  | flr => exact .run (exec_flr _) fun _ => refl.step .functionReset
  | railFault => exact evolves_railFault.floors
  | thermalHold => exact evolves_thermalHold.floors
  | thermalRelease => exact evolves_thermalRelease.floors
  | thermalTrip => exact evolves_thermalTrip.floors
  | pciePowerState => exact evolves_pciePowerState.floors
  | ideIntegrityFail => exact .run (exec_ideIntegrityFail) fun _ => ite (refl.via .bump |>.step .loseIde) refl
  | getVersion => exact .run (exec_getVersion) fun _ => .spdmReq refl fun _ h => h.step .setSec |>.via .spdm
  | getCapabilities => exact .run (exec_getCapabilities _) fun _ => .spdmAt refl fun _ h => h.step .setSec |>.via .spdm
  | negotiateAlgorithms => exact .run (exec_negotiateAlgorithms _ _ _ _ _) fun _ => .spdmAt refl fun _ h => ite (h.via .spdmErr) (h.step .setSec |>.via .spdm)
  | getDigests => exact evolves_getDigests.floors
  | getCertificate => exact evolves_getCertificate.floors
  | challenge => exact evolves_challenge.floors
  | getMeasurements => exact evolves_getMeasurements.floors
  | keyExchange =>
    exact .run (exec_keyExchange _ _ _ _) fun _ => .spdmAt refl fun _ h =>
      ite (h.via .spdmErr) (ite (h.via .spdmErr) (h.step .setSessions |>.step .setSec |>.via .secretBytes |>.via .secretBytes |>.via .spdm))
  | finish => exact .run (exec_finish _ _) fun _ => .inSession refl fun _ _ h => ite (h.step .onSession |>.via .spdm) (h.step .endSession |>.via .spdmErr)
  | heartbeat => exact evolves_heartbeat.floors
  | keyUpdate => exact .run (exec_keyUpdate _ _ _) fun _ => .inSession refl fun _ _ h => ite (h.via .spdmErr) (h.step .onSession |>.via .spdm)
  | endSession => exact .run (exec_endSession _) fun _ => .inSession refl fun _ _ h => h.step .endSession |>.via .spdm
  | ideKmQuery => exact evolves_ideKmQuery.floors
  | keyProg =>
    exact .run (exec_keyProg _ _ _ _ _) fun _ => .ideReq refl (fun _ h => h.via .ideRsp) fun _ h =>
      ite (h.via .bump |>.via .ideRsp) (h.step .setSec |>.via .setIde |>.via .ideRsp)
  | kSetGo =>
    exact .run (exec_kSetGo _ _ _ _) fun _ => .ideReq refl (fun _ h => h.via .spdm) fun _ h =>
      use (ite (h.step .setSec |>.via .setIde) h) fun h => h.via .ideRsp
  | kSetStop => exact .run (exec_kSetStop _ _ _ _) fun _ => .ideReq refl (fun _ h => h.via .spdm) fun _ h => h.step .setSec |>.via .setIde |>.via .ideRsp
  | tpRefresh => exact evolves_tpRefresh.floors
  | tpMbxTx => exact evolves_tpMbxTx.floors
  | tpMbxRx => exact evolves_tpMbxRx.floors
  | powerLoss => exact .always exec_powerLoss fun _ => refl.step .coldState |>.via .setFld
  | vddioRestored => exact evolves_vddioRestored.floors
  | pcieLinkTraining => exact evolves_pcieLinkTraining.floors
  | lowerHalfRead => exact evolves_lowerHalfRead.floors
  | spdmUnsupportedRequest => exact evolves_spdmUnsupportedRequest.floors

/-- Settles O40: every function that changes the part `sec` keeps the floors or raises them (`Dev.burnFloors`). -/
theorem fuseFloorsNeverFall : Obligations.FuseFloorsNeverFall := fun c s => by
  obtain ⟨t, hx, hq, hfloors⟩ := command_keepsFloors c s
  exact ⟨t, hx, hq, hfloors.fw, hfloors.cert⟩

end Sys2Proof.Machine
end

section
/-!
PROOF. The host commands that the command processor completes at once (O43): where a completion entry goes, and what a device has sent
stays sent while it completes commands.
-/

set_option Elab.async false

namespace Sys2Proof.Machine

/-! ### What has been sent stays sent -/

/-- A device that writes a trace record, before it counts that the record buffer has wrapped. -/
def Dev.traces (d : Dev) (point src arg0 arg1 : Nat) : Dev :=
  let head := d.fld Reg.MBX_TRACE_HEAD_COUNT
  let ts := if d.frm.acquired then d.fld Reg.FRM_TICK_NUM_NUM * 65536 + Config.free d.draws % 65536 else 0
  let d := d.write (d.fwRegion + 0x0D000000 + 32 * (head % 2097152))
    (natLe 8 ts ++ natLe 4 d.mbx.traceSeq ++ natLe 1 point ++ natLe 1 src ++ [0, 0] ++ natLe 8 arg0 ++ natLe 8 arg1)
  { d.setFld Reg.MBX_TRACE_HEAD_COUNT (head + 1) with
    draws := d.draws + 1, mbx := { d.mbx with traceSeq := (d.mbx.traceSeq + 1) % 2 ^ 32 } }

theorem Dev.trace_eq (d : Dev) (point src arg0 arg1 : Nat) : d.trace point src arg0 arg1 =
    if bit (d.fld (Reg.MBX_TRACE_MASK_EN (point / 64))) (point % 64) then
      (if (d.fld Reg.MBX_TRACE_HEAD_COUNT + 1) % 2097152 = 0 then (d.traces point src arg0 arg1).bump Cnt.MBX_TRACE_WRAP_CNT
        else d.traces point src arg0 arg1)
    else d := rfl

theorem Dev.traces_out (d : Dev) (point src arg0 arg1 : Nat) : (d.traces point src arg0 arg1).out = d.out := by
  unfold Dev.traces
  dsimp only
  rw [Dev.setFld_out, Dev.write_out]

theorem Dev.trace_out (d : Dev) (point src arg0 arg1 : Nat) : (d.trace point src arg0 arg1).out = d.out := by
  rw [Dev.trace_eq]
  split
  · split
    · exact (Dev.bump_out ..).trans (Dev.traces_out ..)
    · exact Dev.traces_out ..
  · rfl

theorem Dev.take_out (d : Dev) (c : Cmd) : (d.take c).out = d.out := by
  unfold Dev.take
  refine (Dev.trace_out ..).trans ?_
  split <;> rfl

theorem Dev.mem_out_fire {d : Dev} {o : Out} (h : o ∈ d.out) (v : Nat) : o ∈ (d.fire v).out := by
  unfold Dev.fire
  split
  · exact h
  · split
    · exact h
    · exact List.mem_append_left _ h

theorem Dev.mem_out_post {d : Dev} {o : Out} (h : o ∈ d.out) (n : Nat) (r : Bool) (b : List Byte) : o ∈ (d.post n r b).out := by
  unfold Dev.post
  split
  · exact h
  · split
    · exact h
    · dsimp only
      split
      · exact Dev.mem_out_fire (List.mem_append_left _ h) _
      · exact List.mem_append_left _ h

theorem Dev.mem_out_postHeld {d : Dev} {o : Out} (h : o ∈ d.out) (n : Nat) (b : List Byte) : o ∈ (d.postHeld n b).out := by
  unfold Dev.postHeld
  split
  · exact Dev.mem_out_post h ..
  · exact h

/-- A command that leaves the commands in progress, before its completion entry. -/
def Dev.leave (d : Dev) (c : Cmd) (st : Status) : Dev :=
  let d := (d.setHif fun h => { h with prog := h.prog.erase c }).trace 129 0 (c.cid + 65536 * c.sq + 2 ^ 32 * c.op) st.code
  let d := if (d.cq c.cq).isSome then d.bump Cnt.HIF_CMD_CNT else d
  match st with
  | .stateReject => d.bump Cnt.HIF_STATE_REJ_CNT
  | .badArg => d.bump Cnt.HIF_BAD_ARG_CNT
  | _ => d

theorem Dev.finish_eq (d : Dev) (c : Cmd) (st : Status) (i0 i1 i2 : Nat) :
    d.finish c st i0 i1 i2 = (d.leave c st).postHeld c.cq (cqEntry c.cid c.sq c.sqHead st.code 0 i0 i1 i2) := rfl

theorem Dev.leave_out (d : Dev) (c : Cmd) (st : Status) : (d.leave c st).out = d.out := by
  unfold Dev.leave
  cases st <;> dsimp only <;> split <;> exact Dev.trace_out ..

theorem Dev.leave_hif (d : Dev) (c : Cmd) (st : Status) : (d.leave c st).hif = { d.hif with prog := d.hif.prog.erase c } := by
  unfold Dev.leave
  cases st <;> dsimp only <;> split <;> exact Evolves.trace.keeps .hif (by decide)

theorem Dev.mem_out_finish {d : Dev} {o : Out} (h : o ∈ d.out) (c : Cmd) (st : Status) (i0 i1 i2 : Nat) : o ∈ (d.finish c st i0 i1 i2).out :=
  Dev.mem_out_postHeld ((Dev.leave_out d c st).symm ▸ h) ..

theorem Dev.mem_out_sweepN {d : Dev} {o : Out} (h : o ∈ d.out) (n : Nat) : o ∈ (d.sweepN n).out := by
  induction n generalizing d with
  | zero => exact h
  | succ n ih =>
    unfold Dev.sweepN
    split
    · exact ih (Dev.mem_out_finish ((Dev.take_out ..).symm ▸ h) ..)
    · split
      · exact ih (Dev.mem_out_finish (d := Dev.setSq d _ none) h ..)
      · exact h

/-! ### The completion entry (R353) -/

theorem cqEntry_flags (cid sqid sqHead status flags i0 i1 i2 : Nat) :
    (cqEntry cid sqid sqHead status flags i0 i1 i2).getD 7 0 = BitVec.ofNat 8 flags := by
  simp [cqEntry, natLe]

/-- A reserved entry is written at its ring's present place; the phase bit is in its last byte but one dword. -/
theorem Dev.post_writes {d : Dev} {n : Nat} {q : Cq} (hq : d.cq n = some q) (b : List Byte) :
    ∃ bytes, Out.hostWrite (q.base + 32 * q.pos) bytes ∈ (d.post n true b).out ∧ bytes.take 7 = b.take 7 := by
  refine ⟨if q.phase then b.set 7 (BitVec.ofNat 8 ((b.getD 7 0).toNat + 1)) else b, ?_, ?_⟩
  · unfold Dev.post
    rw [hq]
    simp only [Bool.not_true, Bool.false_and, Bool.false_eq_true, ↓reduceIte]
    split
    · exact Dev.mem_out_fire (List.mem_append_right _ (List.mem_singleton_self _)) _
    · exact List.mem_append_right _ (List.mem_singleton_self _)
  · split
    · exact List.take_set_of_le (Nat.le_refl 7)
    · rfl

/-- In D0 a command in progress is completed with an entry at its ring's present place. -/
theorem Dev.complete_writes {d : Dev} {c : Cmd} {q : Cq} (hq : d.cq c.cq = some q) (hp : d.hif.power = 0) (st : Status) (i0 i1 i2 : Nat) :
    ∃ bytes, Out.hostWrite (q.base + 32 * q.pos) bytes ∈ (d.complete c st i0 i1 i2).out ∧
      bytes.take 7 = (cqEntry c.cid c.sq c.sqHead st.code 0 0 0 0).take 7 := by
  have hleft : (d.leave c st).cq c.cq = some q := (congrArg (fun h : Hif => SMap.get (fun _ => none) h.cqs c.cq) (Dev.leave_hif d c st)).trans hq
  have hpower : (d.leave c st).hif.power = 0 := (congrArg Hif.power (Dev.leave_hif d c st)).trans hp
  obtain ⟨bytes, hout, hbytes⟩ := Dev.post_writes hleft (cqEntry c.cid c.sq c.sqHead st.code 0 i0 i1 i2)
  refine ⟨bytes, Dev.mem_out_sweepN ?_ _, hbytes.trans ?_⟩
  · rw [Dev.finish_eq, Dev.postHeld, if_pos hpower, cqEntry_flags]
    exact hout
  · simp [cqEntry, natLe]

/-! ### Dispatch (R352, R357) -/

/-- A command that passes every test acts on the device that took it. -/
theorem Dev.command_dispatched {d : Dev} {n : Nat} {c : Cmd} {kind : Cmd → Bool} (h : d.dispatches n c) (hk : kind c = true) (act : Cmd → Dev → Dev) :
    d.command n kind act = act c (d.take c) := by
  obtain ⟨hhead, hturn, -, hres, hst, hallow, hrange, hacisk⟩ := h
  have hst : (d.take c).st ≠ DS.refused := fun h =>
    hst (((Reading.offQueues_fld (f := Reg.HIF_STATE_STATE) (by decide)).take .refl).fld_eq.symm.trans h)
  unfold Dev.command
  rw [hhead]
  simp [hk, hturn, hres, hst, hallow, hrange, hacisk]

theorem Dev.cq_setCq_same (d : Dev) (n : Nat) (q : Option Cq) : (d.setCq n q).cq n = q :=
  SMap.get_set_same (β := Option Cq) (fun _ => none) d.hif.cqs n q

theorem Dev.cq_setCq_other (d : Dev) {n m : Nat} (q : Option Cq) (h : m ≠ n) : (d.setCq n q).cq m = d.cq m :=
  SMap.get_set_other (β := Option Cq) (fun _ => none) d.hif.cqs n m q h

/-- A device that takes a command for a ring that is there, before the trace record. -/
def Dev.seats (d : Dev) (c : Cmd) (q : Cq) : Dev :=
  (d.setHif fun h => { h with ready := h.ready.erase c, prog := h.prog ++ [c], lastSq := c.sq }).setCq c.cq (some { q with reserved := q.reserved + 1 })

theorem Dev.take_eq {d : Dev} {c : Cmd} {q : Cq} (hq : d.cq c.cq = some q) :
    d.take c = (d.seats c q).trace 128 0 (c.cid + 65536 * c.sq + 2 ^ 32 * c.op) 0 := by
  have hring : (d.setHif fun h => { h with ready := h.ready.erase c, prog := h.prog ++ [c], lastSq := c.sq }).cq c.cq = some q := hq
  unfold Dev.take
  dsimp only
  rw [hring]
  rfl

theorem Dev.take_power {d : Dev} {c : Cmd} {q : Cq} (hq : d.cq c.cq = some q) : (d.take c).hif.power = d.hif.power := by
  rw [Dev.take_eq hq, Evolves.trace.keeps .hif (by decide)]
  rfl

/-- The entry of a command that is taken is reserved at its ring's present place. -/
theorem Dev.take_cq {d : Dev} {c : Cmd} {q : Cq} (hq : d.cq c.cq = some q) : (d.take c).cq c.cq = some { q with reserved := q.reserved + 1 } := by
  rw [Dev.take_eq hq, Dev.cq, Evolves.trace.keeps .hif (by decide)]
  exact Dev.cq_setCq_same ..

/-- What a device has sent changes nothing in what it records, takes and dispatches. -/
theorem Dev.quiet_traces (d : Dev) (point src arg0 arg1 : Nat) : d.quiet.traces point src arg0 arg1 = (d.traces point src arg0 arg1).quiet := rfl

theorem Dev.quiet_bump (d : Dev) (c : Nat) : d.quiet.bump c = (d.bump c).quiet := rfl

theorem Dev.quiet_trace (d : Dev) (point src arg0 arg1 : Nat) : d.quiet.trace point src arg0 arg1 = (d.trace point src arg0 arg1).quiet := by
  rw [Dev.trace_eq, Dev.trace_eq, Dev.quiet_traces, Dev.quiet_bump, apply_ite Dev.quiet, apply_ite Dev.quiet]
  rfl

theorem Dev.quiet_take {d : Dev} {c : Cmd} {q : Cq} (hq : d.cq c.cq = some q) : d.quiet.take c = (d.take c).quiet := by
  rw [Dev.take_eq hq, Dev.take_eq (d := d.quiet) hq, ← Dev.quiet_trace]
  rfl

theorem Dev.dispatches.quiet {d : Dev} {n : Nat} {c : Cmd} {q : Cq} (h : d.dispatches n c) (hq : d.cq c.cq = some q) : d.quiet.dispatches n c := by
  obtain ⟨hhead, hturn, hcan, hres, hst, hallow, hrange, hacisk⟩ := h
  refine ⟨hhead, hturn, hcan, hres, hst, ?_, ?_, ?_⟩ <;> rw [Dev.quiet_take hq]
  · exact hallow
  · exact hrange
  · exact hacisk

/-- A command that passes every test writes its entry, where its act leaves its own ring and the power state alone. -/
theorem dispatched_writes {i : Instr} {s : State} {n op : Nat} {c : Cmd} {q : Cq} {act : Cmd → Dev → Dev} {i0 i1 i2 : Cmd → Dev → Nat}
    (hi : exec i s = s.run fun d => d.opCommand n op fun c d => (act c d).complete c .done (i0 c d) (i1 c d) (i2 c d))
    (hp : s.dev.powered = true) (hpower : s.dev.hif.power = 0) (hd : s.dev.dispatches n c) (hq : s.dev.cq c.cq = some q) (hop : c.op = op)
    (hact : ∀ t : Dev, t.inRange c = true → (t.cq c.cq).isSome → (act c t).cq c.cq = t.cq c.cq ∧ (act c t).hif.power = t.hif.power) :
    answers i s fun e => ∃ bytes, Out.hostWrite (q.base + 32 * q.pos) bytes ∈ e.out ∧
      bytes.take 7 = (cqEntry c.cid c.sq c.sqHead Status.done.code 0 0 0 0).take 7 := by
  have hd := hd.quiet hq
  obtain ⟨-, -, -, -, -, -, hrange, -⟩ := id hd
  have htaken : (s.dev.quiet.take c).cq c.cq = some { q with reserved := q.reserved + 1 } := Dev.take_cq hq
  obtain ⟨hring, hsame⟩ := hact _ hrange (by rw [htaken]; rfl)
  refine answers_run_eq hi hp (Dev.command_dispatched (kind := fun c => c.op == op) hd (beq_iff_eq.mpr hop) _) ?_
  exact Dev.complete_writes (hring.trans htaken) (hsame.trans ((Dev.take_power (d := s.dev.quiet) hq).trans hpower)) ..

/-- Settles O43: none of the five acts changes the ring that its entry goes to; a ring that CREATE_CQ makes is a new one. -/
theorem hostCommandsComplete : Obligations.HostCommandsComplete := by
  intro n c q s hp hpower hd hq p hmem hop
  simp only [List.mem_cons, List.not_mem_nil, or_false] at hmem
  obtain rfl | rfl | rfl | rfl | rfl := hmem
  · exact dispatched_writes (act := fun _ d => d) (exec_nop n s) hp hpower hd hq hop fun _ _ _ => ⟨rfl, rfl⟩
  · exact dispatched_writes (exec_createSq n s) hp hpower hd hq hop fun _ _ _ => ⟨rfl, rfl⟩
  · refine dispatched_writes (exec_createCq n s) hp hpower hd hq hop fun t hrange hring => ⟨Dev.cq_setCq_other _ _ fun hsame => ?_, rfl⟩
    simp only [Dev.inRange, hop] at hrange
    simp_all
  · exact dispatched_writes (act := fun _ d => d) (exec_query n s) hp hpower hd hq hop fun _ _ _ => ⟨rfl, rfl⟩
  · exact dispatched_writes (exec_counterClear n s) hp hpower hd hq hop fun _ _ _ => ⟨rfl, rfl⟩

end Sys2Proof.Machine
end

section
/-!
PROOF. Rings (R349 to R356, R366): what the command processor's own completions keep of the rings.
-/

set_option Elab.async false

namespace Sys2Proof.Machine

/-! ### What a completion keeps of the rings -/

/-- The head of a completion ring, where the ring is. -/
def Dev.headAt (d : Dev) (n : Nat) : Option Nat := (d.cq n).map Cq.head

theorem Dev.headAt_congr {d e : Dev} (h : e.hif.cqs = d.hif.cqs) (n : Nat) : e.headAt n = d.headAt n := by
  rw [Dev.headAt, Dev.cq, h, Dev.headAt, Dev.cq]

/-- A ring that is written with its head kept. -/
theorem Dev.headAt_setCq {d : Dev} {k : Nat} {q p : Cq} (hq : d.cq k = some q) (hp : p.head = q.head) (n : Nat) :
    (d.setCq k (some p)).headAt n = d.headAt n := by
  unfold Dev.headAt
  by_cases hn : n = k
  · subst hn
    rw [Dev.cq_setCq_same, hq]
    exact congrArg some hp
  · rw [Dev.cq_setCq_other d _ hn]

theorem Dev.fire_cqs (d : Dev) (v : Nat) : (d.fire v).hif.cqs = d.hif.cqs := by
  unfold Dev.fire
  split
  · rfl
  · split <;> rfl

theorem Dev.fire_sqs (d : Dev) (v : Nat) : (d.fire v).hif.sqs = d.hif.sqs := by
  unfold Dev.fire
  split
  · rfl
  · split <;> rfl

theorem Dev.headAt_post (d : Dev) (k : Nat) (r : Bool) (b : List Byte) (n : Nat) : (d.post k r b).headAt n = d.headAt n := by
  unfold Dev.post
  split
  · rfl
  · rename_i q hq
    split
    · rfl
    · refine .trans ?_ (Dev.headAt_setCq hq (p := { q with
        pos := if q.pos + 1 == q.size then 0 else q.pos + 1
        phase := if q.pos + 1 == q.size then !q.phase else q.phase
        reserved := if r then q.reserved - 1 else q.reserved
        unsig := if q.coalCount == 0 || q.coalUs == 0 || q.coalCount ≤ q.unsig + 1 then 0 else q.unsig + 1 }) rfl n)
      dsimp only
      split
      · exact Dev.headAt_congr (Dev.fire_cqs _ _) n
      · rfl

theorem Dev.post_sqs (d : Dev) (k : Nat) (r : Bool) (b : List Byte) : (d.post k r b).hif.sqs = d.hif.sqs := by
  unfold Dev.post
  split
  · rfl
  · split
    · rfl
    · dsimp only
      split
      · exact Dev.fire_sqs _ _
      · rfl

theorem Dev.headAt_finish (d : Dev) (c : Cmd) (st : Status) (i0 i1 i2 n : Nat) : (d.finish c st i0 i1 i2).headAt n = d.headAt n := by
  have hleft : (d.leave c st).headAt n = d.headAt n := Dev.headAt_congr (by rw [Dev.leave_hif]) n
  rw [Dev.finish_eq, Dev.postHeld]
  split
  · exact (Dev.headAt_post ..).trans hleft
  · exact hleft

theorem Dev.finish_sqs (d : Dev) (c : Cmd) (st : Status) (i0 i1 i2 : Nat) : (d.finish c st i0 i1 i2).hif.sqs = d.hif.sqs := by
  have hleft : (d.leave c st).hif.sqs = d.hif.sqs := by rw [Dev.leave_hif]
  rw [Dev.finish_eq, Dev.postHeld]
  split
  · exact (Dev.post_sqs ..).trans hleft
  · exact hleft

theorem Dev.take_none {d : Dev} {c : Cmd} (h : d.cq c.cq = none) : d.take c =
    (d.setHif fun h => { h with ready := h.ready.erase c, prog := h.prog ++ [c], lastSq := c.sq }).trace 128 0 (c.cid + 65536 * c.sq + 2 ^ 32 * c.op) 0 := by
  have hring : (d.setHif fun h => { h with ready := h.ready.erase c, prog := h.prog ++ [c], lastSq := c.sq }).cq c.cq = none := h
  unfold Dev.take
  dsimp only
  rw [hring]

theorem Dev.headAt_take (d : Dev) (c : Cmd) (n : Nat) : (d.take c).headAt n = d.headAt n := by
  cases hq : d.cq c.cq with
  | none =>
    rw [Dev.take_none hq, Dev.headAt_congr (congrArg Hif.cqs (Evolves.trace.keeps .hif (by decide)))]
    rfl
  | some q =>
    rw [Dev.take_eq hq, Dev.headAt_congr (congrArg Hif.cqs (Evolves.trace.keeps .hif (by decide)))]
    unfold Dev.seats
    refine (Dev.headAt_setCq (q := q) (p := { q with reserved := q.reserved + 1 }) ?_ rfl n).trans rfl
    exact hq

theorem Dev.take_sqs (d : Dev) (c : Cmd) : (d.take c).hif.sqs = d.hif.sqs := by
  cases hq : d.cq c.cq with
  | none =>
    rw [Dev.take_none hq, Evolves.trace.keeps .hif (by decide)]
    rfl
  | some q =>
    rw [Dev.take_eq hq, Evolves.trace.keeps .hif (by decide)]
    rfl

/-- What taking, finishing and deleting keep, what follows by itself keeps. -/
theorem Dev.sweepN_induction {P : Dev → Prop} (take : ∀ d c, P d → P (d.take c)) (finish : ∀ d c st, P d → P (d.finish c st 0 0 0))
    (delete : ∀ d n, P d → P (d.setSq n none)) {d : Dev} (h : P d) (n : Nat) : P (d.sweepN n) := by
  induction n generalizing d with
  | zero => exact h
  | succ n ih =>
    unfold Dev.sweepN
    split
    · exact ih (finish _ _ _ (take _ _ h))
    · split
      · exact ih (finish _ _ _ (delete _ _ h))
      · exact h

theorem Dev.headAt_sweep (d : Dev) (n : Nat) : d.sweep.headAt n = d.headAt n :=
  Dev.sweepN_induction (P := fun e => e.headAt n = d.headAt n) (fun _ _ h => (Dev.headAt_take ..).trans h) (fun _ _ _ h => (Dev.headAt_finish ..).trans h)
    (fun _ _ h => h) rfl _

theorem Dev.sq_setSq_none {d : Dev} {n : Nat} (h : d.sq n = none) (k : Nat) : (d.setSq k none).sq n = none := by
  by_cases hn : n = k
  · subst hn; exact SMap.get_set_same (β := Option Sq) (fun _ => none) d.hif.sqs n none
  · exact (SMap.get_set_other (β := Option Sq) (fun _ => none) d.hif.sqs k n none hn).trans h

/-- No submission ring appears by itself. -/
theorem Dev.sweep_sq_none {d : Dev} {n : Nat} (h : d.sq n = none) : d.sweep.sq n = none :=
  Dev.sweepN_induction (P := fun e => e.sq n = none)
    (fun e c h => (congrArg (SMap.get (fun _ => none) · n) (Dev.take_sqs e c)).trans h)
    (fun e c st h => (congrArg (SMap.get (fun _ => none) · n) (Dev.finish_sqs e c st 0 0 0)).trans h)
    (fun _ k h => Dev.sq_setSq_none h k) h _

/-- A command just fetched that is sound waits for its turn. -/
theorem Dev.sweep_fetched {d : Dev} {c : Cmd} (hready : d.hif.ready = [c]) (hprog : d.hif.prog = []) (hsound : c.reservedBad = false) : d.sweep = d := by
  have hturn : d.atTurn.filter Cmd.reservedBad = none := by
    rw [Option.filter_eq_none_iff]
    intro x hx
    have hone : x = c := by
      rw [Dev.atTurn, hready] at hx
      simp only [List.filter_cons, List.filter_nil] at hx
      split at hx
      · exact (Option.some.inj hx).symm
      · exact nomatch hx
    rw [hone, hsound]
    exact Bool.false_ne_true
  rw [Dev.sweep, hready, hprog]
  simp only [List.length_singleton, List.length_nil, Dev.sweepN, hturn, hprog, List.find?_nil]

/-! ### Doorbells (R351) -/

theorem Dev.bar2Write_whole {d : Dev} (act : Dev → Dev) : d.bar2Write true act = act d := by
  rw [Dev.bar2Write, Bool.not_true, Bool.and_false, if_neg Bool.false_ne_true]

theorem Dev.bar2Write_part {d : Dev} (hp : d.hif.power = 0) (act : Dev → Dev) : d.bar2Write false act = d.bump Cnt.HIF_DB_ERR_CNT := by
  rw [Dev.bar2Write, decide_eq_true hp]
  rfl

theorem Dev.tailDoorbell_none {d : Dev} {n v : Nat} (hp : d.hif.power = 0) (h : d.sq n = none) : d.tailDoorbell n v = d.bump Cnt.HIF_DB_ERR_CNT := by
  rw [Dev.tailDoorbell, if_neg (not_not.mpr hp), h]

/-- A tail within the ring's free entries is taken, any other is counted. -/
theorem Dev.tailDoorbell_some {d : Dev} {n v : Nat} {q : Sq} (hp : d.hif.power = 0) (h : d.sq n = some q) :
    d.tailDoorbell n v = if v < q.size ∧ (q.tail + q.size - q.fetch) % q.size + (v + q.size - q.tail) % q.size < q.size then
      d.setSq n (some { q with tail := v }) else d.bump Cnt.HIF_DB_ERR_CNT := by
  rw [Dev.tailDoorbell, if_neg (not_not.mpr hp), h]
  dsimp only
  split
  case isTrue hout => exact (if_neg (by omega)).symm
  case isFalse hin => exact (if_pos (by omega)).symm

theorem Dev.headDoorbell_none {d : Dev} {n v : Nat} (hp : d.hif.power = 0) (h : d.cq n = none) : d.headDoorbell n v = d.bump Cnt.HIF_DB_ERR_CNT := by
  rw [Dev.headDoorbell, if_neg (not_not.mpr hp), h]

/-- A head within the written entries is taken, any other is counted. -/
theorem Dev.headDoorbell_some {d : Dev} {n v : Nat} {q : Cq} (hp : d.hif.power = 0) (h : d.cq n = some q) :
    d.headDoorbell n v = if v < q.size ∧ (v + q.size - q.head) % q.size ≤ (q.pos + q.size - q.head) % q.size then
      (d.setCq n (some { q with head := v })).sweep else d.bump Cnt.HIF_DB_ERR_CNT := by
  rw [Dev.headDoorbell, if_neg (not_not.mpr hp), h]
  dsimp only
  split
  case isTrue hout => exact (if_neg (by omega)).symm
  case isFalse hin => exact (if_pos (by omega)).symm

theorem Dev.sq_setSq_same (d : Dev) (n : Nat) (q : Option Sq) : (d.setSq n q).sq n = q :=
  SMap.get_set_same (β := Option Sq) (fun _ => none) d.hif.sqs n q

theorem tailDoorbell_answers {s : State} (hp : s.dev.powered = true) (hpower : s.dev.hif.power = 0) (n : Fin 65536) (v : BitVec 64) {q : Sq}
    (hq : s.dev.sq n = some q) :
    if v.toNat < q.size ∧ (q.tail + q.size - q.fetch) % q.size + (v.toNat + q.size - q.tail) % q.size < q.size then
      answers (.sqTailDoorbell n v true) s fun e => e.sq n = some { q with tail := v.toNat }
    else exec (.sqTailDoorbell n v true) s = .next ⟨s.dev.quiet.bump Cnt.HIF_DB_ERR_CNT, s.pending⟩ := by
  have hrun := (Dev.bar2Write_whole fun d => d.tailDoorbell n v.toNat).trans (Dev.tailDoorbell_some (d := s.dev.quiet) (v := v.toNat) hpower hq)
  split
  case isTrue h => exact answers_run_eq (exec_sqTailDoorbell n v true s) hp (hrun.trans (if_pos h)) (Dev.sq_setSq_same ..)
  case isFalse h => exact exec_run_eq (exec_sqTailDoorbell n v true s) hp (hrun.trans (if_neg h))

theorem headDoorbell_answers {s : State} (hp : s.dev.powered = true) (hpower : s.dev.hif.power = 0) (n : Fin 4096) (v : BitVec 64) {q : Cq}
    (hq : s.dev.cq n = some q) :
    if v.toNat < q.size ∧ (v.toNat + q.size - q.head) % q.size ≤ (q.pos + q.size - q.head) % q.size then
      answers (.cqHeadDoorbell n v true) s fun e => ∃ r, e.cq n = some r ∧ r.head = v.toNat
    else exec (.cqHeadDoorbell n v true) s = .next ⟨s.dev.quiet.bump Cnt.HIF_DB_ERR_CNT, s.pending⟩ := by
  have hrun := (Dev.bar2Write_whole fun d => d.headDoorbell n v.toNat).trans (Dev.headDoorbell_some (d := s.dev.quiet) (v := v.toNat) hpower hq)
  split
  case isTrue h =>
    refine answers_run_eq (exec_cqHeadDoorbell n v true s) hp (hrun.trans (if_pos h)) (Option.map_eq_some_iff.mp ((Dev.headAt_sweep ..).trans ?_))
    rw [Dev.headAt, Dev.cq_setCq_same]
    rfl
  case isFalse h => exact exec_run_eq (exec_cqHeadDoorbell n v true s) hp (hrun.trans (if_neg h))

/-! ### Fetch and coalescing (R352, R354, R356) -/

theorem Dev.fetchDesc_ready {d : Dev} {n : Nat} {q : Sq} (hp : d.hif.power = 0) (hq : d.sq n = some q) (hst : DS.awaitImage ≤ d.st)
    (hide : d.ideBlocked = false) (hne : q.fetch ≠ q.tail) (hdel : ∀ c ∈ d.hif.prog, c.op = 3 → c.par 1 ≠ n) (data : Option (List Byte)) :
    d.fetchDesc n data = (let h := (q.fetch + 1) % q.size
      let d := d.setSq n (some { q with fetch := h })
      match data with
      | none => (d.bump Cnt.HIF_DMA_ERR_CNT).post q.cq false (cqEntry 0xFFFF n h Status.aborted.code 0 0 0 0)
      | some b => (d.setHif fun x => { x with ready := x.ready ++ [parseCmd n q.cq h b] }).sweep) := by
  have hopen : ¬ (d.st < DS.awaitImage || d.hif.power != 0 || d.ideBlocked || q.fetch == q.tail ||
      d.hif.prog.any (fun c => c.op == 3 && c.par 1 == n)) = true := by
    have hany : (d.hif.prog.any fun c => c.op == 3 && c.par 1 == n) = false := by
      simp only [List.any_eq_false, Bool.and_eq_true, beq_iff_eq, not_and]
      exact hdel
    simp [hany, hide, hp, hne, hst]
  rw [Dev.fetchDesc, hq]
  exact if_neg hopen

theorem Dev.post_dmaErr (d : Dev) (n : Nat) (r : Bool) (b : List Byte) : (d.post n r b).count Cnt.HIF_DMA_ERR_CNT = d.count Cnt.HIF_DMA_ERR_CNT := by
  have hg : (Reading.count Cnt.HIF_DMA_ERR_CNT).offQueues := Reading.offQueues_count (by decide)
  unfold Dev.post
  refine Reading.same.count_eq ?_
  split
  · exact hg.bump .refl
  · exact .ite (hg.bump .refl) (.when (hg.via (hg.via .refl .setCq) .emit) fun h => hg.via h .fire)

/-- A fetch takes the next descriptor, or is counted where it fails. -/
theorem descriptorFetch_answers {s : State} (hp : s.dev.powered = true) (hpower : s.dev.hif.power = 0) (n : Fin 65536) {q : Sq}
    (hq : s.dev.sq n = some q) (hst : DS.awaitImage ≤ s.dev.st) (hide : s.dev.ideBlocked = false) (hne : q.fetch ≠ q.tail)
    (hdel : ∀ c ∈ s.dev.hif.prog, c.op = 3 → c.par 1 ≠ n.val) :
    let h := (q.fetch + 1) % q.size
    answers (.descriptorFetch n none) s (fun e => e.count Cnt.HIF_DMA_ERR_CNT = min cntMax (s.dev.count Cnt.HIF_DMA_ERR_CNT + 1) ∧
      e.sq n = some { q with fetch := h }) ∧
    ∀ b : List Byte, s.dev.hif.ready = [] → s.dev.hif.prog = [] → (parseCmd n q.cq h b).reservedBad = false →
      answers (.descriptorFetch n (some b)) s fun e => e.hif.ready = [parseCmd n q.cq h b] ∧ e.sq n = some { q with fetch := h } := by
  have hrun := Dev.fetchDesc_ready (d := s.dev.quiet) hpower hq hst hide hne hdel
  refine ⟨answers_run_eq (exec_descriptorFetch n none s) hp (hrun none) ⟨?_, ?_⟩, fun b hready hprog hsound =>
    answers_run_eq (exec_descriptorFetch n (some b) s) hp ((hrun (some b)).trans (Dev.sweep_fetched ?_ hprog hsound))
      ⟨?_, Dev.sq_setSq_same s.dev.quiet n (some _)⟩⟩
  · exact (Dev.post_dmaErr ..).trans (Dev.count_bump_same _ _)
  · rw [Dev.sq, Dev.post_sqs]
    exact Dev.sq_setSq_same ..
  · exact congrArg (· ++ _) hready
  · exact congrArg (· ++ _) hready

/-- The coalescing time passes. -/
theorem msixCoalTimeout_answers {s : State} (hp : s.dev.powered = true) (n : Fin 4096) {q : Cq} (hq : s.dev.cq n = some q) (hu : q.unsig ≠ 0) :
    answers (.msixCoalTimeout n) s fun e => e.cq n = some { q with unsig := 0 } ∧
      (q.vector ≠ noVector → s.dev.msixMasked q.vector = false → e.out = [.msix q.vector]) := by
  refine answers_run _ _ _ _ (exec_msixCoalTimeout n s) hp ?_
  have hring : s.dev.quiet.cq n = some q := hq
  rw [hring]
  dsimp only
  rw [if_neg hu]
  refine ⟨?_, fun hv hm => ?_⟩
  · rw [Dev.cq, Dev.fire_cqs]
    exact Dev.cq_setCq_same ..
  · rw [Dev.fire, if_neg hv]
    exact congrArg Dev.out (if_neg (by rw [show (s.dev.quiet.setCq n _).msixMasked q.vector = _ from hm]; exact Bool.false_ne_true))

end Sys2Proof.Machine
end

section
/-!
PROOF. The admin rings (R366), the domains of the mailboxes (R381) and what Acisk takes from them (R376, R384).
-/

set_option Elab.async false

namespace Sys2Proof.Machine

/-! ### Admin rings (R366) -/

/-- A ring size is taken where it is in range. -/
def Dev.takeSize (d : Dev) (f : Field) (v : Nat) : Dev := if 6 ≤ v ∧ v ≤ 16 then d.setFld f v else d

theorem Dev.takeSize_same (d : Dev) {f : Field} (hw : f.w = 5) (v : Nat) : (d.takeSize f v).fld f = if 6 ≤ v ∧ v ≤ 16 then v else d.fld f := by
  unfold Dev.takeSize
  split
  case isTrue h => rw [Dev.fld_setFld_same, hw, Nat.mod_eq_of_lt (by omega)]
  case isFalse => rfl

theorem Dev.takeSize_other (d : Dev) {f g : Field} (h : g.key ≠ f.key) (v : Nat) : (d.takeSize f v).fld g = d.fld g := by
  unfold Dev.takeSize
  split
  · exact Dev.fld_setFld_other d f g v h
  · rfl

/-- Both admin rings, new, from the registers. -/
def Dev.adminRings (d : Dev) : Dev :=
  ((d.setFld Reg.HIF_ADMIN_CFG_EN 1).setSq 0 (some ⟨4096 * d.fld Reg.HIF_ASQ_BASE, d.fld Reg.HIF_ADMIN_CFG_ASQ_LOG2, 0, 0, 0⟩)).setCq 0
    (some (freshCq (4096 * d.fld Reg.HIF_ACQ_BASE) (d.fld Reg.HIF_ADMIN_CFG_ACQ_LOG2) 2 0 0))

theorem Dev.adminRings_sq (d : Dev) : d.adminRings.sq 0 = some ⟨4096 * d.fld Reg.HIF_ASQ_BASE, d.fld Reg.HIF_ADMIN_CFG_ASQ_LOG2, 0, 0, 0⟩ :=
  Dev.sq_setSq_same (d.setFld Reg.HIF_ADMIN_CFG_EN 1) 0 (some ⟨4096 * d.fld Reg.HIF_ASQ_BASE, d.fld Reg.HIF_ADMIN_CFG_ASQ_LOG2, 0, 0, 0⟩)

theorem Dev.adminRings_cq (d : Dev) :
    d.adminRings.cq 0 = some (freshCq (4096 * d.fld Reg.HIF_ACQ_BASE) (d.fld Reg.HIF_ADMIN_CFG_ACQ_LOG2) 2 0 0) :=
  Dev.cq_setCq_same _ 0 _

theorem Dev.writeAdmin_off {d : Dev} {v : Nat} (hoff : d.flag Reg.HIF_ADMIN_CFG_EN = false) (hv : bit v 31 = true) :
    d.writeAdmin v =
      ((d.takeSize Reg.HIF_ADMIN_CFG_ASQ_LOG2 (bits v 12 8)).takeSize Reg.HIF_ADMIN_CFG_ACQ_LOG2 (bits v 20 16)).adminRings := by
  rw [Dev.writeAdmin, hoff, if_neg Bool.false_ne_true, hv]
  exact if_pos rfl

/-- A write that enables: the sizes are taken where they are in range, and both rings are new. -/
theorem Dev.writeAdmin_enables {d : Dev} (asq acq : Fin 32) (hoff : d.flag Reg.HIF_ADMIN_CFG_EN = false) :
    let sized := fun (v : Nat) (f : Field) => if 6 ≤ v ∧ v ≤ 16 then v else d.fld f
    (d.writeAdmin (2 ^ 31 + 65536 * acq + 256 * asq)).fld Reg.HIF_ADMIN_CFG_EN = 1 ∧
      (d.writeAdmin (2 ^ 31 + 65536 * acq + 256 * asq)).sq 0 =
        some ⟨4096 * d.fld Reg.HIF_ASQ_BASE, sized asq Reg.HIF_ADMIN_CFG_ASQ_LOG2, 0, 0, 0⟩ ∧
      (d.writeAdmin (2 ^ 31 + 65536 * acq + 256 * asq)).cq 0 =
        some (freshCq (4096 * d.fld Reg.HIF_ACQ_BASE) (sized acq Reg.HIF_ADMIN_CFG_ACQ_LOG2) 2 0 0) := by
  have hbit : bit (2 ^ 31 + 65536 * (acq : Nat) + 256 * asq) 31 = true := by
    rw [bit, Nat.testBit_eq_decide_div_mod_eq]
    exact decide_eq_true (by omega)
  have hasq : bits (2 ^ 31 + 65536 * (acq : Nat) + 256 * asq) 12 8 = asq := by rw [bits]; omega
  have hacq : bits (2 ^ 31 + 65536 * (acq : Nat) + 256 * asq) 20 16 = acq := by rw [bits]; omega
  rw [Dev.writeAdmin_off hoff hbit, hasq, hacq]
  have hother (f : Field) (h1 : f.key ≠ Reg.HIF_ADMIN_CFG_ASQ_LOG2.key) (h2 : f.key ≠ Reg.HIF_ADMIN_CFG_ACQ_LOG2.key) :
      ((d.takeSize Reg.HIF_ADMIN_CFG_ASQ_LOG2 asq).takeSize Reg.HIF_ADMIN_CFG_ACQ_LOG2 acq).fld f = d.fld f :=
    (Dev.takeSize_other _ h2 _).trans (Dev.takeSize_other _ h1 _)
  refine ⟨Dev.fld_setFld_same _ Reg.HIF_ADMIN_CFG_EN 1, ?_, ?_⟩
  · rw [Dev.adminRings_sq, hother Reg.HIF_ASQ_BASE (by decide) (by decide), Dev.takeSize_other _ (by decide), Dev.takeSize_same _ rfl]
  · rw [Dev.adminRings_cq, hother Reg.HIF_ACQ_BASE (by decide) (by decide), Dev.takeSize_same _ rfl, Dev.takeSize_other _ (by decide)]

theorem Dev.writeAdmin_disables {d : Dev} (asq acq : Fin 32) (hon : d.flag Reg.HIF_ADMIN_CFG_EN = true) :
    (d.writeAdmin (65536 * acq + 256 * asq)).fld Reg.HIF_ADMIN_CFG_EN = 0 ∧ (d.writeAdmin (65536 * acq + 256 * asq)).sq 0 = none ∧
      (d.writeAdmin (65536 * acq + 256 * asq)).cq 0 = none := by
  have hbit : bit (65536 * (acq : Nat) + 256 * asq) 31 = false := Nat.testBit_lt_two_pow (by omega)
  rw [Dev.writeAdmin, if_pos hon, hbit]
  dsimp only
  rw [if_neg Bool.false_ne_true]
  refine ⟨?_, Dev.sweep_sq_none ?_, ?_⟩
  · exact ((Reading.offQueues_fld (by decide)).sweepN .refl).fld_eq.trans (Dev.fld_setFld_same d Reg.HIF_ADMIN_CFG_EN 0)
  · exact Dev.sq_setSq_same (d.setFld Reg.HIF_ADMIN_CFG_EN 0) 0 none
  · refine Option.map_eq_none_iff.mp ((Dev.headAt_sweep _ 0).trans ?_)
    exact congrArg (Option.map Cq.head) (Dev.cq_setCq_same ((d.setFld Reg.HIF_ADMIN_CFG_EN 0).setSq 0 none) 0 none)

/-! ### A domain that goes down (R381) -/

/-- Channel `n` emptied where it has an end in a domain. -/
def Dev.flushOne (inDomain : Nat → Bool) (d : Dev) (n : Nat) : Dev :=
  let b := d.binding n
  if inDomain b.a || inDomain b.b then
    let k := (d.queue n true).words.length + (d.queue n false).words.length
    ((d.setQueue n true { emptyQueue with tmo := (d.queue n true).tmo }).setQueue n false
      { emptyQueue with tmo := (d.queue n false).tmo }).bumpBy Cnt.MBX_FLUSH_CNT k
  else d

theorem Dev.flush_eq (d : Dev) (inDomain : Nat → Bool) : d.flush inDomain = (List.range 64).foldl (Dev.flushOne inDomain) d := rfl

/-- A channel's queues hold no word. -/
def Dev.drained (d : Dev) (n : Nat) : Prop := ∀ t, (d.queue n t).words = []

theorem Dev.queue_setQueue_channel (d : Dev) {n m : Nat} (toB t : Bool) (q : MQueue) (h : m ≠ n) : (d.setQueue n toB q).queue m t = d.queue m t := by
  have hkey : (2 * m + if t then 0 else 1) ≠ 2 * n + if toB then 0 else 1 := by cases t <;> cases toB <;> simp <;> omega
  rw [Dev.queue, Dev.queue]
  exact congrArg (Option.getD · emptyQueue) (SMap.get_set_other _ _ _ _ _ hkey)

theorem Dev.flushOne_drains {d : Dev} {inDomain : Nat → Bool} {n : Nat} (h : inDomain (d.binding n).a || inDomain (d.binding n).b) :
    (d.flushOne inDomain n).drained n := by
  intro t
  rw [Dev.flushOne, if_pos h]
  cases t with
  | false => exact congrArg MQueue.words (Dev.queue_setQueue_same _ n false _)
  | true => exact congrArg MQueue.words ((Dev.queue_setQueue_back _ n false _).trans (Dev.queue_setQueue_same _ n true _))

theorem Dev.flushOne_other (d : Dev) (inDomain : Nat → Bool) {n m : Nat} (h : m ≠ n) (t : Bool) : (d.flushOne inDomain n).queue m t = d.queue m t := by
  unfold Dev.flushOne
  dsimp only
  split
  · exact (Dev.queue_setQueue_channel _ false t _ h).trans (Dev.queue_setQueue_channel _ true t _ h)
  · rfl

theorem Dev.flushOne_binding (d : Dev) (inDomain : Nat → Bool) (n m : Nat) : (d.flushOne inDomain n).binding m = d.binding m := by
  unfold Dev.flushOne
  dsimp only
  split <;> rfl

/-- A flush empties the channels of a domain among those it passes. -/
theorem Dev.flushed_drains (inDomain : Nat → Bool) (m : Nat) : ∀ (l : List Nat) (d : Dev), inDomain (d.binding m).a || inDomain (d.binding m).b →
    m ∈ l ∨ d.drained m → (l.foldl (Dev.flushOne inDomain) d).drained m
  | [], _, _, hm => hm.resolve_left List.not_mem_nil
  | n :: l, d, h, hm => by
    refine Dev.flushed_drains inDomain m l _ (by rwa [Dev.flushOne_binding]) ?_
    by_cases hn : m = n
    · subst hn
      exact .inr (Dev.flushOne_drains h)
    · refine hm.imp (fun hmem => (List.mem_cons.mp hmem).resolve_left hn) fun hdry t => ?_
      rw [Dev.flushOne_other _ _ hn]
      exact hdry t

theorem Dev.flush_drains {d : Dev} {inDomain : Nat → Bool} {n : Nat} (hn : n < 64) (h : inDomain (d.binding n).a || inDomain (d.binding n).b) :
    (d.flush inDomain).drained n :=
  Dev.flushed_drains inDomain n _ d h (.inl (List.mem_range.mpr hn))

/-- All of the mailboxes but the queues and the trace's number, as a reading. -/
def Reading.mailboxes : Reading .mbx Mbx := ⟨fun d => { d.mbx with q := [], traceSeq := 0 }, fun h => by rw [h]⟩

namespace Reading.same

variable {d e : Dev}

theorem setQueue {n toB q} (h : mailboxes.same d e) : mailboxes.same d (e.setQueue n toB q) := h

theorem flush {inDomain} (h : mailboxes.same d e) : mailboxes.same d (e.flush inDomain) := by
  unfold Dev.flush
  exact .foldl h fun _ _ h => .ite (h.setQueue.setQueue.via .bumpBy) h

/-- A part of the mailboxes that is neither a queue nor the trace's number. -/
theorem mailbox_eq {α : Type} (f : Mbx → α) (h : mailboxes.same d e) (hf : ∀ m : Mbx, f { m with q := [], traceSeq := 0 } = f m) : f e.mbx = f d.mbx :=
  (hf _).symm.trans ((congrArg f h).trans (hf _))

theorem mgmtUp_eq (h : mailboxes.same d e) : e.mbx.mgmtUp = d.mbx.mgmtUp := h.mailbox_eq Mbx.mgmtUp fun _ => rfl
theorem vddio_eq (h : mailboxes.same d e) : e.mbx.vddio = d.mbx.vddio := h.mailbox_eq Mbx.vddio fun _ => rfl

end Reading.same

theorem isMgmt_core (c : Fin 4) : isMgmt (masterId (.mgmt c)) = true := by fin_cases c <;> rfl

/-- A master that is no management core is a domain of its own. -/
theorem own_domain {id : Nat} (h : isMgmt id = false) (x : Nat) (hx : (x == id || (isMgmt x && isMgmt id)) = true) : (x == id) = true := by
  rwa [h, Bool.and_false, Bool.or_false] at hx

/-- The domain of a master goes down: the channels that it shares are emptied. -/
theorem Dev.flush_domain {d e : Dev} {inDomain : Nat → Bool} {id : Nat} (hin : ∀ x, (x == id || (isMgmt x && isMgmt id)) = true → inDomain x = true)
    (he : ∀ n < 64, e.binding n = d.binding n) : ∀ n < 64,
    ((d.binding n).a == id || (isMgmt (d.binding n).a && isMgmt id)) || ((d.binding n).b == id || (isMgmt (d.binding n).b && isMgmt id)) →
      (e.flush inDomain).drained n := by
  intro n hn h
  refine Dev.flush_drains hn ?_
  rw [he n hn]
  exact Bool.or_eq_true_iff.mpr ((Bool.or_eq_true_iff.mp h).imp (hin _) (hin _))

theorem Dev.binding_congr {d e : Dev} (h : e.regs = d.regs) (n : Nat) : e.binding n = d.binding n := by
  rw [Dev.binding, Dev.flag, Dev.flag, Dev.fld_congr _ _ _ h, Dev.fld_congr _ _ _ h, Dev.fld_congr _ _ _ h, Dev.fld_congr _ _ _ h]
  rfl

theorem Dev.binding_gaugePower (d : Dev) (v : Nat) {n : Nat} (hn : n < 64) : (d.setFld Reg.GAU_CTL_PWR v).binding n = d.binding n := by
  have hother (f : Field) (hoff : f.off = 0xd0400 + 8 * n) (hlo : f.lo < 64) : (d.setFld Reg.GAU_CTL_PWR v).fld f = d.fld f :=
    Dev.fld_setFld_other _ _ _ _ (by simp only [Field.key, Reg.GAU_CTL_PWR, hoff]; omega)
  rw [Dev.binding, Dev.flag, Dev.flag, hother (Reg.MBX_BIND_EN n) rfl (show 31 < 64 by decide), hother (Reg.MBX_BIND_OSTEMU n) rfl (show 30 < 64 by decide),
    hother (Reg.MBX_BIND_END_A n) rfl (show 0 < 64 by decide), hother (Reg.MBX_BIND_END_B n) rfl (show 8 < 64 by decide)]
  rfl

theorem domainDown_answers {s : State} (hp : s.dev.powered = true) (m : Master) : answers (.domainDown m) s fun e =>
    (let dom := fun x => x == masterId m || (isMgmt x && isMgmt (masterId m))
    (isMgmt (masterId m) = true → e.mbx.mgmtUp = false) ∧ (m = .gauge → e.fld Reg.GAU_CTL_PWR = 0) ∧ (m = .towpath → e.mbx.vddio = false) ∧
      (m = .hostPf → e.hif.power = 2) ∧ if m = .sec ∨ m = .cmdproc then e = s.dev.quiet
      else ∀ n < 64, dom (s.dev.binding n).a || dom (s.dev.binding n).b → ∀ t, (e.queue n t).words = []) := by
  cases m with
  | hostPf =>
    have hdown : s.dev.quiet.domainDown .hostPf = ({ s.dev.quiet with hif := { s.dev.quiet.hif with power := 2 } } : Dev).flush (· == masterId .hostPf) := rfl
    refine answers_run_eq (exec_domainDown .hostPf s) hp hdown ⟨fun h => absurd h (by decide), nofun, nofun, fun _ => ?_,
      Dev.flush_domain (own_domain (by decide)) fun _ _ => Dev.binding_congr rfl _⟩
    exact congrArg Hif.power (Evolves.flush.keeps .hif (by decide))
  | mgmt c =>
    have hdown : s.dev.quiet.domainDown (.mgmt c) = ({ s.dev.quiet with mbx := { s.dev.quiet.mbx with mgmtUp := false } } : Dev).flush isMgmt := rfl
    have hcore (x : Nat) (hx : (x == masterId (.mgmt c) || (isMgmt x && isMgmt (masterId (.mgmt c)))) = true) : isMgmt x = true :=
      (Bool.or_eq_true_iff.mp hx).elim (fun h => beq_iff_eq.mp h ▸ isMgmt_core c) fun h => (Bool.and_eq_true_iff.mp h).1
    exact answers_run_eq (exec_domainDown (.mgmt c) s) hp hdown
      ⟨fun _ => (Reading.same.flush .refl).mgmtUp_eq, nofun, nofun, nofun, Dev.flush_domain hcore fun _ _ => Dev.binding_congr rfl _⟩
  | sec => exact answers_run_eq (exec_domainDown .sec s) hp rfl ⟨fun h => absurd h (by decide), nofun, nofun, nofun, rfl⟩
  | gauge =>
    have hdown : s.dev.quiet.domainDown .gauge = (s.dev.quiet.setFld Reg.GAU_CTL_PWR 0).flush (· == masterId .gauge) := rfl
    refine answers_run_eq (exec_domainDown .gauge s) hp hdown ⟨fun h => absurd h (by decide), fun _ => ?_, nofun, nofun,
      Dev.flush_domain (own_domain (by decide)) fun _ hn => Dev.binding_gaugePower _ _ hn⟩
    exact (Dev.fld_congr _ _ _ (Evolves.flush.keeps .regs (by decide))).trans (Dev.fld_setFld_same _ _ _)
  | cmdproc => exact answers_run_eq (exec_domainDown .cmdproc s) hp rfl ⟨fun h => absurd h (by decide), nofun, nofun, nofun, rfl⟩
  | towpath =>
    have hdown : s.dev.quiet.domainDown .towpath = ({ s.dev.quiet with mbx := { s.dev.quiet.mbx with vddio := false } } : Dev).flush (· == masterId .towpath) := rfl
    exact answers_run_eq (exec_domainDown .towpath s) hp hdown ⟨fun h => absurd h (by decide), nofun, fun _ => (Reading.same.flush .refl).vddio_eq, nofun,
      Dev.flush_domain (own_domain (by decide)) fun _ _ => Dev.binding_congr rfl _⟩

/-! ### Short commands of the mailboxes, the stacks and the towpath -/

theorem mbxLock_answers {s : State} (hp : s.dev.powered = true) (v : BitVec 32) :
    if v.toNat % 2 = 1 then answers (.mbxLock v) s fun e => e.flag Reg.MBX_STATUS_LOCKED = true
    else exec (.mbxLock v) s = .next ⟨s.dev.quiet, s.pending⟩ := by
  split
  case isTrue h => exact answers_run_eq (exec_mbxLock v s) hp (if_pos h) (beq_iff_eq.mpr (Dev.fld_setFld_same _ _ _))
  case isFalse h => exact exec_run_eq (exec_mbxLock v s) hp (if_neg h)

theorem hbmTempReport_answers {s : State} (hp : s.dev.powered = true) (h : Fin 24) (hot : Bool) : answers (.hbmTempReport h hot) s fun e =>
    e.fld Reg.MEM_REFRESH_DOUBLED =
      (if hot then setBit (s.dev.fld Reg.MEM_REFRESH_DOUBLED) h else clearBit (s.dev.fld Reg.MEM_REFRESH_DOUBLED) h) % 2 ^ 24 :=
  answers_run_eq (exec_hbmTempReport h hot s) hp rfl (Dev.fld_setFld_same _ Reg.MEM_REFRESH_DOUBLED _)

theorem tpRefresh_answers {s : State} (hp : s.dev.powered = true) :
    if s.dev.mbx.vddio then answers .tpRefresh s fun e => e.tp = s.dev.tpWords else exec .tpRefresh s = .next ⟨s.dev.quiet, s.pending⟩ := by
  split
  case isTrue h => exact answers_run_eq (exec_tpRefresh s) hp (if_pos h) rfl
  case isFalse h => exact exec_run_eq (exec_tpRefresh s) hp (if_neg h)

theorem mbxMsgTimeout_answers {s : State} (hp : s.dev.powered = true) (n : Fin 64) (toB : Bool) (ho : (s.dev.binding n).ostemu = true)
    (he : (s.dev.binding n).en = true) (hc : (s.dev.queue n toB).complete = true) : answers (.mbxMsgTimeout n toB) s fun e =>
    e.count Cnt.MBX_TMO_CNT = min cntMax (s.dev.count Cnt.MBX_TMO_CNT + 1) ∧
      (let q := s.dev.queue n toB
      e.queue n toB = { q with words := q.words.drop (if q.front = 0 then msgLen (q.words.headD 0) + 1 else q.front), front := 0, tmo := true }) := by
  have hlate : ((s.dev.binding n).ostemu && (s.dev.binding n).en && (s.dev.queue n toB).complete) = true := by rw [ho, he, hc]; rfl
  exact answers_run_eq (exec_mbxMsgTimeout n toB s) hp (if_pos hlate) ⟨Dev.count_bump_same _ _, Dev.queue_setQueue_same _ _ _ _⟩

/-- The towpath's own channels: a write pushes its word, a read pops one. -/
theorem towpath_answers {s : State} (hp : s.dev.powered = true) (j : Fin 8) {isA : Bool} (he : s.dev.endOf (16 + j) 0x50 = some isA)
    (hl : s.dev.dead (16 + j) = false) :
    (∀ w : BitVec 32, (s.dev.queue (16 + j) isA).skip = 0 →
      (s.dev.queue (16 + j) isA).open_ ≠ 0 ∨ (s.dev.queue (16 + j) isA).words.length + (msgLen w.toNat + 1) ≤ 8 →
      answers (.tpMbxTx j w) s fun e => (e.queue (16 + j) isA).words = (s.dev.queue (16 + j) isA).words ++ [w.toNat]) ∧
    ∀ y ys, (s.dev.queue (16 + j) (!isA)).words = y :: ys → answers (.tpMbxRx j) s fun e =>
      e.out = [.data y] ∧ (e.queue (16 + j) (!isA)).words = ys := by
  refine ⟨fun w hs ho => answers_run_eq (exec_tpMbxTx j w s) hp (Dev.mbxTx_live he hl) ?_, fun y ys hr =>
    answers_run_eq (exec_tpMbxRx j s) hp (Dev.mbxRx_live he hl) ?_⟩
  · rw [Dev.append_queue_same]
    exact MQueue.push_words hs ho
  · obtain ⟨hfirst, hrest⟩ := MQueue.pop_cons (q := s.dev.quiet.queue (16 + j) (!isA)) hr
    refine ⟨?_, (congrArg MQueue.words (Dev.queue_setQueue_same _ _ _ _)).trans hrest⟩
    rw [hfirst]
    rfl

/-! ### Messages for Acisk (R374 to R376, R384) -/

/-- The management core of an enabled channel is one of its ends; the secure channels have none. -/
theorem Dev.mgmtEnd_cases {d : Dev} {n id : Nat} {toB : Bool} (h : d.mgmtEnd n = some (id, toB)) :
    (d.binding n).en = true ∧ ¬ n < 8 ∧ id = if toB then (d.binding n).b else (d.binding n).a := by
  unfold Dev.mgmtEnd at h
  dsimp only at h
  have hsecure : n < 8 → d.binding n = ⟨true, false, 0x20, 0x00⟩ := fun hn => if_pos hn
  split at h
  · exact nomatch h
  · rename_i hen
    split at h
    · obtain ⟨rfl, rfl⟩ := Prod.mk.inj (Option.some.inj h)
      rename_i hb
      exact ⟨by simpa using hen, fun hn => absurd hb (by rw [hsecure hn]; decide), rfl⟩
    · split at h
      · obtain ⟨rfl, rfl⟩ := Prod.mk.inj (Option.some.inj h)
        rename_i ha
        exact ⟨by simpa using hen, fun hn => absurd ha (by rw [hsecure hn]; decide), rfl⟩
      · exact nomatch h

theorem Dev.endOf_cases {d : Dev} {n id : Nat} (hen : (d.binding n).en = true) (hn : ¬ n < 8) :
    d.endOf n id = if id = (d.binding n).a then some true else if id = (d.binding n).b then some false else none := by
  have hopen : ¬ (!(d.binding n).en || (decide (n < 8) && id != 0x20)) = true := by rw [hen, decide_eq_false hn]; simp
  exact if_neg hopen

/-- A management core of a channel with two ends is its own end of it. -/
theorem Dev.mgmtEnd_end {d : Dev} {n id : Nat} {toB : Bool} (h : d.mgmtEnd n = some (id, toB)) (hne : (d.binding n).a ≠ (d.binding n).b) :
    d.endOf n id = some (!toB) := by
  obtain ⟨hen, hn, hid⟩ := Dev.mgmtEnd_cases h
  rw [Dev.endOf_cases hen hn, hid]
  cases toB with
  | false => exact if_pos rfl
  | true => exact (if_neg hne.symm).trans (if_pos rfl)

theorem Dev.aciskTake_want {d : Dev} {n want id : Nat} {toB : Bool} {ws : List Nat} {q : MQueue} (hend : d.mgmtEnd n = some (id, toB))
    (htake : (d.queue n toB).take = some (ws, q)) (hknown : typeKnown want = true) (htype : msgType (ws.headD 0) = want)
    (hptr : bit (ws.headD 0) 20 = false) (act : Nat → List Nat → Dev → Dev) : d.aciskTake n want act = act id ws (d.setQueue n toB q) := by
  rw [Dev.aciskTake, hend]
  dsimp only
  rw [htake]
  dsimp only
  rw [htype, hknown, hptr, if_neg (by simp), if_pos rfl]

/-- A PONG is a header alone: its message fits where there is room for one word. -/
theorem pong_len {t : Nat} (h : t < 65536) : msgLen (0x04000000 + t) = 0 := by
  rw [msgLen, bits]
  omega

theorem ping_answers {s : State} (hp : s.dev.powered = true) (n : Fin 64) {id : Nat} {toB : Bool} {ws : List Nat} {q : MQueue}
    (hruns : s.dev.fwRuns = true) (hend : s.dev.mgmtEnd n = some (id, toB)) (hne : (s.dev.binding n).a ≠ (s.dev.binding n).b)
    (hl : s.dev.dead n = false) (hroom : s.dev.canReply n 1 = true) (htake : (s.dev.queue n toB).take = some (ws, q)) (htype : msgType (ws.headD 0) = 3)
    (hptr : bit (ws.headD 0) 20 = false) (hs : (s.dev.queue n (!toB)).skip = 0) :
    answers (.ping n) s fun e => e.queue n toB = q ∧
      (e.queue n (!toB)).words = (s.dev.queue n (!toB)).words ++ [0x04000000 + ws.headD 0 % 65536] := by
  have hready : (s.dev.quiet.fwRuns && s.dev.quiet.canReply n 1) = true := Bool.and_eq_true_iff.mpr ⟨hruns, hroom⟩
  have hfits : (s.dev.queue n (!toB)).words.length + 1 ≤ 8 := by
    rw [Dev.canReply, hend] at hroom
    exact of_decide_eq_true hroom
  have hpong : (s.dev.quiet.setQueue n toB q).mbxTx id n (0x04000000 + ws.headD 0 % 65536) =
      (s.dev.quiet.setQueue n toB q).append n (!toB) (0x04000000 + ws.headD 0 % 65536) := Dev.mbxTx_live (Dev.mgmtEnd_end hend hne) hl
  refine answers_run_eq (exec_ping n s) hp ((if_pos hready).trans ((Dev.aciskTake_want (d := s.dev.quiet) hend htake rfl htype hptr _).trans hpong))
    ⟨?_, ?_⟩
  · have hback := Dev.append_queue_back (s.dev.quiet.setQueue n toB q) n (!toB) (0x04000000 + ws.headD 0 % 65536)
    rw [Bool.not_not] at hback
    exact hback.trans (Dev.queue_setQueue_same _ _ _ _)
  · have hkept : (s.dev.quiet.setQueue n toB q).queue n (!toB) = s.dev.queue n (!toB) := Dev.queue_setQueue_back _ _ _ _
    rw [Dev.append_queue_same, hkept]
    refine MQueue.push_words hs (.inr ?_)
    rw [pong_len (Nat.mod_lt _ (by decide))]
    exact hfits

end Sys2Proof.Machine
end

section
/-!
PROOF. The shared rings (R384 to R386): what serving a request writes, and what it keeps.
-/

set_option Elab.async false

namespace Sys2Proof.Machine

/-! ### What an answer keeps of the mailboxes -/

namespace Reading.same

variable {d e : Dev}

theorem append {n toB w} (h : mailboxes.same d e) : mailboxes.same d (e.append n toB w) := by
  unfold Dev.append
  exact .use h.setQueue fun h => .use (.ite (h.via .bump) h) fun h => .when (.ite (h.via .bump) h) fun h => h.via .emit

/-- Whatever a trace record counts and writes, it changes no other part of the mailboxes than its own number. -/
theorem recordedBox {f : Dev} {x y : Nat} (h : mailboxes.same d e) : mailboxes.same d { f with draws := x, mbx := { e.mbx with traceSeq := y } } := h

theorem traceBox {point src arg0 arg1} (h : mailboxes.same d e) : mailboxes.same d (e.trace point src arg0 arg1) := by
  unfold Dev.trace
  exact .ite (.when (.recordedBox (h.via .write)) fun h => h.via .bump) h

theorem refuseMbx {n id} (h : mailboxes.same d e) : mailboxes.same d (e.refuseMbx n id) := by
  unfold Dev.refuseMbx Dev.sticky
  exact .traceBox (.ite (h.via .bump) (.traceBox ((h.via .bump).via .setFld)))

theorem mbxTx {id n w} (h : mailboxes.same d e) : mailboxes.same d (e.mbxTx id n w) := by
  unfold Dev.mbxTx
  split
  · exact .use h.refuseMbx fun h => .ite h (h.via .emit)
  · exact .ite (.use (h.via .bump) fun h => .ite h (h.via .emit)) h.append

theorem mbxSend {id n words} (h : mailboxes.same d e) : mailboxes.same d (e.mbxSend id n words) := by
  unfold Dev.mbxSend
  exact .foldl h fun _ _ h => h.mbxTx

theorem srNotice {k} (h : mailboxes.same d e) : mailboxes.same d (e.srNotice k) := by
  unfold Dev.srNotice
  dsimp only
  split
  · exact h
  · exact .ite h h.mbxSend

theorem respond {k type tag st payload} (h : mailboxes.same d e) : mailboxes.same d (e.respond k type tag st payload) := by
  unfold Dev.respond
  exact ((h.via .write).via .wr).srNotice

end Reading.same

/-! ### A doorbell (R384) -/

/-- The pairs whose doorbell has been taken stay taken. -/
theorem Dev.answerBad_rung (fuel : Nat) (d : Dev) (k : Nat) : (d.answerBad fuel k).mbx.rung = d.mbx.rung := by
  induction fuel generalizing d with
  | zero => rfl
  | succ fuel ih =>
    unfold Dev.answerBad
    split
    · rfl
    · split
      · rfl
      · refine (ih _).trans (Reading.same.mailbox_eq Mbx.rung ?_ fun _ => rfl)
        exact Reading.same.via (.respond (.via .refl .wr)) .bump

theorem Dev.deliverMgmt_rung (fuel : Nat) (d : Dev) : (d.deliverMgmt fuel).mbx.rung = d.mbx.rung := by
  induction fuel generalizing d with
  | zero => rfl
  | succ fuel ih =>
    unfold Dev.deliverMgmt
    split
    · rfl
    · split
      · rfl
      · refine (ih _).trans ((Reading.same.mailbox_eq Mbx.rung (.respond .refl) fun _ => rfl).trans ?_)
        rfl

theorem srDoorbell_answers {s : State} (hp : s.dev.powered = true) (k : Fin 4) {id : Nat} {toB : Bool} {ws : List Nat} {q : MQueue}
    (hserves : s.dev.fwServes = true) (hend : s.dev.mgmtEnd (8 + k) = some (id, toB)) (htake : (s.dev.queue (8 + k) toB).take = some (ws, q))
    (htype : msgType (ws.headD 0) = 1) (hptr : bit (ws.headD 0) 20 = false) : answers (.srDoorbell k) s fun e => k.val ∈ e.mbx.rung := by
  refine answers_run_eq (exec_srDoorbell k s) hp ((if_pos hserves).trans (Dev.aciskTake_want (d := s.dev.quiet) hend htake rfl htype hptr _)) ?_
  rw [Dev.deliverMgmt_rung, Dev.answerBad_rung]
  dsimp only
  split
  case isTrue h => exact List.contains_iff_mem.mp h
  case isFalse => exact List.mem_cons_self

/-! ### Bytes of a write, read back -/

theorem Dev.read_write (d : Dev) (a : Nat) {n : Nat} {bs : List Byte} (h : n ≤ bs.length) : (d.write a bs).read a n = bs.take n := by
  refine List.ext_getElem (by rw [Dev.length_read, List.length_take, Nat.min_eq_left h]) fun i hi _ => ?_
  have hin : i < n := by rwa [Dev.length_read] at hi
  rw [List.getElem_take]
  simp only [Dev.read, List.getElem_map, List.getElem_range]
  exact Dev.byte_write_inside d a (by omega)

theorem Dev.read_write_outside (d : Dev) {a k n : Nat} {bs : List Byte} (h : k + n ≤ a ∨ a + bs.length ≤ k) : (d.write a bs).read k n = d.read k n :=
  List.map_congr_left fun i hi => Dev.byte_write_outside d (by have := List.mem_range.mp hi; omega)

theorem Dev.rd_wr_outside (d : Dev) {a k n m v : Nat} (h : k + n ≤ a ∨ a + m ≤ k) : (d.wr a m v).rd k n = d.rd k n :=
  Dev.rd_write_outside d (by rwa [length_natLe])

/-- Bytes are the little-endian bytes of their number. -/
theorem natLe_leNat (bs : List Byte) : natLe bs.length (leNat bs) = bs := by
  induction bs with
  | nil => rfl
  | cons b bs ih =>
    have hlow : BitVec.ofNat 8 (b.toNat + 256 * leNat bs) = b := by
      apply BitVec.eq_of_toNat_eq
      have := b.isLt
      rw [BitVec.toNat_ofNat]
      omega
    have hrest : (b.toNat + 256 * leNat bs) / 256 = leNat bs := by have := b.isLt; omega
    rw [List.length_cons, leNat, natLe, hlow, hrest, ih]

/-- A field of a byte string, as its bytes. -/
theorem natLe_rdLe {l : List Byte} {off n : Nat} (h : off + n ≤ l.length) : natLe n (rdLe l off n) = (l.drop off).take n := by
  have hlength : ((l.drop off).take n).length = n := by rw [List.length_take, List.length_drop]; omega
  have hbytes := natLe_leNat ((l.drop off).take n)
  rwa [hlength] at hbytes

/-! ### The notice and the log leave the rings alone (R384, R388) -/

/-- An end's own word is appended, or counted on a dead channel: no access is refused. -/
theorem Dev.mbxTx_evolves {d : Dev} {n id w : Nat} (h : (d.endOf n id).isSome) : Evolves [.cnt, .mbx] d (d.mbxTx id n w) := by
  unfold Dev.mbxTx
  split
  · rename_i hnone
    rw [hnone] at h
    exact nomatch h
  · exact .ite (.use (.step .refl .bump) fun h => .ite h (h.step .emit)) (.step .refl .append)

theorem Dev.mbxSend_evolves {n id : Nat} : ∀ (ws : List Nat) (d : Dev), (d.endOf n id).isSome → Evolves [.cnt, .mbx] d (d.mbxSend id n ws)
  | [], _, _ => .refl
  | w :: ws, d, h => by
    have hsent := Dev.mbxTx_evolves (w := w) h
    have hend : (d.mbxTx id n w).endOf n id = d.endOf n id := by
      unfold Dev.endOf
      rw [Dev.binding_congr (hsent.keeps .regs (by decide))]
    exact hsent.step (Dev.mbxSend_evolves ws _ (hend ▸ h))

theorem Dev.mgmtEnd_isEnd {d : Dev} {n id : Nat} {toB : Bool} (h : d.mgmtEnd n = some (id, toB)) : (d.endOf n id).isSome := by
  obtain ⟨hen, hn, hid⟩ := Dev.mgmtEnd_cases h
  rw [Dev.endOf_cases hen hn, hid]
  cases toB with
  | false => exact congrArg Option.isSome (if_pos rfl)
  | true =>
    by_cases hsame : (d.binding n).b = (d.binding n).a
    · exact congrArg Option.isSome (if_pos hsame)
    · exact congrArg Option.isSome ((if_neg hsame).trans (if_pos rfl))

theorem Dev.srNotice_evolves (d : Dev) (k : Nat) : Evolves [.cnt, .mbx] d (d.srNotice k) := by
  unfold Dev.srNotice
  dsimp only
  split
  · exact .refl
  · rename_i hend
    exact .ite .refl (Dev.mbxSend_evolves _ _ (Dev.mgmtEnd_isEnd hend))

/-- A log entry: its time, number, core, level, code and text. -/
def Dev.logEntry (d : Dev) : List Byte :=
  let f := fun i => Config.free (d.draws + i)
  natLe 8 (if d.frm.acquired then d.fld Reg.FRM_TICK_NUM_NUM * 65536 + f 1 % 65536 else 0) ++ natLe 4 d.mbx.logSeq ++ natLe 1 (f 2 % 4) ++
    natLe 1 (f 3 % (d.mbx.logLevel + 1)) ++ natLe 2 (f 4) ++ (List.range 48).map fun i => BitVec.ofNat 8 (f (5 + i) % 128)

/-- A device that has logged, before it counts that the log has wrapped. -/
def Dev.logs (d : Dev) : Dev :=
  let head := d.fld Reg.MBX_LOG_HEAD_COUNT
  let d := d.write (d.fwRegion + 0x0C000000 + 64 * (head % 262144)) d.logEntry
  { d.setFld Reg.MBX_LOG_HEAD_COUNT (head + 1) with
    draws := d.draws + 53, mbx := { d.mbx with logSeq := (d.mbx.logSeq + 1) % 2 ^ 32 } }

theorem Dev.aciskLog_eq (d : Dev) : d.aciskLog = if Config.free (d.draws + 0) % 2 = 0 then { d with draws := d.draws + 1 } else
    if (d.fld Reg.MBX_LOG_HEAD_COUNT + 1) % 262144 = 0 then d.logs.bump Cnt.MBX_LOG_WRAP_CNT else d.logs := rfl

theorem Dev.logs_mem (d : Dev) : d.logs.mem = (d.write (d.fwRegion + 0x0C000000 + 64 * (d.fld Reg.MBX_LOG_HEAD_COUNT % 262144)) d.logEntry).mem := by
  unfold Dev.logs
  dsimp only
  rw [Dev.setFld_mem]

theorem Dev.logs_lsEpoch (d : Dev) : d.logs.lsEpoch = d.lsEpoch := by
  unfold Dev.logs
  dsimp only
  rw [Dev.setFld_lsEpoch, Dev.write_lsEpoch]

theorem Dev.logs_mbx (d : Dev) : d.logs.mbx = { d.mbx with logSeq := (d.mbx.logSeq + 1) % 2 ^ 32 } := by
  unfold Dev.logs
  dsimp only
  rw [Dev.write_mbx]

theorem Dev.length_logEntry (d : Dev) : d.logEntry.length = 64 := by
  simp only [Dev.logEntry, List.length_append, length_natLe, List.length_map, List.length_range]

theorem Dev.logs_read {d : Dev} {a n : Nat} (h : d.fwRegion + 0x0D000000 ≤ a) : d.logs.read a n = d.read a n := by
  have hbelow : d.fwRegion + 0x0C000000 + 64 * (d.fld Reg.MBX_LOG_HEAD_COUNT % 262144) + d.logEntry.length ≤ a := by
    rw [Dev.length_logEntry]
    omega
  rw [← Dev.read_write_outside d (.inr hbelow)]
  exact Dev.read_congr (Dev.logs_mem d) ((Dev.logs_lsEpoch d).trans (Dev.write_lsEpoch ..).symm) a n

/-- The log lies below the shared rings. -/
theorem Dev.aciskLog_read {d : Dev} {a n : Nat} (h : d.fwRegion + 0x0D000000 ≤ a) : d.aciskLog.read a n = d.read a n := by
  rw [Dev.aciskLog_eq]
  split
  · exact Dev.read_congr rfl rfl a n
  · split
    · exact (Dev.read_congr (Dev.bump_mem ..) (Dev.bump_lsEpoch ..) a n).trans (Dev.logs_read h)
    · exact Dev.logs_read h

theorem Dev.aciskLog_mbx (d : Dev) : ∃ n, d.aciskLog.mbx = { d.mbx with logSeq := n } := by
  rw [Dev.aciskLog_eq]
  split
  · exact ⟨d.mbx.logSeq, rfl⟩
  · split
    · exact ⟨_, (Dev.bump_mbx ..).trans d.logs_mbx⟩
    · exact ⟨_, d.logs_mbx⟩

theorem Dev.sr_congr {d e : Dev} (h : e.regs = d.regs) (k : Nat) : e.sr k = d.sr k := by
  rw [Dev.sr, Dev.sr, Dev.fwRegion, Dev.fwRegion, Dev.fld_congr d e _ h]

/-! ### Serving the one request of a pair (R385) -/

/-- A response entry, without the zeros that fill it up. -/
def rspEntry (type tag : Nat) (st : Status) (payload : List Byte) : List Byte :=
  natLe 2 type ++ natLe 2 tag ++ natLe 2 payload.length ++ natLe 1 st.code ++ List.replicate 9 0 ++ payload

theorem length_rspEntry (type tag : Nat) (st : Status) (payload : List Byte) : (rspEntry type tag st payload).length = 16 + payload.length := by
  simp only [rspEntry, List.length_append, length_natLe, List.length_replicate]

/-- A response that has been written and not yet announced. -/
def Dev.writesRsp (d : Dev) (k type tag : Nat) (st : Status) (payload : List Byte) : Dev :=
  (d.write (d.sr k + 0x20000 + 256 * d.rspTail k)
    (rspEntry type tag st payload ++ List.replicate (256 - (rspEntry type tag st payload).length) 0)).wr (d.sr k + 12) 4 ((d.rspTail k + 1) % 256)

theorem Dev.respond_eq (d : Dev) (k type tag : Nat) (st : Status) (payload : List Byte) :
    d.respond k type tag st payload = (d.writesRsp k type tag st payload).srNotice k := rfl

theorem Dev.respond_bytes (d : Dev) (k type tag : Nat) (st : Status) (payload : List Byte) (a n : Nat) :
    (d.respond k type tag st payload).read a n = (d.writesRsp k type tag st payload).read a n := by
  have hnotice := (d.writesRsp k type tag st payload).srNotice_evolves k
  rw [Dev.respond_eq]
  exact Dev.read_congr (hnotice.keeps .mem (by decide)) (hnotice.keeps .lsEpoch (by decide)) a n

/-- A response stands at the tail of its ring. -/
theorem Dev.respond_read (d : Dev) (k type tag : Nat) (st : Status) (payload : List Byte) :
    (d.respond k type tag st payload).read (d.sr k + 0x20000 + 256 * d.rspTail k) (16 + payload.length) = rspEntry type tag st payload := by
  have hlength := length_rspEntry type tag st payload
  have hn : 16 + payload.length ≤ (rspEntry type tag st payload ++ List.replicate (256 - (rspEntry type tag st payload).length) 0).length := by
    rw [List.length_append, hlength]
    exact Nat.le_add_right _ _
  rw [Dev.respond_bytes, Dev.writesRsp, Dev.wr, Dev.read_write_outside _ (.inr (by rw [length_natLe]; omega)), Dev.read_write d _ hn, ← hlength,
    List.take_left]

/-- A response changes nothing below its own counter. -/
theorem Dev.respond_rd (d : Dev) (k type tag : Nat) (st : Status) (payload : List Byte) {a : Nat} (ha : a + 4 ≤ d.sr k + 12) :
    (d.respond k type tag st payload).rd a 4 = d.rd a 4 := by
  rw [Dev.rd, Dev.respond_bytes, Dev.writesRsp, Dev.wr, Dev.read_write_outside _ (.inl ha), Dev.read_write_outside d (.inl (by omega)), Dev.rd]

theorem Dev.respond_regs (d : Dev) (k type tag : Nat) (st : Status) (payload : List Byte) : (d.respond k type tag st payload).regs = d.regs := by
  rw [Dev.respond_eq, (Dev.srNotice_evolves _ k).keeps .regs (by decide), Dev.writesRsp, Dev.wr_regs, Dev.write_regs]

theorem Dev.respond_sr (d : Dev) (k type tag : Nat) (st : Status) (payload : List Byte) : (d.respond k type tag st payload).sr k = d.sr k :=
  Dev.sr_congr (Dev.respond_regs ..) k

/-- No further request waits after the last one has been answered. -/
theorem Dev.respond_idle {d : Dev} {k : Nat} (h : d.reqHead k = d.reqTail k) (type tag : Nat) (st : Status) (payload : List Byte) :
    (d.respond k type tag st payload).request k = none := by
  have hhead : (d.respond k type tag st payload).reqHead k = d.reqHead k := by
    rw [Dev.reqHead, Dev.respond_sr, Dev.respond_rd _ _ _ _ _ _ (by omega), Dev.reqHead]
  have htail : (d.respond k type tag st payload).reqTail k = d.reqTail k := by
    rw [Dev.reqTail, Dev.respond_sr, Dev.respond_rd _ _ _ _ _ _ (by omega), Dev.reqTail]
  rw [Dev.request, hhead, htail, h, bne_self_eq_false, Bool.and_false, if_neg Bool.false_ne_true]

theorem Dev.answerBad_idle {d : Dev} {k : Nat} (h : d.request k = none) (fuel : Nat) : d.answerBad fuel k = d := by
  cases fuel with
  | zero => rfl
  | succ fuel => rw [Dev.answerBad, h]

theorem Dev.deliverMgmt_idle {d : Dev} (h : d.mbx.mgmt = []) (fuel : Nat) : d.deliverMgmt fuel = d := by
  cases fuel with
  | zero => rfl
  | succ fuel => rw [Dev.deliverMgmt, h]

/-- A pair whose one request is served next. -/
structure Dev.lastRequest (d : Dev) (k : Nat) (x : List Byte) : Prop where
  serves : d.fwServes = true
  room : d.rspFull k = false
  request : d.request k = some x
  ok : requestOk x = true
  last : (d.reqHead k + 1) % 256 = d.reqTail k
  mgmt : d.mbx.mgmt = []

/-- What follows the one request of a pair is its response and, it may be, a log entry. -/
theorem Dev.lastRequest.serve_eq {d e : Dev} {k type : Nat} {x payload : List Byte} {st : Status} {act : List Byte → Dev → Status × List Byte × Dev}
    (h : d.lastRequest k x) (htype : rdLe x 0 2 = type) (hact : act ((x.drop 16).take (rdLe x 4 2)) (d.consumeReq k) = (st, payload, e))
    (hlast : e.reqHead k = e.reqTail k) (hmgmt : e.mbx.mgmt = []) :
    d.serve k type act = (e.respond k type (rdLe x 2 2) st payload).aciskLog := by
  have hbusy : ¬ (!d.fwServes || d.rspFull k) = true := by rw [h.serves, h.room]; decide
  have hserved : ¬ (rdLe x 0 2 ≠ type ∨ (!requestOk x) = true) := by rw [htype, h.ok]; simp
  have hkept : (e.respond k type (rdLe x 2 2) st payload).mbx.mgmt = [] := (Reading.same.mailbox_eq Mbx.mgmt (.respond .refl) fun _ => rfl).trans hmgmt
  rw [Dev.serve, if_neg hbusy, h.request]
  dsimp only
  rw [if_neg hserved, hact, Dev.answerBad_idle (Dev.respond_idle hlast ..), Dev.deliverMgmt_idle hkept]

/-- A request that is consumed moves the head of its ring and nothing else of the pair. -/
theorem Dev.consumeReq_rings {d e : Dev} (k : Nat) (he : Evolves [.cnt, .fab, .mbx] (d.consumeReq k) e) :
    e.sr k = d.sr k ∧ e.rspTail k = d.rspTail k ∧ e.reqHead k = (d.reqHead k + 1) % 256 ∧ e.reqTail k = d.reqTail k := by
  have hsr : e.sr k = d.sr k := Dev.sr_congr ((he.keeps .regs (by decide)).trans (Dev.wr_regs ..)) k
  have hbytes (a : Nat) : e.rd a 4 = (d.consumeReq k).rd a 4 := Dev.rd_congr (he.keeps .mem (by decide)) (he.keeps .lsEpoch (by decide)) a 4
  have hrd (a : Nat) (ha : d.sr k + 4 ≤ a) : e.rd a 4 = d.rd a 4 := (hbytes a).trans (Dev.rd_wr_outside d (.inr ha))
  have hhead : e.rd (d.sr k) 4 = (d.reqHead k + 1) % 256 % 256 ^ 4 := (hbytes _).trans (Dev.rd_wr_same d _ _ _)
  refine ⟨hsr, ?_, ?_, ?_⟩
  · rw [Dev.rspTail, hsr, hrd _ (by omega), Dev.rspTail]
  · rw [Dev.reqHead, hsr, hhead]; omega
  · rw [Dev.reqTail, hsr, hrd _ (by omega), Dev.reqTail]

/-- The one request of a pair is answered at the tail of its ring; what follows leaves the mailboxes alone but for the queues and the log's number. -/
theorem Dev.lastRequest.serve {d e : Dev} {k type : Nat} {x payload : List Byte} {st : Status} {act : List Byte → Dev → Status × List Byte × Dev}
    (h : d.lastRequest k x) (htype : rdLe x 0 2 = type) (hact : act ((x.drop 16).take (rdLe x 4 2)) (d.consumeReq k) = (st, payload, e))
    (he : Evolves [.cnt, .fab, .mbx] (d.consumeReq k) e) (hmgmt : e.mbx.mgmt = []) :
    (d.serve k type act).read (d.sr k + 0x20000 + 256 * d.rspTail k) (16 + payload.length) =
        x.take 4 ++ natLe 2 payload.length ++ natLe 1 st.code ++ List.replicate 9 0 ++ payload ∧
      (d.serve k type act).mbx.logLevel = e.mbx.logLevel ∧ (d.serve k type act).mbx.mgmtSeq = e.mbx.mgmtSeq := by
  obtain ⟨hsr, htail, hhead, hlast⟩ := Dev.consumeReq_rings k he
  rw [h.serve_eq htype hact (by rw [hhead, hlast, h.last]) hmgmt]
  obtain ⟨n, hlog⟩ := (e.respond k type (rdLe x 2 2) st payload).aciskLog_mbx
  have hbox : Reading.mailboxes.same e (e.respond k type (rdLe x 2 2) st payload) := .respond .refl
  refine ⟨?_, ?_, ?_⟩
  · have hx : x.length = 256 := by
      have hreq := h.request
      rw [Dev.request] at hreq
      split at hreq
      · rw [← Option.some.inj hreq, Dev.length_read]
      · exact nomatch hreq
    have hhdr : natLe 2 type ++ natLe 2 (rdLe x 2 2) = x.take 4 := by
      rw [← htype, natLe_rdLe (by omega), natLe_rdLe (by omega)]
      exact (List.take_add ..).symm
    have hregion : (e.respond k type (rdLe x 2 2) st payload).fwRegion + 0x0D000000 ≤ e.sr k := by
      rw [Dev.fwRegion, Dev.fld_congr _ _ _ (Dev.respond_regs ..), Dev.sr, Dev.fwRegion]
      omega
    rw [← hsr, ← htail, Dev.aciskLog_read (by omega), Dev.respond_read, rspEntry, hhdr]
  · rw [hlog]
    exact hbox.mailbox_eq Mbx.logLevel fun _ => rfl
  · rw [hlog]
    exact hbox.mailbox_eq Mbx.mgmtSeq fun _ => rfl

theorem Dev.rings_congr {d e : Dev} (hr : e.regs = d.regs) (hm : e.mem = d.mem) (hl : e.lsEpoch = d.lsEpoch) (k : Nat) :
    e.reqHead k = d.reqHead k ∧ e.reqTail k = d.reqTail k ∧ e.rspHead k = d.rspHead k ∧ e.rspTail k = d.rspTail k := by
  have hsr := Dev.sr_congr hr k
  simp only [Dev.reqHead, Dev.reqTail, Dev.rspHead, Dev.rspTail, hsr, Dev.rd_congr hm hl, and_self]

theorem Dev.lastRequest.congr {d e : Dev} {k : Nat} {x : List Byte} (h : d.lastRequest k x) (hr : e.regs = d.regs) (hm : e.mem = d.mem)
    (hl : e.lsEpoch = d.lsEpoch) (hb : e.mbx = d.mbx) : e.lastRequest k x := by
  obtain ⟨hhead, htail, hrsp, hrspTail⟩ := Dev.rings_congr hr hm hl k
  refine ⟨?_, ?_, ?_, h.ok, ?_, hb ▸ h.mgmt⟩
  · rw [Dev.fwServes, Dev.fwRuns, Dev.st, Dev.fld_congr _ _ _ hr, Dev.fld_congr _ _ _ hr]
    exact h.serves
  · rw [Dev.rspFull, hrsp, hrspTail]
    exact h.room
  · rw [Dev.request, hb, hhead, htail, Dev.sr_congr hr, Dev.read_congr hm hl]
    exact h.request
  · rw [hhead, htail]
    exact h.last

/-- A silent device serves as the device does. -/
theorem Dev.lastRequest.serve_quiet {d e : Dev} {k type : Nat} {x payload : List Byte} {st : Status} {act : List Byte → Dev → Status × List Byte × Dev}
    (h : d.lastRequest k x) (htype : rdLe x 0 2 = type) (hact : act ((x.drop 16).take (rdLe x 4 2)) (d.quiet.consumeReq k) = (st, payload, e))
    (he : Evolves [.cnt, .fab, .mbx] (d.quiet.consumeReq k) e) (hmgmt : e.mbx.mgmt = []) :
    (d.quiet.serve k type act).read (d.sr k + 0x20000 + 256 * d.rspTail k) (16 + payload.length) =
        x.take 4 ++ natLe 2 payload.length ++ natLe 1 st.code ++ List.replicate 9 0 ++ payload ∧
      (d.quiet.serve k type act).mbx.logLevel = e.mbx.logLevel ∧ (d.quiet.serve k type act).mbx.mgmtSeq = e.mbx.mgmtSeq := by
  have hserve := (h.congr (Dev.quiet_regs d) (Dev.quiet_mem d) (Dev.quiet_lsEpoch d) (Dev.quiet_mbx d)).serve htype hact he hmgmt
  obtain ⟨-, -, -, htail⟩ := Dev.rings_congr (Dev.quiet_regs d) (Dev.quiet_mem d) (Dev.quiet_lsEpoch d) k
  rwa [htail, Dev.sr_congr (Dev.quiet_regs d)] at hserve

/-- The next MGMT message takes its number. -/
def Dev.nextMgmt (d : Dev) : Dev := { d with mbx := { d.mbx with mgmtSeq := (d.mbx.mgmtSeq + 1) % 65536 } }

/-- What MGMT_SEND does where the send queue has room (R386). -/
def mgmtSendAct (p : List Byte) (d : Dev) : Status × List Byte × Dev :=
  let dst := rdLe p 0 2 % 4096
  let bs := p.drop 2
  let n := bs.length
  let body := natLe 2 0x20 ++ natLe 2 d.mbx.mgmtSeq ++ natLe 4 n ++ bs ++ List.replicate ((n + 7) / 8 * 8 - n) 0
  (.done, [], if dst = d.ownAddr then d.nextMgmt.mgmtIn dst body else d.nextMgmt.txRouted (d.nextMgmt.routePort dst 4 0) MT.mgmt dst false body)

/-- What the requests of a pair are answered with (Table 15.8). -/
theorem serve_answers {s : State} (hp : s.dev.powered = true) (k : Fin 4) {x : List Byte} (h : s.dev.lastRequest k x) :
    let p := (x.drop 16).take (rdLe x 4 2)
    let gives := fun (st : Status) (r : List Byte) (e : Dev) => e.read (s.dev.sr k + 0x20000 + 256 * s.dev.rspTail k) (16 + r.length) =
      x.take 4 ++ natLe 2 r.length ++ natLe 1 st.code ++ List.replicate 9 0 ++ r
    (rdLe x 0 2 = 1 → answers (.srEcho k) s (gives .done p)) ∧
    (rdLe x 0 2 = 2 → answers (.srVersion k) s (gives .done ((s.dev.mbx.header.drop 4).take 20 ++
      natLe 4 (s.dev.fld Reg.MBX_CASK_VER_SUPPORTED * 65536 + s.dev.fld Reg.MBX_CASK_VER_FOUND)))) ∧
    (rdLe x 0 2 = 0x10 → answers (.logLevel k) s fun e => gives .done [] e ∧ e.mbx.logLevel = rdLe x 16 1) ∧
    (rdLe x 0 2 = 0x30 → answers (.caskInfo k) s (gives .done s.dev.mbx.caskHdr)) ∧
    (rdLe x 0 2 = 0x20 → answers (.mgmtSend k true) s (gives .exhausted []) ∧
      (rdLe p 0 2 % 4096 ≠ s.dev.ownAddr → answers (.mgmtSend k false) s fun e => gives .done [] e ∧ e.mbx.mgmtSeq = (s.dev.mbx.mgmtSeq + 1) % 65536)) := by
  have hbox : (s.dev.quiet.consumeReq k).mbx = s.dev.mbx := (Dev.wr_mbx ..).trans (Dev.quiet_mbx _)
  have hfld (f : Field) : (s.dev.quiet.consumeReq k).fld f = s.dev.fld f := Dev.fld_congr _ _ f ((Dev.wr_regs ..).trans (Dev.quiet_regs _))
  have hempty : (s.dev.quiet.consumeReq k).mbx.mgmt = [] := (congrArg Mbx.mgmt hbox).trans h.mgmt
  refine ⟨fun ht => ?_, fun ht => ?_, fun ht => ?_, fun ht => ?_, fun ht => ⟨?_, fun hdst => ?_⟩⟩
  · exact answers_run _ _ _ _ (exec_srEcho k s) hp (h.serve_quiet ht rfl .refl hempty).1
  · exact answers_run _ _ _ _ (exec_srVersion k s) hp (h.serve_quiet ht (by rw [hbox, hfld, hfld]) .refl hempty).1
  · have hlen : rdLe x 4 2 = 1 := by
      have hok := h.ok
      rw [requestOk, ht] at hok
      exact beq_iff_eq.mp (Bool.and_eq_true_iff.mp hok).1
    have hlevel : rdLe ((x.drop 16).take (rdLe x 4 2)) 0 1 = rdLe x 16 1 := by
      rw [hlen, rdLe, rdLe, List.drop_zero, List.take_take, Nat.min_self]
    obtain ⟨hgives, hkept, -⟩ := h.serve_quiet (payload := []) ht rfl (act := fun p d => (.done, [], { d with mbx := { d.mbx with logLevel := rdLe p 0 1 } }))
      (.step .refl .put_mbx) hempty
    exact answers_run _ _ _ _ (exec_logLevel k s) hp ⟨hgives, hkept.trans hlevel⟩
  · exact answers_run _ _ _ _ (exec_caskInfo k s) hp (h.serve_quiet ht (by rw [hbox]) .refl hempty).1
  · exact answers_run _ _ _ _ (exec_mgmtSend k true s) hp (h.serve_quiet (payload := []) ht rfl .refl hempty).1
  · have hne : ¬ rdLe ((x.drop 16).take (rdLe x 4 2)) 0 2 % 4096 = (s.dev.quiet.consumeReq k).ownAddr := by
      rwa [Dev.ownAddr, Dev.flag, hfld, hfld]
    have hsent : ∃ port body, mgmtSendAct ((x.drop 16).take (rdLe x 4 2)) (s.dev.quiet.consumeReq k) = (.done, [],
        (s.dev.quiet.consumeReq k).nextMgmt.txRouted port MT.mgmt (rdLe ((x.drop 16).take (rdLe x 4 2)) 0 2 % 4096) false body) :=
      ⟨_, _, congrArg (fun z : Dev => (Status.done, ([] : List Byte), z)) (if_neg hne)⟩
    obtain ⟨port, body, hsent⟩ := hsent
    have hbox' := Evolves.txRouted (d := (s.dev.quiet.consumeReq k).nextMgmt) (p := port) (mt := MT.mgmt)
      (dst := rdLe ((x.drop 16).take (rdLe x 4 2)) 0 2 % 4096) (late := false) (body := body) |>.keeps .mbx (by decide)
    obtain ⟨hgives, -, hseq⟩ := h.serve_quiet ht hsent (.step (.step .refl .put_mbx) .txRouted) ((congrArg Mbx.mgmt hbox').trans hempty)
    refine answers_run _ _ _ _ (exec_mgmtSend k false s) hp ⟨hgives, hseq.trans ((congrArg Mbx.mgmtSeq hbox').trans ?_)⟩
    exact congrArg (fun m : Mbx => (m.mgmtSeq + 1) % 65536) hbox

end Sys2Proof.Machine
end

section
/-!
PROOF. Handover (R393, R394), the watchdog's expiry (R411), and the rings, mailboxes and management as a whole (O58).
-/

set_option Elab.async false

namespace Sys2Proof.Machine

/-! ### What the mailboxes' own traffic leaves alone -/

/-- A reading that no word passing through a mailbox changes. -/
structure Reading.offMail {p : Part} {α : Type} (g : Reading p α) : Prop where
  queues : g.offQueues
  denied : ∀ d v, g.same d (d.setFld Reg.FLT_STK0_MBX_DENIED v)
  mail : ∀ c ∈ [Cnt.MBX_DENY_CNT, Cnt.MBX_DEAD_CNT, Cnt.MBX_FULL_CNT, Cnt.MBX_MSG_CNT, Cnt.MBX_SR_ERR_CNT], ∀ d, g.same d (d.bump c)

theorem Reading.offMail_fld {f : Field} (h : f.key ≠ Reg.MBX_TRACE_HEAD_COUNT.key) (hd : f.key ≠ Reg.FLT_STK0_MBX_DENIED.key) : (Reading.fld f).offMail where
  queues := Reading.offQueues_fld h
  denied _ _ := .setFld .refl hd
  mail _ _ _ := rfl

theorem Reading.offMail_count {c : Nat} (h : c ∉ [Cnt.HIF_CMD_CNT, Cnt.HIF_STATE_REJ_CNT, Cnt.HIF_BAD_ARG_CNT, Cnt.HIF_CQ_DROP_CNT, Cnt.MBX_TRACE_WRAP_CNT])
    (hm : c ∉ [Cnt.MBX_DENY_CNT, Cnt.MBX_DEAD_CNT, Cnt.MBX_FULL_CNT, Cnt.MBX_MSG_CNT, Cnt.MBX_SR_ERR_CNT]) : (Reading.count c).offMail where
  queues := Reading.offQueues_count h
  denied _ _ := rfl
  mail k hk d := Dev.count_bump_other d k c fun hc => hm (hc ▸ hk)

namespace Reading.offMail

variable {p : Part} {α : Type} {g : Reading p α} (hg : g.offMail) {d e : Dev}
include hg

theorem mailed {c : Nat} (h : g.same d e)
    (hc : c ∈ [Cnt.MBX_DENY_CNT, Cnt.MBX_DEAD_CNT, Cnt.MBX_FULL_CNT, Cnt.MBX_MSG_CNT, Cnt.MBX_SR_ERR_CNT] := by decide) : g.same d (e.bump c) :=
  h.step (hg.mail c hc e)

theorem append {n toB w} (h : g.same d e) : g.same d (e.append n toB w) := by
  unfold Dev.append
  exact .use (hg.queues.via h .setQueue) fun h => .use (.ite (hg.mailed h) h) fun h => .when (.ite (hg.mailed h) h) fun h => hg.queues.via h .emit

theorem refuseMbx {n id} (h : g.same d e) : g.same d (e.refuseMbx n id) := by
  unfold Dev.refuseMbx Dev.sticky
  exact hg.queues.trace (.ite (hg.mailed h) (hg.queues.trace ((hg.mailed h).step (hg.denied _ _))))

theorem mbxTx {id n w} (h : g.same d e) : g.same d (e.mbxTx id n w) := by
  unfold Dev.mbxTx
  split
  · exact .use (hg.refuseMbx h) fun h => .ite h (hg.queues.via h .emit)
  · exact .ite (.use (hg.mailed h) fun h => .ite h (hg.queues.via h .emit)) (hg.append h)

theorem mbxSend {id n words} (h : g.same d e) : g.same d (e.mbxSend id n words) := by
  unfold Dev.mbxSend
  exact .foldl h fun _ _ h => hg.mbxTx h

theorem srNotice {k} (h : g.same d e) : g.same d (e.srNotice k) := by
  unfold Dev.srNotice
  dsimp only
  split
  · exact h
  · exact .ite h (hg.mbxSend h)

theorem respond {k type tag st payload} (h : g.same d e) : g.same d (e.respond k type tag st payload) := by
  rw [Dev.respond_eq, Dev.writesRsp]
  exact hg.srNotice (hg.queues.via (hg.queues.via h .write) .wr)

theorem deliverMgmt {n} (h : g.same d e) : g.same d (e.deliverMgmt n) := by
  induction n generalizing e with
  | zero => exact h
  | succ n ih =>
    unfold Dev.deliverMgmt
    split
    · exact h
    · exact .ite h (ih (hg.respond (hg.queues.via h .put_mbx)))

end Reading.offMail

namespace Reading.offQueues

variable {p : Part} {α : Type} {g : Reading p α} (hg : g.offQueues) {d e : Dev}
include hg

theorem completes {c st i0 i1 i2} (h : g.same d e) : g.same d (e.complete c st i0 i1 i2) := hg.sweepN (hg.finish h)

theorem abortCmds {q} (h : g.same d e) : g.same d (e.abortCmds q) := by
  unfold Dev.abortCmds
  exact .foldl h fun _ _ h => hg.completes h

end Reading.offQueues

/-! ### What completions keep of the mailboxes -/

namespace Reading.same

variable {d e : Dev}

theorem takeBox {c} (h : mailboxes.same d e) : mailboxes.same d (e.take c) := by
  unfold Dev.take
  refine .traceBox ?_
  split
  · exact (h.via .setHif).via .setCq
  · exact h.via .setHif

theorem finishBox {c st i0 i1 i2} (h : mailboxes.same d e) : mailboxes.same d (e.finish c st i0 i1 i2) := by
  unfold Dev.finish
  refine Reading.same.via ?_ .postHeld
  have hdone : mailboxes.same d ((e.setHif fun h => { h with prog := h.prog.erase c }).trace 129 0 (c.cid + 65536 * c.sq + 2 ^ 32 * c.op) st.code) :=
    .traceBox (h.via .setHif)
  split
  · exact Reading.same.via (.when hdone fun h => h.via .bump) .bump
  · exact Reading.same.via (.when hdone fun h => h.via .bump) .bump
  · exact .when hdone fun h => h.via .bump

theorem abortBox {q} (h : mailboxes.same d e) : mailboxes.same d (e.abortCmds q) := by
  unfold Dev.abortCmds Dev.complete Dev.sweep
  exact .foldl h fun z c h => Dev.sweepN_induction (fun _ _ h => .takeBox h) (fun _ _ _ h => .finishBox h) (fun _ _ h => h) (.finishBox h) _

end Reading.same

/-! ### The watchdog expires (R411) -/

/-- A watchdog that has run out, before the MGMT domain goes down and the program freezes. -/
def Dev.wdogLost (d : Dev) : Dev :=
  let d := (d.sticky Reg.FLT_STK0_FW_DEAD).setFld Reg.FLT_WDOG_STATUS_EXPIRED 1
  let d := ((d.setFld Reg.FLT_WDOG_STATUS_ARMED 0).setFld Reg.FLT_WDOG_STATUS_REMAIN 0).bump Cnt.FLT_WDOG_EXPIRE_CNT
  d.setFld Reg.MBX_STATUS_FW 5

theorem Dev.wdogExpire_armed {d : Dev} (h : d.flag Reg.FLT_WDOG_STATUS_ARMED = true) : d.wdogExpire = (d.wdogLost.mgmtDown.fire 0).freeze 4 := by
  rw [Dev.wdogExpire, h, Bool.not_true, if_neg Bool.false_ne_true]
  rfl

theorem Dev.wdogExpire_off {d : Dev} (h : d.flag Reg.FLT_WDOG_STATUS_ARMED = false) : d.wdogExpire = d := by
  rw [Dev.wdogExpire, h]
  rfl

/-- What a watchdog that has run out leaves behind. -/
theorem Dev.wdogExpire_shows {d : Dev} (h : d.flag Reg.FLT_WDOG_STATUS_ARMED = true) :
    d.wdogExpire.flag Reg.FLT_WDOG_STATUS_EXPIRED = true ∧ d.wdogExpire.flag Reg.FLT_WDOG_STATUS_ARMED = false ∧
      d.wdogExpire.fld Reg.FLT_WDOG_STATUS_REMAIN = 0 ∧ d.wdogExpire.count Cnt.FLT_WDOG_EXPIRE_CNT = min cntMax (d.count Cnt.FLT_WDOG_EXPIRE_CNT + 1) ∧
      d.wdogExpire.fld Reg.MBX_STATUS_FW = 5 ∧ d.wdogExpire.mbx.mgmtUp = false ∧ d.wdogExpire.flag Reg.FLT_STK0_FW_DEAD = true := by
  have hlate : Evolves [.cnt, .frm, .hif, .mbx] d.wdogLost d.wdogExpire := by
    rw [Dev.wdogExpire_armed h]
    exact .step (.step (.step .refl .mgmtDown) .fire) .freeze
  have hfld (f : Field) : d.wdogExpire.fld f = d.wdogLost.fld f := Dev.fld_congr _ _ f (hlate.keeps .regs (by decide))
  have hlost : (Reading.count Cnt.FLT_WDOG_EXPIRE_CNT).same d.wdogLost d.wdogExpire := by
    rw [Dev.wdogExpire_armed h, Dev.mgmtDown]
    refine Reading.same.via (Reading.same.via ?_ .fire) .freeze
    exact .foldl (.via .refl .put_mbx) fun _ _ h => .when h fun h => ((h.via .setQueue).via .setQueue).bumpBy (by decide)
  have hcount : (Reading.count Cnt.FLT_WDOG_EXPIRE_CNT).same d ((d.sticky Reg.FLT_STK0_FW_DEAD).setFld Reg.FLT_WDOG_STATUS_EXPIRED 1) := by
    unfold Dev.sticky
    have hg := Reading.offQueues_count (c := Cnt.FLT_WDOG_EXPIRE_CNT) (by decide)
    exact Reading.same.via (.ite .refl (hg.trace (.via .refl .setFld))) .setFld
  have hup : d.wdogExpire.mbx.mgmtUp = false := by
    rw [Dev.wdogExpire_armed h, Evolves.freeze.keeps .mbx (by decide), Evolves.fire.keeps .mbx (by decide), Dev.mgmtDown]
    exact (Reading.same.flush .refl).mgmtUp_eq
  have hdead : (d.sticky Reg.FLT_STK0_FW_DEAD).flag Reg.FLT_STK0_FW_DEAD = true := Dev.sticky_flag d rfl (by decide)
  refine ⟨?_, ?_, ?_, hlost.count_eq.trans ?_, ?_, hup, ?_⟩
  · rw [Dev.flag, hfld, Dev.wdogLost, Dev.fld_setFld_other _ _ _ _ (by decide), Dev.bump_fld, Dev.fld_setFld_other _ _ _ _ (by decide),
      Dev.fld_setFld_other _ _ _ _ (by decide), Dev.fld_setFld_same]
    rfl
  · rw [Dev.flag, hfld, Dev.wdogLost, Dev.fld_setFld_other _ _ _ _ (by decide), Dev.bump_fld, Dev.fld_setFld_other _ _ _ _ (by decide),
      Dev.fld_setFld_same]
    rfl
  · rw [hfld, Dev.wdogLost, Dev.fld_setFld_other _ _ _ _ (by decide), Dev.bump_fld, Dev.fld_setFld_same]
    rfl
  · refine (Dev.count_bump_same _ _).trans ?_
    rw [Dev.setFld_count, Dev.setFld_count, hcount.count_eq]
  · rw [hfld, Dev.wdogLost, Dev.fld_setFld_same]
    rfl
  · rw [Dev.flag, hfld, Dev.wdogLost, Dev.fld_setFld_other _ _ _ _ (by decide), Dev.bump_fld, Dev.fld_setFld_other _ _ _ _ (by decide),
      Dev.fld_setFld_other _ _ _ _ (by decide), Dev.fld_setFld_other _ _ _ _ (by decide)]
    exact hdead

/-- A device that no longer waits to update. -/
def Dev.forgetsUpdate (d : Dev) : Dev :=
  { d.setFrm fun f => { f with updateAt := none, resumeTick := none } with mbx := { d.mbx with staged := false } }

theorem Dev.forgetsUpdate_evolves (d : Dev) : Evolves [.frm, .mbx] d d.forgetsUpdate := .step (.step .refl .setFrm) .put_mbx

/-- Without a staged image an UPDATE that is aborted leaves MBX_STATUS alone. -/
theorem Dev.abortUpdate_unstaged {d : Dev} (h2 : d.fld Reg.MBX_STATUS_FW ≠ 2) (h3 : d.fld Reg.MBX_STATUS_FW ≠ 3) :
    d.abortUpdate = d.forgetsUpdate.abortCmds Cmd.isUpdate :=
  congrArg (Dev.abortCmds · Cmd.isUpdate) (if_neg (not_or.mpr ⟨h2, h3⟩))

theorem wdogExpire_answers {s : State} (hp : s.dev.powered = true) :
    if s.dev.flag Reg.FLT_WDOG_STATUS_ARMED then answers .wdogExpire s fun e => e.flag Reg.FLT_WDOG_STATUS_EXPIRED = true ∧
      e.flag Reg.FLT_WDOG_STATUS_ARMED = false ∧ e.fld Reg.FLT_WDOG_STATUS_REMAIN = 0 ∧
        e.count Cnt.FLT_WDOG_EXPIRE_CNT = min cntMax (s.dev.count Cnt.FLT_WDOG_EXPIRE_CNT + 1) ∧
        e.fld Reg.MBX_STATUS_FW = 5 ∧ e.mbx.mgmtUp = false ∧ e.flag Reg.FLT_STK0_FW_DEAD = true
    else exec .wdogExpire s = .next ⟨s.dev.quiet, s.pending⟩ := by
  split
  case isFalse h => exact exec_run_eq (exec_wdogExpire s) hp (if_neg h)
  case isTrue h =>
    obtain ⟨hexpired, harmed, hremain, hcount, hfw, hup, hdead⟩ := Dev.wdogExpire_shows (d := s.dev.quiet) h
    have habort := Dev.abortUpdate_unstaged (d := s.dev.quiet.wdogExpire) (by rw [hfw]; decide) (by rw [hfw]; decide)
    have hfld (f : Field) (hf : f.key ≠ Reg.MBX_TRACE_HEAD_COUNT.key) : s.dev.quiet.wdogExpire.abortUpdate.fld f = s.dev.quiet.wdogExpire.fld f := by
      rw [habort]
      exact ((Reading.offQueues_fld hf).abortCmds (.via .refl (Dev.forgetsUpdate_evolves _))).fld_eq
    refine answers_run_eq (exec_wdogExpire s) hp (if_pos h) ⟨?_, ?_, ?_, ?_, ?_, ?_, ?_⟩
    · exact (congrArg (· == 1) (hfld _ (by decide))).trans hexpired
    · exact (congrArg (· == 1) (hfld _ (by decide))).trans harmed
    · exact (hfld _ (by decide)).trans hremain
    · rw [habort]
      exact ((Reading.offQueues_count (by decide)).abortCmds (.via .refl (Dev.forgetsUpdate_evolves _))).count_eq.trans hcount
    · exact (hfld _ (by decide)).trans hfw
    · rw [habort]
      exact (Reading.same.abortBox .refl).mgmtUp_eq.trans hup
    · exact (congrArg (· == 1) (hfld _ (by decide))).trans hdead

/-! ### Handover (R392, R393) -/

/-- The old image ends its commands and writes the cask. -/
def Dev.leavesImage (d : Dev) : Dev :=
  ((d.setFrm fun f => { f with startTick := none, quiesceAt := none }).abortCmds fun c => c.needsAcisk && c.op != 0x05).writeCask

/-- The banks swap. -/
def Dev.swapBanks (d : Dev) : Dev :=
  { (d.setFld Reg.MBX_STATUS_FW 4).setFld Reg.MBX_STATUS_BANK (1 - d.fld Reg.MBX_STATUS_BANK) with mbx := { d.mbx with staged := false } }

theorem Dev.swapBanks_fw (d : Dev) : d.swapBanks.fld Reg.MBX_STATUS_FW = 4 :=
  (Dev.fld_setFld_other (d.setFld Reg.MBX_STATUS_FW 4) Reg.MBX_STATUS_BANK Reg.MBX_STATUS_FW _ (by decide)).trans
    (Dev.fld_setFld_same d Reg.MBX_STATUS_FW 4)

theorem Dev.swapBanks_bank (d : Dev) : d.swapBanks.fld Reg.MBX_STATUS_BANK = 1 - d.fld Reg.MBX_STATUS_BANK :=
  (Dev.fld_setFld_same (d.setFld Reg.MBX_STATUS_FW 4) Reg.MBX_STATUS_BANK _).trans (Nat.mod_eq_of_lt (Nat.lt_succ_of_le (Nat.sub_le ..)))

theorem Dev.handover_eq (d : Dev) : d.handover = d.leavesImage.swapBanks.enterImage d.leavesImage.swapBanks.runningImage := rfl

theorem Dev.enterImage_fld (d : Dev) (b : List Byte) {f : Field}
    (hf : f.key ∉ [Reg.MBX_VER_FW_MAJOR.key, Reg.MBX_VER_FW_MINOR.key, Reg.MBX_CASK_VER_SUPPORTED.key, Reg.SEC_SVN_RUN.key,
      Reg.FLT_WDOG_STATUS_ARMED.key, Reg.FLT_WDOG_STATUS_EXPIRED.key, Reg.FLT_WDOG_STATUS_REMAIN.key]) : (d.enterImage b).fld f = d.fld f := by
  simp only [List.mem_cons, List.not_mem_nil, or_false, not_or] at hf
  obtain ⟨hmajor, hminor, hver, hsvn, harmed, hexpired, hremain⟩ := hf
  unfold Dev.enterImage Dev.armWatchdog
  refine Reading.same.fld_eq (Reading.same.setFld (Reading.same.setFld (Reading.same.setFld (Reading.same.via ?_ .put_mbx) harmed) hexpired) hremain)
  exact Reading.same.via (Reading.same.setFld (Reading.same.setFld (Reading.same.setFld (Reading.same.setFld .refl hmajor) hminor) hver) hsvn) .setSec

theorem Dev.enterImage_staged (d : Dev) (b : List Byte) : (d.enterImage b).mbx.staged = d.mbx.staged := by
  unfold Dev.enterImage
  rw [Evolves.armWatchdog.keeps .mbx (by decide)]
  rfl

theorem Dev.handover_shows (d : Dev) :
    d.handover.fld Reg.MBX_STATUS_FW = 4 ∧ d.handover.mbx.staged = false ∧ d.handover.fld Reg.MBX_STATUS_BANK = 1 - d.fld Reg.MBX_STATUS_BANK := by
  have hleft : (Reading.fld Reg.MBX_STATUS_BANK).same d d.leavesImage := by
    unfold Dev.leavesImage
    exact ((Reading.offQueues_fld (by decide)).abortCmds (.via .refl .setFrm)).via .writeCask
  rw [Dev.handover_eq]
  refine ⟨?_, ?_, ?_⟩
  · rw [Dev.enterImage_fld _ _ (by decide), Dev.swapBanks_fw]
  · exact Dev.enterImage_staged ..
  · rw [Dev.enterImage_fld _ _ (by decide), Dev.swapBanks_bank, hleft.fld_eq]

theorem updateStaged_answers {s : State} (hp : s.dev.powered = true) :
    if s.dev.fld Reg.MBX_STATUS_FW = 2 then answers .updateStaged s fun e => if s.dev.frm.updateAt.isSome then e.fld Reg.MBX_STATUS_FW = 3 ∧ e.mbx.staged = true
      else e.fld Reg.MBX_STATUS_FW = 4 ∧ e.mbx.staged = false ∧ e.fld Reg.MBX_STATUS_BANK = 1 - s.dev.fld Reg.MBX_STATUS_BANK
    else exec .updateStaged s = .next ⟨s.dev.quiet, s.pending⟩ := by
  split
  case isFalse h => exact exec_run_eq (exec_updateStaged s) hp (if_pos h)
  case isTrue h =>
    by_cases hwait : s.dev.frm.updateAt.isSome = true
    · refine answers_run_eq (exec_updateStaged s) hp ((if_neg (not_not.mpr h)).trans (if_pos hwait)) ?_
      rw [if_pos hwait]
      exact ⟨Dev.fld_setFld_same s.dev.quiet Reg.MBX_STATUS_FW 3, rfl⟩
    · refine answers_run_eq (exec_updateStaged s) hp ((if_neg (not_not.mpr h)).trans (if_neg hwait)) ?_
      rw [if_neg hwait]
      obtain ⟨hfw, hstaged, hbank⟩ := Dev.handover_shows { s.dev.quiet.setFld Reg.MBX_STATUS_FW 3 with mbx := { s.dev.quiet.mbx with staged := true } }
      refine ⟨hfw, hstaged, hbank.trans (congrArg (1 - ·) (Dev.fld_setFld_other s.dev.quiet Reg.MBX_STATUS_FW Reg.MBX_STATUS_BANK 3 (by decide)))⟩

/-! ### The cask is read (R394) -/

/-- No command is in progress. -/
theorem Dev.abortless {d e : Dev} {l : List Part} (h : Evolves l d e) (hp : d.hif.prog = []) (hl : Part.hif ∉ l := by decide) : e.hif.prog = [] :=
  (congrArg Hif.prog (h.keeps .hif hl)).trans hp

/-- A cask that is judged: taken, or rejected and replaced by a ledger restore. -/
def Dev.judgeCask (d : Dev) (e : Ecc) : Dev :=
  let d := d.ecc e
  let h := d.caskHead
  let ok := d.caskOk
  let d := d.idleRead d.caskAddr d.caskSize
  let d := if ok then d.setFld Reg.MBX_STATUS_CASK 1
    else ((d.bump Cnt.MBX_CASK_REJ_CNT).ledgerRebuild).setFld Reg.MBX_STATUS_CASK 2
  { d.setFld Reg.MBX_CASK_VER_FOUND (rdLe h 4 2) with mbx := { d.mbx with caskHdr := h } }

/-- The new image runs. -/
def Dev.handsOver (d : Dev) : Dev := (d.setFld Reg.MBX_STATUS_FW 1).bump Cnt.MBX_HANDOVER_CNT

theorem Dev.handsOver_fw (d : Dev) : d.handsOver.fld Reg.MBX_STATUS_FW = 1 := Dev.fld_setFld_same d Reg.MBX_STATUS_FW 1

theorem Dev.handsOver_count (d : Dev) : d.handsOver.count Cnt.MBX_HANDOVER_CNT = min cntMax (d.count Cnt.MBX_HANDOVER_CNT + 1) :=
  Dev.count_bump_same (d.setFld Reg.MBX_STATUS_FW 1) Cnt.MBX_HANDOVER_CNT

theorem Dev.caskRead_eq {d : Dev} (h : d.fld Reg.MBX_STATUS_FW = 4) (fwBad certBad : Nat) (x : Ecc) :
    d.caskRead fwBad certBad x = (let e := (d.judgeCask x).handsOver.burnFloors fwBad certBad
      (((e.hif.prog.filter fun c => c.op == 0x05).foldl Dev.answerHello e).deliverMgmt 64).endHandover) := by
  rw [Dev.caskRead, if_neg (not_not.mpr h)]
  rfl

theorem Dev.judgeCask_evolves (d : Dev) (x : Ecc) :
    Evolves [.regs, .cnt, .mem, .poison, .draws, .frm, .variants, .spg, .num, .mbx, .flt] d (d.judgeCask x) := by
  unfold Dev.judgeCask
  exact .use (.step (.step .refl .ecc) .idleRead) fun h =>
    .use (.ite (h.step .setFld) (h.step .bump |>.step .ledgerRebuild |>.step .setFld)) fun h => h.step .setFld |>.step .put_mbx

theorem stackOf_lt (a : Nat) : stackOf a < 24 := by
  unfold stackOf
  split
  · exact Nat.mod_lt _ (by decide)
  · split <;> omega

namespace Reading.same

variable {d e : Dev} {c : Nat}

/-- The memories count below every counter of the blocks behind them. -/
theorem ecc {x} (h : (count c).same d e) (hc : 0xc04c0 ≤ c) : (count c).same d (e.ecc x) := by
  unfold Dev.ecc
  refine Reading.same.via ?_ .put_poison
  refine .foldl h fun _ a h => .ite (h.bumpBy ?_) (h.bumpBy ?_)
  · have := stackOf_lt a
    rw [Cnt.MEM_HBM_CORR_CNT]
    omega
  · rw [Cnt.MEM_LS_CORR_CNT]
    omega

theorem uncorr {task a} (h : (count c).same d e) (hg : (count c).offQueues) (hc : 0xc04c0 ≤ c) : (count c).same d (e.uncorr task a) := by
  have hnote (cls : Nat) : (count c).same d (e.noteUncorr a cls) := h.via .noteUncorr
  have hsticky {z : Dev} (h : (count c).same d z) : (count c).same d (z.sticky Reg.FLT_STK0_UNCORR_MEM) := by
    unfold Dev.sticky
    exact .ite h (hg.trace (h.via .setFld))
  have hbump {z : Dev} {k : Nat} (h : (count c).same d z) (hk : k < 0xc04c0) : (count c).same d (z.bump k) := h.bumpBy (by omega)
  unfold Dev.uncorr
  refine .ite (Reading.same.via (hbump (hsticky (hnote 1)) (by decide)) .freeze) ?_
  split
  · exact Reading.same.via (Reading.same.via (hbump (hsticky (hnote 2)) (by decide)) .setFld) .put_variants
  · refine .ite (Reading.same.via (hbump (hnote 4) (by decide)) .trouble) ?_
    unfold Dev.uncorrIdle
    exact hbump (hnote 5) (by decide)

theorem idleRead {a n} (h : (count c).same d e) (hg : (count c).offQueues) (hc : 0xc04c0 ≤ c) : (count c).same d (e.idleRead a n) := by
  unfold Dev.idleRead
  exact .foldl h fun _ _ h => h.uncorr hg hc

end Reading.same

theorem Dev.judgeCask_handovers (d : Dev) (x : Ecc) : (Reading.count Cnt.MBX_HANDOVER_CNT).same d (d.judgeCask x) := by
  have hg : (Reading.count Cnt.MBX_HANDOVER_CNT).offQueues := Reading.offQueues_count (by decide)
  have hjudge {z : Dev} (h : (Reading.count Cnt.MBX_HANDOVER_CNT).same d z) : (Reading.count Cnt.MBX_HANDOVER_CNT).same d z.judgeCopies := by
    unfold Dev.judgeCopies
    dsimp only
    split
    · exact ((h.bumpBy (by decide)).via .setFld).via .setFld
    · exact (((h.bumpBy (by decide)).via .put_flt).via .setFld).via .setFld
  have hrebuild {z : Dev} (h : (Reading.count Cnt.MBX_HANDOVER_CNT).same d z) : (Reading.count Cnt.MBX_HANDOVER_CNT).same d z.ledgerRebuild := by
    unfold Dev.ledgerRebuild
    dsimp only
    split
    · exact hjudge h
    · exact (hjudge h).via .restoreCopy
  unfold Dev.judgeCask
  refine .use (.idleRead (.ecc .refl (by decide)) hg (by decide)) fun h => .use (.ite (h.via .setFld) (Reading.same.via (hrebuild (h.bumpBy (by decide))) .setFld)) fun h =>
    (h.via .setFld).via .put_mbx

/-- The updates in progress complete. -/
def Dev.endUpdates (d : Dev) (late : Nat) : Dev := (d.hif.prog.filter Cmd.isUpdate).foldl (fun d c => d.complete c .done late 0 0) d

theorem Dev.endUpdates_idle {d : Dev} (h : d.hif.prog = []) (late : Nat) : d.endUpdates late = d := by
  rw [Dev.endUpdates, h]
  rfl

/-- A handover with no UPDATE in progress completes nothing. -/
theorem Dev.endHandover_evolves {d : Dev} (h : d.hif.prog = []) : Evolves [.frm] d d.endHandover := by
  have hnone : Evolves [.frm] d (d.endUpdates 0) := (Dev.endUpdates_idle h 0).symm ▸ .refl
  have hlate : Evolves [.frm] d ((d.setFrm fun f => { f with resumeTick := none }).endUpdates 1) := by
    rw [Dev.endUpdates_idle (d := d.setFrm _) h]
    exact .setFrm
  unfold Dev.endHandover
  dsimp only
  split
  · exact hnone
  · exact .ite hlate .refl

theorem Dev.caskRead_shows {d : Dev} (hfw : d.fld Reg.MBX_STATUS_FW = 4) (hprog : d.hif.prog = []) (fwBad certBad : Nat) (x : Ecc) :
    (d.caskRead fwBad certBad x).fld Reg.MBX_STATUS_FW = 1 ∧
      (d.caskRead fwBad certBad x).count Cnt.MBX_HANDOVER_CNT = min cntMax (d.count Cnt.MBX_HANDOVER_CNT + 1) := by
  have hjudged : (d.judgeCask x).hif.prog = [] := Dev.abortless (d.judgeCask_evolves x) hprog
  have hburned : ((d.judgeCask x).handsOver.burnFloors fwBad certBad).hif.prog = [] := Dev.abortless .burnFloors hjudged
  have hdelivered : (((d.judgeCask x).handsOver.burnFloors fwBad certBad).deliverMgmt 64).hif.prog = [] := Dev.abortless .deliverMgmt hburned
  have hend := Dev.endHandover_evolves hdelivered
  rw [Dev.caskRead_eq hfw]
  dsimp only
  rw [hburned, List.filter_nil, List.foldl_nil]
  constructor
  · have hg : (Reading.fld Reg.MBX_STATUS_FW).offMail := Reading.offMail_fld (by decide) (by decide)
    exact (Reading.same.via (hg.deliverMgmt (.via .refl .burnFloors)) hend).fld_eq.trans (d.judgeCask x).handsOver_fw
  · have hg : (Reading.count Cnt.MBX_HANDOVER_CNT).offMail := Reading.offMail_count (by decide) (by decide)
    have hburn : (Reading.count Cnt.MBX_HANDOVER_CNT).same (d.judgeCask x).handsOver ((d.judgeCask x).handsOver.burnFloors fwBad certBad) := by
      unfold Dev.burnFloors
      split
      · exact .refl
      · exact ((Reading.same.via .refl .setSec).bumpBy (by decide)).bumpBy (by decide)
    refine (Reading.same.via (hg.deliverMgmt hburn) hend).count_eq.trans ((d.judgeCask x).handsOver_count.trans ?_)
    rw [(d.judgeCask_handovers x).count_eq]

theorem caskRead_answers {s : State} (hp : s.dev.powered = true) (hfw : s.dev.fld Reg.MBX_STATUS_FW = 4) (hprog : s.dev.hif.prog = [])
    (fw ce : Nat) (x : Ecc) : answers (.caskRead fw ce x) s fun e =>
    e.fld Reg.MBX_STATUS_FW = 1 ∧ e.count Cnt.MBX_HANDOVER_CNT = min cntMax (s.dev.count Cnt.MBX_HANDOVER_CNT + 1) :=
  answers_run _ _ _ _ (exec_caskRead fw ce x s) hp (Dev.caskRead_shows (d := s.dev.quiet) hfw hprog fw ce x)

/-! ### Rings, mailboxes and management as a whole -/

/-- The towpath's domain comes up, with or without power. -/
theorem vddioRestored_answers (s : State) : answers .vddioRestored s fun e => e.mbx.vddio = true ∧ s.dev.keepsBut [.mbx] e :=
  ⟨_, exec_vddioRestored s, rfl, rfl, Dev.keepsBut_of_quiet (Evolves.put_mbx (d := s.dev.quiet)).keeps⟩

/-- Settles O58: one rule per command, in the order of the statement. -/
theorem ringsMailboxesAndManagement : Obligations.RingsMailboxesAndManagement := by
  refine fun s hp => ⟨⟨fun hpower => ⟨fun n v => ⟨fun hn => ?_, ?_, fun q hq => tailDoorbell_answers hp hpower n v hq⟩,
    fun n v => ⟨fun hn => ?_, ?_, fun q hq => headDoorbell_answers hp hpower n v hq⟩,
    fun n q hq hst hide hne hdel => descriptorFetch_answers hp hpower n hq hst hide hne hdel⟩,
    fun n q hq hu => msixCoalTimeout_answers hp n hq hu,
    fun asq acq => ⟨fun hoff => ?_, fun hon => ?_⟩,
    fun h => ⟨exec_run_eq (exec_hbmRefresh h s) hp rfl, fun hot => hbmTempReport_answers hp h hot⟩,
    fun v => mbxLock_answers hp v, fun n toB ho he hc => mbxMsgTimeout_answers hp n toB ho he hc, fun m => domainDown_answers hp m,
    fun n id toB ws q hruns hend hne hl hroom htake htype hptr _ hs => ping_answers hp n hruns hend hne hl hroom htake htype hptr hs,
    fun k id toB ws q hserves hend htake htype hptr => srDoorbell_answers hp k hserves hend htake htype hptr,
    fun k x hserves hroom hreq hok hlast hmgmt _ => serve_answers hp k ⟨hserves, hroom, hreq, hok, hlast, hmgmt⟩,
    updateStaged_answers hp, fun hfw hprog fw ce x => caskRead_answers hp hfw hprog fw ce x, wdogExpire_answers hp, tpRefresh_answers hp,
    fun j isA he hl => towpath_answers hp j he hl⟩, vddioRestored_answers⟩
  · exact exec_run_eq (exec_sqTailDoorbell n v true s) hp ((Dev.bar2Write_whole _).trans (Dev.tailDoorbell_none (d := s.dev.quiet) hpower hn))
  · exact exec_run_eq (exec_sqTailDoorbell n v false s) hp (Dev.bar2Write_part (d := s.dev.quiet) hpower _)
  · exact exec_run_eq (exec_cqHeadDoorbell n v true s) hp ((Dev.bar2Write_whole _).trans (Dev.headDoorbell_none (d := s.dev.quiet) hpower hn))
  · exact exec_run_eq (exec_cqHeadDoorbell n v false s) hp (Dev.bar2Write_part (d := s.dev.quiet) hpower _)
  · exact answers_run _ _ _ _ (exec_adminRingsEnable asq acq s) hp (Dev.writeAdmin_enables (d := s.dev.quiet) asq acq hoff)
  · exact answers_run _ _ _ _ (exec_adminRingsDisable asq acq s) hp (Dev.writeAdmin_disables (d := s.dev.quiet) asq acq hon)

end Sys2Proof.Machine
end

section
/-!
PROOF. A warm start is counted once (R440, R446 to R449): a relation beside `Evolves`, that no warm start has been counted. A function that leaves the counters
alone keeps it (`Unwarmed.via`), and so does every function whose own counters are others. The rules have the shape of those of `Evolves`.
-/

set_option Elab.async false

namespace Sys2Proof.Machine

/-- The counter of warm starts, as a reading. -/
abbrev Reading.warmStarts : Reading .cnt Nat := .count Cnt.PWR_START_WARM_CNT

/-- No flit, no link and no command's end counts as a warm start. -/
theorem Reading.warmStarts_steady : warmStarts.steady :=
  steady_count (by decide) (by
    rintro (h | h | ⟨q, h | h⟩)
    · exact absurd h (by decide)
    · exact absurd h (by decide)
    · simp only [Cnt.PWR_START_WARM_CNT, Cnt.FAB_TX_FLIT_CNT] at h; omega
    · simp only [Cnt.PWR_START_WARM_CNT, Cnt.FAB_CREDIT_STALL_CNT] at h; omega)

/-- From `d` the device comes to `e`, and no warm start has been counted. -/
def Unwarmed (d e : Dev) : Prop := Reading.warmStarts.same d e

namespace Unwarmed

variable {d e f d₀ : Dev} {l : List Part}

theorem refl : Unwarmed d d := Reading.same.refl

theorem step (h : Unwarmed d e) (k : Unwarmed e f) : Unwarmed d f := Reading.same.step h k

/-- A further step that leaves the counters alone. -/
theorem via (h : Unwarmed d e) (k : Evolves l e f) (hl : .cnt ∉ l := by decide) : Unwarmed d f := Reading.same.via h k hl

theorem bumpBy {c n} (h : Unwarmed d e) (hc : Cnt.PWR_START_WARM_CNT ≠ c := by decide) : Unwarmed d (e.bumpBy c n) := Reading.same.bumpBy h hc

theorem bump {c} (h : Unwarmed d e) (hc : Cnt.PWR_START_WARM_CNT ≠ c := by decide) : Unwarmed d (e.bump c) := h.bumpBy hc

/-! ### The shapes of the model's functions -/

theorem use (h : Unwarmed d e) (k : Unwarmed d e → Unwarmed d f) : Unwarmed d f := k h

theorem ite {c : Prop} [Decidable c] (h : Unwarmed d e) (k : Unwarmed d f) : Unwarmed d (if c then e else f) := Reading.same.ite h k

theorem iteSnd {β : Type} {c : Prop} [Decidable c] {x y : β × Dev} (h : Unwarmed d x.2) (k : Unwarmed d y.2) : Unwarmed d (if c then x else y).2 :=
  iteInduction (motive := fun z : β × Dev => Unwarmed d z.2) (fun _ => h) fun _ => k

theorem when {c : Prop} [Decidable c] (h : Unwarmed d e) (k : Unwarmed d e → Unwarmed d f) : Unwarmed d (if c then f else e) := ite (k h) h

theorem foldl {α : Type} {g : Dev → α → Dev} {xs : List α} (h : Unwarmed d e) (k : ∀ e x, Unwarmed d e → Unwarmed d (g e x)) : Unwarmed d (xs.foldl g e) :=
  Reading.same.foldl h k

/-! ### Traces, links, completions and reads of memory -/

theorem trace {point src arg0 arg1} : Unwarmed d (d.trace point src arg0 arg1) := Reading.warmStarts_steady.trace .refl

theorem sticky {f} : Unwarmed d (d.sticky f) := by
  unfold Dev.sticky
  exact ite refl (refl.via .setFld |>.step .trace)

theorem setSt {v} : Unwarmed d (d.setSt v) := by
  unfold Dev.setSt
  exact ite refl (refl.via .setFld |>.step .trace)

theorem txRaw {p mt bytes} : Unwarmed d (d.txRaw p mt bytes) := Reading.warmStarts_steady.txRaw .refl

theorem txLocal {p mt body} : Unwarmed d (d.txLocal p mt body) := Reading.warmStarts_steady.txLocal .refl

theorem deriveUp {c sz force} : Unwarmed d (d.deriveUp c sz force) := Reading.warmStarts_steady.deriveUp .refl

theorem setPort {p v} : Unwarmed d (d.setPort p v) := Reading.warmStarts_steady.setPort .refl fun _ => rfl

theorem complete {c st i0 i1 i2} : Unwarmed d (d.complete c st i0 i1 i2) := Reading.warmStarts_steady.toOffQueues.completes .refl

theorem uncorrIdle {a} : Unwarmed d (d.uncorrIdle a) := by
  unfold Dev.uncorrIdle
  exact (refl.via .noteUncorr).bump

theorem idleRead {a n} : Unwarmed d (d.idleRead a n) := Reading.same.idleRead .refl Reading.warmStarts_steady.toOffQueues (by decide)

/-! ### The functions of the model -/

theorem kilnRequest {b measured} : Unwarmed d (d.kilnRequest b measured) := by
  unfold Dev.kilnRequest
  exact ite (refl.via .setFld) (ite (refl.via .setFld) (refl.bump))

theorem writeLedger : Unwarmed d d.writeLedger := by
  unfold Dev.writeLedger
  exact refl.via .put_flt |>.bump |>.via .setFld |>.via .setFld

theorem judgeCopies : Unwarmed d d.judgeCopies := by
  unfold Dev.judgeCopies
  dsimp only
  split
  · exact refl.bumpBy |>.via .setFld |>.via .setFld
  · exact refl.bumpBy |>.via .put_flt |>.via .setFld |>.via .setFld

theorem flush {inDomain} : Unwarmed d (d.flush inDomain) := by
  unfold Dev.flush
  exact foldl refl fun _ _ h => ite (h.via .setQueue |>.via .setQueue |>.bumpBy) h

theorem mgmtDown : Unwarmed d d.mgmtDown := by
  unfold Dev.mgmtDown
  exact refl.via .put_mbx |>.step .flush

theorem loadTrims {t temp} : Unwarmed d (d.loadTrims t temp) := by
  unfold Dev.loadTrims
  exact foldl (refl.bumpBy) fun _ _ h => use (ite h (h.bump)) fun h => h.via .setWorking

theorem retire {t} : Unwarmed d (d.retire t) := by
  unfold Dev.retire
  exact ite refl (refl.via .calWrite |>.via .put_kln |>.via .storeCrc |>.via .setFld |>.step .sticky |>.bump)

theorem degrade {t temp} : Unwarmed d (d.degrade t temp) := by
  unfold Dev.degrade
  exact use (refl.via .put_kln) fun h => when (use (ite h (h.via .storeCrc |>.via .calWrite)) fun h => h.bumpBy) fun h => h.step .retire

theorem kilnTunDone {b i r measured} : Unwarmed d (d.kilnTunDone b i r measured) := by
  unfold Dev.kilnTunDone
  refine use (ite ?_ (refl.via .put_kln |>.via .setFld |>.bump)) fun h =>
    ite (h.via .setFld |>.via .put_kln |>.via .setKilnRun |>.via .showRun) (h.via .setKilnRun |>.via .showRun)
  extract_lets
  split
  · exact refl.via .put_kln |>.via .setFld |>.bump |>.bump |>.via .put_kln
  · exact ite (refl.via .put_kln |>.via .setFld |>.bump |>.bump |>.via .put_kln)
      (refl.via .put_kln |>.via .setFld |>.bump |>.bump |>.via .put_kln |>.via .put_kln |>.via .storeCrc |>.via .calWrite
        |>.bump)

theorem unitWork {b i u r m} : Unwarmed d (d.unitWork b i u r m) := by
  unfold Dev.unitWork
  exact ite (use (ite (refl.step .retire) refl) fun h => h.step .loadTrims |>.via .setFld)
    (ite (use (foldl refl fun _ _ h => h.via .setWorking) fun h => h.via .setWorking)
      (use (foldl refl fun _ _ h => h.via .setWorking) fun h => h.step .degrade))

theorem trainPort {p} : Unwarmed d (d.trainPort p) := by
  unfold Dev.trainPort
  exact ite (refl.via .setLink |>.step .setPort |>.via .put_fab) refl

theorem sendConfirm {p} : Unwarmed d (d.sendConfirm p) := by
  unfold Dev.sendConfirm
  exact refl.step .txRaw

theorem bringUp {p} : Unwarmed d (d.bringUp p) := by
  unfold Dev.bringUp
  split
  · exact refl
  · exact use (refl.via .setLat) fun h => use (ite (h.bump |>.via .put_fab) h) fun h => h.step .setPort

theorem applyDone {code dmax devices maxLat} : Unwarmed d (d.applyDone code dmax devices maxLat) := by
  unfold Dev.applyDone
  exact use (refl.via .setDisc) fun h =>
    ite
      (h.via .setFld |>.via .setFld |>.via .setFld |>.via .setFld |>.via .setFld |>.via .setFld |>.via .setFld |>.via .setFld |>.via .setFld
        |>.via .setFld |>.via .setFld |>.via .setFld |>.via .setFld |>.step .deriveUp |>.via .setFld |>.via .setFld |>.via .setFld)
      (h.via .setFld |>.via .setFld |>.via .setFld |>.bump)

theorem finishDisc {code devices maxLat} : Unwarmed d (d.finishDisc code devices maxLat) := by
  unfold Dev.finishDisc
  exact use (foldl refl fun _ _ h => ite (h.step .txLocal) h) fun h => h.step .applyDone

theorem tryCensus : Unwarmed d d.tryCensus := by
  unfold Dev.tryCensus
  refine ite refl (ite refl (ite (use (refl.via .setDisc) fun h => ite (h.step .finishDisc) (ite (h.step .finishDisc) (h.step .finishDisc))) ?_))
  split
  · exact refl.via .setDisc |>.step .txLocal
  · exact refl

theorem takeCoord {c sz} : Unwarmed d (d.takeCoord c sz) := by
  unfold Dev.takeCoord
  dsimp only
  split
  · exact foldl (refl.via .setDisc) fun _ _ h => ite (h.step .txLocal) h
  · exact ite (use (foldl (refl.via .setDisc) fun _ _ h => ite (h.step .txLocal) h) fun h => h.step .txLocal)
      (foldl (refl.via .setDisc) fun _ _ h => ite (h.step .txLocal) h)

theorem trySizes : Unwarmed d d.trySizes := by
  unfold Dev.trySizes
  exact ite refl (ite (refl.step .finishDisc) (refl.step .takeCoord |>.step .tryCensus))

theorem startSize : Unwarmed d d.startSize := by
  unfold Dev.startSize
  exact use (refl.via .beginDisc |>.via .setDisc) fun h =>
    ite (use (foldl h fun _ _ h => h.step .txLocal) fun h => h.step .trySizes) (h.step .finishDisc)

theorem noteSig {kind r} : Unwarmed d (d.noteSig kind r) := by
  unfold Dev.noteSig
  exact ite (refl.bump) (refl.bump |>.via .setFld |>.via .setFld |>.via .setFld |>.via .setFld)

theorem permAction {cls unit} : Unwarmed d (d.permAction cls unit) := by
  unfold Dev.permAction
  refine ite (ite (refl.via .put_red) refl) ?_
  split
  · exact refl
  · exact refl.step .kilnRequest
  · exact refl.via .put_red |>.step .kilnRequest

theorem abortCmds {p} : Unwarmed d (d.abortCmds p) := by
  unfold Dev.abortCmds
  exact foldl refl fun _ _ h => h.step .complete

/-- A cold start that keeps its power keeps the counters. -/
theorem coldState {pcie} : Unwarmed d (d.coldState pcie false) := by
  have hlost : Unwarmed d d.dropRounds.mgmtDown.loseLs := refl.via .dropRounds |>.step .mgmtDown |>.via .loseLs
  unfold Dev.coldState
  simp only [Bool.false_eq_true, ↓reduceIte]
  generalize d.dropRounds.mgmtDown.loseLs = e at hlost
  exact hlost.step (Dev.count_congr e _ _ rfl)

theorem beginCold {cause pcie} : Unwarmed d (d.beginCold cause pcie false) := by
  unfold Dev.beginCold
  exact refl.step .setSt |>.step .coldState |>.via .setFld |>.via .noteCause |>.via .setFld |>.via .startSettling |>.via .startSettling
    |>.bump

theorem romDone {ok starter} : Unwarmed d (d.romDone ok starter) := by
  unfold Dev.romDone
  refine use ?_ fun h => h.step .abortCmds
  split
  · exact use (ite (refl.step .setSt) (refl.via .noteFailed |>.step .setSt)) fun h => h.step .complete
  · exact ite (refl.step .setSt) (refl.via .noteFailed |>.step .setSt)

theorem enterFault : Unwarmed d d.enterFault := by
  unfold Dev.enterFault
  refine use ?_ fun h => h.via .stopSteps |>.via .setFrm |>.via .setPwr |>.via .setFld |>.step .setSt |>.via .dropStaged |>.step .abortCmds
  split
  · exact refl.via .noteFailed
  · exact refl

theorem startImage {b keep} : Unwarmed d (d.startImage b keep) := by
  unfold Dev.startImage
  exact refl.via .enterImage |>.via .setFld |>.via .setFld |>.via .put_mbx |>.step .abortCmds

theorem trainPorts {p} : Unwarmed d (d.trainPorts p) := by
  unfold Dev.trainPorts
  exact foldl refl fun _ _ h => ite h (ite (h.step .trainPort) (h.via .settlePort))

theorem selfTestFail {c} : Unwarmed d (d.selfTestFail c) := by
  unfold Dev.selfTestFail
  exact use (refl.bump |>.step .sticky |>.via .setFld) fun h => ite h (h.step .permAction)

theorem kilnUnits {l units t} : Unwarmed d (d.kilnUnits l units t) := by
  unfold Dev.kilnUnits
  split
  · exact refl
  · exact foldl refl fun _ _ h => h.step .unitWork

theorem kilnFinish {t measured} : Unwarmed d (d.kilnFinish t measured) := by
  unfold Dev.kilnFinish
  split
  · exact refl
  · exact refl.step .kilnTunDone

theorem afterFabric {x} : Unwarmed d (d.afterFabric x) := by
  unfold Dev.afterFabric
  exact use
      (foldl
          (use (foldl (refl.via .stage) fun _ _ h => h.step .selfTestFail) fun h =>
            h.via .loseLs |>.via .stage |>.via .setFld |>.via .setFld |>.via .stage |>.via .loadRetired |>.via .startRuns) fun _ _ h =>
        h.step .kilnUnits) fun h =>
    h.via .stage

theorem ledgerRead {e} : Unwarmed d (d.ledgerRead e) := by
  unfold Dev.ledgerRead
  dsimp only
  split
  · exact refl.bumpBy
  · exact use (refl.bumpBy |>.via .setFld |>.via .setFld |>.via .setFld |>.via .setFld |>.step .sticky |>.bumpBy) fun h =>
      ite (h.via .put_flt |>.via .freeze) (h.step .enterFault)

theorem warmState {pcie reload} : Unwarmed d (d.warmState pcie reload) := by
  unfold Dev.warmState
  exact refl.via .dropRounds |>.step .mgmtDown |>.via .loseLs |>.via .put_warm |>.via .setFld |>.via .setFld |>.via .setFld

theorem escalate {cause} : Unwarmed d (d.escalate cause) := by
  unfold Dev.escalate
  exact refl.step .beginCold |>.via .setFld |>.bump |>.via .noteFailed |>.step .romDone

theorem foldJournals : Unwarmed d d.foldJournals := by
  unfold Dev.foldJournals
  exact use (foldl refl fun _ _ h => h.step .idleRead |>.step .idleRead |>.via .foldJournal |>.via .foldJournal) fun h => h.via .put_rack

theorem interpTun {l t} : Unwarmed d (d.interpTun l t) := by
  unfold Dev.interpTun
  exact use (refl.step .kilnUnits) fun h => use (ite (h.bump) h) fun h => ite (h.step .kilnUnits |>.step .kilnFinish) (h.step .kilnFinish)

theorem kilnInterp {l} : Unwarmed d (d.kilnInterp l) := by
  unfold Dev.kilnInterp
  exact foldl (refl.via .loadRetired |>.via .startRuns) fun _ _ h => h.step .interpTun

theorem confirmPort {p} : Unwarmed d (d.confirmPort p) := by
  unfold Dev.confirmPort
  dsimp only
  split
  · exact ite (refl.step .bringUp) refl
  · exact ite (use (ite (refl.step .bringUp) refl) fun h => h.via .setLink |>.step .sendConfirm |>.via .put_fab)
      (use (ite (refl.step .bringUp) refl) fun h => h.via .settlePort)

theorem warmFabric {reload} : Unwarmed d (d.warmFabric reload) := by
  unfold Dev.warmFabric
  exact foldl (refl.via .stage |>.step .trainPorts) fun _ _ h => h.step .confirmPort

theorem slotStands {i} : Unwarmed d (d.slotStands i).2 := by
  unfold Dev.slotStands
  exact iteSnd refl (refl.step .noteSig)

theorem revalidate {v} : Unwarmed d (d.revalidate v) := by
  unfold Dev.revalidate
  split
  · exact refl
  · exact ite (refl.via .emptySlot)
      (ite (use (foldl refl fun _ _ h => h.step .uncorrIdle) fun h => h.via .emptySlot)
        (use (refl.step .slotStands) fun h => ite h (h.via .emptySlot)))

theorem confirmResult : Unwarmed d d.confirmResult := by
  unfold Dev.confirmResult
  exact ite (use (ite (refl.via .setFld) refl) fun h => h.via .setFld |>.via .setFld |>.via .setFld |>.via .setFld |>.step .deriveUp)
    (foldl (refl.via .setFld) fun _ _ h => h.via .emptySlot)

theorem resumeHeld : Unwarmed d d.resumeHeld := by
  unfold Dev.resumeHeld
  exact use (ite refl (refl.via .setFld)) fun h =>
    h.via .setFld |>.via .setFld |>.via .setFpDigest |>.via .setFld |>.via .setFld |>.via .setFrm |>.step .setSt

theorem resumeReady : Unwarmed d d.resumeReady := by
  unfold Dev.resumeReady
  exact refl.via .setFld |>.via .setFld |>.via .setFld |>.via .setFld |>.via .setFpDigest |>.step .setSt

theorem warmEnd : Unwarmed d d.warmEnd := by
  unfold Dev.warmEnd
  dsimp only
  split
  · exact use
        (ite
          (use (foldl (refl.step .confirmResult) fun _ _ h => h.step .revalidate) fun h =>
            h.via .noteStart |>.via .setPwr |>.via .setFld |>.step .resumeHeld |>.via .fire |>.step .writeLedger)
          (use (foldl (refl.step .confirmResult) fun _ _ h => h.step .revalidate) fun h =>
            h.via .noteStart |>.via .setPwr |>.via .setFld |>.step .resumeReady)) fun h =>
      h.step .complete
  · exact ite
      (use (foldl (refl.step .confirmResult) fun _ _ h => h.step .revalidate) fun h =>
        h.via .noteStart |>.via .setPwr |>.via .setFld |>.step .resumeHeld |>.via .fire |>.step .writeLedger)
      (use (foldl (refl.step .confirmResult) fun _ _ h => h.step .revalidate) fun h =>
        h.via .noteStart |>.via .setPwr |>.via .setFld |>.step .resumeReady)

theorem endDiscover : Unwarmed d d.endDiscover := by
  unfold Dev.endDiscover
  exact ite refl (foldl refl fun _ _ h => h.step .complete)

theorem advance : Unwarmed d d.advance := by
  unfold Dev.advance
  split
  · exact refl.step .endDiscover
  · exact ite refl (ite (when (ite (refl.step .startSize) refl) fun h => h.step .afterFabric) (ite (refl.step .warmEnd) refl))

theorem warmRest {reload env} : Unwarmed d (d.warmRest reload env) := by
  unfold Dev.warmRest
  exact use (refl.via .stage |>.step .foldJournals |>.bumpBy) fun h =>
    ite (h.step .escalate) (h.via .stage |>.step .kilnInterp |>.step .warmFabric |>.step .advance)

theorem warmLedger {reload env} : Unwarmed d (d.warmLedger reload env) := by
  unfold Dev.warmLedger
  refine ite (refl.via .stage |>.step .ledgerRead) ?_
  dsimp only
  split
  · exact refl.via .stage |>.step .ledgerRead |>.step .judgeCopies |>.step .escalate
  · exact refl.via .stage |>.step .ledgerRead |>.step .judgeCopies |>.via .restoreCopy |>.via .takeFlt |>.via .takeSpg
      |>.via .restartRackSettings |>.step .warmRest

theorem warmStages {b reload env} : Unwarmed d (d.warmStages b reload env) := by
  unfold Dev.warmStages
  split
  · exact refl.step .escalate
  · exact ite (refl.step .startImage |>.step .warmLedger)
      (use (refl.via .stage) fun h =>
        ite (h.step .escalate) (use (h.via .setFld |>.step .startImage |>.via .stage) fun h => ite (h.step .warmLedger) (h.step .enterFault)))

end Unwarmed

end Sys2Proof.Machine
end

section
/-!
PROOF. Gauge: conversions, scan lists and their results (R427 to R435).
-/

set_option Elab.async false

namespace Sys2Proof.Machine

theorem chanConv_lt (k : Nat) : chanConv k < 2 := by
  unfold chanConv
  split <;> decide

/-- A two's complement number and its bits. -/
theorem unsgn_sgn {w n : Nat} (h : n < 2 ^ w) : unsgn w (sgn w n) = n := by
  have hbits : ((n : Int) % ((2 ^ w : Nat) : Int)).toNat = n := by rw [← Int.natCast_emod, Int.toNat_natCast, Nat.mod_eq_of_lt h]
  rw [unsgn, sgn, Nat.mod_eq_of_lt h]
  split
  · exact hbits
  · rw [Int.sub_emod_right]
    exact hbits

/-! ### Converters and waiting lists -/

theorem Dev.conv_congr {d e : Dev} (h : e.gau = d.gau) (g : Nat) : e.conv g = d.conv g := by rw [Dev.conv, h, Dev.conv]

theorem Dev.waits_congr {d e : Dev} (h : e.gau = d.gau) (g : Nat) : e.waits g = d.waits g := by rw [Dev.waits, h, Dev.waits]

/-- A converter's state is put in place, whatever the registers show of it. -/
def Dev.placeConv (d : Dev) (g : Nat) (c : Option Conv) : Dev := { d with gau := { d.gau with conv := SMap.set (fun _ => none) d.gau.conv g c } }

theorem Dev.setConv_none (d : Dev) (g : Nat) :
    d.setConv g none = ((d.placeConv g none).setFld (Reg.GAU_STATUS_BUSY g) 0).setFld (Reg.GAU_STATUS_URGENT g) 0 := rfl

theorem Dev.setConv_urgent (d : Dev) (g : Nat) {c : Conv} (h : c.list = 4) :
    d.setConv g (some c) = ((d.placeConv g (some c)).setFld (Reg.GAU_STATUS_BUSY g) 1).setFld (Reg.GAU_STATUS_URGENT g) 1 := by
  unfold Dev.setConv
  dsimp only
  rw [if_pos h, if_pos h]
  rfl

theorem Dev.setConv_listed (d : Dev) (g : Nat) {c : Conv} (h : c.list ≠ 4) : d.setConv g (some c) =
    ((((d.placeConv g (some c)).setFld (Reg.GAU_STATUS_BUSY g) 1).setFld (Reg.GAU_STATUS_URGENT g) 0).setFld (Reg.GAU_STATUS_LIST g) c.list).setFld
      (Reg.GAU_STATUS_ENTRY g) c.entry := by
  unfold Dev.setConv
  dsimp only
  rw [if_neg h, if_neg h]
  rfl

theorem Dev.setConv_gau (d : Dev) (g : Nat) (c : Option Conv) : (d.setConv g c).gau = (d.placeConv g c).gau := by
  cases c with
  | none => rfl
  | some c =>
    by_cases h : c.list = 4
    · rw [Dev.setConv_urgent d g h]; rfl
    · rw [Dev.setConv_listed d g h]; rfl

theorem Dev.conv_setConv_same (d : Dev) (g : Nat) (c : Option Conv) : (d.setConv g c).conv g = c := by
  rw [Dev.conv, Dev.setConv_gau]
  exact SMap.get_set_same (β := Option Conv) (fun _ => none) d.gau.conv g c

theorem Dev.conv_setConv_other (d : Dev) {g h : Nat} (c : Option Conv) (hne : h ≠ g) : (d.setConv g c).conv h = d.conv h := by
  rw [Dev.conv, Dev.setConv_gau]
  exact SMap.get_set_other (β := Option Conv) (fun _ => none) d.gau.conv g h c hne

theorem Dev.waits_setConv (d : Dev) (g : Nat) (c : Option Conv) (h : Nat) : (d.setConv g c).waits h = d.waits h := by
  rw [Dev.waits, Dev.setConv_gau]
  rfl

theorem Dev.waits_setWaits_same (d : Dev) (g : Nat) (l : List Nat) : (d.setWaits g l).waits g = l :=
  SMap.get_set_same (β := List Nat) (fun _ => []) d.gau.wait g l

theorem Dev.waits_setWaits_other (d : Dev) {g h : Nat} (l : List Nat) (hne : h ≠ g) : (d.setWaits g l).waits h = d.waits h :=
  SMap.get_set_other (β := List Nat) (fun _ => []) d.gau.wait g h l hne

theorem Dev.conv_setWaits (d : Dev) (g : Nat) (l : List Nat) (h : Nat) : (d.setWaits g l).conv h = d.conv h := rfl

/-- Where a converter works, its waiting lists wait on. -/
theorem Dev.startPass_busy {d : Dev} {g : Nat} {c : Conv} (h : d.conv g = some c) (n : Nat) : d.startPass g n = d := by
  cases n with
  | zero => rfl
  | succ n =>
    unfold Dev.startPass
    rw [h]

/-- An idle converter takes up the first entry of the first list that waits, where it can convert it. -/
theorem Dev.nextEntry_starts (d : Dev) {g k : Nat} (l i : Nat) (ks : List Nat) (hk : k ≤ 95) (hg : chanConv k = g) :
    d.nextEntry g l i (k :: ks) =
      d.setConv g (some ⟨l, i, k, ks, d.staleBasin k, (d.staleBasin k).any d.kilnWorking, d.settling g⟩) := by
  rw [Dev.nextEntry, if_neg (by omega)]

/-! ### What scanning leaves alone -/

/-- A reading that neither the converters' states nor what the registers show of them touches. -/
structure Reading.offScan {p : Part} {α : Type} (r : Reading p α) : Prop where
  part : p ∉ [Part.gau]
  busy : ∀ d g v, r.same d (d.setFld (Reg.GAU_STATUS_BUSY g) v)
  urgent : ∀ d g v, r.same d (d.setFld (Reg.GAU_STATUS_URGENT g) v)
  list : ∀ d v, ∀ g < 2, r.same d (d.setFld (Reg.GAU_STATUS_LIST g) v)
  entry : ∀ d v, ∀ g < 2, r.same d (d.setFld (Reg.GAU_STATUS_ENTRY g) v)
  passed : ∀ d, r.same d (d.bump Cnt.GAU_SCAN_ERR_CNT)
  late : ∀ d, r.same d (d.bump Cnt.GAU_SCAN_LATE_CNT)

/-- A field of Gauge's result registers, or of those behind them. -/
def Field.isResult (f : Field) : Prop := 0xf0500 ≤ f.off ∧ f.lo < 64 ∧ f.lo ≠ 29 ∧ f.lo ≠ 31

theorem Reading.offScan_fld {f : Field} (h : f.isResult) : (Reading.fld f).offScan := by
  obtain ⟨hoff, hlo, h29, h31⟩ := h
  have hother {w : Field} (hw : f.key ≠ w.key) (d : Dev) (v : Nat) : (Reading.fld f).same d (d.setFld w v) := .setFld .refl hw
  refine ⟨by decide, fun d g v => hother ?_ d v, fun d g v => hother ?_ d v, fun d v g hg => hother ?_ d v, fun d v g hg => hother ?_ d v,
    fun _ => rfl, fun _ => rfl⟩
  · simp only [Field.key, Reg.GAU_STATUS_BUSY]; omega
  · simp only [Field.key, Reg.GAU_STATUS_URGENT]; omega
  · simp only [Field.key, Reg.GAU_STATUS_LIST]; omega
  · simp only [Field.key, Reg.GAU_STATUS_ENTRY]; omega

theorem Reading.offScan_count {c : Nat} (he : c ≠ Cnt.GAU_SCAN_ERR_CNT) (hl : c ≠ Cnt.GAU_SCAN_LATE_CNT) : (Reading.count c).offScan :=
  ⟨by decide, fun _ _ _ => rfl, fun _ _ _ => rfl, fun _ _ _ _ => rfl, fun _ _ _ _ => rfl, fun _ => .bumpBy .refl he, fun _ => .bumpBy .refl hl⟩

namespace Reading.offScan

variable {p : Part} {α : Type} {r : Reading p α} (hr : r.offScan) {d e : Dev}
include hr

theorem placeConv {g c} (h : r.same d e) : r.same d (e.placeConv g c) := h.via .put_gau hr.part

theorem setWaits {g l} (h : r.same d e) : r.same d (e.setWaits g l) := h.via .setWaits hr.part

theorem idle {g} (h : r.same d e) : r.same d (e.setConv g none) := by
  rw [Dev.setConv_none]
  exact ((hr.placeConv h).step (hr.busy _ g 0)).step (hr.urgent _ g 0)

theorem setConv {g c} (hg : g < 2) (h : r.same d e) : r.same d (e.setConv g c) := by
  cases c with
  | none => exact hr.idle h
  | some c =>
    by_cases hl : c.list = 4
    · rw [Dev.setConv_urgent e g hl]
      exact ((hr.placeConv h).step (hr.busy _ g 1)).step (hr.urgent _ g 1)
    · rw [Dev.setConv_listed e g hl]
      exact ((((hr.placeConv h).step (hr.busy _ g 1)).step (hr.urgent _ g 0)).step (hr.list _ _ g hg)).step (hr.entry _ _ g hg)

theorem nextEntry {g l i} {ks : List Nat} (h : r.same d e) : r.same d (e.nextEntry g l i ks) := by
  induction ks generalizing e i with
  | nil => exact hr.idle h
  | cons k ks ih =>
    unfold Dev.nextEntry
    split
    · exact ih (h.step (hr.passed e))
    next hk =>
      have hg : chanConv k = g := by_contra fun hne => hk (.inr hne)
      exact hr.setConv (hg ▸ chanConv_lt k) h

theorem startPass {g n} (h : r.same d e) : r.same d (e.startPass g n) := by
  induction n generalizing e with
  | zero => exact h
  | succ n ih =>
    unfold Dev.startPass
    split
    · exact ih (hr.nextEntry (hr.setWaits h))
    · exact h

theorem passDue {l} (h : r.same d e) : r.same d (e.passDue l) := by
  unfold Dev.passDue
  exact .ite h (.ite (h.step (hr.late e)) (hr.startPass (hr.setWaits h)))

end Reading.offScan

end Sys2Proof.Machine
end

section
/-!
PROOF. Gauge: urgent requests (R428), scan results (R430 to R432), passes (R427), its power (R434) and its monitors (R435).
-/

set_option Elab.async false

namespace Sys2Proof.Machine

theorem Dev.flag_eq_true {d : Dev} {f : Field} : d.flag f = true ↔ d.fld f = 1 := by rw [Dev.flag, beq_iff_eq]

theorem Dev.flag_eq_false {d : Dev} {f : Field} : d.flag f = false ↔ d.fld f ≠ 1 := by rw [Dev.flag, beq_eq_false_iff_ne]

/-- A one-bit field written from a Boolean reads as that Boolean. -/
theorem Dev.flag_of_fld {d : Dev} {f : Field} {b : Bool} (h : d.fld f = (if b then 1 else 0) % 2 ^ 1) : d.flag f = b := by
  rw [Dev.flag, h]
  cases b <;> rfl

/-! ### Urgent requests -/

/-- The fields of an urgent request, set where they are in range. -/
def Dev.urgentFields (d : Dev) (g order n chan : Nat) : Dev :=
  let d := if 1 ≤ order ∧ order ≤ 5 then d.setFld (Reg.GAU_URG_ORDER g) order else d
  let d := if 64 ≤ n ∧ n ≤ 16384 then d.setFld (Reg.GAU_URG_N g) n else d
  if chan ≤ 95 ∧ chanConv chan = g then d.setFld (Reg.GAU_URG_CHAN g) chan else d

/-- A list of PERIOD 0 keeps the converter busy for ever. -/
def Dev.neverIdle (d : Dev) (g : Nat) : Bool :=
  (List.range 4).any fun l => d.flag (Reg.GAU_SCAN_EN l) && d.fld (Reg.GAU_SCAN_CONV l) == g && d.fld (Reg.GAU_SCAN_PERIOD l) == 0

/-- The request that the fields describe is dropped. -/
def Dev.urgentDrops (d : Dev) (g : Nat) (fits : Bool) : Bool :=
  !d.flag Reg.GAU_CTL_PWR || (d.conv g).isSome || !(d.waits g).isEmpty || d.neverIdle g || !fits || chanConv (d.fld (Reg.GAU_URG_CHAN g)) != g

theorem Dev.urgent_eq (d : Dev) (g order n chan : Nat) (fits : Bool) : d.urgent g order n chan fits =
    if (d.urgentFields g order n chan).urgentDrops g fits then (d.urgentFields g order n chan).bump Cnt.GAU_URG_DROP_CNT
    else ((d.urgentFields g order n chan).setFld (Reg.GAU_URG_RESULT_DONE g) 0).setConv g
      (some ⟨4, 0, (d.urgentFields g order n chan).fld (Reg.GAU_URG_CHAN g), [], none, false, (d.urgentFields g order n chan).settling g⟩) := rfl

theorem Dev.urgentFields_gau (d : Dev) (g order n chan : Nat) : (d.urgentFields g order n chan).gau = d.gau := by
  unfold Dev.urgentFields
  split <;> split <;> split <;> rfl

theorem Dev.urgentFields_count (d : Dev) (g order n chan c : Nat) : (d.urgentFields g order n chan).count c = d.count c := by
  unfold Dev.urgentFields
  split <;> split <;> split <;> rfl

/-- A request sets no register but its own. -/
theorem Dev.urgentFields_fld (d : Dev) (g order n chan : Nat) {f : Field} (h : f.off ≠ 0xf0500 + 8 * g) (hlo : f.lo < 64) :
    (d.urgentFields g order n chan).fld f = d.fld f := by
  have hkey {w : Field} (hw : w.off = 0xf0500 + 8 * g) (hl : w.lo < 64) : f.key ≠ w.key := by rw [Field.key, Field.key]; omega
  exact Reading.same.fld_eq (.use (.when .refl fun k => k.setFld (hkey rfl (by decide : 60 < 64))) fun k =>
    .use (.when k fun k => k.setFld (hkey rfl (by decide : 40 < 64))) fun k => .when k fun k => k.setFld (hkey rfl (by decide : 0 < 64)))

theorem Dev.urgentFields_chan (d : Dev) (g order n chan : Nat) : (d.urgentFields g order n chan).fld (Reg.GAU_URG_CHAN g) =
    if chan ≤ 95 ∧ chanConv chan = g then chan else d.fld (Reg.GAU_URG_CHAN g) := by
  have ho : (Reg.GAU_URG_CHAN g).key ≠ (Reg.GAU_URG_ORDER g).key := by simp only [Field.key, Reg.GAU_URG_CHAN, Reg.GAU_URG_ORDER]; omega
  have hn : (Reg.GAU_URG_CHAN g).key ≠ (Reg.GAU_URG_N g).key := by simp only [Field.key, Reg.GAU_URG_CHAN, Reg.GAU_URG_N]; omega
  unfold Dev.urgentFields
  dsimp only
  by_cases hc : chan ≤ 95 ∧ chanConv chan = g
  · rw [if_pos hc, if_pos hc, Dev.fld_setFld_same]
    exact Nat.mod_eq_of_lt (by change chan < 128; omega)
  · rw [if_neg hc, if_neg hc]
    exact Reading.same.fld_eq (.use (.when .refl fun k => k.setFld ho) fun k => .when k fun k => k.setFld hn)

theorem Dev.urgentFields_order (d : Dev) (g n chan : Nat) {order : Nat} (h : 1 ≤ order ∧ order ≤ 5) :
    (d.urgentFields g order n chan).fld (Reg.GAU_URG_ORDER g) = order := by
  have hn : (Reg.GAU_URG_ORDER g).key ≠ (Reg.GAU_URG_N g).key := by simp only [Field.key, Reg.GAU_URG_ORDER, Reg.GAU_URG_N]; omega
  have hc : (Reg.GAU_URG_ORDER g).key ≠ (Reg.GAU_URG_CHAN g).key := by simp only [Field.key, Reg.GAU_URG_ORDER, Reg.GAU_URG_CHAN]; omega
  unfold Dev.urgentFields
  rw [if_pos h]
  refine (Reading.same.fld_eq (d := d.setFld (Reg.GAU_URG_ORDER g) order) (.use (.when .refl fun k => k.setFld hn) fun k => .when k fun k => k.setFld hc)).trans ?_
  rw [Dev.fld_setFld_same]
  exact Nat.mod_eq_of_lt (by change order < 8; omega)

theorem Dev.urgentFields_n (d : Dev) (g order chan : Nat) {n : Nat} (h : 64 ≤ n ∧ n ≤ 16384) :
    (d.urgentFields g order n chan).fld (Reg.GAU_URG_N g) = n := by
  have hc : (Reg.GAU_URG_N g).key ≠ (Reg.GAU_URG_CHAN g).key := by simp only [Field.key, Reg.GAU_URG_N, Reg.GAU_URG_CHAN]; omega
  unfold Dev.urgentFields
  dsimp only
  rw [if_pos h]
  refine (Reading.same.fld_eq (d := Dev.setFld _ (Reg.GAU_URG_N g) n) (.when .refl fun k => k.setFld hc)).trans ?_
  rw [Dev.fld_setFld_same]
  exact Nat.mod_eq_of_lt (by change n < 32768; omega)

theorem Dev.neverIdle_eq_false {d : Dev} {g : Nat} : d.neverIdle g = false ↔
    ∀ l < 4, d.flag (Reg.GAU_SCAN_EN l) = true → d.fld (Reg.GAU_SCAN_CONV l) = g → d.fld (Reg.GAU_SCAN_PERIOD l) ≠ 0 := by
  simp only [Dev.neverIdle, List.any_eq_false, List.mem_range, Bool.and_eq_true, beq_iff_eq, not_and, and_imp, ne_eq]

/-- The device takes an urgent request of channel `k` (R428). -/
def Dev.takesUrgent (d : Dev) (g k : Nat) (fits : Bool) : Prop :=
  d.flag Reg.GAU_CTL_PWR = true ∧ d.conv g = none ∧ d.waits g = [] ∧ fits = true ∧ chanConv k = g ∧
    ∀ l < 4, d.flag (Reg.GAU_SCAN_EN l) = true → d.fld (Reg.GAU_SCAN_CONV l) = g → d.fld (Reg.GAU_SCAN_PERIOD l) ≠ 0

theorem Dev.urgentDrops_eq_false {d : Dev} {g : Nat} {fits : Bool} :
    d.urgentDrops g fits = false ↔ d.takesUrgent g (d.fld (Reg.GAU_URG_CHAN g)) fits := by
  rw [Dev.takesUrgent, ← Dev.neverIdle_eq_false, Dev.urgentDrops]
  simp only [Bool.or_eq_false_iff, Bool.not_eq_false', Option.isSome_eq_false_iff, Option.isNone_iff_eq_none, List.isEmpty_iff, bne_eq_false_iff_eq]
  tauto

theorem Dev.takesUrgent_congr {d e : Dev} {g k : Nat} {fits : Bool} (hg : g < 2) (hgau : e.gau = d.gau)
    (hfld : ∀ f : Field, f.off ≠ 0xf0500 + 8 * g → f.lo < 64 → e.fld f = d.fld f) : e.takesUrgent g k fits ↔ d.takesUrgent g k fits := by
  have hscan : ∀ l : Nat, 0xf1000 + 256 * l ≠ 0xf0500 + 8 * g := by intro l; omega
  have hpwr : e.flag Reg.GAU_CTL_PWR = d.flag Reg.GAU_CTL_PWR := by
    rw [Dev.flag, Dev.flag, hfld Reg.GAU_CTL_PWR (by change 0xf0000 ≠ _; omega) (by decide)]
  have hen (l : Nat) : e.flag (Reg.GAU_SCAN_EN l) = d.flag (Reg.GAU_SCAN_EN l) := by
    rw [Dev.flag, Dev.flag, hfld (Reg.GAU_SCAN_EN l) (hscan l) (by decide : 63 < 64)]
  have hcv (l : Nat) : e.fld (Reg.GAU_SCAN_CONV l) = d.fld (Reg.GAU_SCAN_CONV l) := hfld _ (hscan l) (by decide : 62 < 64)
  have hpd (l : Nat) : e.fld (Reg.GAU_SCAN_PERIOD l) = d.fld (Reg.GAU_SCAN_PERIOD l) := hfld _ (hscan l) (by decide : 0 < 64)
  simp only [Dev.takesUrgent, hpwr, Dev.conv_congr hgau, Dev.waits_congr hgau, hen, hcv, hpd]

/-- GAU_URG's own fields are result fields or lie beside them. -/
theorem Field.isResult_urgent (g : Nat) : (Reg.GAU_URG_CHAN g).isResult ∧ (Reg.GAU_URG_ORDER g).isResult ∧ (Reg.GAU_URG_N g).isResult ∧
    (Reg.GAU_URG_RESULT_DONE g).isResult ∧ (Reg.GAU_URG_RESULT_VALUE g).isResult ∧ (Reg.GAU_URG_RESULT_RS g).isResult := by
  simp only [Field.isResult, Reg.GAU_URG_CHAN, Reg.GAU_URG_ORDER, Reg.GAU_URG_N, Reg.GAU_URG_RESULT_DONE, Reg.GAU_URG_RESULT_VALUE, Reg.GAU_URG_RESULT_RS]
  omega

/-- An urgent request starts or is dropped; what it asked for stands in its register either way. -/
theorem Dev.urgent_answers (d : Dev) {g : Nat} (hg : g < 2) (order n chan : Nat) (fits : Bool) :
    (let e := d.urgent g order n chan fits
    let k := if chan ≤ 95 ∧ chanConv chan = g then chan else d.fld (Reg.GAU_URG_CHAN g)
    e.fld (Reg.GAU_URG_CHAN g) = k ∧ (1 ≤ order → order ≤ 5 → e.fld (Reg.GAU_URG_ORDER g) = order) ∧
      (64 ≤ n → n ≤ 16384 → e.fld (Reg.GAU_URG_N g) = n) ∧
      (d.takesUrgent g k fits → e.conv g = some ⟨4, 0, k, [], none, false, d.settling g⟩ ∧ e.flag (Reg.GAU_URG_RESULT_DONE g) = false ∧
        e.flag (Reg.GAU_STATUS_BUSY g) = true) ∧
      (¬ d.takesUrgent g k fits → e.count Cnt.GAU_URG_DROP_CNT = min cntMax (d.count Cnt.GAU_URG_DROP_CNT + 1) ∧ e.gau = d.gau)) := by
  obtain ⟨hchan, horder, hn, hdone, -, -⟩ := Field.isResult_urgent g
  rw [← Dev.urgentFields_chan d g order n chan, Dev.urgent_eq]
  have hsettle : (d.urgentFields g order n chan).settling g = d.settling g := by
    rw [Dev.settling, Dev.settling, Dev.flag, Dev.flag, Dev.urgentFields_fld d g order n chan (f := Reg.GAU_STATUS_REF_SETTLING g)
      (by change 0xf0018 + 8 * g ≠ _; omega) (by decide : 30 < 64)]
  have htakes := Dev.takesUrgent_congr (e := d.urgentFields g order n chan) (k := (d.urgentFields g order n chan).fld (Reg.GAU_URG_CHAN g)) (fits := fits) hg
    (d.urgentFields_gau g order n chan) fun f => d.urgentFields_fld g order n chan (f := f)
  rw [← Dev.urgentDrops_eq_false] at htakes
  dsimp only
  rw [← htakes, hsettle]
  have ho := fun h => d.urgentFields_order g n chan (order := order) h
  have hm := fun h => d.urgentFields_n g order chan (n := n) h
  have hgau := d.urgentFields_gau g order n chan
  have hcnt := d.urgentFields_count g order n chan Cnt.GAU_URG_DROP_CNT
  generalize d.urgentFields g order n chan = u at *
  cases hd : u.urgentDrops g fits with
  | true =>
    rw [if_pos rfl]
    exact ⟨rfl, fun h h' => ho ⟨h, h'⟩, fun h h' => hm ⟨h, h'⟩, nofun, fun _ => ⟨by rw [Dev.count_bump_same, hcnt], hgau⟩⟩
  | false =>
    rw [if_neg (by decide)]
    have hkeep {f : Field} (hf : f.isResult) (hne : f.key ≠ (Reg.GAU_URG_RESULT_DONE g).key) (c : Option Conv) :
        ((u.setFld (Reg.GAU_URG_RESULT_DONE g) 0).setConv g c).fld f = u.fld f :=
      Reading.same.fld_eq ((Reading.offScan_fld hf).setConv hg (.setFld .refl hne))
    refine ⟨hkeep hchan ?_ _, fun h h' => (hkeep horder ?_ _).trans (ho ⟨h, h'⟩), fun h h' => (hkeep hn ?_ _).trans (hm ⟨h, h'⟩),
      fun _ => ⟨Dev.conv_setConv_same _ _ _, ?_, ?_⟩, fun h => absurd rfl h⟩
    · simp only [Field.key, Reg.GAU_URG_CHAN, Reg.GAU_URG_RESULT_DONE]; omega
    · simp only [Field.key, Reg.GAU_URG_ORDER, Reg.GAU_URG_RESULT_DONE]; omega
    · simp only [Field.key, Reg.GAU_URG_N, Reg.GAU_URG_RESULT_DONE]; omega
    · refine Dev.flag_of_fld (b := false) (((Reading.offScan_fld hdone).setConv hg .refl).fld_eq.trans ?_)
      exact Dev.fld_setFld_same _ _ _
    · rw [Dev.setConv_urgent _ _ rfl]
      refine Dev.flag_of_fld (b := true) ((Dev.fld_setFld_other _ _ _ _ ?_).trans (Dev.fld_setFld_same _ _ _))
      simp only [Field.key, Reg.GAU_STATUS_BUSY, Reg.GAU_STATUS_URGENT]; omega

end Sys2Proof.Machine
end

section
/-!
PROOF. Gauge: conversions that end (R428, R430 to R432), passes that fall due (R427), power (R434) and monitors (R435).
-/

set_option Elab.async false

namespace Sys2Proof.Machine

theorem Field.key_ne_of_lo {f w : Field} (hf : f.lo < 64) (hw : w.lo < 64) (h : f.lo ≠ w.lo) : f.key ≠ w.key := by
  rw [Field.key, Field.key]
  omega

/-! ### Conversions that end -/

theorem unsgn_sgn_toNat {w : Nat} (v : BitVec w) : unsgn w (sgn w v.toNat) = v.toNat := unsgn_sgn v.isLt

/-- The result registers of an urgent conversion. -/
def Dev.urgentResult (d : Dev) (g : Nat) (c : Conv) (v : Int) : Dev :=
  (((d.setFld (Reg.GAU_URG_RESULT_DONE g) 1).setFld (Reg.GAU_URG_RESULT_RS g) (if c.rs then 1 else 0)).setFld (Reg.GAU_URG_RESULT_CHAN g) c.chan).setFld
    (Reg.GAU_URG_RESULT_VALUE g) (unsgn 24 v)

theorem Dev.urgentDone_eq {d : Dev} {g : Nat} {c : Conv} (hc : d.conv g = some c) (hl : c.list = 4) (v : Int) : d.urgentDone g v =
    ((((if c.rs then (d.urgentResult g c v).bump Cnt.GAU_RS_CNT else d.urgentResult g c v).bump Cnt.GAU_URG_DONE_CNT).setConv g none).startPass g 5) := by
  unfold Dev.urgentDone
  rw [hc]
  dsimp only
  rw [if_neg (by omega : ¬ c.list ≠ 4)]
  rfl

theorem Dev.urgentResult_fld (d : Dev) (g : Nat) (c : Conv) (v : BitVec 24) :
    (d.urgentResult g c (sgn 24 v.toNat)).flag (Reg.GAU_URG_RESULT_DONE g) = true ∧
      (d.urgentResult g c (sgn 24 v.toNat)).fld (Reg.GAU_URG_RESULT_VALUE g) = v.toNat ∧
      (d.urgentResult g c (sgn 24 v.toNat)).flag (Reg.GAU_URG_RESULT_RS g) = c.rs := by
  have hdr : (Reg.GAU_URG_RESULT_DONE g).key ≠ (Reg.GAU_URG_RESULT_RS g).key := Field.key_ne_of_lo (by decide : 63 < 64) (by decide : 62 < 64) (by decide : 63 ≠ 62)
  have hdc : (Reg.GAU_URG_RESULT_DONE g).key ≠ (Reg.GAU_URG_RESULT_CHAN g).key := Field.key_ne_of_lo (by decide : 63 < 64) (by decide : 24 < 64) (by decide : 63 ≠ 24)
  have hdv : (Reg.GAU_URG_RESULT_DONE g).key ≠ (Reg.GAU_URG_RESULT_VALUE g).key := Field.key_ne_of_lo (by decide : 63 < 64) (by decide : 0 < 64) (by decide : 63 ≠ 0)
  have hrc : (Reg.GAU_URG_RESULT_RS g).key ≠ (Reg.GAU_URG_RESULT_CHAN g).key := Field.key_ne_of_lo (by decide : 62 < 64) (by decide : 24 < 64) (by decide : 62 ≠ 24)
  have hrv : (Reg.GAU_URG_RESULT_RS g).key ≠ (Reg.GAU_URG_RESULT_VALUE g).key := Field.key_ne_of_lo (by decide : 62 < 64) (by decide : 0 < 64) (by decide : 62 ≠ 0)
  unfold Dev.urgentResult
  refine ⟨Dev.flag_of_fld (b := true) ?_, ?_, Dev.flag_of_fld (b := c.rs) ?_⟩
  · exact (Reading.same.fld_eq (((Reading.same.refl (d := d.setFld (Reg.GAU_URG_RESULT_DONE g) 1)).setFld hdr).setFld hdc |>.setFld hdv)).trans
      (Dev.fld_setFld_same _ _ _)
  · rw [Dev.fld_setFld_same, unsgn_sgn_toNat]
    exact Nat.mod_eq_of_lt v.isLt
  · exact (Reading.same.fld_eq ((Reading.same.refl (d := Dev.setFld _ (Reg.GAU_URG_RESULT_RS g) _)).setFld hrc |>.setFld hrv)).trans
      (Dev.fld_setFld_same _ _ _)

/-- URGENT_DONE shows its value and is counted, whatever waits to start after it (R428). -/
theorem Dev.urgentDone_answers {d : Dev} {g : Nat} {c : Conv} (hc : d.conv g = some c) (hl : c.list = 4) (v : BitVec 24) :
    (let e := d.urgentDone g (sgn 24 v.toNat)
    e.flag (Reg.GAU_URG_RESULT_DONE g) = true ∧ e.fld (Reg.GAU_URG_RESULT_VALUE g) = v.toNat ∧ e.flag (Reg.GAU_URG_RESULT_RS g) = c.rs ∧
      e.count Cnt.GAU_URG_DONE_CNT = min cntMax (d.count Cnt.GAU_URG_DONE_CNT + 1)) := by
  obtain ⟨-, -, -, hdone, hvalue, hrs⟩ := Field.isResult_urgent g
  obtain ⟨edone, evalue, ers⟩ := d.urgentResult_fld g c v
  rw [Dev.urgentDone_eq hc hl]
  have hfld {f : Field} (hf : f.isResult) (u : Dev) :
      ((((if c.rs then u.bump Cnt.GAU_RS_CNT else u).bump Cnt.GAU_URG_DONE_CNT).setConv g none).startPass g 5).fld f = u.fld f := by
    have h : (Reading.fld f).same u (if c.rs then u.bump Cnt.GAU_RS_CNT else u) := .when .refl fun h => h
    exact ((Reading.offScan_fld hf).startPass ((Reading.offScan_fld hf).idle (h.via .bump))).fld_eq
  have hcount : (Reading.count Cnt.GAU_URG_DONE_CNT).offScan := Reading.offScan_count (by decide) (by decide)
  refine ⟨?_, (hfld hvalue _).trans evalue, ?_, ?_⟩
  · rw [Dev.flag, hfld hdone]; exact edone
  · rw [Dev.flag, hfld hrs]; exact ers
  · rw [(hcount.startPass (hcount.idle .refl)).count_eq, Dev.count_bump_same]
    have h : (Reading.count Cnt.GAU_URG_DONE_CNT).same d
        (if c.rs then (d.urgentResult g c (sgn 24 v.toNat)).bump Cnt.GAU_RS_CNT else d.urgentResult g c (sgn 24 v.toNat)) :=
      .when rfl fun h => h.bumpBy (by decide)
    rw [h.count_eq]

theorem Dev.urgentDone_idle {d : Dev} {g : Nat} (h : d.conv g = none) (v : Int) : d.urgentDone g v = d := by
  unfold Dev.urgentDone
  rw [h]

theorem Dev.entryDone_idle {d : Dev} {g : Nat} (h : d.conv g = none) (v : Int) : d.entryDone g v = d := by
  unfold Dev.entryDone
  rw [h]

/-! ### Scan results -/

/-- What a scan result changes besides its own register: the alarms, the requests to Kiln, the sticky bits and the traces. -/
theorem Field.isResult_keys {f : Field} (h : f.isResult) : f.key ≠ Reg.MBX_TRACE_HEAD_COUNT.key ∧ f.key ≠ Reg.FLT_STK0_MBX_DENIED.key ∧
    f.key ≠ Reg.FLT_STK0_KILN_STALE.key ∧ (∀ b < 32, f.key ≠ (Reg.KLN_STATUS_PENDING b).key) ∧ ∀ i < 2, f.key ≠ (Reg.GAU_ALARM_ALARM i).key := by
  obtain ⟨hoff, hlo, -, -⟩ := h
  simp only [Field.key, Reg.MBX_TRACE_HEAD_COUNT, Reg.FLT_STK0_MBX_DENIED, Reg.FLT_STK0_KILN_STALE, Reg.KLN_STATUS_PENDING, Reg.GAU_ALARM_ALARM]
  exact ⟨by omega, by omega, by omega, fun b hb => by omega, fun i hi => by omega⟩

section
variable {f : Field} (hf : f.isResult) {d e : Dev}
include hf

theorem Reading.same.alarmEdge_result {k : Nat} {hi enter : Bool} {v : Int} (hk : k ≤ 95) (h : (Reading.fld f).same d e) :
    (Reading.fld f).same d (e.alarmEdge k hi enter v) := by
  obtain ⟨htrace, hdenied, -, -, halarm⟩ := Field.isResult_keys hf
  unfold Dev.alarmEdge
  exact .use ((h.via .put_gau).setFld (halarm _ (by omega))) fun h => .use (.when h fun h => h.via .bump) fun h =>
    ((Reading.offMail_fld htrace hdenied).mbxSend h).via .put_mbx

theorem Reading.same.judgeAlarms_result {k : Nat} {v : Int} (hk : k ≤ 95) (h : (Reading.fld f).same d e) :
    (Reading.fld f).same d (e.judgeAlarms k v) := by
  unfold Dev.judgeAlarms
  exact .use (.ite (h.alarmEdge_result hf hk) (.ite (h.alarmEdge_result hf hk) h)) fun h => .ite (h.alarmEdge_result hf hk) (.ite (h.alarmEdge_result hf hk) h)

theorem Reading.same.kilnRequest_result {b : Nat} {m : Bool} (hb : b < 32) (h : (Reading.fld f).same d e) : (Reading.fld f).same d (e.kilnRequest b m) := by
  obtain ⟨-, -, -, hpend, -⟩ := Field.isResult_keys hf
  unfold Dev.kilnRequest
  exact .ite (h.setFld (hpend b hb)) (.ite (h.setFld (hpend b hb)) (h.via .bump))

theorem Reading.same.newTemp_result {b : Nat} {t : Int} (hb : b < 32) (h : (Reading.fld f).same d e) : (Reading.fld f).same d (e.newTemp b t) := by
  obtain ⟨htrace, -, hstale, -, -⟩ := Field.isResult_keys hf
  unfold Dev.newTemp
  exact .use (h.via .put_kln) fun h => .use (.when h fun h => h.kilnRequest_result hf hb) fun h => .when h fun h =>
    ((h.via .put_kln).step (Reading.same.sticky hstale htrace)).via .bump

end

/-- The registers of a result that is neither stale nor flagged away. -/
def Dev.writeResult (d : Dev) (c : Conv) (v : Int) : Dev :=
  (((d.setFld (Reg.GAU_RESULT_VALUE c.chan) (unsgn 24 v)).setFld (Reg.GAU_RESULT_SEQ c.chan)
      (d.fld (Reg.GAU_RESULT_SEQ c.chan) + 1)).setFld (Reg.GAU_RESULT_STALE c.chan) 0).setFld
    (Reg.GAU_RESULT_RS c.chan) (if c.rs then 1 else 0)

theorem Dev.scanResult_stale {c : Conv} (h : c.stale = true) (d : Dev) (v : Int) :
    d.scanResult c v = (d.setFld (Reg.GAU_RESULT_STALE c.chan) 1).bump Cnt.GAU_STALE_CNT := if_pos h

theorem Dev.scanResult_fresh {c : Conv} (h : ¬ c.stale = true) (d : Dev) (v : Int) : d.scanResult c v =
    if c.rs then (d.writeResult c v).bump Cnt.GAU_RS_CNT
    else if c.chan < 32 then (((d.writeResult c v).judgeAlarms c.chan v).monSample c.chan v).newTemp c.chan v
    else ((d.writeResult c v).judgeAlarms c.chan v).monSample c.chan v := by
  unfold Dev.scanResult
  dsimp only
  rw [if_neg h]
  rfl

/-- What a fresh result does after its registers are written leaves every result register alone. -/
theorem Dev.scanResult_keeps {c : Conv} (h : ¬ c.stale = true) (hk : c.chan ≤ 95) {f : Field} (hf : f.isResult) (d : Dev) (v : Int) :
    (d.scanResult c v).fld f = (d.writeResult c v).fld f := by
  rw [Dev.scanResult_fresh h]
  refine Reading.same.fld_eq (.ite (Reading.same.refl.via .bump) ?_)
  have hjudged : (Reading.fld f).same (d.writeResult c v) (((d.writeResult c v).judgeAlarms c.chan v).monSample c.chan v) :=
    (Reading.same.refl.judgeAlarms_result hf hk).via .monSample
  split
  next hlt => exact hjudged.newTemp_result hf hlt
  · exact hjudged

theorem Field.isResult_result (k : Nat) : (Reg.GAU_RESULT_STALE k).isResult ∧ (Reg.GAU_RESULT_VALUE k).isResult ∧ (Reg.GAU_RESULT_RS k).isResult ∧
    (Reg.GAU_RESULT_SEQ k).isResult := by
  simp only [Field.isResult, Reg.GAU_RESULT_STALE, Reg.GAU_RESULT_VALUE, Reg.GAU_RESULT_RS, Reg.GAU_RESULT_SEQ]
  omega

theorem Dev.writeResult_fld (d : Dev) (c : Conv) (v : BitVec 24) :
    (let e := d.writeResult c (sgn 24 v.toNat)
    e.flag (Reg.GAU_RESULT_STALE c.chan) = false ∧ e.fld (Reg.GAU_RESULT_VALUE c.chan) = v.toNat ∧ e.flag (Reg.GAU_RESULT_RS c.chan) = c.rs ∧
      e.fld (Reg.GAU_RESULT_SEQ c.chan) = (d.fld (Reg.GAU_RESULT_SEQ c.chan) + 1) % 2 ^ (Reg.GAU_RESULT_SEQ c.chan).w) := by
  have hvq : (Reg.GAU_RESULT_VALUE c.chan).key ≠ (Reg.GAU_RESULT_SEQ c.chan).key := Field.key_ne_of_lo (by decide : 0 < 64) (by decide : 48 < 64) (by decide : 0 ≠ 48)
  have hvs : (Reg.GAU_RESULT_VALUE c.chan).key ≠ (Reg.GAU_RESULT_STALE c.chan).key := Field.key_ne_of_lo (by decide : 0 < 64) (by decide : 47 < 64) (by decide : 0 ≠ 47)
  have hvr : (Reg.GAU_RESULT_VALUE c.chan).key ≠ (Reg.GAU_RESULT_RS c.chan).key := Field.key_ne_of_lo (by decide : 0 < 64) (by decide : 46 < 64) (by decide : 0 ≠ 46)
  have hqs : (Reg.GAU_RESULT_SEQ c.chan).key ≠ (Reg.GAU_RESULT_STALE c.chan).key := Field.key_ne_of_lo (by decide : 48 < 64) (by decide : 47 < 64) (by decide : 48 ≠ 47)
  have hqr : (Reg.GAU_RESULT_SEQ c.chan).key ≠ (Reg.GAU_RESULT_RS c.chan).key := Field.key_ne_of_lo (by decide : 48 < 64) (by decide : 46 < 64) (by decide : 48 ≠ 46)
  have hsr : (Reg.GAU_RESULT_STALE c.chan).key ≠ (Reg.GAU_RESULT_RS c.chan).key := Field.key_ne_of_lo (by decide : 47 < 64) (by decide : 46 < 64) (by decide : 47 ≠ 46)
  unfold Dev.writeResult
  refine ⟨Dev.flag_of_fld (b := false) ?_, ?_, Dev.flag_of_fld (b := c.rs) (Dev.fld_setFld_same _ _ _), ?_⟩
  · exact (Dev.fld_setFld_other _ _ _ _ hsr).trans (Dev.fld_setFld_same _ _ _)
  · refine (Reading.same.fld_eq (((Reading.same.refl (d := d.setFld (Reg.GAU_RESULT_VALUE c.chan) _)).setFld hvq |>.setFld hvs).setFld hvr)).trans ?_
    rw [Dev.fld_setFld_same, unsgn_sgn_toNat]
    exact Nat.mod_eq_of_lt v.isLt
  · refine (Reading.same.fld_eq ((Reading.same.refl (d := Dev.setFld _ (Reg.GAU_RESULT_SEQ c.chan) _)).setFld hqs |>.setFld hqr)).trans ?_
    rw [Dev.fld_setFld_same]

/-! ### The pass goes on -/

/-- SCAN_ENTRY_DONE: the result is written, then the pass goes on (R427, R430). -/
theorem Dev.entryDone_eq {d : Dev} {g : Nat} {c : Conv} (hc : d.conv g = some c) (hl : c.list ≠ 4) (v : Int) : d.entryDone g v =
    (let e := (d.scanResult c v).nextEntry g c.list (c.entry + 1) c.rest
    if (e.conv g).isSome then e else (if e.fld (Reg.GAU_SCAN_PERIOD c.list) = 0 then e.passDue c.list else e).startPass g 5) := by
  unfold Dev.entryDone
  rw [hc]
  exact if_neg hl

/-- What scanning leaves alone reads after an entry's end as after its result. -/
theorem Reading.offScan.entryDone {p : Part} {α : Type} {r : Reading p α} (hr : r.offScan) {d : Dev} {g : Nat} {c : Conv} (hc : d.conv g = some c)
    (hl : c.list ≠ 4) (v : Int) : r.same (d.scanResult c v) (d.entryDone g v) := by
  rw [Dev.entryDone_eq hc hl]
  exact .use (hr.nextEntry .refl) fun h => .ite h (hr.startPass (.when h hr.passDue))

theorem Dev.entryDone_next {d : Dev} {g k : Nat} {c : Conv} {ks : List Nat} (hc : d.conv g = some c) (hl : c.list ≠ 4) (hrest : c.rest = k :: ks)
    (hk : k ≤ 95) (hg : chanConv k = g) (v : Int) :
    ∃ q, (d.entryDone g v).conv g = some q ∧ q.list = c.list ∧ q.entry = c.entry + 1 ∧ q.chan = k ∧ q.rest = ks := by
  rw [Dev.entryDone_eq hc hl, hrest, Dev.nextEntry_starts _ _ _ _ hk hg]
  dsimp only
  rw [if_pos (by rw [Dev.conv_setConv_same]; rfl)]
  exact ⟨_, Dev.conv_setConv_same _ _ _, rfl, rfl, rfl, rfl⟩

theorem Dev.entryDone_stale {d : Dev} {g : Nat} {c : Conv} (hc : d.conv g = some c) (hl : c.list ≠ 4) (hs : c.stale = true) (v : Int) :
    (d.entryDone g v).flag (Reg.GAU_RESULT_STALE c.chan) = true ∧
      (d.entryDone g v).count Cnt.GAU_STALE_CNT = min cntMax (d.count Cnt.GAU_STALE_CNT + 1) ∧
      (d.entryDone g v).fld (Reg.GAU_RESULT_VALUE c.chan) = d.fld (Reg.GAU_RESULT_VALUE c.chan) := by
  obtain ⟨hstale, hvalue, -, -⟩ := Field.isResult_result c.chan
  have hne : (Reg.GAU_RESULT_VALUE c.chan).key ≠ (Reg.GAU_RESULT_STALE c.chan).key := Field.key_ne_of_lo (by decide : 0 < 64) (by decide : 47 < 64) (by decide : 0 ≠ 47)
  have hcount : (Reading.count Cnt.GAU_STALE_CNT).offScan := Reading.offScan_count (by decide) (by decide)
  refine ⟨Dev.flag_of_fld (b := true) (((Reading.offScan_fld hstale).entryDone hc hl v).fld_eq.trans ?_),
    (hcount.entryDone hc hl v).count_eq.trans ?_, ((Reading.offScan_fld hvalue).entryDone hc hl v).fld_eq.trans ?_⟩
  · rw [Dev.scanResult_stale hs]
    exact Dev.fld_setFld_same _ _ _
  · rw [Dev.scanResult_stale hs]
    exact Dev.count_bump_same _ _
  · rw [Dev.scanResult_stale hs]
    exact Dev.fld_setFld_other _ _ _ _ hne

theorem Dev.entryDone_fresh {d : Dev} {g : Nat} {c : Conv} (hc : d.conv g = some c) (hl : c.list ≠ 4) (hs : ¬ c.stale = true) (hk : c.chan ≤ 95)
    (v : BitVec 24) :
    (let e := d.entryDone g (sgn 24 v.toNat)
    e.flag (Reg.GAU_RESULT_STALE c.chan) = false ∧ e.fld (Reg.GAU_RESULT_VALUE c.chan) = v.toNat ∧ e.flag (Reg.GAU_RESULT_RS c.chan) = c.rs ∧
      e.fld (Reg.GAU_RESULT_SEQ c.chan) = (d.fld (Reg.GAU_RESULT_SEQ c.chan) + 1) % 2 ^ (Reg.GAU_RESULT_SEQ c.chan).w) := by
  obtain ⟨hstale, hvalue, hrs, hseq⟩ := Field.isResult_result c.chan
  obtain ⟨estale, evalue, ers, eseq⟩ := d.writeResult_fld c v
  have hkeep {f : Field} (hf : f.isResult) : (d.entryDone g (sgn 24 v.toNat)).fld f = (d.writeResult c (sgn 24 v.toNat)).fld f :=
    ((Reading.offScan_fld hf).entryDone hc hl _).fld_eq.trans (Dev.scanResult_keeps hs hk hf _ _)
  refine ⟨?_, (hkeep hvalue).trans evalue, ?_, (hkeep hseq).trans eseq⟩
  · rw [Dev.flag, hkeep hstale]; exact estale
  · rw [Dev.flag, hkeep hrs]; exact ers

end Sys2Proof.Machine
end

section
/-!
PROOF. Gauge: passes that fall due (R427), power (R434) and monitors (R435).
-/

set_option Elab.async false

namespace Sys2Proof.Machine

/-! ### Passes that fall due -/

/-- The scan list `l` runs. -/
def Dev.scans (d : Dev) (l : Nat) : Prop := d.flag Reg.GAU_CTL_PWR = true ∧ d.flag (Reg.GAU_SCAN_EN l) = true

/-- A pass of list `l` is in progress or waits. -/
def Dev.passBusy (d : Dev) (l : Nat) : Prop := ∃ h < 2, (∃ c, d.conv h = some c ∧ c.list = l) ∨ l ∈ d.waits h

/-- The same, as the model computes it. -/
def Dev.passBusyB (d : Dev) (l : Nat) : Bool :=
  (List.range 2).any fun g => (match d.conv g with | some c => c.list == l | none => false) || (d.waits g).contains l

theorem Dev.passBusyB_iff (d : Dev) (l : Nat) : d.passBusyB l = true ↔ d.passBusy l := by
  have hconv (h : Nat) : (match d.conv h with | some c => c.list == l | none => false) = true ↔ ∃ c, d.conv h = some c ∧ c.list = l := by
    cases d.conv h <;> simp
  simp only [Dev.passBusyB, Dev.passBusy, List.any_eq_true, List.mem_range, Bool.or_eq_true, List.contains_iff_mem, hconv]

theorem Dev.passDue_idle {d : Dev} {l : Nat} (h : ¬ d.scans l) : d.passDue l = d := by
  unfold Dev.passDue
  refine if_pos ?_
  rw [Bool.or_eq_true, Bool.not_eq_true', Bool.not_eq_true', ← Bool.not_eq_true, ← Bool.not_eq_true, ← not_and_or]
  exact h

theorem Dev.passDue_live {d : Dev} {l : Nat} (h : d.scans l) : d.passDue l = if d.passBusyB l then d.bump Cnt.GAU_SCAN_LATE_CNT else
    (d.setWaits (d.fld (Reg.GAU_SCAN_CONV l)) (d.waits (d.fld (Reg.GAU_SCAN_CONV l)) ++ [l])).startPass (d.fld (Reg.GAU_SCAN_CONV l)) 5 := by
  unfold Dev.passDue
  refine if_neg ?_
  rw [h.1, h.2]
  decide

theorem Dev.passDue_late {d : Dev} {l : Nat} (h : d.scans l) (hb : d.passBusy l) : d.passDue l = d.bump Cnt.GAU_SCAN_LATE_CNT := by
  rw [Dev.passDue_live h, if_pos ((d.passBusyB_iff l).mpr hb)]

theorem Dev.passDue_enters {d : Dev} {l : Nat} (h : d.scans l) (hb : ¬ d.passBusy l) : d.passDue l =
    (d.setWaits (d.fld (Reg.GAU_SCAN_CONV l)) (d.waits (d.fld (Reg.GAU_SCAN_CONV l)) ++ [l])).startPass (d.fld (Reg.GAU_SCAN_CONV l)) 5 := by
  rw [Dev.passDue_live h, if_neg (mt (d.passBusyB_iff l).mp hb)]

/-- Where the converter works, the list waits. -/
theorem Dev.passDue_waits {d : Dev} {l : Nat} {c : Conv} (h : d.scans l) (hb : ¬ d.passBusy l) (hc : d.conv (d.fld (Reg.GAU_SCAN_CONV l)) = some c) :
    (d.passDue l).waits (d.fld (Reg.GAU_SCAN_CONV l)) = d.waits (d.fld (Reg.GAU_SCAN_CONV l)) ++ [l] ∧
      (d.passDue l).conv (d.fld (Reg.GAU_SCAN_CONV l)) = some c := by
  rw [Dev.passDue_enters h hb, Dev.startPass_busy ((Dev.conv_setWaits _ _ _ _).trans hc)]
  exact ⟨Dev.waits_setWaits_same _ _ _, hc⟩

theorem Dev.startPass_idle {d : Dev} {g l : Nat} {rest : List Nat} (hc : d.conv g = none) (hw : d.waits g = l :: rest) (n : Nat) :
    d.startPass g (n + 1) = ((d.setWaits g rest).nextEntry g l 0 (d.listChans l)).startPass g n := by
  rw [Dev.startPass, hc, hw]

/-- An idle converter with nothing waiting takes the list up at once. -/
theorem Dev.passDue_starts {d : Dev} {l k : Nat} {ks : List Nat} (h : d.scans l) (hb : ¬ d.passBusy l)
    (hc : d.conv (d.fld (Reg.GAU_SCAN_CONV l)) = none) (hw : d.waits (d.fld (Reg.GAU_SCAN_CONV l)) = []) (hl : d.listChans l = k :: ks)
    (hk : k ≤ 95) (hg : chanConv k = d.fld (Reg.GAU_SCAN_CONV l)) :
    ∃ q, (d.passDue l).conv (d.fld (Reg.GAU_SCAN_CONV l)) = some q ∧ q.list = l ∧ q.entry = 0 ∧ q.chan = k ∧ q.rest = ks := by
  rw [Dev.passDue_enters h hb, hw, List.nil_append]
  have hlist (g : Nat) (w : List Nat) : (d.setWaits g w).listChans l = k :: ks := hl
  generalize d.fld (Reg.GAU_SCAN_CONV l) = g at *
  rw [Dev.startPass_idle ((Dev.conv_setWaits _ _ _ _).trans hc) (Dev.waits_setWaits_same _ _ _), hlist, Dev.nextEntry_starts _ _ _ _ hk hg,
    Dev.startPass_busy (Dev.conv_setConv_same _ _ _)]
  exact ⟨_, Dev.conv_setConv_same _ _ _, rfl, rfl, rfl, rfl⟩

/-! ### Power -/

theorem Reading.offScan_power : (Reading.fld Reg.GAU_CTL_PWR).offScan := by
  have hother {w : Field} (hw : Reg.GAU_CTL_PWR.off < w.off) (hlo : w.lo < 64) (d : Dev) (v : Nat) : (Reading.fld Reg.GAU_CTL_PWR).same d (d.setFld w v) :=
    .setFld .refl (by have h31 : Reg.GAU_CTL_PWR.lo = 31 := rfl
                      rw [Field.key, Field.key]; omega)
  refine ⟨by decide, fun d g v => hother ?_ (by decide : 31 < 64) d v, fun d g v => hother ?_ (by decide : 29 < 64) d v,
    fun d v g _ => hother ?_ (by decide : 8 < 64) d v, fun d v g _ => hother ?_ (by decide : 0 < 64) d v, fun _ => rfl, fun _ => rfl⟩
  · change 0xf0000 < 0xf0018 + 8 * g; omega
  · change 0xf0000 < 0xf0018 + 8 * g; omega
  · change 0xf0000 < 0xf0018 + 8 * g; omega
  · change 0xf0000 < 0xf0018 + 8 * g; omega

theorem Reading.offScan_settling (h : Nat) : (Reading.fld (Reg.GAU_STATUS_REF_SETTLING h)).offScan where
  part := by decide
  busy _ _ _ := .setFld .refl (Field.key_ne_of_lo (by decide : 30 < 64) (by decide : 31 < 64) (by decide : 30 ≠ 31))
  urgent _ _ _ := .setFld .refl (Field.key_ne_of_lo (by decide : 30 < 64) (by decide : 29 < 64) (by decide : 30 ≠ 29))
  list _ _ _ _ := .setFld .refl (Field.key_ne_of_lo (by decide : 30 < 64) (by decide : 8 < 64) (by decide : 30 ≠ 8))
  entry _ _ _ _ := .setFld .refl (Field.key_ne_of_lo (by decide : 30 < 64) (by decide : 0 < 64) (by decide : 30 ≠ 0))
  passed _ := rfl
  late _ := rfl

/-- The conversion in progress overlaps a settling that starts (R429). -/
def Dev.flagConv (d : Dev) (g : Nat) : Dev :=
  match d.conv g with
  | some c => d.setConv g (some { c with rs := true })
  | none => d

theorem Dev.startSettling_eq (d : Dev) (g : Nat) : d.startSettling g = (d.setFld (Reg.GAU_STATUS_REF_SETTLING g) 1).flagConv g := rfl

theorem Reading.offScan.flagConv {p : Part} {α : Type} {r : Reading p α} (hr : r.offScan) {d e : Dev} {g : Nat} (hg : g < 2) (h : r.same d e) :
    r.same d (e.flagConv g) := by
  unfold Dev.flagConv
  split
  · exact hr.setConv hg h
  · exact h

theorem Dev.startSettling_settles (d : Dev) {g : Nat} (hg : g < 2) : (d.startSettling g).flag (Reg.GAU_STATUS_REF_SETTLING g) = true :=
  Dev.flag_of_fld (b := true) (((Reading.offScan_settling g).flagConv hg .refl).fld_eq.trans (Dev.fld_setFld_same _ _ _))

theorem Dev.startSettling_keeps (d : Dev) {g h : Nat} (hg : g < 2) (hne : h ≠ g) :
    (d.startSettling g).flag (Reg.GAU_STATUS_REF_SETTLING h) = d.flag (Reg.GAU_STATUS_REF_SETTLING h) := by
  have hkey : (Reg.GAU_STATUS_REF_SETTLING h).key ≠ (Reg.GAU_STATUS_REF_SETTLING g).key := by
    simp only [Field.key, Reg.GAU_STATUS_REF_SETTLING]; omega
  rw [Dev.startSettling_eq, Dev.flag, Dev.flag, ((Reading.offScan_settling h).flagConv hg (Reading.same.refl.setFld hkey)).fld_eq]

theorem Dev.startSettling_power {d e : Dev} {g : Nat} (hg : g < 2) (h : (Reading.fld Reg.GAU_CTL_PWR).same d e) :
    (Reading.fld Reg.GAU_CTL_PWR).same d (e.startSettling g) :=
  Reading.offScan_power.flagConv hg (h.setFld (by simp only [Field.key, Reg.GAU_CTL_PWR, Reg.GAU_STATUS_REF_SETTLING]; omega))

theorem Dev.gaugePower_off {d : Dev} (h : d.st = DS.ready) :
    d.gaugePower false = (((((d.setFld Reg.GAU_CTL_PWR 0).setConv 0 none).setConv 1 none).setWaits 0 []).setWaits 1 []).flush (· == 0x30) := by
  unfold Dev.gaugePower
  rw [if_neg (not_not.mpr h)]
  rfl

theorem Dev.gaugePower_on {d : Dev} (h : d.st = DS.ready) : d.gaugePower true =
    if d.flag Reg.GAU_CTL_PWR then d else ((d.setFld Reg.GAU_CTL_PWR 1).startSettling 0).startSettling 1 := by
  unfold Dev.gaugePower
  rw [if_neg (not_not.mpr h)]
  rfl

theorem Dev.gaugePower_rejected {d : Dev} (h : d.st ≠ DS.ready) (on : Bool) : d.gaugePower on = d.bump Cnt.GAU_CFG_REJ_CNT := if_pos h

theorem Dev.gaugePower_off_idle {d : Dev} (h : d.st = DS.ready) : ∀ g < 2, (d.gaugePower false).conv g = none ∧ (d.gaugePower false).waits g = [] := by
  intro g hg
  rw [Dev.gaugePower_off h, Dev.conv_congr (Evolves.flush.keeps .gau (by decide)), Dev.waits_congr (Evolves.flush.keeps .gau (by decide))]
  rw [Dev.conv_setWaits, Dev.conv_setWaits]
  obtain rfl | rfl : g = 0 ∨ g = 1 := by omega
  · exact ⟨(Dev.conv_setConv_other _ _ (by decide)).trans (Dev.conv_setConv_same _ _ _),
      (Dev.waits_setWaits_other _ _ (by decide)).trans (Dev.waits_setWaits_same _ _ _)⟩
  · exact ⟨Dev.conv_setConv_same _ _ _, Dev.waits_setWaits_same _ _ _⟩

/-- GAU_PWR in READY (R434). -/
theorem Dev.gaugePower_answers {d : Dev} (h : d.st = DS.ready) (on : Bool) :
    (d.gaugePower on).flag Reg.GAU_CTL_PWR = on ∧ (on = false → ∀ g < 2, (d.gaugePower on).conv g = none ∧ (d.gaugePower on).waits g = []) ∧
      (on = true → d.flag Reg.GAU_CTL_PWR = false → ∀ g < 2, (d.gaugePower on).flag (Reg.GAU_STATUS_REF_SETTLING g) = true) := by
  cases on with
  | false =>
    refine ⟨?_, fun _ => Dev.gaugePower_off_idle h, nofun⟩
    rw [Dev.gaugePower_off h]
    refine Dev.flag_of_fld (b := false) (Reading.same.fld_eq (d := d.setFld Reg.GAU_CTL_PWR 0) ?_ |>.trans (Dev.fld_setFld_same _ _ _))
    have hr := Reading.offScan_power
    exact (hr.setWaits (hr.setWaits (hr.idle (hr.idle .refl)))).via .flush
  | true =>
    rw [Dev.gaugePower_on h]
    refine ⟨?_, nofun, fun _ hoff g hg => ?_⟩
    · split
      next hon => exact hon
      · exact Dev.flag_of_fld (b := true) ((Dev.startSettling_power (by decide) (Dev.startSettling_power (by decide) .refl)).fld_eq.trans (Dev.fld_setFld_same _ _ _))
    · rw [hoff, if_neg (by decide)]
      obtain rfl | rfl : g = 0 ∨ g = 1 := by omega
      · exact (Dev.startSettling_keeps _ (by decide) (by decide)).trans (Dev.startSettling_settles _ (by decide))
      · exact Dev.startSettling_settles _ (by decide)

/-! ### Monitors -/

theorem Dev.mon_setMon_same (d : Dev) (i : Nat) (m : Mon) : (d.setMon i m).mon i = m := by
  have h : SMap.get (fun _ => none) (d.setMon i m).gau.mons i = some m := SMap.get_set_same (β := Option Mon) (fun _ => none) d.gau.mons i (some m)
  rw [Dev.mon, h, Option.getD_some]

/-- GAU_MON_CFG shows the bins of the selected monitor and clears it (R435). -/
theorem Dev.monConfig_answers (d : Dev) (base : BitVec 32) (w : BitVec 5) :
    (let e := d.monConfig (sgn 32 base.toNat) w.toNat
    e.mon (d.fld Reg.GAU_MON_SEL_MON) = freshMon (sgn 32 base.toNat) w.toNat ∧ e.fld Reg.GAU_MON_CFG_BASE = base.toNat ∧
      e.fld Reg.GAU_MON_CFG_W = w.toNat) := by
  have hw : w.toNat % 32 = w.toNat := Nat.mod_eq_of_lt w.isLt
  unfold Dev.monConfig
  dsimp only
  refine ⟨?_, ?_, ?_⟩
  · rw [Dev.mon_setMon_same, hw]
  · refine (Dev.fld_setFld_other _ _ _ _ (by decide)).trans ((Dev.fld_setFld_same _ Reg.GAU_MON_CFG_BASE _).trans ?_)
    rw [unsgn_sgn_toNat]
    exact Nat.mod_eq_of_lt base.isLt
  · exact (Dev.fld_setFld_same _ Reg.GAU_MON_CFG_W _).trans hw

end Sys2Proof.Machine
end

section
/-!
PROOF. A rail fault (R451).
-/

set_option Elab.async false

namespace Sys2Proof.Machine

/-! ### Entry to FAULT (R363) -/

/-- A start in progress fails at its stage. -/
def Dev.startFails (d : Dev) : Dev :=
  match d.pwr.start with
  | some x => d.noteFailed x.stage (if x.cold then 1 else 2)
  | none => d

/-- The frames wait for no start, resume, QUIESCE or UPDATE. -/
def Dev.forgetTicks (d : Dev) : Dev := d.setFrm fun f => { f with startTick := none, resumeTick := none, quiesceAt := none, updateAt := none }

/-- No start is in progress. -/
def Dev.endStart (d : Dev) : Dev := (d.setPwr fun p => { p with start := none }).setFld Reg.HIF_STATE_STAGE 0

theorem Dev.enterFault_eq (d : Dev) : d.enterFault = (d.startFails.stopSteps.forgetTicks.endStart.setSt DS.fault).dropStaged.abortCmds fun _ => true := rfl

/-- A reading that entry to FAULT leaves alone. -/
structure Reading.offFault {p : Part} {α : Type} (r : Reading p α) : Prop extends toOffQueues : r.offQueues where
  units : p ∉ [Part.frm, .run, .rack, .kln, .red, .pwr]
  noted : ∀ f ∈ [Reg.PWR_START_STAT_LAST_STAGE, Reg.PWR_START_STAT_KIND, Reg.HIF_STATE_STAGE, Reg.HIF_STATE_STATE, Reg.MBX_STATUS_FW], ∀ d v, r.same d (d.setFld f v)

theorem Reading.offFault_fld {f : Field} (h : f.key ∉ [Reg.MBX_TRACE_HEAD_COUNT, Reg.PWR_START_STAT_LAST_STAGE, Reg.PWR_START_STAT_KIND, Reg.HIF_STATE_STAGE,
    Reg.HIF_STATE_STATE, Reg.MBX_STATUS_FW].map Field.key) : (Reading.fld f).offFault where
  toOffQueues := Reading.offQueues_fld fun hf => h (hf ▸ List.mem_cons_self)
  units := by decide
  noted _ hw _ _ := .setFld .refl fun hf => h (hf ▸ List.mem_cons_of_mem _ (List.mem_map_of_mem hw))

theorem Reading.offFault_count {c : Nat}
    (h : c ∉ [Cnt.HIF_CMD_CNT, Cnt.HIF_STATE_REJ_CNT, Cnt.HIF_BAD_ARG_CNT, Cnt.HIF_CQ_DROP_CNT, Cnt.MBX_TRACE_WRAP_CNT]) : (Reading.count c).offFault where
  toOffQueues := Reading.offQueues_count h
  units := by decide
  noted _ _ _ _ := rfl

namespace Reading.offFault

variable {p : Part} {α : Type} {r : Reading p α} (hr : r.offFault) {d e : Dev}
include hr

/-- A step that changes only the units, the frames and the power. -/
theorem stopped {l : List Part} {f : Dev} (h : r.same d e) (k : Evolves l e f)
    (hl : ∀ q ∈ l, q ∈ [Part.frm, .run, .rack, .kln, .red, .pwr] := by decide) : r.same d f := h.via k fun hp => hr.units (hl p hp)

theorem startFails (h : r.same d e) : r.same d e.startFails := by
  unfold Dev.startFails
  split
  · exact (h.step (hr.noted Reg.PWR_START_STAT_LAST_STAGE (by decide) e _)).step (hr.noted Reg.PWR_START_STAT_KIND (by decide) _ _)
  · exact h

theorem setSt {v} (h : r.same d e) : r.same d (e.setSt v) := by
  unfold Dev.setSt
  exact .ite h (hr.toOffQueues.trace (h.step (hr.noted Reg.HIF_STATE_STATE (by decide) e v)))

theorem dropStaged (h : r.same d e) : r.same d e.dropStaged := by
  unfold Dev.dropStaged
  exact .use (hr.toOffQueues.via h .put_mbx) fun h => .when h fun h => h.step (hr.noted Reg.MBX_STATUS_FW (by decide) _ _)

theorem endStart (h : r.same d e) : r.same d e.endStart :=
  (hr.stopped h .setPwr).step (hr.noted Reg.HIF_STATE_STAGE (by decide) _ 0)

theorem enterFault (h : r.same d e) : r.same d e.enterFault := by
  rw [Dev.enterFault_eq]
  exact hr.toOffQueues.abortCmds (hr.dropStaged (hr.setSt (hr.endStart (hr.stopped (hr.stopped (hr.startFails h) .stopSteps) .setFrm))))

end Reading.offFault

theorem Dev.enterFault_st (d : Dev) : d.enterFault.st = DS.fault := by
  have hq : (Reading.fld Reg.HIF_STATE_STATE).offQueues := Reading.offQueues_fld (by decide)
  rw [Dev.enterFault_eq]
  generalize d.startFails.stopSteps.forgetTicks.endStart = e
  refine (Reading.same.fld_eq (hq.abortCmds (d := e.setSt DS.fault) ?_)).trans (Dev.st_setSt e _ (by decide))
  unfold Dev.dropStaged
  exact .use (hq.via .refl .put_mbx) fun h => .when h fun h => h.setFld (by decide)

theorem Dev.enterFault_run (d : Dev) : d.enterFault.run = [] := by
  rw [Dev.enterFault_eq]
  have hfrm : Evolves [.frm] d.startFails.stopSteps d.startFails.stopSteps.forgetTicks := .setFrm
  have hstart (e : Dev) : Evolves [.pwr, .regs] e e.endStart := Evolves.refl.step .setPwr |>.step .setFld
  exact (Evolves.abortCmds.keeps .run (by decide)).trans ((Evolves.dropStaged.keeps .run (by decide)).trans ((Evolves.setSt.keeps .run (by decide)).trans
    (((hstart _).keeps .run (by decide)).trans (hfrm.keeps .run (by decide)))))

/-! ### Every link is lost (R323) -/

/-- A port without a link stays so when any port loses its own. -/
theorem Dev.loseLink_keeps_unlinked {d : Dev} {p : Nat} (h : d.link p = none) (q v : Nat) : (d.loseLink q v).link p = none := by
  by_cases hpq : p = q
  · rw [hpq, Dev.loseLink_link]
  · cases hl : d.link q with
    | none => rw [Dev.loseLink_unlinked hl, h]
    | some l =>
      rw [Dev.loseLink_eq hl]
      refine (Reading.same.setPort .refl).unlinked ?_
      have hnoted : Evolves [.regs, .cnt, .mem, .poison, .draws, .mbx] d (((d.bump (Cnt.FAB_LINK_LOST_CNT q)).sticky Reg.FLT_STK0_LINK_LOST).bumpBy Cnt.FAB_DROP_CNT l.lostMsgs) :=
        Evolves.refl.step .bump |>.step .sticky |>.step .bumpBy
      exact (Dev.link_setLink_other _ none hpq).trans ((Dev.link_congr (hnoted.keeps .fab (by decide)) p).trans h)

theorem Dev.loseLinks_unlinked (ps : List Nat) (v : Nat) {d : Dev} {p : Nat} (h : p ∈ ps ∨ d.link p = none) :
    (ps.foldl (fun d p => d.loseLink p v) d).link p = none := by
  induction ps generalizing d with
  | nil => exact h.resolve_left List.not_mem_nil
  | cons q ps ih =>
    refine ih ?_
    rcases h with h | h
    · rcases List.mem_cons.mp h with rfl | h
      · exact .inr (d.loseLink_link _ v)
      · exact .inl h
    · exact .inr (Dev.loseLink_keeps_unlinked h q v)

/-- What a link loss leaves alone. -/
structure Reading.offLoss {k : Part} {α : Type} (g : Reading k α) : Prop extends toSteady : g.steady where
  fabric : k ≠ .fab
  counted : ∀ d, ∀ p < 16, g.same d (d.bump (Cnt.FAB_LINK_LOST_CNT p))
  linkLost : ∀ d, g.same d (d.setFld Reg.FLT_STK0_LINK_LOST 1)
  states : ∀ d v, ∀ p < 16, g.same d (d.setFld (Reg.FAB_PORT_STATUS_STATE p) v)

theorem Reading.offLoss.loseLink {k : Part} {α : Type} {g : Reading k α} (hg : g.offLoss) {d e : Dev} {p v : Nat} (hp : p < 16) (h : g.same d e) :
    g.same d (e.loseLink p v) := by
  cases hl : e.link p with
  | none => rwa [Dev.loseLink_unlinked hl]
  | some l =>
    have hcounted := h.step (hg.counted e p hp)
    have hnoted : g.same d ((e.bump (Cnt.FAB_LINK_LOST_CNT p)).sticky Reg.FLT_STK0_LINK_LOST) := by
      unfold Dev.sticky
      exact .ite hcounted (hg.toSteady.toOffQueues.trace (hcounted.step (hg.linkLost _)))
    rw [Dev.loseLink_eq hl]
    exact hg.toSteady.setPort (hnoted.step (hg.toSteady.dropLink (by simpa using hg.fabric) e p l)) fun d => hg.states d v p hp

/-! ### The rail fault -/

/-- The step in flight ends, and every unit and link stops. -/
def Dev.railStops (d : Dev) : Dev :=
  let d := d.dropRounds
  let d := if d.st = DS.running then
      d.stepCompletion .aborted d.epoch 0 0 (d.fld Reg.RED_STEP_STATE_REPLAYS) (d.fld Reg.RED_STEP_STATE_REPEATS) 0
    else d
  ports.foldl (fun d p => d.loseLink p PS.down) { d with run := [] }

theorem Dev.railFault_eq (d : Dev) (rail : Nat) :
    d.railFault rail = (((d.railStops.setFld Reg.PWR_RESET_CAUSE_RAIL rail).bump Cnt.PWR_RAIL_FAULT_CNT).noteCause Cause.rail).enterFault := rfl

theorem Dev.railStops_unlinked (d : Dev) : ∀ p < 16, d.railStops.link p = none := by
  intro p hp
  unfold Dev.railStops
  exact Dev.loseLinks_unlinked ports PS.down (.inl (List.mem_range.mpr hp))

theorem Reading.offLoss_count {c : Nat} (hs : (Reading.count c).steady) (h : ∀ p < 16, c ≠ Cnt.FAB_LINK_LOST_CNT p) : (Reading.count c).offLoss where
  toSteady := hs
  fabric := by decide
  counted _ p hp := .bumpBy .refl (h p hp)
  linkLost _ := rfl
  states _ _ _ _ := rfl

/-- What a link loss leaves alone reads as before when everything stops, unless it lies in the cells or the units. -/
theorem Reading.offLoss.railStops {k : Part} {α : Type} {g : Reading k α} (hg : g.offLoss) (hk : k ∉ [Part.draws, .cells, .rack, .run]) {d e : Dev}
    (h : g.same d e) : g.same d e.railStops := by
  simp only [List.mem_cons, List.not_mem_nil, or_false, not_or] at hk
  obtain ⟨hdraws, hcells, hrack, hrun⟩ := hk
  have hpost := hg.toSteady.toOffQueues
  unfold Dev.railStops
  refine .use (h.via .dropRounds (by simp [*])) fun h => .use (.when h fun h => ?_) fun h =>
    .overPorts (h.via .put_run (by simp [*])) fun _ _ hq h => hg.loseLink (List.mem_range.mp hq) h
  unfold Dev.stepCompletion
  exact hpost.postHeld (hpost.via (hpost.via h .draw) .setHif)

theorem railFaults_steady : (Reading.count Cnt.PWR_RAIL_FAULT_CNT).steady := by
  refine Reading.steady_count (by decide) ?_
  simp only [Reading.sendCount, Cnt.PWR_RAIL_FAULT_CNT, Cnt.FAB_DROP_CNT, Cnt.FAB_PARTITION_CNT, Cnt.FAB_TX_FLIT_CNT, Cnt.FAB_CREDIT_STALL_CNT]
  omega

theorem railFaults_ne_linkLost : ∀ p < 16, Cnt.PWR_RAIL_FAULT_CNT ≠ Cnt.FAB_LINK_LOST_CNT p := by
  intro p hp
  simp only [Cnt.PWR_RAIL_FAULT_CNT, Cnt.FAB_LINK_LOST_CNT]
  omega

theorem Dev.railStops_count (d : Dev) : d.railStops.count Cnt.PWR_RAIL_FAULT_CNT = d.count Cnt.PWR_RAIL_FAULT_CNT :=
  ((Reading.offLoss_count railFaults_steady railFaults_ne_linkLost).railStops (by decide) .refl).count_eq

theorem Dev.noteCause_count (d : Dev) (x c : Nat) : (d.noteCause x).count c = d.count c := Dev.count_congr _ _ c (Evolves.noteCause.keeps .cnt (by decide))

/-- A rail fault is counted once. -/
theorem Dev.railFault_count (d : Dev) (rail : Nat) :
    (d.railFault rail).count Cnt.PWR_RAIL_FAULT_CNT = min cntMax (d.count Cnt.PWR_RAIL_FAULT_CNT + 1) := by
  have hf : (Reading.count Cnt.PWR_RAIL_FAULT_CNT).offFault := Reading.offFault_count (by decide)
  rw [Dev.railFault_eq, (hf.enterFault .refl).count_eq, Dev.noteCause_count, Dev.count_bump_same, Dev.setFld_count, Dev.railStops_count]

theorem Dev.noteCause_cause (d : Dev) {c : Nat} (h : c < 16) : (d.noteCause c).fld Reg.PWR_RESET_CAUSE_CAUSE = c := by
  rw [Dev.noteCause, Dev.fld_setFld_same]
  exact Nat.mod_eq_of_lt h

theorem Dev.noteCause_rail (d : Dev) (c : Nat) : (d.noteCause c).fld Reg.PWR_RESET_CAUSE_RAIL = d.fld Reg.PWR_RESET_CAUSE_RAIL := by
  rw [Dev.noteCause, Dev.fld_setFld_other _ Reg.PWR_RESET_CAUSE_CAUSE _ _ (by decide), Dev.fld_setFld_other _ Reg.PWR_RESET_CAUSE_PREV _ _ (by decide)]

/-- A rail fault stops every unit and link, and leaves FAULT with its cause (R451). -/
theorem Dev.railFault_answers (d : Dev) {rail : Nat} (hrail : rail < 5) :
    (let e := d.railFault rail
    e.st = DS.fault ∧ e.run = [] ∧ e.count Cnt.PWR_RAIL_FAULT_CNT = min cntMax (d.count Cnt.PWR_RAIL_FAULT_CNT + 1) ∧
      e.fld Reg.PWR_RESET_CAUSE_RAIL = rail ∧ e.fld Reg.PWR_RESET_CAUSE_CAUSE = Cause.rail ∧ ∀ p < 16, e.link p = none) := by
  have hw : rail < 2 ^ Reg.PWR_RESET_CAUSE_RAIL.w := by change rail < 16; omega
  refine ⟨by rw [Dev.railFault_eq, Dev.enterFault_st], by rw [Dev.railFault_eq, Dev.enterFault_run], d.railFault_count rail, ?_, ?_, fun p hp => ?_⟩
  · rw [Dev.railFault_eq, ((Reading.offFault_fld (f := Reg.PWR_RESET_CAUSE_RAIL) (by decide)).enterFault .refl).fld_eq, Dev.noteCause_rail, Dev.bump_fld,
      Dev.fld_setFld_same]
    exact Nat.mod_eq_of_lt hw
  · rw [Dev.railFault_eq, ((Reading.offFault_fld (f := Reg.PWR_RESET_CAUSE_CAUSE) (by decide)).enterFault .refl).fld_eq, Dev.noteCause_cause _ (by decide)]
  · have hcause : Evolves [.regs, .cnt] d.railStops (((d.railStops.setFld Reg.PWR_RESET_CAUSE_RAIL rail).bump Cnt.PWR_RAIL_FAULT_CNT).noteCause Cause.rail) :=
      Evolves.refl.step .setFld |>.step .bump |>.step .noteCause
    rw [Dev.railFault_eq, Dev.link_congr (Evolves.enterFault.keeps .fab (by decide)), Dev.link_congr (hcause.keeps .fab (by decide))]
    exact d.railStops_unlinked p hp

end Sys2Proof.Machine
end

section
/-!
PROOF. The host link: power states (R365), training (R346), hot reset and FLR (R440, R441, R457).
-/

set_option Elab.async false

namespace Sys2Proof.Machine

/-! ### Power states -/

/-- The function's power state and the completions that wait for D0. -/
def Reading.held : Reading .hif (Nat × List Held) := ⟨fun d => (d.hif.power, d.hif.waiting), congrArg fun h : Hif => (h.power, h.waiting)⟩

namespace Reading.same

variable {d e : Dev}

theorem power_eq (h : held.same d e) : e.hif.power = d.hif.power := congrArg Prod.fst h

theorem waiting_eq (h : held.same d e) : e.hif.waiting = d.hif.waiting := congrArg Prod.snd h

theorem fire_held {v : Nat} (h : held.same d e) : held.same d (e.fire v) := by
  unfold Dev.fire
  exact .ite h (.ite (h.step rfl) (h.via .emit))

theorem post_held {n : Nat} {r : Bool} {b : List Byte} (h : held.same d e) : held.same d (e.post n r b) := by
  unfold Dev.post
  split
  · exact h.via .bump
  · exact .ite (h.via .bump) (.when ((h.step (f := e.setCq _ _) rfl).via .emit) fun h => h.fire_held)

/-- In D0 a completion is written at once. -/
theorem postHeld_held {n : Nat} {b : List Byte} (h : held.same d e) (hpower : d.hif.power = 0) : held.same d (e.postHeld n b) := by
  unfold Dev.postHeld
  rw [if_pos (h.power_eq.trans hpower)]
  exact h.post_held

end Reading.same

/-- Pending vectors that are no longer masked leave the list. -/
theorem Dev.firePending_hif (d : Dev) : d.firePending.hif = { d.hif with msixPend := d.hif.msixPend.filter fun v => d.msixMasked v } := by
  unfold Dev.firePending
  exact List.foldlRecOn (motive := fun e : Dev => e.hif = { d.hif with msixPend := d.hif.msixPend.filter fun v => d.msixMasked v }) _ _ rfl fun _ h _ _ => h

/-- D0 lets the held completions go (R365). -/
theorem Dev.setPower_d0 (d : Dev) : (d.setPower 0).hif.power = 0 ∧ (d.setPower 0).hif.waiting = [] ∧
    ∀ v ∈ (d.setPower 0).hif.msixPend, (d.setPower 0).msixMasked v = true := by
  obtain ⟨e, he, hsame⟩ : ∃ e : Dev, d.setPower 0 = e.firePending ∧ Reading.held.same ((d.setHif fun h => { h with power := 0 }).setHif fun h => { h with waiting := [] }) e :=
    ⟨_, rfl, Reading.same.foldl .refl fun _ _ h => h.postHeld_held rfl⟩
  rw [he]
  have hhif := e.firePending_hif
  refine ⟨(congrArg Hif.power hhif).trans hsame.power_eq, (congrArg Hif.waiting hhif).trans hsame.waiting_eq, fun v hv => ?_⟩
  rw [hhif] at hv
  rw [Dev.msixMasked, hhif]
  exact (List.mem_filter.mp hv).2

/-- In D3cold the host's function is down, and its domain with it (R381). -/
theorem Dev.setPower_d3cold (d : Dev) : d.setPower 2 = (d.setHif fun h => { h with power := 2 }).domainDown .hostPf := rfl

theorem Dev.domainDown_power (d : Dev) : (d.domainDown .hostPf).hif.power = 2 := by
  unfold Dev.domainDown
  dsimp only
  rw [Evolves.flush.keeps .hif (by decide)]

theorem Dev.setPower_power (d : Dev) {p : Nat} (hp : p < 3) : (d.setPower p).hif.power = p := by
  obtain rfl | rfl | rfl : p = 0 ∨ p = 1 ∨ p = 2 := by omega
  · exact d.setPower_d0.1
  · rfl
  · rw [Dev.setPower_d3cold, Dev.domainDown_power]

/-! ### Link training -/

/-- The link's registers after training. -/
def Dev.showLink (d : Dev) (rate width : Nat) : Dev :=
  ((d.setFld Reg.HIF_LINK_RATE (rate + 1)).setFld Reg.HIF_LINK_WIDTH (4 * 2 ^ width)).setFld Reg.HIF_LINK_FLIT 1

theorem Dev.showLink_fld (d : Dev) (rate width : Fin 3) : (d.showLink rate width).fld Reg.HIF_LINK_RATE = rate.val + 1 ∧
    (d.showLink rate width).fld Reg.HIF_LINK_WIDTH = 4 * 2 ^ width.val ∧ (d.showLink rate width).fld Reg.HIF_LINK_FLIT = 1 := by
  have hwidth : ∀ w : Fin 3, 4 * 2 ^ w.val < 32 := by decide
  unfold Dev.showLink
  refine ⟨?_, ?_, Dev.fld_setFld_same _ Reg.HIF_LINK_FLIT 1⟩
  · rw [Dev.fld_setFld_other _ Reg.HIF_LINK_FLIT _ _ (by decide), Dev.fld_setFld_other _ Reg.HIF_LINK_WIDTH _ _ (by decide), Dev.fld_setFld_same]
    exact Nat.mod_eq_of_lt (by change rate.val + 1 < 8; omega)
  · rw [Dev.fld_setFld_other _ Reg.HIF_LINK_FLIT _ _ (by decide), Dev.fld_setFld_same]
    exact Nat.mod_eq_of_lt (hwidth width)

/-- What training does: the link shows its rate and width, and a lesser one than the full is counted. -/
def Dev.trainsLink (d : Dev) (rate width : Fin 3) : Dev :=
  if rate.val = 2 ∧ width.val = 2 then d.showLink rate width else (d.showLink rate width).bump Cnt.HIF_DOWNTRAIN_CNT

theorem execPcieLinkTraining_eq (rate width : Fin 3) (s : State) :
    execPcieLinkTraining rate width s = s.run fun d => d.trainsLink rate width := rfl

theorem Dev.trainsLink_answers (d : Dev) (rate width : Fin 3) :
    (let e := d.trainsLink rate width
    e.fld Reg.HIF_LINK_RATE = rate.val + 1 ∧ e.fld Reg.HIF_LINK_WIDTH = 4 * 2 ^ width.val ∧ e.fld Reg.HIF_LINK_FLIT = 1 ∧
      e.count Cnt.HIF_DOWNTRAIN_CNT = if rate = 2 ∧ width = 2 then d.count Cnt.HIF_DOWNTRAIN_CNT
        else min cntMax (d.count Cnt.HIF_DOWNTRAIN_CNT + 1)) := by
  have hfull : (rate.val = 2 ∧ width.val = 2) ↔ (rate = 2 ∧ width = 2) := by revert rate width; decide
  have hcount : (d.showLink rate width).count Cnt.HIF_DOWNTRAIN_CNT = d.count Cnt.HIF_DOWNTRAIN_CNT := by
    rw [Dev.showLink, Dev.setFld_count, Dev.setFld_count, Dev.setFld_count]
  obtain ⟨hrate, hwidth, hflit⟩ := d.showLink_fld rate width
  rw [Dev.trainsLink]
  by_cases h : rate = 2 ∧ width = 2
  · rw [if_pos (hfull.mpr h), if_pos h]
    exact ⟨hrate, hwidth, hflit, hcount⟩
  · rw [if_neg (mt hfull.mp h), if_neg h]
    exact ⟨hrate, hwidth, hflit, by rw [Dev.count_bump_same, hcount]⟩

/-! ### Hot reset and FLR -/

theorem SMap.find?_filter {β : Type} (keep : Nat → Bool) {k : Nat} (hk : keep k = true) (m : SMap β) :
    SMap.find? (m.filter fun x => keep x.1) k = SMap.find? m k := by
  induction m with
  | nil => rfl
  | cons x m ih =>
    obtain ⟨a, b⟩ := x
    by_cases ha : k = a
    · rw [List.filter_cons_of_pos (by rw [← ha]; exact hk), SMap.find?, SMap.find?, if_pos ha, if_pos ha]
    · rw [SMap.find?, if_neg ha, ← ih]
      by_cases hkeep : keep a = true
      · rw [List.filter_cons_of_pos (p := fun x : Nat × β => keep x.1) hkeep, SMap.find?, if_neg ha]
      · rw [List.filter_cons_of_neg (p := fun x : Nat × β => keep x.1) hkeep]

theorem fld_keepRegs (d : Dev) {keep : Nat → Bool} {f : Field} (h : keep (f.key / 64) = true) :
    Dev.fld { d with regs := keepRegs d.regs keep } f = d.fld f := by
  have hfind : SMap.find? (keepRegs d.regs keep) f.key = SMap.find? d.regs f.key := SMap.find?_filter (fun k => keep (k / 64)) h d.regs
  rw [Dev.fld, Dev.fld, SMap.get, SMap.get]
  dsimp only
  rw [hfind]

theorem Dev.loseIde_fld (d : Dev) (v : Nat) {f : Field} (hs : f.key ≠ Reg.SEC_STATUS_IDE.key) (hl : f.key ≠ Reg.HIF_LINK_IDE.key) :
    (d.loseIde v).fld f = d.fld f := by
  unfold Dev.loseIde
  rw [Dev.fld_setFld_other _ _ _ _ hl, Dev.fld_setFld_other _ _ _ _ hs]
  rfl

theorem Dev.loseIde_ide (d : Dev) {v : Nat} (hv : v < 4) : (d.loseIde v).fld Reg.SEC_STATUS_IDE = v := by
  unfold Dev.loseIde
  rw [Dev.fld_setFld_other _ Reg.HIF_LINK_IDE _ _ (by decide), Dev.fld_setFld_same]
  exact Nat.mod_eq_of_lt hv

theorem Dev.loseIde_keys (d : Dev) (v : Nat) : (d.loseIde v).sec.keys = [] := by
  unfold Dev.loseIde
  rw [Dev.setFld_sec, Dev.setFld_sec]
  rfl

/-- The function's configuration is reset, but its IDE keys. -/
def Dev.resetConfig (d : Dev) : Dev :=
  let d := d.setHif fun h => { Hif.reset with stepSeq := h.stepSeq }
  let d := { d with regs := keepRegs d.regs fun o => !([0x10010, 0x10018, 0x10020].contains o) }
  d.setPwr fun p => { p with start := p.start.map fun x => { x with cmd := none } }

theorem Dev.resetFunction_eq (d : Dev) : d.resetFunction = d.resetConfig.loseIde ideNone := rfl

theorem Dev.resetConfig_st (d : Dev) : d.resetConfig.st = d.st := by
  exact fld_keepRegs (d.setHif fun h => { Hif.reset with stepSeq := h.stepSeq }) (keep := fun o => !([0x10010, 0x10018, 0x10020].contains o))
    (f := Reg.HIF_STATE_STATE) (by decide)

theorem Dev.resetFunction_answers (d : Dev) : d.resetFunction.hif = { Hif.reset with stepSeq := d.hif.stepSeq } ∧ d.resetFunction.st = d.st ∧
    d.resetFunction.sec.keys = [] ∧ d.resetFunction.fld Reg.SEC_STATUS_IDE = ideNone := by
  rw [Dev.resetFunction_eq]
  exact ⟨Evolves.loseIde.keeps .hif (by decide), (Dev.loseIde_fld _ _ (by decide) (by decide)).trans d.resetConfig_st, Dev.loseIde_keys _ _,
    Dev.loseIde_ide _ (by decide)⟩

/-! ### A warm start -/

/-- A warm start that no command began, up to its count. -/
def Dev.warmBegun (d : Dev) (cause : Nat) : Dev := ((d.resetFunction.setSt DS.booting).warmState false false).noteCause cause

/-- It is begun, and waits for HELLO or not. -/
def Dev.warmStarted (d : Dev) (wait : Bool) : Dev := d.setPwr fun p => { p with start := some ⟨false, 1, none, [], [], false, wait⟩ }

theorem Dev.warmBegun_unwarmed (d : Dev) (cause : Nat) : Unwarmed d (d.warmBegun cause) := by
  unfold Dev.warmBegun
  exact (((Unwarmed.refl.via .resetFunction).step .setSt).step .warmState).via .noteCause

/-- A start from REFUSED waits for HELLO, and so does one that takes the place of such a start. -/
def Dev.waitsHello (d : Dev) : Bool := d.st == DS.refused || (match d.pwr.start with | some x => x.helloWait | none => false)

theorem Dev.beginWarm_eq (d : Dev) (cause : Nat) :
    d.beginWarm cause none false false = ((d.warmBegun cause).bump Cnt.PWR_START_WARM_CNT).warmStarted d.waitsHello := rfl

/-- A warm start is counted once, however it ends (R440). -/
theorem Dev.warmStart_count (d : Dev) (cause : Nat) (env : WarmEnv) :
    (d.warmStart cause none false env).count Cnt.PWR_START_WARM_CNT = min cntMax (d.count Cnt.PWR_START_WARM_CNT + 1) := by
  have hrest (e : Dev) (wait : Bool) (a n : Nat) (b : Option (List Byte)) : Unwarmed e (((e.warmStarted wait).idleRead a n).warmStages b false env) :=
    ((Unwarmed.refl.via .setPwr).step .idleRead).step .warmStages
  unfold Dev.warmStart
  rw [Dev.beginWarm_eq, ← (d.warmBegun_unwarmed cause).count_eq]
  exact (hrest _ _ _ _ _).count_eq.trans (Dev.count_bump_same _ _)

/-- Where no image runs, a function reset resets the function alone. -/
def Dev.resetsAlone (d : Dev) : Prop :=
  d.st = DS.rom ∨ d.st = DS.awaitImage ∨ d.st = DS.fault ∨ ∃ x, d.pwr.start = some x ∧ x.cold = true

/-- A cold start is in progress. -/
def Dev.inColdStart (d : Dev) : Bool := match d.pwr.start with | some x => x.cold | none => false

theorem Dev.inColdStart_iff (d : Dev) : d.inColdStart = true ↔ ∃ x, d.pwr.start = some x ∧ x.cold = true := by
  unfold Dev.inColdStart
  cases d.pwr.start <;> simp

theorem Dev.functionReset_eq (d : Dev) (cause : Nat) (env : WarmEnv) : d.functionReset cause env =
    if d.st == DS.rom || d.st == DS.awaitImage || d.st == DS.fault || d.inColdStart then d.resetFunction else d.warmStart cause none false env := rfl

theorem Dev.resetsAlone_iff (d : Dev) : (d.st == DS.rom || d.st == DS.awaitImage || d.st == DS.fault || d.inColdStart) = true ↔ d.resetsAlone := by
  rw [Dev.resetsAlone, ← Dev.inColdStart_iff, Bool.or_eq_true, Bool.or_eq_true, Bool.or_eq_true, beq_iff_eq, beq_iff_eq, beq_iff_eq, or_assoc, or_assoc]

theorem Dev.functionReset_alone {d : Dev} (h : d.resetsAlone) (cause : Nat) (env : WarmEnv) : d.functionReset cause env = d.resetFunction := by
  rw [Dev.functionReset_eq, if_pos (d.resetsAlone_iff.mpr h)]

theorem Dev.functionReset_warm {d : Dev} (h : ¬ d.resetsAlone) (cause : Nat) (env : WarmEnv) :
    d.functionReset cause env = d.warmStart cause none false env := by
  rw [Dev.functionReset_eq, if_neg (mt d.resetsAlone_iff.mp h)]

end Sys2Proof.Machine
end

section
/-!
PROOF. Gauge, the links and the power events, as a whole (O59).
-/

set_option Elab.async false

namespace Sys2Proof.Machine

variable {s : State} (hp : s.dev.powered = true)
include hp

theorem gauUrg_answers (g : Fin 2) (order : BitVec 3) (n : BitVec 15) (chan : BitVec 7) (fits : Bool) :
    (let k := if chan.toNat ≤ 95 ∧ chanConv chan.toNat = g then chan.toNat else s.dev.fld (Reg.GAU_URG_CHAN g)
    answers (.gauUrg g order n chan fits) s fun e => e.fld (Reg.GAU_URG_CHAN g) = k ∧
      (1 ≤ order.toNat → order.toNat ≤ 5 → e.fld (Reg.GAU_URG_ORDER g) = order.toNat) ∧
      (64 ≤ n.toNat → n.toNat ≤ 16384 → e.fld (Reg.GAU_URG_N g) = n.toNat) ∧
      (s.dev.takesUrgent g k fits → e.conv g = some ⟨4, 0, k, [], none, false, s.dev.settling g⟩ ∧ e.flag (Reg.GAU_URG_RESULT_DONE g) = false ∧
        e.flag (Reg.GAU_STATUS_BUSY g) = true) ∧
      (¬ s.dev.takesUrgent g k fits → e.count Cnt.GAU_URG_DROP_CNT = min cntMax (s.dev.count Cnt.GAU_URG_DROP_CNT + 1) ∧ e.gau = s.dev.gau)) :=
  answers_run _ _ _ _ (exec_gauUrg g order n chan fits s) hp (s.dev.quiet.urgent_answers g.isLt order.toNat n.toNat chan.toNat fits)

theorem urgentDone_answers (g : Fin 2) {c : Conv} (v : BitVec 24) (hc : s.dev.conv g = some c) (hl : c.list = 4) :
    answers (.urgentDone g v) s fun e => e.flag (Reg.GAU_URG_RESULT_DONE g) = true ∧ e.fld (Reg.GAU_URG_RESULT_VALUE g) = v.toNat ∧
      e.flag (Reg.GAU_URG_RESULT_RS g) = c.rs ∧ e.count Cnt.GAU_URG_DONE_CNT = min cntMax (s.dev.count Cnt.GAU_URG_DONE_CNT + 1) :=
  answers_run _ _ _ _ (exec_urgentDone g v s) hp (Dev.urgentDone_answers (d := s.dev.quiet) hc hl v)

theorem scanEntryDone_answers (g : Fin 2) {c : Conv} (v : BitVec 24) (hc : s.dev.conv g = some c) (hl : c.list ≠ 4) (hk : c.chan ≤ 95) :
    answers (.scanEntryDone g v) s fun e =>
      (if c.stale then e.flag (Reg.GAU_RESULT_STALE c.chan) = true ∧ e.count Cnt.GAU_STALE_CNT = min cntMax (s.dev.count Cnt.GAU_STALE_CNT + 1) ∧
          e.fld (Reg.GAU_RESULT_VALUE c.chan) = s.dev.fld (Reg.GAU_RESULT_VALUE c.chan)
        else e.flag (Reg.GAU_RESULT_STALE c.chan) = false ∧ e.fld (Reg.GAU_RESULT_VALUE c.chan) = v.toNat ∧
          e.flag (Reg.GAU_RESULT_RS c.chan) = c.rs ∧
          e.fld (Reg.GAU_RESULT_SEQ c.chan) = (s.dev.fld (Reg.GAU_RESULT_SEQ c.chan) + 1) % 2 ^ (Reg.GAU_RESULT_SEQ c.chan).w) ∧
      ∀ k ks, c.rest = k :: ks → k ≤ 95 → chanConv k = g → ∃ q, e.conv g = some q ∧ q.list = c.list ∧ q.entry = c.entry + 1 ∧
        q.chan = k ∧ q.rest = ks := by
  refine answers_run _ _ _ _ (exec_scanEntryDone g v s) hp ⟨?_, fun k ks hrest hk hg => Dev.entryDone_next (d := s.dev.quiet) hc hl hrest hk hg _⟩
  by_cases hs : c.stale = true
  · rw [if_pos hs]
    exact Dev.entryDone_stale (d := s.dev.quiet) hc hl hs _
  · rw [if_neg hs]
    exact Dev.entryDone_fresh (d := s.dev.quiet) hc hl hs hk v

theorem conversionDone_idle (g : Fin 2) (hc : s.dev.conv g = none) (v : BitVec 24) :
    exec (.urgentDone g v) s = .next ⟨s.dev.quiet, s.pending⟩ ∧ exec (.scanEntryDone g v) s = .next ⟨s.dev.quiet, s.pending⟩ :=
  ⟨exec_run_eq (exec_urgentDone g v s) hp (Dev.urgentDone_idle (d := s.dev.quiet) hc _),
    exec_run_eq (exec_scanEntryDone g v s) hp (Dev.entryDone_idle (d := s.dev.quiet) hc _)⟩

theorem scanPassDue_answers (l : Fin 4) :
    (let g := s.dev.fld (Reg.GAU_SCAN_CONV l)
    (¬ s.dev.scans l → exec (.scanPassDue l) s = .next ⟨s.dev.quiet, s.pending⟩) ∧
      (s.dev.scans l → s.dev.passBusy l → exec (.scanPassDue l) s = .next ⟨s.dev.quiet.bump Cnt.GAU_SCAN_LATE_CNT, s.pending⟩) ∧
      (s.dev.scans l → ¬ s.dev.passBusy l → ∀ c, s.dev.conv g = some c → answers (.scanPassDue l) s fun e =>
        e.waits g = s.dev.waits g ++ [l.val] ∧ e.conv g = some c) ∧
      (s.dev.scans l → ¬ s.dev.passBusy l → s.dev.conv g = none → s.dev.waits g = [] → ∀ k ks, s.dev.listChans l = k :: ks → k ≤ 95 → chanConv k = g →
        answers (.scanPassDue l) s fun e => ∃ q, e.conv g = some q ∧ q.list = l.val ∧ q.entry = 0 ∧ q.chan = k ∧ q.rest = ks)) :=
  ⟨fun h => exec_run_eq (exec_scanPassDue l s) hp (Dev.passDue_idle (d := s.dev.quiet) h),
    fun h hb => exec_run_eq (exec_scanPassDue l s) hp (Dev.passDue_late (d := s.dev.quiet) h hb),
    fun h hb _ hc => answers_run _ _ _ _ (exec_scanPassDue l s) hp (Dev.passDue_waits (d := s.dev.quiet) h hb hc),
    fun h hb hc hw _ _ hl hk hg => answers_run _ _ _ _ (exec_scanPassDue l s) hp (Dev.passDue_starts (d := s.dev.quiet) h hb hc hw hl hk hg)⟩

theorem gauPwr_answers (on : Bool) :
    (s.dev.st ≠ DS.ready → exec (.gauPwr on) s = .next ⟨s.dev.quiet.bump Cnt.GAU_CFG_REJ_CNT, s.pending⟩) ∧
      (s.dev.st = DS.ready → answers (.gauPwr on) s fun e => e.flag Reg.GAU_CTL_PWR = on ∧
        (on = false → ∀ g < 2, e.conv g = none ∧ e.waits g = []) ∧
        (on = true → s.dev.flag Reg.GAU_CTL_PWR = false → ∀ g < 2, e.flag (Reg.GAU_STATUS_REF_SETTLING g) = true)) :=
  ⟨fun h => exec_run_eq (exec_gauPwr on s) hp (Dev.gaugePower_rejected (d := s.dev.quiet) h on),
    fun h => answers_run _ _ _ _ (exec_gauPwr on s) hp (Dev.gaugePower_answers (d := s.dev.quiet) h on)⟩

theorem pciePowerState_answers (p : Fin 3) : answers (.pciePowerState p) s fun e => e.hif.power = p.val ∧
    (p = 0 → e.hif.waiting = [] ∧ ∀ v ∈ e.hif.msixPend, e.msixMasked v = true) := by
  refine answers_run _ _ _ _ (exec_pciePowerState p s) hp ⟨s.dev.quiet.setPower_power p.isLt, fun h => ?_⟩
  rw [h]
  exact s.dev.quiet.setPower_d0.2

theorem pcieLinkTraining_answers (rate width : Fin 3) : answers (.pcieLinkTraining rate width) s fun e => e.fld Reg.HIF_LINK_RATE = rate.val + 1 ∧
    e.fld Reg.HIF_LINK_WIDTH = 4 * 2 ^ width.val ∧ e.fld Reg.HIF_LINK_FLIT = 1 ∧
      e.count Cnt.HIF_DOWNTRAIN_CNT = if rate = 2 ∧ width = 2 then s.dev.count Cnt.HIF_DOWNTRAIN_CNT
        else min cntMax (s.dev.count Cnt.HIF_DOWNTRAIN_CNT + 1) :=
  answers_run _ _ _ _ ((exec_pcieLinkTraining rate width s).trans (execPcieLinkTraining_eq rate width s)) hp
    (s.dev.quiet.trainsLink_answers rate width)

/-- Hot reset and FLR act alike but for the cause. -/
theorem functionReset_answers {i : Instr} {cause : Nat} {env : WarmEnv} (hi : exec i s = s.run fun d => d.functionReset cause env) : answers i s fun e =>
    if s.dev.st = DS.rom ∨ s.dev.st = DS.awaitImage ∨ s.dev.st = DS.fault ∨ (∃ x, s.dev.pwr.start = some x ∧ x.cold = true) then
      e.hif = { Hif.reset with stepSeq := s.dev.hif.stepSeq } ∧ e.st = s.dev.st ∧ e.sec.keys = [] ∧ e.fld Reg.SEC_STATUS_IDE = ideNone
    else e.count Cnt.PWR_START_WARM_CNT = min cntMax (s.dev.count Cnt.PWR_START_WARM_CNT + 1) := by
  split
  next h => exact answers_run_eq hi hp (Dev.functionReset_alone (d := s.dev.quiet) h cause env) s.dev.quiet.resetFunction_answers
  next h => exact answers_run_eq hi hp (Dev.functionReset_warm (d := s.dev.quiet) h cause env) (s.dev.quiet.warmStart_count cause env)

end Sys2Proof.Machine
end

section
set_option Elab.async false

namespace Sys2Proof.Machine

/-- Settles O59: each event's own lemma, over what scanning, entry to FAULT, the loss of a link and a warm start leave alone. -/
theorem gaugeAndPowerEvents : Obligations.GaugeAndPowerEvents := fun s hp =>
  ⟨fun g => ⟨fun order n chan fits => gauUrg_answers hp g order n chan fits,
      fun _ v hc => ⟨urgentDone_answers hp g v hc, scanEntryDone_answers hp g v hc⟩, conversionDone_idle hp g⟩,
    gauPwr_answers hp, scanPassDue_answers hp,
    fun base w => answers_run _ _ _ _ (exec_gauMonCfg base w s) hp (s.dev.quiet.monConfig_answers base w),
    fun rail => answers_run _ _ _ _ (exec_railFault rail s) hp (s.dev.quiet.railFault_answers rail.isLt),
    pciePowerState_answers hp, pcieLinkTraining_answers hp, fun env i hi => by
      rw [List.mem_cons, List.mem_singleton] at hi
      obtain rfl | rfl := hi
      · exact functionReset_answers hp (exec_hotReset env s)
      · exact functionReset_answers hp (exec_flr env s)⟩

end Sys2Proof.Machine
end
